-- ==== Sys2Proof/Word.lean ====
section
/-! DEFINITION. The word types of the module (R9, R12, R73). -/
namespace Sys2Proof

/-- A byte. -/
abbrev Byte := BitVec 8
/-- A 16-bit halfword. -/
abbrev Half := BitVec 16
/-- A 32-bit word: a general register, a register of the address map. -/
abbrev Word := BitVec 32
/-- A 64-bit doubleword: an accumulator, a phase stamp, an event sequence number. -/
abbrev DWord := BitVec 64

end Sys2Proof
end

