-- ==== Sys2Proof/Config.lean ====
section
/-! DEFINITION. What an implementation fixes and the free values: every constant here is opaque, with no body, so
no proof can see its value (log entries 4, 5, 9, 29, 32). -/
namespace Sys2Proof

/-- The n-th free 32-bit value: a result the spec leaves open (log entry 4). -/
opaque Config.freeWord : Nat → BitVec 32
/-- The n-th free yes or no (log entry 4). -/
opaque Config.freeBool : Nat → Bool
/-- What the codeword of the n-th DRAM line that a worker reads holds (R118, R457): an uncorrectable error, with whether its tag
check failed, or a corrected one (log entry 4). -/
opaque Config.readFails : Nat → Option Bool
opaque Config.readCorrected : Nat → Bool
/-- The n-th random 64-bit number drawn by the module: nonces, challenges (R443, R469; log entry 5). -/
opaque Config.draw : Nat → BitVec 64
/-- Byte i of the n-th drawn key or block (log entry 5). -/
opaque Config.drawByte : Nat → Nat → BitVec 8
/-- RSASSA-PSS verification with SHA-256: public key, 32-byte digest, signature (R4, R166; log entry 5). -/
opaque Config.rsaVerify : List (BitVec 8) → List (BitVec 8) → List (BitVec 8) → Bool
/-- Byte i of the RSASSA-PSS signature that key `k` makes over a digest with the n-th salt (R157; log entry 5). -/
opaque Config.rsaSigByte : List (BitVec 8) → List (BitVec 8) → Nat → Nat → BitVec 8
/-- Byte i of the RSA-OAEP wrapping of a message under a public key (R466; log entry 5). -/
opaque Config.oaepByte : List (BitVec 8) → List (BitVec 8) → Nat → Nat → BitVec 8
/-- Byte i of the message that a private key recovers from an OAEP block (R466; log entry 5). -/
opaque Config.unwrapByte : List (BitVec 8) → List (BitVec 8) → Nat → BitVec 8
/-- The 32-bit AES-128-CCM integrity code of an air packet: key, nonce, data (R207, R209; log entry 5). -/
opaque Config.airMic : List (BitVec 8) → List (BitVec 8) → List (BitVec 8) → BitVec 32
/-- The AES-256-GCM tag of a twin frame: key, nonce, the header bytes it authenticates, ciphertext (R370; log entry 5). -/
opaque Config.gcmTag : List (BitVec 8) → List (BitVec 8) → List (BitVec 8) → List (BitVec 8) → BitVec 128
/-- The AES-256-GCM ciphertext of a twin frame's body: key, nonce, body (R370; log entry 5). -/
opaque Config.gcmCipher : List (BitVec 8) → List (BitVec 8) → List (BitVec 8) → List (BitVec 8)
/-- The n-th body of a twin frame for which the spec gives contents and no layout (R371; log entry 33). -/
opaque Config.twinBody : Nat → List (BitVec 8)
/-- The length in bytes of the live part of a state transfer, by its regions: the spec gives no layout (R379; log entry 33). -/
opaque Config.liveLen : Nat → Nat
/-- Byte i of the public key that belongs to a private key (R465; log entry 5). -/
opaque Config.publicByte : List (BitVec 8) → Nat → BitVec 8
/-- Byte i of a certificate that the module holds, by its index (R467; log entry 5). -/
opaque Config.certByte : Nat → Nat → BitVec 8
/-- The length in bytes of a certificate that the module holds, by its index (R467; log entry 5). -/
opaque Config.certLen : Nat → Nat
/-- Byte i of the module's capping key pair, and of its n-th application key pair (R466; log entries 5, 9). -/
opaque Config.capKeyByte : Nat → BitVec 8
opaque Config.appKeyByte : Nat → Nat → BitVec 8
/-- Byte i of the public keys of the device CA and of the node CA in boot ROM (R467; log entry 9). -/
opaque Config.deviceCaByte : Nat → BitVec 8
opaque Config.nodeCaByte : Nat → BitVec 8
/-- The public key that a capping certificate binds, none where it does not chain as R467 states (log entry 5). -/
opaque Config.cappingCert : List (BitVec 8) → Option (List (BitVec 8))
/-- The public key that a certificate binds, none where it is no certificate (R213, R467; log entry 5). -/
opaque Config.certKey : List (BitVec 8) → Option (List (BitVec 8))
/-- What the header of a node firmware image says, head kind and version, none where header or image CRC fails: the
spec does not give the image's layout (R264; log entry 29). -/
opaque Config.nodeImage : List (BitVec 8) → Option (Bool × BitVec 32)
/-- The shared-table segment images of a folio's TABLES section, by segment number: the spec does not give how they are
tagged (R161; log entry 32). -/
opaque Config.tableImages : List (BitVec 8) → List (Nat × List (BitVec 8))
/-- Byte i of the module's factory identity key pair (R465; log entry 9). -/
opaque Config.idKeyByte : Nat → BitVec 8
/-- Byte i of the shipped service public key (R466; log entry 9). -/
opaque Config.serviceKeyByte : Nat → BitVec 8
/-- The module's serial number (ID_SERIAL; log entry 9). -/
opaque Config.serial : BitVec 32
/-- The factory Ethernet address (ETH_MAC; log entry 9). -/
opaque Config.mac : BitVec 48
/-- The factory PHY latencies, receive then transmit, of port p (ETH_LAT_p; log entry 9). -/
opaque Config.phyLatency : Nat → BitVec 32

end Sys2Proof
end

