-- ==== Sys2Proof/Syntax.lean ====
section
/-! DEFINITION. The commands of the block: one constructor of Instr per row of spec/opcode_table.json, with their operand
types (the table gives the rows no bits, so the operands are the model's own, taken from the rule each row names). -/
namespace Sys2Proof

/-- A worker, 0-159 (R72). -/
abbrev Worker := Fin 160
/-- A region, 0-15 (R5). -/
abbrev Region := Fin 16
/-- A switch channel OUT00-OUT63 (R8). -/
abbrev Chan := Fin 64
/-- A general register field (R103). -/
abbrev GReg := Fin 32
/-- An accumulator field (R103). -/
abbrev AReg := Fin 8
/-- The first register of a network-time triple; 30 and 31 are illegal (R103). -/
abbrev TReg := Fin 30
/-- A host session: TLS slots 0-7, and 8 for USB (R532). -/
abbrev Session := Fin 9

/-- Who writes or reads a register, or issues a request: a worker or a host session (R13, R85, R89, R424). -/
inductive Writer where
  | worker (w : Worker)
  | host (s : Session)
deriving DecidableEq, Repr

/-- A reader that holds a snapshot of its own (R89, R426). -/
abbrev Reader := Writer

/-- The access size and extension of LDX and STX (R113). -/
inductive XSize where
  | byteS | byteU | halfS | halfU | word
deriving DecidableEq, Repr

/-- The first occurrence of EVERY, which also tells its base (R128). -/
inductive EveryFirst where
  | phase (s1 : AReg)
  | net (s1 : TReg)
deriving DecidableEq, Repr

/-- A network time stamp of 12 bytes (R49): TAI seconds, nanoseconds, epoch. -/
structure NetTime where
  sec : BitVec 48
  ns : BitVec 32
  epoch : BitVec 16
deriving DecidableEq, Repr

/-- A block node record as it comes up the chain (R200): volts and codes of its C cells, temperatures of its T sensors. -/
structure NodeRec where
  tag : BitVec 3
  hop : Nat
  status : BitVec 16
  volts : List (BitVec 16)
  codes : List (BitVec 3)
  temps : List (BitVec 16)
deriving DecidableEq, Repr

/-- The head record (R200): status, string current (1 mA), string and bus-side voltage (1 mV). -/
structure HeadRec where
  tag : BitVec 3
  status : BitVec 16
  cur : BitVec 32
  vStr : BitVec 32
  vBus : BitVec 32
deriving DecidableEq, Repr

/-- A stream record of the head (R261): index of the first sample in ms, and current, string and bus voltage of each. -/
structure StreamRec where
  first : BitVec 16
  samples : List (BitVec 32 × BitVec 32 × BitVec 32)
deriving DecidableEq, Repr

/-- The air header fields that vary (R184): SIDE (true for B), SENDER and FC. -/
structure AirHdr where
  sideB : Bool
  sender : BitVec 5
  fc : BitVec 16
deriving DecidableEq, Repr

/-- A record of an upstream transfer. -/
inductive UpRec where
  | node (r : NodeRec)
  | head (r : HeadRec)
  | stream (r : StreamRec)
deriving DecidableEq, Repr

/-- An upstream packet that reaches the module (R200, R201): the transfer header RX_COUNT and TOTAL stands in the
first packet of a transfer; D_1 and link delays travel in spare answers. -/
structure UpPacket where
  hdr : AirHdr
  counts : Option (BitVec 8 × BitVec 8)
  /-- The bypass hop reports a beacon from its own upstream neighbour (R215). -/
  neighbour : Bool
  recs : List UpRec
  mic : BitVec 32
deriving DecidableEq, Repr

/-- An alarm packet (R203): in watch the burst count takes the micro-slot's place in the nonce (R262). -/
structure AlarmPacket where
  origin : BitVec 5
  code : BitVec 3
  slot : BitVec 16
  mic : BitVec 32
deriving DecidableEq, Repr

/-- The body of a SPARE_UP answer (R194, R210, R249, R254): a plan echo with its tally, a tally, a limits echo, the
missing segments of a firmware query with the signature's outcome, a ranging median, a confirmed re-key. -/
inductive SpareBody where
  | plan (gen : BitVec 8) (tally : List (BitVec 32))
  | tally (tally : List (BitVec 32))
  | limits (ov uv ot ut : BitVec 16)
  | fwQuery (missing : BitVec 16) (first : List (BitVec 16)) (sigOk : Bool)
  | ranging (delay : BitVec 16)
  | keyConfirm
deriving DecidableEq, Repr

/-- A SPARE_UP packet from the node at a hop (R206). -/
structure SpareUp where
  hdr : AirHdr
  hop : Nat
  body : SpareBody
  mic : BitVec 32
deriving DecidableEq, Repr

/-- A kept record of a rejoined node: the sweep it belongs to and the record (R216, R238). -/
structure KeptRec where
  sweep : BitVec 32
  record : NodeRec
deriving DecidableEq, Repr

/-- A SPARE_UP packet with kept records of its hop (R206, R216): an exchange that brings more than one packet is as many
commands. -/
structure KeptPacket where
  hdr : AirHdr
  recs : List KeptRec
  mic : BitVec 32
deriving DecidableEq, Repr

/-- A REACH_ANSWER (R215): the link delay that its ranging stamps give. -/
structure ReachAnswer where
  hdr : AirHdr
  delay : BitVec 16
  mic : BitVec 32
deriving DecidableEq, Repr

/-- A packet that carries a part of a longer answer (R206), such as a hop's signature over its challenge (R473). -/
structure AirPart where
  hdr : AirHdr
  data : List (BitVec 8)
  mic : BitVec 32
deriving DecidableEq, Repr

/-- The body of a beacon (R191): CORR is signed, unit 1/16 ns. -/
structure Beacon where
  sweep : BitVec 32
  originS : BitVec 32
  originNs : BitVec 32
  corr : BitVec 32
  toS : BitVec 24
  flags : BitVec 8
  hopHush : BitVec 16
  fe : BitVec 16
deriving DecidableEq, Repr

/-- A beacon as it is heard: the head's relay (R217), or the lead's own in the mirror. -/
structure BeaconRx where
  hdr : AirHdr
  beacon : Beacon
  mic : BitVec 32
deriving DecidableEq, Repr

/-- An enrolment answer (R213 step 2). -/
structure EnrolAnswer where
  head : Bool
  idHash : BitVec 64
  cells : Nat
  sensors : Nat
  rssi : BitVec 8
  /-- The node says it is enrolled in another map. -/
  elsewhere : Bool
deriving DecidableEq, Repr

/-- The answer to an enrolment challenge (R213 step 3): public key, manufacturer certificate and signature. -/
structure ChallengeAnswer where
  pub : List (BitVec 8)
  cert : List (BitVec 8)
  certSig : List (BitVec 8)
  sig : List (BitVec 8)
deriving DecidableEq, Repr

/-- A capture segment (R258). -/
structure CapSegment where
  hdr : AirHdr
  hop : Nat
  cap : BitVec 8
  index : Nat
  data : List (BitVec 8)
  mic : BitVec 32
deriving DecidableEq, Repr

/-- One hop of a region map (R214): D_k in ns. -/
structure MapHop where
  head : Bool
  idHash : BitVec 64
  pub : List (BitVec 8)
  cells : Nat
  sensors : Nat
  delay : BitVec 16
deriving DecidableEq, Repr

/-- A region map (R214), with its signature. Hops are in order, hop 1 first. -/
structure RegionMap where
  mapId : BitVec 32
  primary : BitVec 6
  alt1 : BitVec 6
  alt2 : BitVec 6
  aa : BitVec 32
  crcInit : BitVec 24
  key : List (BitVec 8)
  hops : List MapHop
  twinA : BitVec 64
  twinB : BitVec 64
  sig : List (BitVec 8)
deriving DecidableEq, Repr

/-- A command entry on the air (R197). -/
structure CmdEntry where
  tag : BitVec 3
  hops : BitVec 5
  order : BitVec 8
  arg0 : BitVec 32
  arg1 : BitVec 32
deriving DecidableEq, Repr

/-- What a packet of the lead that the mirror hears carries (R185, R191, R197, R202, R206, R215): its acknowledgement, a
command packet with the STEP_OFS that the head writes into its relay (R256), a beacon, a SPARE_DOWN with HOPS, code and the
rest of its body, or a REACH to a hop. -/
inductive LeadBody where
  | ack (count : BitVec 8)
  | command (entries : List CmdEntry) (stepOfs : BitVec 32)
  | beacon (b : Beacon)
  | spareDown (hops : BitVec 5) (code : BitVec 8) (rest : List (BitVec 8))
  | reach (hop : Nat)
deriving DecidableEq, Repr

/-- A packet of the lead that the mirror hears. -/
structure LeadPacket where
  hdr : AirHdr
  body : LeadBody
  mic : BitVec 32
deriving DecidableEq, Repr

/-- The raw decimated values of DSM0-DSM3 at S (R229). -/
structure Dsm4 where
  raw0 : BitVec 32
  raw1 : BitVec 32
  raw2 : BitVec 32
  raw3 : BitVec 32
deriving DecidableEq, Repr

/-- Where an OUT command comes from: an Isken instruction (R145), or a host write of CH_CMD with its duty (R348). -/
inductive OutSrc where
  | isken (w : Worker) (d s1 s2 : GReg)
  | host (s : Session) (ch : Chan) (duty : BitVec 16)
deriving DecidableEq, Repr

/-- A twin HELLO (R369): SIDE, role, identity hash, IN_SERVICE, HOLDS_CLOSED, folio VERSION, sweep and wheel count; with
the certificate and its signature that the attach needs (R467). -/
structure Hello where
  sideB : Bool
  role : BitVec 4
  idHash : BitVec 64
  inService : Bool
  holdsClosed : Bool
  version : BitVec 32
  sweep : BitVec 32
  wheel : BitVec 40
  pub : List (BitVec 8)
  cert : List (BitVec 8)
  certSig : List (BitVec 8)
deriving DecidableEq, Repr

/-- A session key message of the attach (R370): the lead's OAEP block with key and identifier, or the partner's block
with its identifier. -/
structure KeyMsg where
  fromLead : Bool
  block : List (BitVec 8)
deriving DecidableEq, Repr

/-- A twin-link frame after the session key is agreed, around its TYPE (R370): EtherType, SIDE, CTR, GCM tag, and the ciphertext
of the body, which gives LEN. -/
structure TwinHdr where
  etype : BitVec 16
  sideB : Bool
  ctr : Nat
  tag : BitVec 128
  body : List (BitVec 8)
deriving DecidableEq, Repr

/-- HEARTBEAT (R371): role, MOD_STATUS, last closed sweep; STATES_MATCH is shown by role MIRROR. -/
structure Heartbeat where
  role : BitVec 4
  modStatus : BitVec 32
  lastSweep : BitVec 32
deriving DecidableEq, Repr

/-- A decision digest (R376). -/
structure Digest where
  sweep : BitVec 32
  chan : Vector (BitVec 2) 64
  region : Vector (BitVec 4) 16
  verdict : BitVec 16
  cyc : BitVec 16
deriving DecidableEq, Repr

/-- An OPEN_ORDER or CHECK_FAIL body (R374). -/
structure OpenOrder where
  region : Region
  isolate : Bool
  cause : BitVec 8
  result : BitVec 8
  ticket : BitVec 16
deriving DecidableEq, Repr

/-- A FORWARD body (R371): a settings field or a region reload with its sweep, a restore, a directory write, a register
write that both twins apply, at a sweep where the rule names one, a CAN flush or clash command, a sleep command; and of
region keys: the key of a re-key that begins, and that this twin's frame epoch makes a re-key due or flips the key (R207,
R211). -/
inductive Forward where
  | setting (field : BitVec 64) (sweep : BitVec 32)
  | reload (r : Region) (sweep : BitVec 32)
  | restore (len : BitVec 32) (bytes : List (BitVec 8)) (checked : Nat)
  | directory (n : Fin 8) (word : Fin 3) (v : BitVec 32)
  | register (addr v : BitVec 32)
  | registerAt (addr v sweep : BitVec 32)
  | rekey (r : Region) (key : List (BitVec 8))
  | rekeyDue (r : Region)
  | keyFlip (r : Region)
  | sleep
deriving DecidableEq, Repr

/-- A RETIRE body (R371): a CAN frame sent, by port, identifier word and data, or an order packet sent. -/
inductive Retire where
  | can (port : Fin 4) (id : BitVec 32) (data : List (BitVec 8))
  | order (r : Region) (code : BitVec 8) (hops : BitVec 5)
deriving DecidableEq, Repr

/-- A RECORD body (R437). -/
structure FwdRecord where
  code : BitVec 16
  scope : BitVec 16
  args : BitVec 32
  seq : BitVec 64
deriving DecidableEq, Repr

/-- An order queued (R248): the image of a spare order is copied at submission. -/
structure Order where
  code : BitVec 8
  hops : BitVec 5
  arg0 : BitVec 32
  arg1 : BitVec 32
  image : List (BitVec 8)
  /-- Tries made and the TAG given, for an entry sent once (R199, R249). -/
  tries : Nat
  tag : BitVec 3
  /-- Internal orders of the region engine carry the ticket or capture they serve. -/
  ref : Nat
  /-- Hops whose record lacked the TAG at the first close. -/
  lack : List Nat
deriving DecidableEq, Repr

/-- A capture from its CAPTURE order to its completion (R256-R260): its number, the step once the head's STEP_OFS is
known (network time and stepless ns), the sweep in progress, the hops that have no section, and the segments received:
hop, index, data. -/
structure Capture where
  num : BitVec 32
  step : Option (NetTime × Nat)
  sweep : BitVec 32
  skip : List Nat
  uploading : Bool
  startAt : Nat
  segs : List (Nat × Nat × List (BitVec 8))
deriving DecidableEq, Repr

/-- A pre-charge under judgement (R329-R331). -/
structure PreSt where
  ticket : BitVec 16
  /-- Sweep of the first frame that carried PRE_STREAM, once known. -/
  frame : Option (BitVec 32)
  /-- The relay instant due, and whether the relay has been switched on. -/
  relayAt : Option Nat
  relayOn : Bool
  /-- PRE_TIMEOUT's end. -/
  limit : Option Nat
  dv0 : Option Int
  live : Bool
  t1 : Option (Nat × Int)
  t2 : Option (Nat × Int)
  run : Nat
  misses : Nat
  judged : Bool
  /-- A CLOSE_POS that waits for its judgement (R332). -/
  closeTicket : Option (BitVec 16)
  /-- Stream samples that a close brought before the relay instant: time, current, string and bus voltage (R329). -/
  early : List (Nat × Int × Int × Int)
deriving DecidableEq, Repr

/-- A weld check (R337). -/
structure WeldSt where
  /-- Ticket of a WELD_CHECK step, 0 after an open. -/
  ticket : BitVec 16
  startAt : Nat
  endAt : Nat
  /-- WELD_TIME has ended and the closing sample is waited for. -/
  waiting : Bool
  reached : Bool
  lastCur : Option Nat
  /-- The closing sample: its current and whether it reaches WELD_V. -/
  closing : Option (Nat × Bool)
  otherClosed : Bool
  frames : Nat
deriving DecidableEq, Repr

/-- What the live part of a state transfer says of one region (R379): a copy of the engine's running state, its orders
and its captures, with every time as 2^62 ns and what remained of it, or less what had passed since, at the lead's copy (R380). -/
structure LiveRegion where
  region : Region
  state : BitVec 4
  cause : BitVec 8
  welded : Bool
  weldUnconf : Bool
  live : Bool
  persist : Vector Nat 6
  raised : Nat
  e : Nat
  incRun : Nat
  ticket : BitVec 16
  step : Option (BitVec 4 × BitVec 16)
  confirm : Option (BitVec 4 × BitVec 16)
  dv0 : BitVec 32
  tau : BitVec 32
  pre : Option PreSt
  weld : Option WeldSt
  openLimit : Nat
  negOffAt : Option Nat
  circEnd : Option Nat
  autoOffAt : Option Nat
  auxNegAt : Option Nat
  auxPosAt : Option Nat
  graceEnd : Option Nat
  streaming : Bool
  streamStart : Nat
  streamEnd : Nat
  orders : List Order
  captures : List Capture
deriving DecidableEq, Repr

/-- What the live part says of one channel: commanded state, duty, attempts, latch (R379). -/
structure LiveChan where
  cmd : BitVec 2
  duty : BitVec 16
  attempts : Nat
  latched : Bool
deriving DecidableEq, Repr

/-- A part of a state transfer (R379), as an XFER segment delivers it whole: the header gives the lengths in bytes of the parts
that follow, and a live part arrives with the time in ns since the lead copied it (R380). -/
inductive Xfer where
  | header (sweep : BitVec 32) (wheel : BitVec 40) (version : BitVec 32) (lens : List Nat)
  | maps (maps : List (Region × RegionMap))
  | settings (fields : List (BitVec 16 × BitVec 32))
  | estimator (bytes : List (BitVec 8))
  | live (age : Nat) (regions : List LiveRegion) (chans : List LiveChan)
  | tail (recs : List FwdRecord) (last : Bool)
deriving DecidableEq, Repr

/-- A CAN frame (R151, R391): DATA holds the bytes that DLC gives. -/
structure CanFrame where
  ide : Bool
  fdf : Bool
  brs : Bool
  id : BitVec 29
  dlc : BitVec 4
  rtr : Bool
  data : List (BitVec 8)
deriving DecidableEq, Repr

/-- How a transmission attempt ended (R401, R404, R408): arbitration lost, or an error of a kind; a bit error after
arbitration says whether the sent bit was 1; an acknowledgement error says whether a dominant bit followed. -/
inductive CanTxErr where
  | arbitration
  | stuff
  | form
  | ack (dominant : Bool)
  | bit (one : Bool) (afterArb : Bool)
  | crc
deriving DecidableEq, Repr

/-- A receive error (R404): its kind, and whether a dominant bit followed the error flag or the error fell in it. -/
inductive CanRxErr where
  | stuff | form | bit (one : Bool) | crc | dominantAfterFlag
deriving DecidableEq, Repr

/-- What wakes a sleeping controller (R407). -/
inductive CanWakeCause where
  | pattern
  | frame (f : CanFrame)
  | errOverflow
deriving DecidableEq, Repr

/-- What woke the module from deep sleep (R509). -/
inductive WakeSrc where
  | grid
  | din (n : Fin 32)
  | region (r : Region)
deriving DecidableEq, Repr

/-- What the scrubber found in a line (R457, R459). -/
inductive LineOutcome where
  | clean
  | corrected
  | uncorrectable (tag : Bool)
deriving DecidableEq, Repr

/-- What the background SRAM read found (R448): a word of a scratch or of the shared tables, by word index. -/
inductive SramScrub where
  | clean
  | corrected
  | badScratch (w : Worker) (word : Nat)
  | badTable (word : Nat)
deriving DecidableEq, Repr

/-- A PTP Sync with its Follow_Up where it has one (R416): port, domain and sender; the master's origin time and the
correction in ns, and how long before this step its start-of-frame delimiter passed the MII. -/
structure PtpSync where
  port : Fin 2
  domain : BitVec 8
  sender : BitVec 64
  origin : Int
  corr : Int
  age : Nat
deriving DecidableEq, Repr

/-- A PTP event message that the switch forwards (R417). -/
inductive PtpEvent where
  | sync (twoStep : Bool)
  | delayReq
  | followUp
  | pdelay
deriving DecidableEq, Repr

/-- A PTP Announce (R416): where it came in, and the fields that the best master clock algorithm compares. -/
structure PtpAnnounce where
  port : Fin 2
  domain : BitVec 8
  sender : BitVec 64
  prio1 : BitVec 8
  clockClass : BitVec 8
  accuracy : BitVec 8
  variance : BitVec 16
  prio2 : BitVec 8
  gm : BitVec 64
  steps : BitVec 16
  utc : BitVec 16
deriving DecidableEq, Repr

/-- How a TLS handshake ended (R419, R470): done, with the certificate that issued the client's, or failed with the
alert sent. -/
inductive TlsResult where
  | done (issuer : List (BitVec 8))
  | fail (alert : BitVec 8)
deriving DecidableEq, Repr

/-- The commands of the block, one constructor per row of spec/opcode_table.json; each docstring names the row and its rule. -/
inductive Instr where
  /-- COLD_START (R492). -/
  | coldStart (sideB : Bool)
  /-- WARM_RESTART (R497). -/
  | warmRestart
  /-- CHIP_WATCHDOG (R491). -/
  | chipWatchdog
  /-- BROWNOUT_WARNING (R499). -/
  | brownoutWarning
  /-- SUPPLY_RECOVERY (R499). -/
  | supplyRecovery
  /-- LOGIC_SUPPLY_LOSS (R360). -/
  | logicSupplyLoss
  /-- THERMAL_SHUTDOWN (R506). -/
  | thermalShutdown
  /-- THERMAL_RELEASE (R506). -/
  | thermalRelease
  /-- THROTTLE_TRIP (R507). -/
  | throttleTrip
  /-- THROTTLE_RELEASE (R507). -/
  | throttleRelease
  /-- THROTTLE_GRACE_END (R507). -/
  | throttleGraceEnd
  /-- START_GRACE_END (R494). -/
  | startGraceEnd (r : Region)
  /-- PWR_RESTART (R498). -/
  | pwrRestart (who : Writer)
  /-- PWR_SLEEP (R508). -/
  | pwrSleep (who : Writer)
  /-- SLEEP_ENTER (R508). -/
  | sleepEnter
  /-- WAKE_FROM_SLEEP (R509). -/
  | wakeFromSleep (src : WakeSrc)
  /-- BIST_RUN (R500). -/
  | bistRun (who : Writer) (part : Fin 32)
  /-- BIST_DONE (R503). -/
  | bistDone (sig : BitVec 64) (rows : BitVec 8) (rowFail : Bool)
  /-- SNAPSHOT_TAKE (R13). -/
  | snapshotTake (rd : Reader) (addr : BitVec 32)
  /-- SNAPSHOT_RELEASE (R13). -/
  | snapshotRelease (rd : Reader) (addr : BitVec 32)
  /-- SNAPSHOT_TIMEOUT (R240). -/
  | snapshotTimeout (rd : Reader) (addr : BitVec 32)
  /-- REGISTER_WRITE (R13). -/
  | registerWrite (who : Writer) (addr v : BitVec 32)
  /-- GRIDSYNC_PULSE (R39). -/
  | gridsyncPulse
  /-- PHASE_MESSAGE_COMMIT (R40). -/
  | phaseMessageCommit (who : Writer) (ns : BitVec 32)
  /-- WHEEL_LOSS_TIME (R38). -/
  | wheelLossTime
  /-- WHEEL_HOLD_EXPIRY (R37). -/
  | wheelHoldExpiry
  /-- WHEEL_CYCLE_BOUNDARY (R42). -/
  | wheelCycleBoundary
  /-- WHEEL_SRC_WRITE (R70). -/
  | wheelSrcWrite (who : Writer) (src : BitVec 2)
  /-- NOMINAL_WRITE (R44). -/
  | nominalWrite (who : Writer) (nominal : Bool)
  /-- TIME_SRC_WRITE (R54). -/
  | timeSrcWrite (who : Writer) (src : BitVec 2)
  /-- TIME_SET (R56). -/
  | timeSet (who : Writer) (ns : BitVec 32)
  /-- TIME_SLEW_END (R56). -/
  | timeSlewEnd
  /-- TIME_MARK_STORE (R55). -/
  | timeMarkStore
  /-- TICK_COMPARE (R62). -/
  | tickCompare (n : Fin 4)
  /-- TICK_LOAD (R62). -/
  | tickLoad (who : Writer) (n : Fin 4) (hi : BitVec 32)
  /-- CAN_LATCH_SECOND (R64). -/
  | canLatchSecond
  /-- ACTION_DUE (R67). -/
  | actionDue (w : Worker)
  /-- PTP_SYNC_RX (R416). -/
  | ptpSyncRx (m : PtpSync)
  /-- PTP_PDELAY_REQ_RX (R416). -/
  | ptpPdelayReqRx (port : Fin 2)
  /-- PTP_ANNOUNCE_TIMEOUT (R416). -/
  | ptpAnnounceTimeout
  /-- TC_FORWARD (R417). -/
  | tcForward (ingress : Fin 2) (kind : PtpEvent) (residence : Nat)
  /-- ETH_LINK_CHANGE (R532). -/
  | ethLinkChange (port : Fin 3) (speed : BitVec 3)
  /-- WK_START (R78). -/
  | wkStart (who : Writer) (w : Worker)
  /-- WK_STOP (R79). -/
  | wkStop (who : Writer) (w : Worker)
  /-- WK_RESTART (R78). -/
  | wkRestart (who : Writer) (w : Worker)
  /-- WK_CLEAR_RESTARTS (R100). -/
  | wkClearRestarts (who : Writer) (w : Worker)
  /-- TRAP_RESTART_PAUSE_END (R92). -/
  | trapRestartPauseEnd (w : Worker)
  /-- DRAM_ACCESS_COMPLETE (R114). -/
  | dramAccessComplete (w : Worker)
  /-- STORE_QUEUE_DRAIN (R117). -/
  | storeQueueDrain (w : Worker)
  /-- ILLEGAL_OPCODE (R104). -/
  | illegalOpcode (w : Worker) (word : BitVec 32)
  /-- ADD (R107). -/
  | add (w : Worker) (d s1 s2 : GReg)
  /-- SUB (R107). -/
  | sub (w : Worker) (d s1 s2 : GReg)
  /-- AND (R107). -/
  | and (w : Worker) (d s1 s2 : GReg)
  /-- OR (R107). -/
  | or (w : Worker) (d s1 s2 : GReg)
  /-- XOR (R107). -/
  | xor (w : Worker) (d s1 s2 : GReg)
  /-- NOR (R107). -/
  | nor (w : Worker) (d s1 s2 : GReg)
  /-- SLL (R107). -/
  | sll (w : Worker) (d s1 s2 : GReg)
  /-- SRL (R107). -/
  | srl (w : Worker) (d s1 s2 : GReg)
  /-- SRA (R107). -/
  | sra (w : Worker) (d s1 s2 : GReg)
  /-- SLT (R107). -/
  | slt (w : Worker) (d s1 s2 : GReg)
  /-- SLTU (R107). -/
  | sltu (w : Worker) (d s1 s2 : GReg)
  /-- MUL (R107). -/
  | mul (w : Worker) (d s1 s2 : GReg)
  /-- MULH (R107). -/
  | mulh (w : Worker) (d s1 s2 : GReg)
  /-- MULHU (R107). -/
  | mulhu (w : Worker) (d s1 s2 : GReg)
  /-- DIV (R108). -/
  | div (w : Worker) (d s1 s2 : GReg)
  /-- DIVU (R108). -/
  | divu (w : Worker) (d s1 s2 : GReg)
  /-- REM (R108). -/
  | rem (w : Worker) (d s1 s2 : GReg)
  /-- REMU (R108). -/
  | remu (w : Worker) (d s1 s2 : GReg)
  /-- MIN (R107). -/
  | min (w : Worker) (d s1 s2 : GReg)
  /-- MAX (R107). -/
  | max (w : Worker) (d s1 s2 : GReg)
  /-- MINU (R107). -/
  | minu (w : Worker) (d s1 s2 : GReg)
  /-- MAXU (R107). -/
  | maxu (w : Worker) (d s1 s2 : GReg)
  /-- CLZ (R107). -/
  | clz (w : Worker) (d s1 : GReg)
  /-- POPC (R107). -/
  | popc (w : Worker) (d s1 : GReg)
  /-- RDSW (R107). -/
  | rdsw (w : Worker) (d : GReg)
  /-- ADDI (R109). -/
  | addi (w : Worker) (d s1 : GReg) (imm : BitVec 16)
  /-- SLTI (R109). -/
  | slti (w : Worker) (d s1 : GReg) (imm : BitVec 16)
  /-- SLTIU (R109). -/
  | sltiu (w : Worker) (d s1 : GReg) (imm : BitVec 16)
  /-- ANDI (R109). -/
  | andi (w : Worker) (d s1 : GReg) (imm : BitVec 16)
  /-- ORI (R109). -/
  | ori (w : Worker) (d s1 : GReg) (imm : BitVec 16)
  /-- XORI (R109). -/
  | xori (w : Worker) (d s1 : GReg) (imm : BitVec 16)
  /-- LUI (R109). -/
  | lui (w : Worker) (d : GReg) (imm : BitVec 16)
  /-- SHI_SLL (R109). -/
  | shiSll (w : Worker) (d s1 : GReg) (sh : BitVec 5)
  /-- SHI_SRL (R109). -/
  | shiSrl (w : Worker) (d s1 : GReg) (sh : BitVec 5)
  /-- SHI_SRA (R109). -/
  | shiSra (w : Worker) (d s1 : GReg) (sh : BitVec 5)
  /-- SHI_ROTATE_RIGHT (R109). -/
  | shiRotateRight (w : Worker) (d s1 : GReg) (sh : BitVec 5)
  /-- MULI (R109). -/
  | muli (w : Worker) (d s1 : GReg) (imm : BitVec 16)
  /-- QMULI (R109). -/
  | qmuli (w : Worker) (d s1 : GReg) (imm : BitVec 16)
  /-- CMPI (R109). -/
  | cmpi (w : Worker) (s1 : GReg) (imm : BitVec 16)
  /-- QADD (R110). -/
  | qadd (w : Worker) (d s1 s2 : GReg)
  /-- QSUB (R110). -/
  | qsub (w : Worker) (d s1 s2 : GReg)
  /-- QMUL (R110). -/
  | qmul (w : Worker) (d s1 s2 : GReg)
  /-- QDIV (R110). -/
  | qdiv (w : Worker) (d s1 s2 : GReg)
  /-- QABS (R110). -/
  | qabs (w : Worker) (d s1 : GReg)
  /-- QNEG (R110). -/
  | qneg (w : Worker) (d s1 : GReg)
  /-- ITOQ (R110). -/
  | itoq (w : Worker) (d s1 : GReg)
  /-- QTOI (R110). -/
  | qtoi (w : Worker) (d s1 : GReg)
  /-- QRND (R110). -/
  | qrnd (w : Worker) (d s1 : GReg)
  /-- QCLR (R110). -/
  | qclr (w : Worker)
  /-- CSEL (R111). -/
  | csel (w : Worker) (d s1 s2 : GReg) (cond : BitVec 4)
  /-- MAC (R112). -/
  | mac (w : Worker) (d : AReg) (s1 s2 : GReg)
  /-- MACU (R112). -/
  | macu (w : Worker) (d : AReg) (s1 s2 : GReg)
  /-- MSU (R112). -/
  | msu (w : Worker) (d : AReg) (s1 s2 : GReg)
  /-- QMAC (R112). -/
  | qmac (w : Worker) (d : AReg) (s1 s2 : GReg)
  /-- ACLR (R112). -/
  | aclr (w : Worker) (d : AReg)
  /-- AMOV (R112). -/
  | amov (w : Worker) (d s1 : AReg)
  /-- AJOIN (R112). -/
  | ajoin (w : Worker) (d : AReg) (s1 s2 : GReg)
  /-- ALO (R112). -/
  | alo (w : Worker) (d : GReg) (s1 : AReg)
  /-- AHI (R112). -/
  | ahi (w : Worker) (d : GReg) (s1 : AReg)
  /-- AADD (R112). -/
  | aadd (w : Worker) (d s1 s2 : AReg)
  /-- ASUB (R112). -/
  | asub (w : Worker) (d s1 s2 : AReg)
  /-- AQ (R112). -/
  | aq (w : Worker) (d : GReg) (s1 : AReg)
  /-- ASEXT (R112). -/
  | asext (w : Worker) (d : AReg) (s1 : GReg)
  /-- ACMP (R112). -/
  | acmp (w : Worker) (s1 s2 : AReg)
  /-- ASRA (R112). -/
  | asra (w : Worker) (d s1 : AReg) (s2 : GReg)
  /-- ASLL (R112). -/
  | asll (w : Worker) (d s1 : AReg) (s2 : GReg)
  /-- LDW (R113). -/
  | ldw (w : Worker) (d s1 : GReg) (imm : BitVec 16)
  /-- STW (R113). -/
  | stw (w : Worker) (d s1 : GReg) (imm : BitVec 16)
  /-- LDX (R113). -/
  | ldx (w : Worker) (d s1 s2 : GReg) (size : XSize) (scale : Bool)
  /-- STX (R113). -/
  | stx (w : Worker) (d s1 s2 : GReg) (size : XSize) (scale : Bool)
  /-- LDD (R115). -/
  | ldd (w : Worker) (d : AReg) (s1 : GReg) (imm : BitVec 16)
  /-- STD (R113). -/
  | std (w : Worker) (d : AReg) (s1 : GReg) (imm : BitVec 16)
  /-- XCHG (R116). -/
  | xchg (w : Worker) (d s1 s2 : GReg)
  /-- FADD (R116). -/
  | fadd (w : Worker) (d s1 s2 : GReg)
  /-- CAS (R116). -/
  | cas (w : Worker) (d s1 s2 : GReg)
  /-- FOR (R116). -/
  | fetchOr (w : Worker) (d s1 s2 : GReg)
  /-- FAND (R116). -/
  | fetchAnd (w : Worker) (d s1 s2 : GReg)
  /-- FENCE (R117). -/
  | fence (w : Worker)
  /-- BEQ (R120). -/
  | beq (w : Worker) (d s1 : GReg) (imm : BitVec 16)
  /-- BNE (R120). -/
  | bne (w : Worker) (d s1 : GReg) (imm : BitVec 16)
  /-- BC (R120). -/
  | bc (w : Worker) (link : Bool) (cond : BitVec 4) (off : BitVec 16)
  /-- JR (R120). -/
  | jr (w : Worker) (s1 : GReg)
  /-- JALR (R120). -/
  | jalr (w : Worker) (d s1 : GReg)
  /-- TNOW (R123). -/
  | tnow (w : Worker) (d : TReg)
  /-- PNOW (R123). -/
  | pnow (w : Worker) (d : AReg)
  /-- TADD (R123). -/
  | tadd (w : Worker) (d s1 : TReg) (s2 : AReg)
  /-- TDIF (R123). -/
  | tdif (w : Worker) (d : AReg) (s1 s2 : TReg)
  /-- AT (R126). -/
  | waitAt (w : Worker) (s1 : AReg) (late : BitVec 2) (alat : AReg)
  /-- ATT (R127). -/
  | waitAtt (w : Worker) (s1 : TReg) (late : BitVec 2) (alat : AReg)
  /-- EVERY (R128). -/
  | every (w : Worker) (d : GReg) (first : EveryFirst) (s2 : AReg) (late : BitVec 2) (alat : AReg)
  /-- EVERY_CANCEL (R128). -/
  | everyCancel (w : Worker) (d : GReg)
  /-- WAIT_DURATION (R130). -/
  | waitDuration (w : Worker) (s1 : AReg) (alat : AReg)
  /-- WAIT_TICK (R130). -/
  | waitTick (w : Worker) (s1 : AReg) (dom : Fin 4) (late : BitVec 2) (alat : AReg)
  /-- SWP_ALL (R136). -/
  | swpAll (w : Worker) (d s1 s2 : GReg)
  /-- SWP_ANY (R136). -/
  | swpAny (w : Worker) (d s1 s2 : GReg)
  /-- SWP_REVT (R137). -/
  | swpRevt (w : Worker) (d s1 s2 : GReg)
  /-- FETCH_VOLT (R139). -/
  | fetchVolt (w : Worker) (d s1 : GReg)
  /-- FETCH_TEMP (R139). -/
  | fetchTemp (w : Worker) (d s1 : GReg)
  /-- FETCH_NODE (R139). -/
  | fetchNode (w : Worker) (d s1 : GReg)
  /-- FETCH_HEAD (R139). -/
  | fetchHead (w : Worker) (d s1 : GReg)
  /-- FETCH_PACK (R139). -/
  | fetchPack (w : Worker) (d s1 : GReg)
  /-- CMB (R141). -/
  | cmb (w : Worker) (d s1 : GReg)
  /-- CMBW (R144). -/
  | cmbw (w : Worker) (d s1 : GReg)
  /-- COUL (R279). -/
  | coul
  /-- ZCOMP (R282). -/
  | zcomp
  /-- OCV (R283). -/
  | ocv
  /-- SOCF (R298). -/
  | socf
  /-- LIMP (R291). -/
  | limp
  /-- BALP (R292). -/
  | balp
  /-- STAT (R293). -/
  | stat
  /-- STEPFIT (R286). -/
  | stepfit
  /-- RLSZ (R288). -/
  | rlsz
  /-- VADD (R294). -/
  | vadd
  /-- VMUL (R294). -/
  | vmul
  /-- VMADD (R294). -/
  | vmadd
  /-- VMIN (R294). -/
  | vmin
  /-- VMAX (R294). -/
  | vmax
  /-- VINTERP (R294). -/
  | vinterp
  /-- VCMPM (R294). -/
  | vcmpm
  /-- OUT_OFF (R145). -/
  | outOff (src : OutSrc)
  /-- OUT_ON (R145). -/
  | outOn (src : OutSrc)
  /-- OUT_PWM (R145). -/
  | outPwm (src : OutSrc)
  /-- OUT_CLEAR_LATCH (R354). -/
  | outClearLatch (src : OutSrc)
  /-- CLOSE_NEG (R326). -/
  | closeNeg (w : Worker) (d s1 s2 : GReg)
  /-- PRECHARGE (R329). -/
  | precharge (w : Worker) (d s1 s2 : GReg)
  /-- CLOSE_POS (R332). -/
  | closePos (w : Worker) (d s1 s2 : GReg)
  /-- OPEN_PRE (R326). -/
  | openPre (w : Worker) (d s1 s2 : GReg)
  /-- OPEN_PLANNED (R334). -/
  | openPlanned (w : Worker) (d s1 s2 : GReg)
  /-- OPEN_EMERGENCY (R328). -/
  | openEmergency (w : Worker) (d s1 s2 : GReg)
  /-- CTC_RESTART (R338). -/
  | ctcRestart (w : Worker) (d s1 s2 : GReg)
  /-- WELD_CHECK (R337). -/
  | weldCheck (w : Worker) (d s1 s2 : GReg)
  /-- QIN_COUNT (R150). -/
  | qinCount (w : Worker) (d s1 : GReg)
  /-- QIN_SPEED (R150). -/
  | qinSpeed (w : Worker) (d s1 : GReg)
  /-- QIN_STAT (R150). -/
  | qinStat (w : Worker) (d s1 : GReg)
  /-- QIN_INDEX (R150). -/
  | qinIndex (w : Worker) (d s1 : GReg)
  /-- QIN_CFG (R150). -/
  | qinCfg (w : Worker) (d s1 s2 : GReg)
  /-- CTX (R152). -/
  | ctx (w : Worker) (d s1 s2 : GReg)
  /-- CRX (R154). -/
  | crx (w : Worker) (d s1 s2 : GReg) (nb : Bool)
  /-- EVT (R155). -/
  | evt (w : Worker) (d s1 s2 : GReg) (keep : Bool)
  /-- MSTAT (R156). -/
  | mstat (w : Worker) (d : GReg)
  /-- MSEND (R156). -/
  | msend (w : Worker) (d s1 s2 : GReg)
  /-- MRECV (R156). -/
  | mrecv (w : Worker) (d s1 : GReg)
  /-- MYIELD (R156). -/
  | myield (w : Worker) (d : GReg)
  /-- HASH (R157). -/
  | sigHash (w : Worker) (d s1 s2 : GReg)
  /-- SIGN (R157). -/
  | sigSign (w : Worker) (d s1 s2 : GReg)
  /-- VERIFY (R157). -/
  | sigVerify (w : Worker) (d s1 s2 : GReg)
  /-- CRYPTO_COMPLETE (R157). -/
  | cryptoComplete
  /-- HALT (R159). -/
  | halt (w : Worker)
  /-- YIELD (R159). -/
  | yieldQ (w : Worker)
  /-- TEMP (R159). -/
  | temp (w : Worker) (d : GReg) (board die : BitVec 16)
  /-- TRAP (R159). -/
  | trap (w : Worker) (code : BitVec 7)
  /-- FOLIO_VERIFY (R169). -/
  | folioVerify (sess : Session)
  /-- FOLIO_VERIFY_DONE (R166). -/
  | folioVerifyDone
  /-- WRITE_SLOT (R169). -/
  | writeSlot (sess : Session)
  /-- WRITE_SLOT_DONE (R169). -/
  | writeSlotDone
  /-- FOLIO_ACTIVATE (R169). -/
  | folioActivate (sess : Session)
  /-- FOLIO_CONFIRM (R169). -/
  | folioConfirm (sess : Session)
  /-- RELOAD (R179). -/
  | reload (sess : Session) (r : Region)
  /-- REGION_RELOAD_APPLY (R179). -/
  | regionReloadApply
  /-- SETTINGS_SUBMIT (R176). -/
  | settingsSubmit (sess : Session) (hi : BitVec 32)
  /-- SETTINGS_FIELD_APPLY (R176). -/
  | settingsFieldApply
  /-- SWEEP_FRAC_WRITE (R221). -/
  | sweepFracWrite (who : Writer) (v : BitVec 32)
  /-- SWEEP_HUSH_WRITE (R230). -/
  | sweepHushWrite (who : Writer) (v : BitVec 32)
  /-- BEACON_TX (R192). -/
  | beaconTx (r : Region)
  /-- BEACON_ECHO_RX (R217). -/
  | beaconEchoRx (r : Region) (echo : Option BeaconRx)
  /-- COMMAND_WINDOW_TX (R197). -/
  | commandWindowTx (r : Region) (stepOfs : BitVec 32)
  /-- SAMPLE_INSTANT (R220). -/
  | sampleInstant (dsm : Dsm4)
  /-- UPSTREAM_PACKET_RX (R190). -/
  | upstreamPacketRx (r : Region) (p : UpPacket)
  /-- COLLECTION_LIMIT_REACHED (R190). -/
  | collectionLimitReached (r : Region)
  /-- ALARM_PACKET_RX (R205). -/
  | alarmPacketRx (r : Region) (p : AlarmPacket)
  /-- SPARE_EXCHANGE_START (R206). -/
  | spareExchangeStart (r : Region)
  /-- SPARE_UP_RX (R206). -/
  | spareUpRx (r : Region) (a : SpareUp)
  /-- SPARE_ANSWER_TIMEOUT (R249). -/
  | spareAnswerTimeout (r : Region)
  /-- REACH_ANSWER_RX (R215). -/
  | reachAnswerRx (r : Region) (hop : Nat) (a : ReachAnswer)
  /-- REACH_TIMEOUT (R215). -/
  | reachTimeout (r : Region)
  /-- KEPT_RECORDS_RX (R140). -/
  | keptRecordsRx (r : Region) (hop : Nat) (k : KeptPacket)
  /-- REKEY_START (R210). -/
  | rekeyStart (r : Region)
  /-- SEW_START (R213). -/
  | sewStart (sess : Session) (r : Region)
  /-- SEW_SURVEY_END (R182). -/
  | sewSurveyEnd (r : Region) (energies : List Nat)
  /-- ENROL_CALL_TX (R213). -/
  | enrolCallTx (r : Region)
  /-- ENROL_ANSWER_RX (R213). -/
  | enrolAnswerRx (r : Region) (a : EnrolAnswer)
  /-- SEW_ANSWER_WINDOW_END (R213). -/
  | sewAnswerWindowEnd (r : Region)
  /-- SEW_NO_ANSWER (R213). -/
  | sewNoAnswer (r : Region)
  /-- CHALLENGE_ANSWER_RX (R213). -/
  | challengeAnswerRx (r : Region) (a : ChallengeAnswer)
  /-- SEW_CHALLENGE_TIMEOUT (R213). -/
  | sewChallengeTimeout (r : Region)
  /-- SEW_CONFIRM (R213). -/
  | sewConfirm (sess : Session) (r : Region)
  /-- SEW_REJECT (R213). -/
  | sewReject (sess : Session) (r : Region)
  /-- SEW_CONFIRM_TIMEOUT (R213). -/
  | sewConfirmTimeout (r : Region)
  /-- KEY_ACK_RX (R213). -/
  | keyAckRx (r : Region) (mic : BitVec 32)
  /-- SEW_KEY_TIMEOUT (R213). -/
  | sewKeyTimeout (r : Region)
  /-- SEW_SEARCH_TIMEOUT (R213). -/
  | sewSearchTimeout (r : Region)
  /-- SEW_FINISH (R213). -/
  | sewFinish (sess : Session) (r : Region)
  /-- SEW_ABANDON (R212). -/
  | sewAbandon (sess : Session) (r : Region)
  /-- SEW_RESTITCH (R214). -/
  | sewRestitch (sess : Session) (r : Region) (hop : BitVec 5)
  /-- SEW_RESEW_FROM (R214). -/
  | sewResewFrom (sess : Session) (r : Region) (hop : BitVec 5)
  /-- BAL_COMMIT (R252). -/
  | balCommit (who : Writer) (r : Region) (hops : BitVec 5) (arg0 arg1 : BitVec 32)
  /-- BAL_HALT (R253). -/
  | balHalt (who : Writer) (r : Region) (hops : BitVec 5) (arg0 arg1 : BitVec 32)
  /-- CAPTURE (R256). -/
  | capture (who : Writer) (r : Region) (hops : BitVec 5) (arg0 arg1 : BitVec 32)
  /-- PRE_STREAM (R261). -/
  | preStream (who : Writer) (r : Region) (hops : BitVec 5) (arg0 arg1 : BitVec 32)
  /-- PRE_STOP (R249). -/
  | preStop (who : Writer) (r : Region) (hops : BitVec 5) (arg0 arg1 : BitVec 32)
  /-- ORDER_SLEEP (R262). -/
  | orderSleep (who : Writer) (r : Region) (hops : BitVec 5) (arg0 arg1 : BitVec 32)
  /-- FW_ACTIVATE (R264). -/
  | fwActivate (who : Writer) (r : Region) (hops : BitVec 5) (arg0 arg1 : BitVec 32)
  /-- BAL_PLAN (R252). -/
  | balPlan (who : Writer) (r : Region) (hops : BitVec 5) (arg0 arg1 : BitVec 32)
  /-- BAL_TALLY (R254). -/
  | balTally (who : Writer) (r : Region) (hops : BitVec 5) (arg0 arg1 : BitVec 32)
  /-- LIMITS (R251). -/
  | ordLimits (who : Writer) (r : Region) (hops : BitVec 5) (arg0 arg1 : BitVec 32)
  /-- CAP_UPLOAD (R259). -/
  | capUpload (who : Writer) (r : Region) (hops : BitVec 5) (arg0 arg1 : BitVec 32)
  /-- FW_SEG (R258). -/
  | fwSeg (who : Writer) (r : Region) (hops : BitVec 5) (arg0 arg1 : BitVec 32)
  /-- FW_QUERY (R249). -/
  | fwQuery (who : Writer) (r : Region) (hops : BitVec 5) (arg0 arg1 : BitVec 32)
  /-- BAL_TALLY_TIMER (R254). -/
  | balTallyTimer (r : Region)
  /-- CAPTURE_UPLOAD_START (R259). -/
  | captureUploadStart (r : Region)
  /-- CAPTURE_SEGMENT_RX (R258). -/
  | captureSegmentRx (r : Region) (seg : CapSegment)
  /-- CAPTURE_UPLOAD_TIMEOUT (R259). -/
  | captureUploadTimeout (r : Region)
  /-- FW_ACTIVATE_TIMEOUT (R249). -/
  | fwActivateTimeout (r : Region)
  /-- NFW_LOAD (R264). -/
  | nfwLoad (sess : Session) (r : Region)
  /-- NFW_ACTIVATE (R264). -/
  | nfwActivate (sess : Session) (r : Region)
  /-- NFW_ABORT (R265). -/
  | nfwAbort (sess : Session) (r : Region)
  /-- EST_PUBLISH (R305). -/
  | estPublish (who : Writer) (n : BitVec 32)
  /-- PUBLISH_COMPLETE (R305). -/
  | publishComplete
  /-- DIRECTORY_WRITE (R304). -/
  | directoryWrite (who : Writer) (n : Fin 8) (word : Fin 3) (v : BitVec 32)
  /-- CAPPING_EXPORT (R313). -/
  | cappingExport (who : Writer)
  /-- CAPPING_SEALED (R314). -/
  | cappingSealed
  /-- CAPPING_RESTORE (R315). -/
  | cappingRestore (sess : Session)
  /-- DIN_CHANGE (R534). -/
  | dinChange (n : Fin 32) (level : Bool)
  /-- AUX_TIMEOUT (R325). -/
  | auxTimeout (r : Region) (pos : Bool)
  /-- PULLIN_END (R325). -/
  | pullinEnd (ch : Chan)
  /-- PRECHARGE_RELAY_ON (R329). -/
  | prechargeRelayOn (r : Region)
  /-- PRECHARGE_TIMEOUT (R329). -/
  | prechargeTimeout (r : Region)
  /-- PRE_EXPIRED (R326). -/
  | preExpired (r : Region)
  /-- PRE_AUTO_OFF (R326). -/
  | preAutoOff (r : Region)
  /-- OPEN_WAIT_LIMIT (R334). -/
  | openWaitLimit (r : Region)
  /-- NEG_OPEN_DELAY (R328). -/
  | negOpenDelay (r : Region)
  /-- WELD_TIME_END (R337). -/
  | weldTimeEnd (r : Region)
  /-- WELD_CHECK_JUDGE (R337). -/
  | weldCheckJudge (r : Region)
  /-- CIRC_WATCH_END (R333). -/
  | circWatchEnd (r : Region)
  /-- FAST_TRIP (R340). -/
  | fastTrip (raw : BitVec 32)
  /-- SEVER_LOW_OBSERVED (R341). -/
  | severLowObserved
  /-- SEVER_MIN_HOLD_END (R341). -/
  | severMinHoldEnd
  /-- SEVER_RELEASED (R341). -/
  | severReleased
  /-- SEVER_ASSERT (R341). -/
  | severAssert (who : Writer)
  /-- SEVER_CLEAR (R341). -/
  | severClear (who : Writer)
  /-- RE_AUX_WRITE (R325). -/
  | reAuxWrite (sess : Session) (r : Region) (v : BitVec 32)
  /-- OC_SHUTOFF (R352). -/
  | ocShutoff (ch : Chan)
  /-- RETRY_PAUSE_END (R353). -/
  | retryPauseEnd (ch : Chan)
  /-- ATTEMPT_COUNT_RESET (R353). -/
  | attemptCountReset (ch : Chan)
  /-- DT_TRIP (R355). -/
  | dtTrip (ch : Chan)
  /-- DT_RELEASE (R355). -/
  | dtRelease (ch : Chan)
  /-- HOLD_LONG_TIMER (R356). -/
  | holdLongTimer (ch : Chan)
  /-- OPEN_LOAD_DETECT (R357). -/
  | openLoadDetect (ch : Chan) (ext : Bool)
  /-- OPEN_LOAD_CLEAR (R357). -/
  | openLoadClear (ch : Chan)
  /-- COIL_SUPPLY_UV (R358). -/
  | coilSupplyUv (n : Fin 4) (v : BitVec 16)
  /-- COIL_SUPPLY_RESTORE (R358). -/
  | coilSupplyRestore (n : Fin 4) (v : BitVec 16)
  /-- KEEPER_REFRESH (R359). -/
  | keeperRefresh
  /-- KEEPER_EXPIRY (R359). -/
  | keeperExpiry
  /-- HELLO_TX (R369). -/
  | helloTx
  /-- HELLO_RX (R369). -/
  | helloRx (h : Hello)
  /-- ROLE_DECISION_TIMEOUT (R369). -/
  | roleDecisionTimeout
  /-- SESSION_KEY_RX (R370). -/
  | sessionKeyRx (m : KeyMsg)
  /-- HEARTBEAT_TX (R371). -/
  | heartbeatTx
  /-- HEARTBEAT_RX (R381). -/
  | heartbeatRx (f : TwinHdr) (b : Heartbeat)
  /-- HEARTBEAT_LOSS (R381). -/
  | heartbeatLoss
  /-- TWIN_HB_EDGE (R367). -/
  | twinHbEdge
  /-- TWIN_HB_STILL (R381). -/
  | twinHbStill
  /-- LINK_HOLD_EXPIRY (R383). -/
  | linkHoldExpiry
  /-- DIGEST_SNAPSHOT (R377). -/
  | digestSnapshot
  /-- DIGEST_RX (R377). -/
  | digestRx (f : TwinHdr) (b : Digest)
  /-- OPEN_ORDER_RX (R374). -/
  | openOrderRx (f : TwinHdr) (b : OpenOrder)
  /-- CHECK_FAIL_RX (R374). -/
  | checkFailRx (f : TwinHdr) (b : OpenOrder)
  /-- FORWARD_RX (R371). -/
  | forwardRx (f : TwinHdr) (b : Forward)
  /-- RETIRE_RX (R153). -/
  | retireRx (f : TwinHdr) (b : Retire)
  /-- RECORD_RX (R437). -/
  | recordRx (f : TwinHdr) (b : FwdRecord)
  /-- MIR_MSG_RX (R156). -/
  | mirMsgRx (f : TwinHdr) (w : Worker) (bytes : List (BitVec 8))
  /-- TIME_FRAME_RX (R375). -/
  | timeFrameRx (f : TwinHdr) (t1 t2 t3 t4 : Nat)
  /-- MAPS_RX (R371). -/
  | mapsRx (f : TwinHdr) (maps : List (Region × RegionMap))
  /-- STATE_TRANSFER_REQUEST (R379). -/
  | stateTransferRequest (f : TwinHdr)
  /-- XFER_SEGMENT_RX (R380). -/
  | xferSegmentRx (f : TwinHdr) (b : Xfer)
  /-- XFER_ACK_RX (R371). -/
  | xferAckRx (f : TwinHdr) (kib : Nat) (last : Bool)
  /-- TRANSFER_RETRY_TIMER (R378). -/
  | transferRetryTimer
  /-- GRANT_RX (R385). -/
  | grantRx (f : TwinHdr) (sweep : BitVec 32)
  /-- TWIN_YIELD (R385). -/
  | twinYield (who : Writer)
  /-- TWIN_DETACH (R386). -/
  | twinDetach (who : Writer)
  /-- TWIN_RESUME (R386). -/
  | twinResume (who : Writer)
  /-- TWIN_ADMIT (R387). -/
  | twinAdmit (sess : Session)
  /-- TWIN_FORGET (R387). -/
  | twinForget (sess : Session)
  /-- CAN_FRAME_RX (R395). -/
  | canFrameRx (n : Fin 4) (f : CanFrame) (stamp : BitVec 32)
  /-- CAN_TX_DONE (R403). -/
  | canTxDone (n : Fin 4) (stamp : BitVec 32)
  /-- CAN_TX_ERROR (R401). -/
  | canTxError (n : Fin 4) (e : CanTxErr)
  /-- CAN_RECOVERY_DONE (R405). -/
  | canRecoveryDone (n : Fin 4)
  /-- CAN_RECOVER (R405). -/
  | canRecover (who : Writer) (n : Fin 4)
  /-- CAN_FLUSH (R401). -/
  | canFlush (who : Writer) (n : Fin 4)
  /-- CAN_CLASH_CLEAR (R408). -/
  | canClashClear (who : Writer) (n : Fin 4)
  /-- CAN_MODE_WRITE (R392). -/
  | canModeWrite (who : Writer) (n : Fin 4) (mode : BitVec 4)
  /-- CAN_INTEGRATED (R392). -/
  | canIntegrated (n : Fin 4)
  /-- CAN_BT_WRITE (R394). -/
  | canBtWrite (who : Writer) (n : Fin 4) (dataPhase : Bool) (v : BitVec 32)
  /-- CAN_FILTER_WRITE (R495). -/
  | canFilterWrite (who : Writer) (n : Fin 4) (f : Fin 64) (v : BitVec 32)
  /-- CAN_WAKE (R407). -/
  | canWake (n : Fin 4) (cause : CanWakeCause)
  /-- TCP_CONNECT (R419). -/
  | tcpConnect
  /-- TLS_HANDSHAKE_DONE (R419). -/
  | tlsHandshakeDone (slot : Fin 8) (r : TlsResult)
  /-- TLS_HANDSHAKE_TIMEOUT (R419). -/
  | tlsHandshakeTimeout (slot : Fin 8)
  /-- READ (R423). -/
  | hostRead (sess : Session) (tag : BitVec 16) (addr bytes : BitVec 32)
  /-- WRITE (R425). -/
  | hostWrite (sess : Session) (tag : BitVec 16) (addr : BitVec 32) (words : List (BitVec 32))
  /-- DESC (R427). -/
  | hostDesc (sess : Session) (tag : BitVec 16) (idx : BitVec 8) (wr : Bool) (base len : BitVec 32)
  /-- SUBSCRIBE (R428). -/
  | hostSubscribe (sess : Session) (tag : BitVec 16) (mask : BitVec 32)
  /-- PING (R423). -/
  | hostPing (sess : Session) (tag : BitVec 16)
  /-- CLOSE (R423). -/
  | hostClose (sess : Session) (tag : BitVec 16)
  /-- BAD_TYPE (R422). -/
  | badType (sess : Session) (tag : BitVec 16) (type : BitVec 8) (len : BitVec 32)
  /-- CAPPING_QUEUE_STALL (R428). -/
  | cappingQueueStall (sess : Session)
  /-- SESSION_IDLE_TIMEOUT (R421). -/
  | sessionIdleTimeout (sess : Session)
  /-- USB_ENUMERATE (R430). -/
  | usbEnumerate
  /-- USB_DISCONNECT (R430). -/
  | usbDisconnect
  /-- USB_UNLOCK (R430). -/
  | usbUnlock
  /-- USB_VERIFY (R430). -/
  | usbVerify
  /-- USB_LOCK (R430). -/
  | usbLock
  /-- USB_ROLE_LAPSE (R430). -/
  | usbRoleLapse
  /-- RECORDER_RING_WRITE (R436). -/
  | recorderRingWrite (ringFault durFault : Bool)
  /-- TOKEN_REFILL (R438). -/
  | tokenRefill (code : BitVec 16)
  /-- SUPPRESSION_SUMMARY_TIMER (R439). -/
  | suppressionSummaryTimer (code : BitVec 16)
  /-- RIBBON_TAIL_READ (R442). -/
  | ribbonTailRead (rd : Reader) (k : Fin 4)
  /-- RIBBON_SEEK (R442). -/
  | ribbonSeek (who : Writer) (k : Fin 4) (hi : BitVec 32)
  /-- RECORD_CLEAR (R443). -/
  | recordClear (sess : Session)
  /-- MEM_ZERO (R460). -/
  | memZero (who : Writer)
  /-- MEM_ZERO_DONE (R464). -/
  | memZeroDone
  /-- SCRUB_LINE (R459). -/
  | scrubLine (o : LineOutcome)
  /-- SRAM_SCRUB (R448). -/
  | sramScrub (o : SramScrub)
  /-- CHECK_STORE_INIT (R458). -/
  | checkStoreInit
  /-- ATTEST (R468). -/
  | attest (sess : Session)
  /-- CERTS (R467). -/
  | certs (sess : Session)
  /-- SET_FOLIO_KEY (R471). -/
  | setFolioKey (sess : Session)
  /-- SET_SERVICE_KEY (R470). -/
  | setServiceKey (sess : Session)
  /-- TRUST_ADD (R470). -/
  | trustAdd (sess : Session)
  /-- TRUST_REMOVE (R470). -/
  | trustRemove (sess : Session)
  /-- NEW_APP_KEY (R470). -/
  | newAppKey (sess : Session)
  /-- ADOPT (R472). -/
  | adopt (sess : Session)
  /-- NODE_CHALLENGE_START (R474). -/
  | nodeChallengeStart (r : Region) (hop : Nat)
  /-- NODE_CHALLENGE_ANSWER_RX (R473). -/
  | nodeChallengeAnswerRx (r : Region) (hop : Nat) (parts : List AirPart)
  /-- NODE_CHALLENGE_TIMEOUT (R473). -/
  | nodeChallengeTimeout (r : Region)
  /-- NODE_CHALLENGE_ROUTINE (R474). -/
  | nodeChallengeRoutine (r : Region)
  /-- QP_TRANSITION (R478). -/
  | qpTransition (n : Fin 8) (qbLeads : Bool)
  /-- QP_SKIP (R484). -/
  | qpSkip (n : Fin 8)
  /-- QP_INDEX_EDGE (R481). -/
  | qpIndexEdge (n : Fin 8) (rising : Bool)
  /-- SKIP_WINDOW_END (R484). -/
  | skipWindowEnd (n : Fin 8)
  /-- SPD_TIMEOUT_EXPIRY (R486). -/
  | spdTimeoutExpiry (n : Fin 8)
  /-- QP_PRESET (R483). -/
  | qpPreset (who : Writer) (n : Fin 8) (v : BitVec 32)
  /-- QP_CLEAR (R484). -/
  | qpClear (who : Writer) (n : Fin 8)
  /-- QP_CFG_WRITE (R489). -/
  | qpCfgWrite (who : Writer) (n : Fin 8) (v : BitVec 32)
  /-- CAN_RX_ERROR (R404). -/
  | canRxError (n : Fin 4) (e : CanRxErr)
  /-- LEAD_PACKET_HEARD (R248). -/
  | leadPacketHeard (r : Region) (p : LeadPacket)
  /-- DRAM_TRAINING_DONE (R436). -/
  | dramTrainingDone
  /-- CAN_INTEGRATION_START (R392). -/
  | canIntegrationStart
  /-- START_WORKERS_READY (R492). -/
  | startWorkersReady
  /-- HOST_WINDOW_READY (R492). -/
  | hostWindowReady
  /-- CAPPING_COPY_END (R313). -/
  | cappingCopyEnd
  /-- CHIP_IN_SEGMENT_TIMEOUT (R180). -/
  | chipInSegmentTimeout
  /-- SEW_RANGING_DONE (R213). -/
  | sewRangingDone (r : Region) (delay : BitVec 16)
  /-- SEW_LINK_FAIL (R214). -/
  | sewLinkFail (r : Region)
  /-- PTP_ANNOUNCE_RX (R416). -/
  | ptpAnnounceRx (m : PtpAnnounce)
  /-- PTP_DELAY_RESP_RX (R416). -/
  | ptpDelayRespRx (port : Fin 2) (domain : BitVec 8) (delay : BitVec 32)
  /-- BRIDGE_FRAME_RX (R413). -/
  | bridgeFrameRx (port : Fin 2) (src dst : BitVec 48)
  /-- BRIDGE_ADDRESS_AGE_OUT (R413). -/
  | bridgeAddressAgeOut (mac : BitVec 48)
  /-- ARP_ICMP_REQUEST (R414). -/
  | arpIcmpRequest (icmp : Bool) (target : BitVec 32)
  /-- DHCPV4_LEASE (R414). -/
  | dhcpv4Lease (lease : Option (BitVec 32))
  /-- LOGIC_SUPPLY_INPUT_CHANGE (R517). -/
  | logicSupplyInputChange (b present : Bool)
  /-- COIL_SUPPLY_PRESENT_CHANGE (R518). -/
  | coilSupplyPresentChange (n : Fin 4) (v : BitVec 16)
deriving DecidableEq, Repr

end Sys2Proof
end

