-- ==== Sys2Proof/Machine/Bits.lean ====
section
/-! DEFINITION. Bit fields, byte order, saturation and rounding (R10-R12, R110). -/
namespace Sys2Proof

/-- Bits `[hi:lo]` of a word as a natural number (R11). -/
def bitsOf (x : Word) (hi lo : Nat) : Nat := (x.toNat >>> lo) % 2 ^ (hi + 1 - lo)

/-- A Boolean as the number 0 or 1. -/
def ofBool (b : Bool) : Nat := if b then 1 else 0

/-- `n` placed at bit `lo`, for packing register fields. -/
def fld (n lo : Nat) : Nat := n <<< lo

/-- A natural number as a register word. -/
def word (n : Nat) : Word := BitVec.ofNat 32 n

/-- Little-endian bytes of a number, `n` of them (R12). -/
def bytesLE (n v : Nat) : List Byte := (List.range n).map fun i => BitVec.ofNat 8 (v >>> (8 * i))

/-- The number that little-endian bytes spell (R12). -/
def ofBytesLE : List Byte → Nat
  | [] => 0
  | b :: t => b.toNat + 256 * ofBytesLE t

/-- Add one, saturating at `top`. -/
def satInc (top n : Nat) : Nat := if n < top then n + 1 else top

/-- A counter of a 16-bit register field that saturates at 0xFFFF. -/
def inc16 (n : Nat) : Nat := satInc 0xFFFF n

/-- Clamp an integer to bounds. -/
def clampInt (lo hi x : Int) : Int := if x < lo then lo else if hi < x then hi else x

/-- Clamp a natural number to bounds. -/
def clampNat (lo hi x : Nat) : Nat := if x < lo then lo else if hi < x then hi else x

/-- Integer division rounded toward negative infinity. -/
def floorDiv (a : Int) (b : Nat) : Int := Int.fdiv a b

/-- Division rounded to nearest, ties away from zero (R110, R275). -/
def roundDiv (a : Int) (b : Nat) : Int :=
  if a < 0 then - ((2 * (-a) + b) / (2 * b)) else (2 * a + b) / (2 * b)

/-- The elements of a list with their positions. -/
def indexed {α : Type} (l : List α) : List (Nat × α) := (List.range l.length).zip l

end Sys2Proof
end

