-- ==== Sys2Proof/Machine/State.lean ====
section
/-! DEFINITION. The state of the module as plain data, its reset value, and the reasons a step can stop. -/
namespace Sys2Proof.Machine

/-- Byte memory: address and byte pairs, addresses strictly rising, no byte 0 listed; an unlisted address reads 0
(R458 for DRAM; log entry 10 for scratch, tables and folio slots). -/
abbrev Mem := List Host.Cell

/-- A mark kept in MRAM over eight rotated words (R31, R45, R55, R223, R451). -/
structure Marks where
  words : Vector (BitVec 64) 8
  next : Fin 8
deriving DecidableEq, Repr

/-- A record of the event recorder (R433): the CRC is not stored but whether the stored CRC fails. -/
structure Rec where
  seq : DWord
  time : NetTime
  code : Half
  scope : Half
  args : Word
  bad : Bool
deriving DecidableEq, Repr

/-- An event as the region-event rings and the waiting workers see it (R137). -/
structure Event where
  seq : DWord
  code : Half
  scope : Half
  args : Word
deriving DecidableEq, Repr

/-- The chip event arbiter (R27, R31, R35). -/
structure Arb where
  /-- Last sequence number assigned (ARB_SEQ). -/
  seq : DWord
  /-- The high-water mark in MRAM, eight rotated words (R31). -/
  marks : Marks
  /-- WEAR_WARN has been recorded (R453). -/
  wearWarn : Bool
deriving DecidableEq, Repr

/-- The state of the phase wheel (R37). -/
inductive WheelState where
  | free | acquire | locked | hold
deriving DecidableEq, Repr

/-- A cycle that has ended: the stepless time it began and its length, ns (R40). -/
structure CycleSpan where
  start : Nat
  len : Nat
deriving DecidableEq, Repr

/-- The phase wheel (R37-R48). WHEEL_CTRL's SRC and EDGE, WHEEL_OFFSET and WHEEL_HOLD are settings (State.cfg). -/
structure Wheel where
  state : WheelState
  /-- Cycle count, 40 bits (R46). -/
  count : BitVec 40
  /-- Stepless time at which the current cycle began, ns. -/
  cycStart : Nat
  /-- Length of the current cycle, ns (WHEEL_CYC_LEN). -/
  cycLen : Nat
  /-- The cycles before the current one, newest first: as many as a phase message can reach back over (R40). -/
  past : List CycleSpan
  /-- Measured grid cycle length, ns (R37, R42). -/
  meas : Nat
  /-- Phase error that is left at the end of the current cycle, ns, positive when the wheel is ahead (R42). -/
  err : Int
  /-- ACCEPT_RUN. -/
  acceptRun : Nat
  /-- Consecutive accepted references within 100 µs since ACQUIRE was entered (R37). -/
  nearRun : Nat
  /-- REJECTS. -/
  rejects : Nat
  /-- Stepless time of the previous reference seen (R39), none after FREE is entered or SRC changes. -/
  prev : Option Nat
  /-- Stepless time of the reference that the cycle is measured from in LOCKED and HOLD: the last accepted one, or the
  first seen after FREE is entered or SRC changes (log entry 15). -/
  ref : Option Nat
  /-- Stepless time of the last accepted reference (R38). -/
  lastAccept : Nat
  /-- Stepless time HOLD was entered (R38). -/
  holdAt : Nat
  /-- NOMINAL_NOW: true for 60 Hz (R44). -/
  nominal : Bool
  /-- The NOMINAL value held in MRAM for the next cold start (R44). -/
  nominalHeld : Option Bool
  /-- FOLLOWS_TWIN. -/
  followsTwin : Bool
  /-- The cycle mark in MRAM (R45). -/
  marks : Marks
  /-- Network time at fraction 0 of the current cycle (WHEEL_ZC). -/
  zc : NetTime
  /-- WHEEL_MSG_SECLO and SECHI as last written. -/
  msgLo : Word
  msgHi : Word
deriving DecidableEq, Repr

/-- The network time state (R54). -/
inductive TimeState where
  | unset | free | tracking | sync
deriving DecidableEq, Repr

/-- Network time and the stepless base (R49-R58). TIME_SRC is a setting (State.cfg). -/
structure Time where
  /-- 10 ns clocks since the supply became valid. -/
  clk : Nat
  /-- Slew already applied, ps (R56). -/
  slewDone : Int
  /-- Slew still to apply, ps. -/
  slewLeft : Int
  /-- TIME_STATUS.SLEWING: from the correction until TIME_SLEW_END. -/
  slewing : Bool
  /-- Network time in ns, without epoch, minus the stepless base. -/
  off : Int
  /-- EPOCH, also held as one MRAM word (R57). -/
  epoch : Half
  state : TimeState
  /-- STEPS. -/
  steps : Nat
  /-- TIME_OFFSET. -/
  lastOffset : Word
  /-- UTC_S. -/
  utc : Half
  /-- Consecutive measurements within 1 µs since the source began, saturating at 16 (R54). -/
  good : Nat
  /-- TIME_SET_SECLO and SECHI as last written. -/
  setLo : Word
  setHi : Word
  /-- The network time stored in MRAM, ns, eight rotated words, and the stepless time of the last store (R55). -/
  marks : Vector Nat 8
  markNext : Fin 8
  storedAt : Nat
deriving DecidableEq, Repr

/-- A tick domain (R61, R62). The count is `base` plus the increments since `since`. -/
structure Tick where
  en : Bool
  div : Nat
  base : DWord
  /-- 100 MHz period of the time base at which `base` was reached. -/
  since : Nat
  /-- Periods from `since` to the next increment: the old TICK_DIV until then (R61). -/
  first : Nat
  cmp : DWord
  loadLo : Word
  /-- The compare event for the present compare value has been raised. -/
  fired : Bool
deriving DecidableEq, Repr

/-- CAN_LATCH: the second and the four CAN counters latched (R64). -/
structure CanLatch where
  sec : BitVec 48
  epoch : Half
  cnt : Vector Word 4
deriving DecidableEq, Repr

/-- What a scheduling instruction waits for (R66). -/
inductive Target where
  /-- A phase stamp, compared against the wheel. -/
  | phase (stamp : DWord)
  /-- A network time in ns of the current epoch. -/
  | net (ns : Nat)
  /-- A count of a tick domain. -/
  | tick (dom : Fin 4) (count : DWord)
  /-- A stepless time in ns (a duration). -/
  | dur (ns : Nat)
  /-- The next occurrence of a periodic slot (R128). -/
  | slot (k : Fin 64)
deriving DecidableEq, Repr

/-- A pending scheduled action of one worker: its one-shot slot or the periodic slot it waits on (R65, R68, R125). -/
structure TimeWait where
  target : Target
  /-- LATE policy as given. -/
  given : BitVec 2
  alat : Fin 8
  /-- The lateness of an action already late that waits under NEXT_CYCLE (R68). -/
  late : Option DWord
  /-- EVERY only: the slot, the register of its handle, and the occurrences consumed beyond one (R128). -/
  slot : Option (Fin 64 × Fin 32 × Nat)
deriving DecidableEq, Repr

/-- A periodic slot (R65, R128): who holds it, its base, its next occurrence not yet consumed and its interval,
in fraction counts (phase) or ns (network time). -/
structure Slot where
  owner : Worker
  net : Bool
  next : Nat
  interval : Nat
deriving DecidableEq, Repr

/-- What a WAITING worker waits on, with what it does on release (R78, WAIT_ON). -/
inductive Wait where
  | time (t : TimeWait)
  /-- SWP.ALL, with the regions that were mapped at issue (R160). -/
  | swpAll (d : GReg) (mask mapped : Half) (target : Word)
  | swpAny (d : GReg) (mask : Half) (target : Word)
  | swpRevt (d : GReg) (r : Region) (addr : Word)
  /-- CMBW: with EXCLUDED and POISONED of the launches of ticket 0 that have completed meanwhile (R144). -/
  | comb (d : GReg) (ticket : Word) (excluded : Nat) (poisoned : Bool)
  | can (d : GReg) (port : Fin 4) (buf : Option (Fin 64)) (addr : Word) (issued : DWord)
  | twin (d : GReg) (addr : Word)
  | crypto
deriving DecidableEq, Repr

/-- The seven worker states (R78). READY and RUNNING are told apart by the core (R75). -/
inductive WkState where
  | empty | stopped | ready | running | waiting | trapped | quiesced
deriving DecidableEq, Repr

/-- The flags of SW [7:0] and RESTARTED and LEAD (R101). -/
structure Flags where
  z : Bool
  n : Bool
  c : Bool
  v : Bool
  disc : Bool
  late : Bool
  sat : Bool
  restarted : Bool
  lead : Bool
deriving DecidableEq, Repr

/-- The function of an ATOM instruction (R116). -/
inductive AtomOp where
  | xchg | fadd | cas | or | and
deriving DecidableEq, Repr

/-- An access of a worker that has not completed: a DRAM load or atomic access in flight (R114), a FENCE or a store
that waits for the store queue (R114, R117), an instruction that issues once its worker's posted stores have drained (R117). -/
inductive Flight where
  | none
  | loadG (d : GReg) (off : Nat) (size : XSize)
  | loadA (d : AReg) (off : Nat)
  | atom (op : AtomOp) (d s2 : GReg) (off : Nat)
  | store (off : Nat) (bytes : List Byte)
  | fence
  | drain
deriving DecidableEq, Repr

/-- One of the 160 workers (R73, R78, R90-R93, R100). -/
structure WorkerSt where
  g : Vector Word 32
  a : Vector DWord 8
  pc : Word
  sw : Flags
  scratch : Mem
  scope : Half
  prio : BitVec 2
  state : WkState
  /-- What a WAITING worker waits on. -/
  wait : Option Wait
  /-- The state a QUIESCED worker returns to. -/
  held : WkState
  core : Fin 4
  entry : Word
  /-- Stepless times of the restarts, newest first (R92). -/
  restarts : List Nat
  faultCause : Byte
  faultCount : Nat
  faultPc : Word
  faultAddr : Word
  /-- WK_TRAP_ACT: ACTION (true RESTART) and RESTART_MAX. -/
  action : Bool
  restartMax : BitVec 4
  /-- WK_BUDGET and the instructions issued in this activation (R93). -/
  budget : Word
  issued : Nat
  /-- WK_DRAM_BASE (with WR in bit 0) and WK_DRAM_LEN. -/
  dramBase : Word
  dramLen : Word
  /-- WK_RUN: instructions issued since load. -/
  run : DWord
  /-- End of the restart pause, stepless ns (R92). -/
  restartAt : Option Nat
  /-- A trap action that waits for the lead to be handed over (R95). -/
  actDue : Bool
  flight : Flight
  /-- This worker's launches not yet completed, its last 8 completions, whether it has launched since its load or last
  restart, and its launches in all (R144). -/
  tickets : List Word
  done : List (Word × Word)
  launched : Bool
  launches : Nat
deriving DecidableEq, Repr

/-- A core: at each priority who holds the quantum and how much of it is left (R75, R76), and the posted DRAM stores
(R98, R117). -/
structure CoreSt where
  quanta : Vector (Option (Worker × Nat)) 4
  /-- At each priority the worker that took the quantum last (R75). -/
  last : Vector Worker 4
  inService : Bool
  failed : Bool
  selftest : Bool
  /-- Posted stores, oldest first: worker, usable offset, bytes (at most 8, R114). -/
  storeQ : List (Worker × Nat × List Byte)
deriving DecidableEq, Repr

/-- A clamp report entry (R175). -/
structure Clamp where
  seq : DWord
  subject : Word
  given : Word
  applied : Word
  scope : Half
  source : Byte
  reason : Byte
deriving DecidableEq, Repr

/-- The clamp reports (R175): the load report and the run-time ring, both kept in MRAM. -/
structure ClampSt where
  load : List Clamp
  loadCount : Nat
  /-- Newest first, at most 1,024. -/
  ring : List Clamp
  runCount : Nat
  /-- CLAMP_SEL. -/
  list : Bool
  index : BitVec 13
deriving DecidableEq, Repr

/-- A settings field submitted and not yet applied (R176): its sweep, identifier, value given and checked, reason. -/
structure PendingField where
  sweep : Word
  id : Nat
  given : Word
  value : Word
  reason : Byte
  order : Nat
deriving DecidableEq, Repr

/-- A folio slot's state word (R167). -/
inductive SlotState where
  | empty | valid | bad | trial | writing | reverted
deriving DecidableEq, Repr

/-- A channel map entry in force (R164, CH_MAP): OWNER none is the chip (0xFF). -/
structure ChanMap where
  owner : Option Region
  cls : Fin 3
  role : Fin 4
  retryN : Nat
  pullIn : Nat
deriving DecidableEq, Repr

/-- The folio command in progress (R169, R179). -/
inductive FolioBusy where
  | none
  | verify
  | writeSlot
  /-- A reload waits for the close of its sweep in region r, and then for chip and pair workers to leave the segment (R179, R180). -/
  | reload (r : Region) (sweep : Word) (deadline : Option Nat)
  /-- ACTIVATE restarts the module once the lead is yielded (R170). -/
  | activate
deriving DecidableEq, Repr

/-- Folios and settings (R161-R180). -/
structure FolioSt where
  /-- Images of slots A and B in MRAM, their lengths and state words. -/
  imgA : Mem
  imgB : Mem
  lenA : Nat
  lenB : Nat
  stA : SlotState
  stB : SlotState
  /-- ACTIVE: true for slot B. -/
  active : Bool
  /-- The next start is the one that ACTIVATE caused (R168). -/
  activateStart : Bool
  fallback : Bool
  noFolio : Bool
  verA : Word
  verB : Word
  lastCmd : Byte
  result : Byte
  stageLen : Word
  /-- The staged length that the last VERIFY found good (R169). -/
  verified : Option Nat
  busy : FolioBusy
  /-- The code sect's length of the folio in force (R121, R162). -/
  codeLen : Nat
  /-- The VERSION of the folio in force. -/
  runVer : Word
  /-- SET_FIELD_LO of each session (R176). -/
  fieldLo : Vector Word 9
  setReason : Byte
  pendingFields : List PendingField
  /-- Submissions to this module so far; gives each its order, 0 being that of a field that was not submitted here (R176). -/
  submitted : Nat
  /-- Values of the region that took effect while its reload is in progress: they stand after the reloaded ones (R180). -/
  redo : List (Nat × Word)
  clamp : ClampSt
  chan : Vector ChanMap 64
deriving DecidableEq, Repr

/-- A token bucket of one event code (R438, R439). -/
structure Bucket where
  /-- The code with bits [13:12] zero. -/
  code : Half
  tokens : Nat
  /-- Stepless time of the last refill counted. -/
  since : Nat
  suppressed : Nat
  /-- Scope of the last suppressed occurrence and time of the first. -/
  scope : Half
  firstAt : Nat
deriving DecidableEq, Repr

/-- One ribbon (R442): control, cursor (a SEQ, or an entry index for SOURCE 2) and what was shown and not moved past. -/
structure Ribbon where
  source : BitVec 2
  minLevel : BitVec 2
  seekLo : Word
  cursor : DWord
  /-- SEQ of the first record of the last snapshot released without moving the cursor. -/
  shown : Option DWord
  /-- The record at the cursor was overwritten or cleared before a read. -/
  gap : Bool
deriving DecidableEq, Repr

/-- The event recorder (R433-R447). -/
structure RecorderSt where
  /-- The on-chip queue, oldest first. -/
  queue : List Rec
  /-- The DRAM ring and the durable ring, oldest first. -/
  ring : List Rec
  durable : List Rec
  /-- Torn slots left in the durable ring by a record cut off (R441). -/
  tornSlots : Nat
  /-- The last-word bank: at most 16 entries, entry 0 first (R444), and the entry written next. -/
  bank : List Rec
  bankNext : Nat
  buckets : List Bucket
  keepFull : Bool
  durFail : Bool
  ringFail : Bool
  suppressed : Nat
  queueLost : Nat
  /-- Lost records not yet reported by QUEUE_LOST (R436). -/
  lostNow : Nat
  torn : Nat
  /-- REC_DEF_LIMIT, REC_CAN and the limit table (kept in MRAM). -/
  defLimit : Word
  recCan : Word
  limits : Vector Word 64
  clrResult : Byte
  clrNonce : DWord
  clrMsg : Vector Word 8
  ribbons : Vector Ribbon 4
deriving DecidableEq, Repr

/-- Memory, check store and MRAM counters (R448-R464). -/
structure MemSt where
  /-- Usable DRAM by offset. -/
  dram : Mem
  /-- Poisoned lines, by line index, rising (R460). -/
  poison : List Nat
  /-- Lines initialised so far by the background initialiser (R458). -/
  initPos : Nat
  initDone : Bool
  /-- Cells whose state a poisoned line has left defaulted, not trusted again yet (R34): MEM_DEGRADED. -/
  untrusted : List Nat
  /-- DRAM training has ended (R436, R458). -/
  trained : Bool
  dramOut : Bool
  /-- The shared tables by offset from 0x5000_0000, and SRAM words that read uncorrectable (byte offset / 8). -/
  tables : Mem
  badTable : List Nat
  badScratch : List (Worker × Nat)
  eccCorr : Nat
  eccUncorr : Nat
  sramCorr : Nat
  sramUncorr : Nat
  tagFail : Nat
  hostPoison : Nat
  lastUe : Word
  lastUeSeq : Word
  scrubPos : Nat
  scrubPasses : Nat
  zeroBase : Word
  zeroLen : Word
  /-- The range being zeroed: usable offset and length (R460). -/
  zeroing : Option (Nat × Nat)
  memResult : Byte
  /-- Area sizes in force, MiB, placed at the last start (R454). -/
  recRing : Nat
  archive : Nat
  mramCorr : Nat
  mramDiscarded : Nat
deriving DecidableEq, Repr

/-- A snapshot held by a reader (R13, R71, R89, R426): its structure's first address, the words captured in address
order, and the stepless time it was taken. -/
structure Snap where
  reader : Reader
  addr : Nat
  words : List (Nat × Word)
  taken : Nat
deriving DecidableEq, Repr

/-- A block entry of a region sweep record (R233): 24 cells and 8 sensors. -/
structure Block where
  status : Half
  c : Nat
  absent : Bool
  identity : Bool
  /-- IDENTITY has reappeared at this sweep after having cleared (R276). -/
  again : Bool
  rejoined : Bool
  untrusted : Bool
  volts : List Half
  codes : List (BitVec 3)
  t : Nat
  temps : List Half
deriving DecidableEq, Repr

/-- A region sweep record (R232). -/
structure SweepRec where
  sweep : Word
  /-- Stepless time of S, ns, and the time since the region's sample instant before (R280). -/
  sAt : Nat
  dt : Nat
  complete : Bool
  isolated : Bool
  lateFill : Bool
  bypass : Bool
  periodShort : Bool
  wheel : BitVec 2
  timeSt : BitVec 2
  absentCount : Nat
  phase : DWord
  time : NetTime
  incRun : Nat
  hushCount : Nat
  clkBad : Half
  cur : Word
  vStr : Word
  vBus : Word
  headStatus : Half
  headAbsent : Bool
  blocks : List Block
  /-- The blocks as they stood at the close: what the built-in kernels read (R295). -/
  atClose : List Block
  /-- The string was on the bus at the sample instant (R307). -/
  onBus : Bool
deriving DecidableEq, Repr

/-- A pack record (R234). -/
structure PackRec where
  sweep : Word
  valid : BitVec 4
  mask : Half
  phase : DWord
  time : NetTime
  entry : Word
  dsm : Vector Word 4
deriving DecidableEq, Repr

/-- The frame in progress of a region (R186-R190). Times are stepless ns. -/
structure Frame where
  sweep : Word
  origin : Nat
  originTime : NetTime
  /-- Sample instant: stepless time, phase stamp, wheel and time state at S. -/
  sAt : Nat
  stamp : DWord
  wheel : BitVec 2
  timeSt : BitVec 2
  sTime : NetTime
  sampled : Bool
  /-- FE of the beacon's twin, for the nonce (R207). -/
  fe : Half
  echo : Bool
  /-- Any packet of the head's transfer has arrived. -/
  heard : Bool
  closed : Bool
  total : Option Nat
  got : Nat
  head : Option HeadRec
  nodes : List NodeRec
  stream : List (Nat × Word × Word × Word)
  /-- Last FC accepted from each sender (R209). -/
  fcs : List (Nat × Nat)
  /-- Command entries sent in this frame (R199). -/
  sent : List CmdEntry
  commanded : Bool
  otherSide : Bool
  /-- This module took the lead in this frame and transmits nothing until the next F (R185, R218). -/
  mute : Bool
  /-- Stepless time of the close. -/
  closeAt : Nat
  /-- The bypass hop's transfer: TOTAL and the records held, and whether it reports a beacon of its own upstream neighbour (R215). -/
  byTotal : Option Nat
  byGot : Nat
  neighbour : Bool
  /-- The bypass hop's transfer has been acknowledged (R202, R215). -/
  byAcked : Bool
  /-- The region's string is on the bus at S (R307). -/
  onBus : Bool
deriving DecidableEq, Repr

/-- The sewing step (R213, RR_SEW_STATUS.STEP). -/
inductive SewStep where
  | idle | survey | call | challenge | prompt | keySent | ranging | search | between | finishing
deriving DecidableEq, Repr

/-- Sewing state of a region (R212-R214). -/
structure SewSt where
  step : SewStep
  result : Byte
  candHop : BitVec 5
  candRssi : Byte
  cand : Option EnrolAnswer
  candPub : List Byte
  answers : List EnrolAnswer
  excluded : List DWord
  chal : List Byte
  /-- The map being built. -/
  draft : Option RegionMap
  /-- Hops that RESTITCH must join on to again, deeper hops kept. -/
  tail : List MapHop
  deadline : Nat
  callAt : Nat
  /-- When the first answer of the calls came (R213). -/
  firstAt : Nat
  /-- The delay of the incoming link that a restitched node has ranged, while that of hop h + 1 is still to come (R214). -/
  ranged : Option Half
deriving DecidableEq, Repr

/-- Region states (R326). -/
inductive ReState where
  | opened | negClosed | precharging | precharged | closedPre | closed | opening | weldCheck | isolated
deriving DecidableEq, Repr

/-- Causes of isolation (RE_STATE.CAUSE, R344). -/
inductive Cause where
  | none | cellOv | cellUv | cellOt | cellUt | ocPeak | i2t | incomplete | aux | sever | p0Trap | twin | circ | weld
deriving DecidableEq, Repr

/-- The region engine (R320-R344). -/
structure Engine where
  state : ReState
  cause : Cause
  /-- Contactor coils that this engine drives on: negative, pre-charge, positive. -/
  coilN : Bool
  coilP : Bool
  coilS : Bool
  /-- The cause of an isolation that waits for the open or the weld check in progress (R94, R324). -/
  isolates : Option Cause
  /-- Tickets of CHECK_FAIL orders whose own step is not judged yet (R374). -/
  peerFailed : List Half
  /-- Step in progress: its code and ticket. -/
  step : Option (BitVec 4 × Half)
  nextTicket : Half
  welded : Bool
  weldUnconf : Bool
  live : Bool
  viol : Byte
  persist : Vector Nat 6
  /-- The kinds whose running count has raised its verdict, bit 6 INCOMPLETE (R323). -/
  raised : Nat
  /-- E of R322 in mA²·ns, and the sample instant of the last sweep with a head record. -/
  e : Nat
  lastHead : Option Nat
  detailStep : BitVec 4
  detailCause : Byte
  detailTicket : Half
  tau : Word
  dv0 : Word
  dv : Word
  pre : Option PreSt
  weld : Option WeldSt
  /-- OPENING: the wait's end (R334). -/
  openLimit : Nat
  /-- The negative contactor is switched off at this time (R328), and its weld check follows. -/
  negOffAt : Option Nat
  circEnd : Option Nat
  autoOffAt : Option Nat
  /-- AUX_TIME ends, negative then positive (R325). -/
  auxNegAt : Option Nat
  auxPosAt : Option Nat
  /-- The close step that waits for its auxiliary input or pull-in: code, ticket (R325, R326). -/
  confirm : Option (BitVec 4 × Half)
  auxCfg : Word
  zcCtrl : Word
  zcImage : Vector Word 18
  verdicts : Nat
  weldFails : Nat
  /-- Steps of this twin that ended, with whether they passed, for CHECK_FAIL (R342). -/
  passed : List (Half × Bool)
  graceEnd : Option Nat
  /-- When the region entered CLOSED_PRE or CLOSED, and the last such span before (R329). -/
  closedAt : Option Nat
  wasFrom : Nat
  wasUntil : Nat
deriving DecidableEq, Repr

/-- The node firmware update of a region (R264, R265). -/
structure NfwSt where
  step : Nat
  result : Byte
  ready : List Nat
  total : Nat
  version : Word
  headKind : Bool
  len : Nat
  /-- Segments still to be broadcast, hops to be queried, hops returned with the new image, hops shown FW_FAILED. -/
  toSend : List Nat
  toQuery : List Nat
  /-- Hops that are queried once the segments to send have gone. -/
  waiting : List Nat
  back : List Nat
  failed : List Nat
  deadline : Nat
deriving DecidableEq, Repr

/-- What is left to do for a hop in spare airtime and what the module knows of it (R210, R215, R216, R474). -/
structure HopSt where
  /-- Stepless time of the close at which it was first absent, and the sweeps missed. -/
  absentAt : Option Nat
  missed : List Word
  /-- It has delivered again in time: until when its kept records are fetched (R216, R217). -/
  keptUntil : Option Nat
  untrusted : Bool
  /-- IDENTITY: a new identity not yet published over, from which sweep it has shown, and a failed challenge (R474, R475). -/
  newIdent : Bool
  identFrom : Word
  chalIdent : Bool
  failAt : Option Nat
  /-- IDENTITY at the last close, and whether any close at the position has shown it (R276). -/
  identLast : Bool
  identSeen : Bool
  limitsDue : Bool
  rekeyDone : Bool
  /-- Sweeps left of the committed plan, and GEN and LIFE of the staged one (R252-R254). -/
  planLeft : Nat
  stagedGen : Byte
  stagedLife : Nat
  tallyDue : Bool
  tally : List Word
  /-- The last sweep whose close showed NODE_RESET, 0 for none (R254, R280). -/
  resetSweep : Word
  nextTag : BitVec 3
  burst : Nat
  reachTries : Nat
  watching : Bool
  /-- Sweep number of the frame whose SLEEP it acted on (R262). -/
  watchSweep : Word
  /-- Sweep numbers of the frames that carried a SLEEP to it, while its records since have not shown it awake (R262). -/
  slept : List Word
  /-- The reported median link delay (R194). -/
  delay : Option Half
deriving DecidableEq, Repr

/-- The spare exchange in progress (R206). -/
inductive Spare where
  | reach (hop : Nat)
  | kept (hop : Nat)
  | challenge (hop : Nat)
  | collect (hop : Nat)
  | rekey (hop : Nat)
  | ranging (hop : Nat)
  | order (o : Order)
  | limits (hop : Nat)
  | tally (hop : Nat)
  | capture (hop : Nat)
  | fwSeg
  | fwQuery (hop : Nat)
deriving DecidableEq, Repr

/-- A packet that the module has sent on a region's air, until the idle step delivers it: TYPE (15 for an alarm), its header's
SIDE and FC, SENDER being 0, body and MIC; its power in dBm where it is not the service power, and the stamp of its access
address at the ANT port (R63, R184, R203, R207). -/
structure AirPdu where
  region : Region
  type : Nat
  sideB : Bool
  fc : Nat
  body : List Byte
  mic : Word
  dbm : Option Byte
  stamp : NetTime
deriving DecidableEq, Repr

/-- One region: its map, radio, frame, sweeps, orders, captures, sewing, node firmware and engine. -/
structure RegionSt where
  /-- The map in force, its two kept copies with the one selected, the key in use and the new one (R207, R210, R212). -/
  map : Option RegionMap
  copyA : Option RegionMap
  copyB : Option RegionMap
  selB : Bool
  keySel : Bool
  newKey : Option (List Byte)
  /-- A re-key is due, and one is under way (R210). -/
  rekeyDue : Bool
  rekeying : Bool
  /-- KEY_SEL flips at the next frame although hops have not confirmed (R211). -/
  flipDue : Bool
  /-- The channel in use of the map's three, the announced change and the bad frames in a row (R182, R183). -/
  chan : Fin 3
  announce : Option (Fin 3 × Nat)
  badRun : Nat
  /-- The bypass hop k, the absent hop m that it replaces the link of, and the consecutive frames in which k has reported a
  beacon of its own upstream neighbour (R215). -/
  bypass : Option Nat
  bypassFrom : Nat
  bypassRun : Nat
  /-- The region link's registers and counters (R219). -/
  antDelay : Word
  txPwr : Word
  noEcho : Nat
  badFrames : Nat
  micFail : Nat
  replay : Nat
  retries : Nat
  absents : Nat
  alarms : Nat
  chanSwitches : Nat
  alarmLast : Word
  dualRun : Nat
  /-- Packets this module has sent in this frame (FC, R184), and the stamp of the last packet received (R63). -/
  fc : Nat
  rxStamp : NetTime
  /-- The frame since its origin (R186, R187). -/
  frame : Option Frame
  /-- The spare exchange in progress and when it began; the hop to be reached in this frame; the hop that ranges next
  and whether one has ranged in this frame (R194, R206, R215). -/
  spare : Option Spare
  spareAt : Nat
  /-- Exchanges that went unanswered in this frame (R206). -/
  spareTried : List Spare
  /-- When the last firmware segment left, and how many segment slots have to pass from there, or from the close of a later
  frame (R258). -/
  segAt : Nat
  segLeft : Nat
  reachDue : Option Nat
  rangeNext : Nat
  ranged : Bool
  /-- The challenge in progress: hop, challenge, sent at, tries; the hops to be challenged; the routine round (R473). -/
  chal : Option (Nat × List Byte × Nat × Nat)
  chalDue : List Nat
  chalNext : Nat
  chalAt : Nat
  /-- What is held of each hop; the tally timer and the next broadcast TAG (R199, R254). -/
  hops : Vector HopSt 18
  tallyAt : Nat
  broadcastTag : BitVec 3
  /-- The last 8 closed sweeps, newest first (R138), and the last region events, oldest first (R137). -/
  held : List SweepRec
  /-- The sweeps closed complete, as runs of consecutive numbers, first and last of each, newest first (R136). -/
  complete : List (Word × Word)
  /-- The sweep registers of the region and its events (R135, R137, R247). -/
  closedAt : Nat
  closeUs : Word
  lastSweep : Word
  incRun : Nat
  incomplete : Nat
  hushViol : Nat
  periodShort : Bool
  fitE : Word
  fitA : Word
  events : List Event
  /-- Sequence numbers of the region events that have left the ring (R137). -/
  gone : List DWord
  /-- RR_ORD_HEAD and RR_ORD_ARG0 as last written (R248). -/
  ordHead : Word
  ordArg0 : Word
  /-- The order queue, the entries sent and unanswered, and the order registers (R248, R249). -/
  orders : List Order
  outstanding : List Order
  lastOrder : Byte
  ordResult : Byte
  lost : Nat
  queueFull : Nat
  /-- Captures and their registers (R256, R257). -/
  captures : List Capture
  capNum : Word
  capDropped : Nat
  capLast : Word
  capSlot : Nat
  /-- The stream of the head (R261). -/
  streaming : Bool
  /-- The stream that runs was running when the PRE_STREAM now in progress was first carried (R266). -/
  streamKept : Bool
  streamStart : Nat
  streamEnd : Nat
  streamSamples : Nat
  /-- Node firmware, and the watch interval (R262, R263). -/
  nfw : NfwSt
  watchInt : Word
  /-- Sweep number of the SLEEP order's frame (R262). -/
  watchSweep : Word
  /-- Sewing and the region engine (R213, R320). -/
  sew : SewSt
  re : Engine
deriving DecidableEq, Repr

/-- Sweep settings and archive (R220-R247). -/
structure SweepSt where
  n : Nat
  minN : Nat
  /-- SWEEP_CUR and the mark in MRAM (R223). -/
  cur : Word
  marks : Marks
  /-- The number, and the cycle, of the next sample instant, and the fraction in force (R220, R221). -/
  nextNum : Word
  nextCycle : Nat
  frac : BitVec 24
  hush : Nat
  /-- Changes of fraction and of HUSH, and register writes, that wait for their sweep, oldest first (R221, R230, R247). -/
  fracNext : List (Word × BitVec 24)
  hushNext : List (Word × Nat)
  regNext : List (Word × Option Writer × Nat × Word)
  /-- This twin's frame epoch, in MRAM (R208). -/
  fe : Half
  pack : Option PackRec
  /-- Stepless time at which the pack record was built. -/
  packAt : Nat
  packs : List PackRec
  adapt : Bool
  effDecim : Nat
  newest : Nat
  oldest : Nat
  ack : Word
  lost : Nat
  lostAt : Nat
  /-- The last sweep that every region with a frame of it has closed (R241). -/
  archDone : Word
  /-- The mapped regions as the archive's entries count them, one bit each (R241, R246). -/
  archMap : Half
  /-- The step-capture slot written next (R260). -/
  capNext : Nat
  /-- What each reader was last shown of each window: window address, sequence (R240). -/
  shown : List (Reader × Nat × Word)
deriving DecidableEq, Repr

/-- One switch channel of the bank (R348-R364). Times are stepless ns. -/
structure ChanSt where
  cmd : BitVec 2
  duty : Half
  /-- CH_STATUS.DRIVE: 0 off, 1 pull-in, 2 full drive, 3 PWM or economiser. -/
  drive : BitVec 3
  /-- The class of the present switch-on: a changed CHANMAP rules from the next one (R363). -/
  cls : Fin 3
  /-- The PWM frequency in Hz, 0 where the output is not pulsed, and the duty applied in 1/65,536 (R349, R350). -/
  hz : Nat
  applied : Nat
  pullEnd : Nat
  /-- Conducting since. -/
  since : Nat
  /-- Index of the attempt that made the present switch-on, none otherwise (R353). -/
  attempt : Option Nat
  /-- Attempts made since the count returned to 0. -/
  attempts : Nat
  pauseEnd : Option Nat
  /-- A retry has come due and waits for DT_HOLD or the supply (R356, R358). -/
  retryDue : Bool
  latched : Bool
  dtHold : Bool
  dtSince : Nat
  /-- The ΔT trip cut a conducting output: the attempt that it was on (R356). -/
  dtCut : Option (Option Nat)
  holdLong : Bool
  openLoad : Bool
  extDriven : Bool
  opt : Word
  flags : BitVec 6
  ocCount : Nat
  dtCount : Nat
deriving DecidableEq, Repr

/-- The switch bank (R346-R364). -/
structure BankSt where
  ch : Vector ChanSt 64
  supV : Vector Half 4
  supUv : Vector Bool 4
  keeperExpired : Bool
  /-- The bank latched an expiry that is not yet raised (R359): the coils it switched off. -/
  expiryDue : Option Nat
  holding : Bool
  lastRefresh : Nat
  severOnHeld : Bool
  lastCh : Chan
  lastStatus : Byte
deriving DecidableEq, Repr

/-- The sever line and the fast trip (R339-R345). -/
structure SeverSt where
  tripLatch : Bool
  cmdHold : Bool
  lineLow : Bool
  /-- This module holds the line low (SEVER_STATUS.OWN_HOLD): by a latch, or for the 100 ms minimum (R341). -/
  ownHold : Bool
  /-- SEVER_N was observed low by the bank (BANK_STATUS.SEVERED). -/
  observed : Bool
  assertedAt : Nat
  lowAt : Nat
  trips : Nat
  tripOff : Bool
  tripLast : Word
  /-- Filtered DSM0 current, raw counts, as last decimated. -/
  filtered : Word
  peerHolds : Bool
deriving DecidableEq, Repr

/-- A comb launch (R141, R142). -/
structure Launch where
  ticket : Word
  worker : Worker
  prio : BitVec 2
  seq : DWord
  kernel : Byte
  temp : Bool
  first : Nat
  count : Nat
  srcA : Word
  srcB : Word
  dst : Word
  param0 : Word
  param1 : Word
  /-- The usable offset of the worker's aperture at launch (R87). -/
  aperture : Nat
  /-- Segments of 64 elements done, and the elements left out in them (R268, R271). -/
  seg : Nat
  excluded : Nat
  /-- What STAT, VMIN and VMAX have counted so far, by index, and the sweep that COUL walks to (R272, R293, R294). -/
  acc : List (Nat × Int)
  target : Option Word
deriving DecidableEq, Repr

/-- The comb queue (R141, R144) and whether the comb is out of service (R504). -/
structure CombSt where
  queue : List Launch
  out : Bool
deriving DecidableEq, Repr

/-- What asks for an RSA operation (R33): a SIG, the verification of a staged folio (R166), the seal of a capping (R313) and the check of
one to be restored (R315), an attestation (R468), a service command of a session (R469), a clear of the recorder (R443), the unlock of
the USB session (R430), the answer of a node's challenge, judged under the public key of its hop (R473); of sewing the candidate's
proof of its challenge, the key for it and the signature of the map (R213), and that of a map whose key flips (R210); the partner's
HELLO and a session key message of the twin link (R369, R370). -/
inductive RsaJob where
  | sig | folio | seal | restore | attest | clear | usb
  | service (k : Session)
  | chal (r : Region) (hop : Nat) (pub : List Byte)
  | sewProof (r : Region) (chal : List Byte) (a : ChallengeAnswer)
  | sewKey (r : Region)
  | sewMap (r : Region)
  | flipMap (r : Region)
  | hello (h : Hello)
  | twinKey (m : KeyMsg)
deriving DecidableEq, Repr

/-- A request to the crypto engine (R157): the worker waits, the grant goes by R33. -/
structure CryptoReq where
  worker : Option Worker
  urgent : Bool
  seq : DWord
  /-- 0 HASH, 1 SIGN, 2 VERIFY. -/
  op : Fin 3
  d : GReg
  dst : Word
  /-- The message or digest, and the signature, read at issue. -/
  data : List Byte
  sig : List Byte
  slot : Byte
  job : RsaJob
deriving DecidableEq, Repr

/-- A frame queued for transmission (R400, R402): who it belongs to, none for CTX, a region for its zero-current
frame, and the status frame. -/
inductive TxOwner where
  | ctx | zero (r : Region) | status
deriving DecidableEq, Repr

structure TxEntry where
  frame : CanFrame
  /-- The entry's place in the order of queuing, by the model's own counter. -/
  seq : DWord
  owner : TxOwner
  /-- To be removed when its attempt in progress fails (R401, R402). -/
  doomed : Bool
deriving DecidableEq, Repr

/-- A received frame held (R151, R397). -/
structure RxEntry where
  frame : CanFrame
  stamp : Word
  buf : Fin 64
  /-- A loss before it has been shown with it already, in a snapshot (R397). -/
  lostBefore : Bool
  seq : DWord
deriving DecidableEq, Repr

/-- The states of a controller (CAN_STATUS.STATE). -/
inductive CanState where
  | active | passive | busOff | recovering | integrating | config | asleep | disabled
deriving DecidableEq, Repr

/-- A CAN controller (R391-R412). -/
structure CanSt where
  state : CanState
  /-- MODE as written, and the mode in effect, which follows at the end of the frame in progress (R392). -/
  mode : BitVec 4
  modeNow : BitVec 4
  wakeSel : Bool
  autoRecover : Bool
  lec : BitVec 3
  tec : Nat
  recCnt : Nat
  btNom : Word
  btData : Word
  tdcv : BitVec 7
  tdco : BitVec 7
  /-- 10 MHz counter value at the start of the module; it runs with the 100 MHz clock (R63). -/
  cntBase : Word
  errStuff : Nat
  errForm : Nat
  errAck : Nat
  errBit : Nat
  errCrc : Nat
  busOffCnt : Nat
  rxReject : Nat
  rxLost : Nat
  txDone : Nat
  txDisplaced : Nat
  clashEvict : Nat
  wakeId : Word
  wakeMask : Word
  wakeCfg : Word
  wakeLo : Word
  wakeHi : Word
  /-- Clash entries, oldest first: IDE and identifier, count (R408). -/
  clash : List (Word × Nat)
  fltId : Vector Word 64
  fltMask : Vector Word 64
  fltBuf : Vector (Fin 64) 64
  bufCfg : Vector Word 64
  /-- A frame was lost from the buffer before the next one it delivers (R397). -/
  lostFlag : Vector Bool 64
  rx : List RxEntry
  tx : List TxEntry
  /-- The frame whose attempt is in progress, by its sequence number; the pinned frame in bus-off (R405). -/
  inTx : Option DWord
  pinned : Option DWord
  /-- An attempt has lost arbitration, and the frame that won it holds the bus (R400). -/
  busy : Bool
  /-- The ESI that the last FD frame sent has carried (R391). -/
  esi : Bool
  /-- Catch-all of the first second until a filter write (R495). -/
  catching : Bool
  /-- Frames already shown to a reader by buffer: reader, buffer, sequence (R399). -/
  shown : List (Reader × Nat × DWord)
deriving DecidableEq, Repr

/-- What a HELLO of this module says (R369): SIDE, role, identity hash, IN_SERVICE, HOLDS_CLOSED, folio VERSION, sweep number and
cycle count. -/
structure HelloOut where
  sideB : Bool
  role : BitVec 4
  idHash : DWord
  inService : Bool
  holdsClosed : Bool
  version : Word
  sweep : Word
  wheel : BitVec 40
deriving DecidableEq, Repr

/-- A frame or message that leaves the module, until the idle step delivers it. -/
inductive TwinOut where
  | hello (h : HelloOut)
  | heartbeat (b : Heartbeat)
  | digest (d : Digest)
  | openOrder (o : OpenOrder) (checkFail : Bool)
  | forward (f : Forward)
  | retire (r : Retire)
  | record (r : FwdRecord)
  | mirMsg (w : Worker) (bytes : List Byte)
  | key (m : KeyMsg)
  | xferRequest
  | xfer (x : Xfer)
  | xferAck (kib : Nat) (last : Bool)
  | grant (sweep : Word)
  | time (t1 t2 t3 : Nat)
  | maps (ms : List (Region × RegionMap))
deriving DecidableEq, Repr

/-- A twin-link frame as it leaves (R370): EtherType, TYPE, SIDE, CTR, the body as sent, the tag, and what it says. -/
structure TwinSent where
  etype : Half
  type : Nat
  sideB : Bool
  ctr : Nat
  body : List Byte
  tag : BitVec 128
  what : TwinOut
deriving DecidableEq, Repr

/-- The pair role (R365). `undecided` stands for the time before the role is decided at a start (R492). -/
inductive Role where
  | undecided | alone | joining | mirror | lead | yielded | standby
deriving DecidableEq, Repr

/-- The twin (R365-R390). -/
structure TwinSt where
  role : Role
  sideB : Bool
  present : Bool
  driveEn : Bool
  statesMatch : Bool
  folioDiff : Bool
  linkLost : Bool
  hbFault : Bool
  dualLead : Bool
  /-- The module has led at least one frame since its start (IN_SERVICE). -/
  inService : Bool
  holdsClosed : Bool
  mismatch : Nat
  /-- Matching sweeps in a row since the last transfer (R380). -/
  matchRun : Nat
  afterXfer : Bool
  xferBusy : Bool
  kibDone : Nat
  kibTotal : Nat
  lastCmd : Byte
  result : Byte
  peer : DWord
  admitLo : Word
  admitHi : Word
  takeovers : Nat
  yields : Nat
  divergences : Nat
  transfers : Nat
  hbMissed : Nat
  gcmFail : Nat
  etype : Half
  etypeNow : Half
  /-- The partner's role, MOD_STATUS and side as last heard. -/
  peerRole : BitVec 4
  peerStatus : Word
  peerSideB : Bool
  peerHash : DWord
  peerVer : Word
  peerPub : List Byte
  /-- Stepless times of the last heartbeat accepted, the last TWIN_HB edge, and the start of LINK_LOST. -/
  hbAt : Nat
  edgeAt : Nat
  linkLostAt : Nat
  /-- When the twin was judged lost, until a session opens again (R361, R381). -/
  lostAt : Option Nat
  hbLevel : Bool
  /-- Session: key drawn or received, identifiers, counters, whether open. -/
  key : List Byte
  session : Bool
  idOwn : Word
  idPeer : Word
  ctrOut : Nat
  ctrIn : Nat
  attaching : Bool
  /-- Digests held, newest first, and the last compared pair. -/
  digOwn : List Digest
  digPeer : List Digest
  cmpOwn : Option Digest
  cmpPeer : Option Digest
  verdicts : Half
  /-- TWIN_CTRL.LINK_HOLD in s. -/
  linkHold : Nat
  /-- The outputs were released by LINK_HOLD: the module rejoins when the link returns (R383). -/
  rejoin : Bool
  /-- Stepless times of the transfers in the last 60 s, newest first, and the next retry. -/
  xferTimes : List Nat
  retryAt : Option Nat
  /-- Yield granted: the sweep m, and the restart that follows it (R385, R170, R498). -/
  grant : Option Word
  thenRestart : Option (BitVec 4)
  thenDetach : Bool
  detached : Bool
  /-- Estimator sections of a transfer that wait for the next publish (R380). -/
  estWait : List Byte
  /-- The twin's capping public key, once a twin has attached (R158). -/
  capKey : Option (List Byte)
  /-- Mailboxes: worker and message, oldest first (R156). -/
  mail : List (Worker × List Byte)
  /-- Messages sent and not yet known taken, per worker, for a full mailbox (R156). -/
  peerMail : List (Worker × Nat)
  /-- A transfer being sent: 1 its estimator part waits for a publish, 2 its live part waits for a close (R379). -/
  xferStep : Nat
  joinedXfer : Bool
  /-- The recorder tail copied at the request of the transfer under way, and the bytes of the parts received (R379). -/
  xferTail : List FwdRecord
  xferBytes : Nat
  /-- The maps that the partner has been sent in this session, by MAP_ID (R371, R379). -/
  peerMaps : List (Region × Word)
  /-- Compared sweeps in a row that differed since the last match, settled divergence or transfer (R378, R380). -/
  divRun : Nat
  /-- When the next TIME frame leaves (R371). -/
  timeAt : Nat
  out : List TwinOut
  /-- The frames that left in the last clock. -/
  wire : List TwinSent
deriving DecidableEq, Repr

/-- The power state of the module. -/
inductive Power where
  | off
  | running
  | restarting (cause : BitVec 4)
  | brownout
  | thermal
  | asleep
deriving DecidableEq, Repr

/-- Start, power, sleep (R491-R499, R508-R511). -/
structure PowerSt where
  state : Power
  cause : BitVec 4
  adopted : Bool
  /-- Stepless time of the start's origin. -/
  origin : Nat
  workersReady : Bool
  hostReady : Bool
  integrationStarted : Bool
  brownouts : Nat
  logicA : Bool
  logicB : Bool
  warnAt : Nat
  result : Byte
  grace : Word
  wakeDin : Word
  wakeGrid : Bool
  wakeRegion : Bool
  wakeSource : BitVec 3
  wakeIndex : BitVec 5
  /-- SLEEP accepted and its earliest time (R508). -/
  sleepAt : Option Nat
  /-- The wake burst of R263 is to begin; its end and its next packets while it runs, and the bursts so far. -/
  burst : Bool
  burstEnd : Option Nat
  burstAt : Nat
  burstCount : Nat
deriving DecidableEq, Repr

/-- Temperature, throttling and self-test (R500-R507). -/
structure ThermSt where
  tripped : Bool
  request : Bool
  enforced : Bool
  graceEnd : Option Nat
  lastShutdown : Bool
  shutdowns : Nat
  throttles : Nat
  lastBoard : Half
  lastDie : Half
  /-- The measurement under way and its end, and the result it gives (R159). -/
  measEnd : Nat
  bistPart : Fin 32
  bistResult : Byte
  bistRows : Byte
  bistSig : DWord
  bistBusy : Bool
  bistOut : Word
  /-- Rows repaired so far, per partition, kept in MRAM (R504). -/
  repairs : List (Nat × Nat)
deriving DecidableEq, Repr


/-- An entry of the estimator directory (R304, R318): DIR_CTRL, DIR_RANGE and DIR_ADDR. -/
structure DirEntry where
  ctrl : Word
  range : Word
  addr : Word
deriving DecidableEq, Repr

/-- A published window (R306, R307): its sweep and its bytes between STATE and TAIL, by byte offset in the window. -/
structure Window where
  sweep : Word
  bytes : Mem
deriving DecidableEq, Repr

/-- A capping being exported (R313, R314). -/
inductive CapStep where
  | idle
  /-- Copying: the image without its seal, and the copy's stepless time. -/
  | copying (image : List Byte) (at' : Nat) (tables : List DirEntry)
  | sealing (image : List Byte)
deriving DecidableEq, Repr

/-- The estimator directory, publishes and cappings (R304-R318). -/
structure EstSt where
  dir : Vector DirEntry 8
  /-- Directory words that both twins apply at the next publish (R304): entry, word, value. -/
  dirNext : List (Fin 8 × Fin 3 × Word)
  /-- The publish being built, and the store held (R305). -/
  building : Option Word
  heldPub : Option Word
  rejects : Nat
  pubResult : Byte
  pubLast : Word
  /-- Stepless time of the last publish. -/
  pubAt : Nat
  published : Bool
  cell : Vector (Option Window) 16
  summary : Option Window
  /-- CAP_R weights of the pack value (R310). -/
  weights : Vector Word 16
  auto : Bool
  lastCmd : Byte
  capResult : Byte
  step : CapStep
  /-- An export is asked for at the next publish, and the stepless time of the last copy (R313). -/
  exportAsked : Bool
  lastCopy : Nat
  serial : Word
  buf : Word
  len : Word
  /-- The buffer that the next export writes (R314): false for the first. -/
  bufNext : Bool
  restoreLen : Word
  /-- A checked restore (R315): its bytes, the stepless time of the check, and whether slot 0x21 accepted its seal. -/
  restore : Option (List Byte × Nat × Bool)
  kept : Nat
  skipped : Nat
  sections : Nat
deriving DecidableEq, Repr

/-- A message that leaves on a host session (R423). -/
inductive HostMsg where
  | readResp (tag : Half) (status : Byte) (data : List Byte)
  | writeResp (tag : Half) (status : Byte) (clamped : Nat) (first : Word)
  | descResp (tag : Half) (status : Byte)
  | subResp (tag : Half) (status : Byte)
  | badType (tag : Half)
  | notice (kind : Byte) (seq : DWord) (arg : Word)
  | cappingSeg (serial : Word) (offset : Nat) (withSeal : Bool) (bytes : List Byte)
  | pong (tag : Half) (time : NetTime)
deriving DecidableEq, Repr

/-- A descriptor of a session (R427): WR, BASE, LEN. -/
structure Desc where
  wr : Bool
  base : Nat
  len : Nat
deriving DecidableEq, Repr

/-- A session slot: the 8 TLS slots and the USB session (R419-R430). -/
inductive SessState where
  | closed
  | handshake (since : Nat)
  | opened
deriving DecidableEq, Repr

structure SessSt where
  state : SessState
  operator : Bool
  /-- Stepless time of the last message from the host. -/
  lastMsg : Nat
  desc : Vector (Option Desc) 4
  mask : BitVec 3
  /-- The outbound queue, the bytes it holds, and the notices dropped since the last LOST (R428). -/
  out : List HostMsg
  lostNotices : Nat
  /-- A capping segment has found the queue full since (R428). -/
  stallSince : Option Nat
  /-- What is left of the cappings that go to this session, oldest first: serial, offset of the next segment, bytes left, and whether
  the seal is among them. -/
  sending : List (Word × Nat × List Byte × Bool)
  /-- The session asked for cappings before the export in progress began (R431). -/
  takes : Bool
  /-- Trust list entry that admitted it (R470, R476). -/
  entry : Option (Fin 16)
  /-- TRUST_REMOVE of that entry came from this session: it closes at its next message (R476). -/
  revoked : Bool
deriving DecidableEq, Repr

/-- What leaves on the Ethernet ports beside session data. -/
inductive NetOut where
  | tcpReset
  | arpReply (ip : Word)
  | icmpReply (ip : Word)
  | bridged (port : Fin 2) (src dst : BitVec 48)
  | ptpForward (egress : Fin 2) (kind : PtpEvent) (added : Nat)
  | pdelayResp (port : Fin 2)
  | delayReq (port : Fin 2)
deriving DecidableEq, Repr

/-- Ethernet, PTP and host sessions (R413-R432). -/
structure NetSt where
  /-- LINK and SPEED of P0, P1 and TWL. -/
  link : Vector (BitVec 4) 3
  ipCtrl : Word
  ipAddr : Word
  ipMask : Word
  ipGw : Word
  /-- In force since the last start (R414). -/
  ipNow : Word
  ctrlNow : Word
  lat : Vector Word 3
  ptpCtrl : Word
  ptpState : BitVec 4
  slavePort : Fin 2
  gmClass : Byte
  gm : DWord
  path : Word
  /-- Announced masters by port and sender (R416). -/
  masters : List PtpAnnounce
  tcEn : Bool
  corrected : Nat
  uncorr : Nat
  /-- Residence time of a two-step Sync that waits for its Follow_Up, by ingress port (R417). -/
  residence : Vector (Option Nat) 2
  refused : Nat
  tlsFail : Nat
  noticesLost : Nat
  abandoned : Nat
  /-- Bridge table: address, port, stepless time learned (R413). -/
  bridge : List (BitVec 48 × Fin 2 × Nat)
  sess : Vector SessSt 9
  /-- The USB challenge, 8 words, and whether an unlock is under way (R430). -/
  chal : Vector Word 8
  unlocking : Bool
  out : List NetOut
deriving DecidableEq, Repr

/-- The module's keys, trust list and identity commands (R465-R477). -/
structure IdentSt where
  /-- Slot 0x10, 0x11 and 0x21, and how many application keys were made (slot 0x02). -/
  folioKey : Option (List Byte)
  serviceKey : List Byte
  adopted : Option (List Byte)
  appKeys : Nat
  trust : Vector (Option (Bool × List Byte)) 16
  nonce : DWord
  lastCmd : Byte
  result : Byte
  outLen : Word
  svcCmd : Byte
  svcArg : Byte
  attNonce : Vector Word 8
  svcMsg : Vector Word 16
  chalInt : Word
  passed : Nat
  failed : Nat
deriving DecidableEq, Repr

/-- A position input (R478-R490). Times are stepless ns. -/
structure QpSt where
  cfg : Word
  time : Word
  limLo : Word
  limHi : Word
  count : Word
  index : Word
  drift : Half
  indexSeen : Bool
  standstill : Bool
  dir : Bool
  invalid : Bool
  atHi : Bool
  atLo : Bool
  skipFlag : Bool
  skips : Nat
  held : Nat
  skipsWin : Nat
  winStart : Nat
  /-- Stepless time of the last counted transition, and the last intervals of one direction, newest first. -/
  lastAt : Option Nat
  intervals : List Nat
  /-- The levels of the lines QA and QB, as the decoder last saw them, and of QI (R478, R481, R487). -/
  qa : Bool
  qb : Bool
  qi : Bool
deriving DecidableEq, Repr

/-- The state of the module, and the queue of waiting commands. Register settings that a settings field initialises
(R177, Holds) have their one home in `cfg`. -/
structure State where
  /-- Commands that wait, first in, first out. -/
  pending : List Instr
  /-- Counter of free values and drawn numbers (the model's own, log entries 4 and 5). -/
  free : Nat
  /-- Regions of the variant (R2): 16, 8 or 4. -/
  nReg : Nat
  /-- Settings in force: identifier and value; a field not listed has its default (R177). -/
  cfg : List (Nat × Word)
  power : PowerSt
  therm : ThermSt
  arb : Arb
  wheel : Wheel
  time : Time
  ticks : Vector Tick 4
  canLatch : CanLatch
  wk : Vector WorkerSt 160
  cores : Vector CoreSt 4
  quantum : Nat
  slots : Vector (Option Slot) 64
  comb : CombSt
  crypto : List CryptoReq
  region : Vector RegionSt 16
  sweep : SweepSt
  /-- Packets sent on the air of the regions. -/
  air : List AirPdu
  bank : BankSt
  sever : SeverSt
  /-- Levels of the digital inputs DIN00-DIN31. -/
  din : BitVec 32
  folio : FolioSt
  recd : RecorderSt
  mem : MemSt
  twin : TwinSt
  can : Vector CanSt 4
  snaps : List Snap
  est : EstSt
  net : NetSt
  ident : IdentSt
  qp : Vector QpSt 8
deriving DecidableEq, Repr

/-- Faults of the model: none of the block's commands stops it. -/
inductive Fault where
  /-- Never raised: every error of the module is a state of its own. Safe. -/
  | unreachable
deriving DecidableEq, Repr

/-- Refusals of the model. -/
inductive Refusal where
  /-- An arm whose command has no meaning yet. Safe. -/
  | notModelled (mnemonic : String)
deriving DecidableEq, Repr

/-- The estimator at a cold start: directory empty, AUTO set (R318). -/
def EstSt.init : EstSt where
  dir := Vector.replicate 8 ⟨0, 0, 0⟩
  dirNext := []
  building := none
  heldPub := none
  rejects := 0
  pubResult := 0
  pubLast := 0
  pubAt := 0
  published := false
  cell := Vector.replicate 16 none
  summary := none
  weights := Vector.replicate 16 0
  auto := true
  lastCmd := 0
  capResult := 0
  step := .idle
  exportAsked := false
  lastCopy := 0
  serial := 0
  buf := 0
  len := 0
  bufNext := false
  restoreLen := 0
  restore := none
  kept := 0
  skipped := 0
  sections := 0

/-- A session slot that is closed. -/
def SessSt.init : SessSt :=
  ⟨.closed, false, 0, Vector.replicate 4 none, 0, [], 0, none, [], false, none, false⟩

/-- Ethernet at a cold start: no link, the shipped address (R432). -/
def NetSt.init : NetSt where
  link := Vector.replicate 3 0
  ipCtrl := 0x1B680000
  ipAddr := 0xC0A80A10
  ipMask := 0xFFFFFF00
  ipGw := 0
  ipNow := 0xC0A80A10
  ctrlNow := 0x1B680000
  lat := Vector.ofFn fun p => Config.phyLatency p.val
  ptpCtrl := 0x00000020
  ptpState := 0
  slavePort := 0
  gmClass := 0
  gm := 0
  path := 0
  masters := []
  tcEn := true
  corrected := 0
  uncorr := 0
  residence := Vector.replicate 2 none
  refused := 0
  tlsFail := 0
  noticesLost := 0
  abandoned := 0
  bridge := []
  sess := Vector.replicate 9 SessSt.init
  chal := Vector.replicate 8 0
  unlocking := false
  out := []

/-- Identity of a factory-fresh module: slot 0x10 empty, the shipped service key in slot 0x11 (R466). -/
def IdentSt.init (nonce : DWord) : IdentSt where
  folioKey := none
  serviceKey := (List.range 384).map Config.serviceKeyByte
  adopted := none
  appKeys := 0
  trust := Vector.replicate 16 none
  nonce := nonce
  lastCmd := 0
  result := 0
  outLen := 0
  svcCmd := 0
  svcArg := 0
  attNonce := Vector.replicate 8 0
  svcMsg := Vector.replicate 16 0
  chalInt := 24
  passed := 0
  failed := 0

/-- A position input at reset (R490). -/
def QpSt.init : QpSt where
  cfg := 0x03040000
  time := 0x01F403E8
  limLo := 0x80000000
  limHi := 0x7FFFFFFF
  count := 0
  index := 0
  drift := 0
  indexSeen := false
  standstill := true
  dir := false
  invalid := false
  atHi := false
  atLo := false
  skipFlag := false
  skips := 0
  held := 0
  skipsWin := 0
  winStart := 0
  lastAt := none
  intervals := []
  qa := false
  qb := false
  qi := false

/-- Marks with every word zero (log entry 9). -/
def Marks.zero : Marks := ⟨Vector.replicate 8 0, 0⟩

/-- The network time of all zeros. -/
def NetTime0 : NetTime := ⟨0, 0, 0⟩

/-- Flags all clear. -/
def Flags.clear : Flags := ⟨false, false, false, false, false, false, false, false, false⟩

/-- A worker with no program loaded (R78), its registers and accumulators zero (log entry 19), its budget the default of the
priority P0 that it shows (R93). -/
def WorkerSt.init (w : Worker) : WorkerSt where
  g := Vector.replicate 32 0
  a := Vector.replicate 8 0
  pc := 0
  sw := Flags.clear
  scratch := []
  scope := 0
  prio := 0
  state := .empty
  wait := none
  held := .empty
  core := ⟨w.val / 40, by omega⟩
  entry := 0
  restarts := []
  faultCause := 0
  faultCount := 0
  faultPc := 0
  faultAddr := 0
  action := true
  restartMax := 3
  budget := 400000
  issued := 0
  dramBase := 0
  dramLen := 0
  run := 0
  restartAt := none
  actDue := false
  flight := .none
  tickets := []
  done := []
  launched := false
  launches := 0

/-- A core in service with an empty store queue. DESIGN CHOICE: no worker has held the quantum, and the search begins with the
lowest index (R75; log entry 19). -/
def CoreSt.init : CoreSt := ⟨Vector.replicate 4 none, Vector.replicate 4 159, true, false, false, []⟩

/-- A tick domain at its reset values (R61, R70). -/
def Tick.init (now : Nat) : Tick := ⟨false, 100, 0, now, 100, 0xFFFFFFFFFFFFFFFF, 0, false⟩

/-- Clamp reports with nothing in them. -/
def ClampSt.init : ClampSt := ⟨[], 0, [], 0, false, 0⟩

/-- The channel map entry of a channel without one (R165). -/
def ChanMap.missing : ChanMap := ⟨none, 2, 0, 5, 100⟩

/-- Folio state of a module with no folio: both slots EMPTY (log entry 9). -/
def FolioSt.init : FolioSt where
  imgA := []
  imgB := []
  lenA := 0
  lenB := 0
  stA := .empty
  stB := .empty
  active := false
  activateStart := false
  fallback := false
  noFolio := true
  verA := 0
  verB := 0
  lastCmd := 0
  result := 0
  stageLen := 0
  verified := none
  busy := .none
  codeLen := 0
  runVer := 0
  fieldLo := Vector.replicate 9 0
  setReason := 0
  pendingFields := []
  submitted := 0
  redo := []
  clamp := ClampSt.init
  chan := Vector.replicate 64 ChanMap.missing

/-- A ribbon at reset. -/
def Ribbon.init : Ribbon := ⟨0, 0, 0, 0, none, false⟩

/-- The recorder at a cold start (R447). -/
def RecorderSt.init (nonce : DWord) : RecorderSt where
  queue := []
  ring := []
  durable := []
  tornSlots := 0
  bank := []
  bankNext := 1
  buckets := []
  keepFull := false
  durFail := false
  ringFail := false
  suppressed := 0
  queueLost := 0
  lostNow := 0
  torn := 0
  defLimit := 0x00002008
  recCan := 0x000007F0
  limits := Vector.replicate 64 0
  clrResult := 0
  clrNonce := nonce
  clrMsg := Vector.replicate 8 0
  ribbons := Vector.replicate 4 Ribbon.init

/-- Memory at a cold start: nothing initialised, nothing trained (R458, R464). -/
def MemSt.init : MemSt where
  dram := []
  poison := []
  initPos := 0
  initDone := false
  untrusted := []
  trained := false
  dramOut := false
  tables := []
  badTable := []
  badScratch := []
  eccCorr := 0
  eccUncorr := 0
  sramCorr := 0
  sramUncorr := 0
  tagFail := 0
  hostPoison := 0
  lastUe := 0
  lastUeSeq := 0
  scrubPos := 0
  scrubPasses := 0
  zeroBase := 0
  zeroLen := 0
  zeroing := none
  memResult := 0
  recRing := 512
  archive := 1024
  mramCorr := 0
  mramDiscarded := 0

/-- A hop of which nothing is known. -/
def HopSt.init : HopSt :=
  ⟨none, [], none, false, false, 0, false, none, false, false, false, false, 0, 0, 0, false, [], 0, 1, 0, 0, false, 0, [], none⟩

/-- No sewing. -/
def SewSt.init : SewSt := ⟨.idle, 0, 0, 0, none, [], [], [], [], none, [], 0, 0, 0, none⟩

/-- The node firmware update idle. -/
def NfwSt.init : NfwSt := ⟨0, 0, [], 0, 0, false, 0, [], [], [], [], [], 0⟩

/-- A region engine after a cold start: OPEN (R343). RE_AUX names no input (log entry 9). -/
def Engine.init : Engine where
  state := .opened
  cause := .none
  coilN := false
  coilP := false
  coilS := false
  isolates := none
  peerFailed := []
  step := none
  nextTicket := 1
  welded := false
  weldUnconf := false
  live := false
  viol := 0
  persist := Vector.replicate 6 0
  raised := 0
  e := 0
  lastHead := none
  detailStep := 0
  detailCause := 0
  detailTicket := 0
  tau := 0
  dv0 := 0
  dv := 0
  pre := none
  weld := none
  openLimit := 0
  negOffAt := none
  circEnd := none
  autoOffAt := none
  auxNegAt := none
  auxPosAt := none
  confirm := none
  auxCfg := 0x00000FFF
  zcCtrl := 0
  zcImage := Vector.replicate 18 0
  verdicts := 0
  weldFails := 0
  passed := []
  graceEnd := none
  closedAt := none
  wasFrom := 0
  wasUntil := 0

/-- A region after a cold start of a factory-fresh module: no map (log entry 9). -/
def RegionSt.init : RegionSt where
  map := none
  copyA := none
  copyB := none
  selB := false
  keySel := false
  newKey := none
  rekeyDue := false
  rekeying := false
  flipDue := false
  chan := 0
  announce := none
  badRun := 0
  bypass := none
  bypassFrom := 0
  bypassRun := 0
  antDelay := 0
  txPwr := 0x00000A06
  noEcho := 0
  badFrames := 0
  micFail := 0
  replay := 0
  retries := 0
  absents := 0
  alarms := 0
  chanSwitches := 0
  alarmLast := 0
  dualRun := 0
  fc := 0
  rxStamp := NetTime0
  frame := none
  spare := none
  spareAt := 0
  spareTried := []
  segAt := 0
  segLeft := 0
  reachDue := none
  rangeNext := 2
  ranged := false
  chal := none
  chalDue := []
  chalNext := 2
  chalAt := 0
  hops := Vector.replicate 18 HopSt.init
  tallyAt := 0
  broadcastTag := 1
  held := []
  complete := []
  closedAt := 0
  closeUs := 0
  lastSweep := 0
  incRun := 0
  incomplete := 0
  hushViol := 0
  periodShort := false
  fitE := 0
  fitA := 0
  events := []
  gone := []
  ordHead := 0
  ordArg0 := 0
  orders := []
  outstanding := []
  lastOrder := 0
  ordResult := 0
  lost := 0
  queueFull := 0
  captures := []
  capNum := 0
  capDropped := 0
  capLast := 0
  capSlot := 0
  streaming := false
  streamKept := false
  streamStart := 0
  streamEnd := 0
  streamSamples := 0
  nfw := NfwSt.init
  watchInt := 60
  watchSweep := 0
  sew := SewSt.init
  re := Engine.init

/-- Sweeps and archive at a cold start: 5 cycles of 50 Hz for the 100 ms default (R48, R177). -/
def SweepSt.init : SweepSt where
  n := 5
  minN := 1
  cur := 131072
  nextNum := 131072
  marks := ⟨(Vector.replicate 8 0).set 0 131072, 1⟩
  nextCycle := 0
  frac := 0
  hush := 500
  fracNext := []
  hushNext := []
  regNext := []
  fe := 1
  pack := none
  packAt := 0
  packs := []
  adapt := true
  effDecim := 1
  newest := 0
  oldest := 0
  ack := 0
  lost := 0
  lostAt := 0
  archDone := 0
  archMap := 0
  capNext := 0
  shown := []

/-- A switch channel after a cold start: OFF (R348). -/
def ChanSt.init : ChanSt where
  cmd := 0
  duty := 0
  drive := 0
  cls := 0
  hz := 0
  applied := 0
  pullEnd := 0
  since := 0
  attempt := none
  attempts := 0
  pauseEnd := none
  retryDue := false
  latched := false
  dtHold := false
  dtSince := 0
  dtCut := none
  holdLong := false
  openLoad := false
  extDriven := false
  opt := 0x00000010
  flags := 0
  ocCount := 0
  dtCount := 0

/-- The switch bank after a cold start. -/
def BankSt.init : BankSt where
  ch := Vector.replicate 64 ChanSt.init
  supV := Vector.replicate 4 0
  supUv := Vector.replicate 4 false
  keeperExpired := false
  expiryDue := none
  holding := false
  lastRefresh := 0
  severOnHeld := false
  lastCh := 0
  lastStatus := 0

/-- The sever line high. -/
def SeverSt.init : SeverSt := ⟨false, false, false, false, false, 0, 0, 0, false, 0, 0, false⟩

/-- A CAN controller at reset: DISABLED, timings of CAN_NOM 2 and CAN_DATA 2 (R177, R393, R411). -/
def CanSt.init : CanSt where
  state := .disabled
  mode := 1
  modeNow := 1
  wakeSel := false
  autoRecover := true
  lec := 0
  tec := 0
  recCnt := 0
  btNom := 0x0F9F7E00
  btData := 0x89091C00
  tdcv := 0
  tdco := 30
  cntBase := 0
  errStuff := 0
  errForm := 0
  errAck := 0
  errBit := 0
  errCrc := 0
  busOffCnt := 0
  rxReject := 0
  rxLost := 0
  txDone := 0
  txDisplaced := 0
  clashEvict := 0
  wakeId := 0
  wakeMask := 0x1FFFFFFF
  wakeCfg := 0
  wakeLo := 0
  wakeHi := 0
  clash := []
  fltId := Vector.replicate 64 0
  fltMask := Vector.replicate 64 0x1FFFFFFF
  fltBuf := Vector.ofFn fun f => if f.val = 0 then 0 else 1
  bufCfg := Vector.ofFn fun k => if k.val = 0 then 0x00000800 else 0
  lostFlag := Vector.replicate 64 false
  rx := []
  tx := []
  inTx := none
  pinned := none
  busy := false
  esi := false
  catching := true
  shown := []

/-- The twin block at a cold start: role undecided, no peer (log entry 9). -/
def TwinSt.init (sideB : Bool) : TwinSt where
  role := .undecided
  sideB := sideB
  present := false
  driveEn := false
  statesMatch := false
  folioDiff := false
  linkLost := false
  hbFault := false
  dualLead := false
  inService := false
  holdsClosed := false
  mismatch := 0
  matchRun := 0
  afterXfer := false
  xferBusy := false
  kibDone := 0
  kibTotal := 0
  lastCmd := 0
  result := 0
  peer := 0
  admitLo := 0
  admitHi := 0
  takeovers := 0
  yields := 0
  divergences := 0
  transfers := 0
  hbMissed := 0
  gcmFail := 0
  etype := 0x88B5
  etypeNow := 0x88B5
  peerRole := 0
  peerStatus := 0
  peerSideB := false
  peerHash := 0
  peerVer := 0
  peerPub := []
  hbAt := 0
  edgeAt := 0
  linkLostAt := 0
  lostAt := none
  hbLevel := false
  key := []
  session := false
  idOwn := 0
  idPeer := 0
  ctrOut := 0
  ctrIn := 0
  attaching := false
  digOwn := []
  digPeer := []
  cmpOwn := none
  cmpPeer := none
  verdicts := 0
  linkHold := 10
  rejoin := false
  xferTimes := []
  retryAt := none
  grant := none
  thenRestart := none
  thenDetach := false
  detached := false
  estWait := []
  capKey := none
  mail := []
  peerMail := []
  xferStep := 0
  joinedXfer := false
  xferTail := []
  xferBytes := 0
  peerMaps := []
  divRun := 0
  timeAt := 0
  out := []
  wire := []

/-- Power right after a cold start. -/
def PowerSt.init : PowerSt where
  state := .running
  cause := 0
  adopted := false
  origin := 0
  workersReady := false
  hostReady := false
  integrationStarted := false
  brownouts := 0
  logicA := true
  logicB := false
  warnAt := 0
  result := 0
  grace := 2000
  wakeDin := 0
  wakeGrid := true
  wakeRegion := true
  wakeSource := 0
  wakeIndex := 0
  sleepAt := none
  burst := false
  burstEnd := none
  burstAt := 0
  burstCount := 0

/-- Temperature and self-test at a cold start. -/
def ThermSt.init : ThermSt where
  tripped := false
  request := false
  enforced := false
  graceEnd := none
  lastShutdown := false
  shutdowns := 0
  throttles := 0
  lastBoard := 0x8000
  lastDie := 0x8000
  measEnd := 0
  bistPart := 0
  bistResult := 0
  bistRows := 0
  bistSig := 0
  bistBusy := false
  bistOut := 0
  repairs := []

/-- The wheel at a cold start: FREE at the nominal length (R37, R70). DESIGN CHOICE: the cycle count is the table's 0 and the time
of the last zero is network time at the cold start, 65,536 s (R55), where the table gives 0 and R45 would give the mark and
131,072 (log entry 34). -/
def Wheel.init : Wheel where
  state := .free
  count := 0
  cycStart := 0
  cycLen := 20000000
  past := []
  meas := 20000000
  err := 0
  acceptRun := 0
  nearRun := 0
  rejects := 0
  prev := none
  ref := none
  lastAccept := 0
  holdAt := 0
  nominal := false
  nominalHeld := none
  followsTwin := false
  marks := Marks.zero
  zc := ⟨65536, 0, 0⟩
  msgLo := 0
  msgHi := 0

/-- Network time at a cold start: the stored value (0, log entry 9) plus 65,536 s, UNSET (R55). -/
def Time.init : Time where
  clk := 0
  slewDone := 0
  slewLeft := 0
  slewing := false
  off := 65536000000000
  epoch := 0
  state := .unset
  steps := 0
  lastOffset := 0
  utc := 0
  good := 0
  setLo := 0
  setHi := 0
  marks := Vector.replicate 8 0
  markNext := 0
  storedAt := 0

/-- The module right after a cold start of a factory-fresh HN-4016 with SIDE strap A (log entries 8, 9). -/
def State.reset : State where
  pending := []
  free := 2
  nReg := 16
  cfg := []
  power := PowerSt.init
  therm := ThermSt.init
  arb := ⟨0, Marks.zero, false⟩
  wheel := Wheel.init
  time := Time.init
  ticks := Vector.replicate 4 (Tick.init 0)
  canLatch := ⟨0, 0, Vector.replicate 4 0⟩
  wk := Vector.ofFn WorkerSt.init
  cores := Vector.replicate 4 CoreSt.init
  quantum := 16
  slots := Vector.replicate 64 none
  comb := ⟨[], false⟩
  crypto := []
  region := Vector.replicate 16 RegionSt.init
  sweep := SweepSt.init
  air := []
  bank := BankSt.init
  sever := SeverSt.init
  din := 0
  folio := FolioSt.init
  recd := RecorderSt.init (Config.draw 0)
  mem := MemSt.init
  twin := TwinSt.init false
  can := Vector.replicate 4 CanSt.init
  snaps := []
  est := EstSt.init
  net := NetSt.init
  ident := IdentSt.init (Config.draw 1)
  qp := Vector.replicate 8 QpSt.init

end Sys2Proof.Machine
end

