-- ==== Sys2Proof/Machine/Settings.lean ====
section
/-! DEFINITION. The catalogue of the settings fields (R177) and the settings in force. -/
namespace Sys2Proof.Machine

/-- A row of the catalogue: type code (R172), default, lower and upper bound, step, and Live: 0 N, 1 Y, 2 Held. -/
abbrev CatRow := Nat × Int × Int × Int × Nat × Nat

/-- The rows of group 0, module (R177). -/
def catModule : Nat → Option CatRow
  | 0x01 => some (4, 0, 0, 2, 1, 1)
  | 0x02 => some (4, 0, 0, 1, 1, 2)
  | 0x03 => some (5, 0, 0, 1, 1, 1)
  | 0x04 => some (2, 0, -8388608, 8388607, 1, 1)
  | 0x05 => some (1, 500, 0, 10000, 1, 1)
  | 0x06 => some (4, 3, 0, 3, 1, 1)
  | 0x07 => some (1, 16, 1, 256, 1, 1)
  | _ => none

/-- The rows of group 1, sweeps and estimation (R177). -/
def catSweep : Nat → Option CatRow
  | 0x01 => some (1, 100, 50, 1000, 10, 0)
  | 0x02 => some (1, 0, 0, 16777215, 1, 1)
  | 0x03 => some (1, 500, 200, 2000, 1, 1)
  | 0x04 => some (1, 20000, 1000, 500000, 1, 1)
  | 0x05 => some (1, 2000, 100, 50000, 1, 1)
  | 0x06 => some (1, 1800, 300, 14400, 1, 1)
  | 0x07 => some (1, 5000, 100, 100000, 1, 1)
  | 0x08 => some (1, 5000, 2000, 9000, 1, 1)
  | 0x09 => some (3, 0x2000, 0, 0x10000, 1, 1)
  | 0x0A => some (1, 25000, 15000, 40000, 1, 1)
  | 0x0B => some (1, 600, 60, 86400, 1, 1)
  | 0x0C => some (1, 2000, 0, 2000, 1, 1)
  | _ => none

/-- The rows of group 2, one set per region (R177). -/
def catRegion : Nat → Option CatRow
  | 0x01 => some (1, 42500, 20000, 50000, 1, 1)
  | 0x02 => some (1, 20000, 10000, 40000, 1, 1)
  | 0x03 => some (2, 6000, 2000, 9000, 1, 1)
  | 0x04 => some (2, -2000, -4000, 2000, 1, 1)
  | 0x05 => some (1, 500000, 10000, 2000000, 1, 1)
  | 0x06 => some (1, 320000, 10000, 2000000, 1, 1)
  | 0x07 => some (1, 2000000, 1000, 100000000, 1, 1)
  | 0x08 => some (1, 2, 1, 10, 1, 1)
  | 0x09 => some (1, 3, 1, 10, 1, 1)
  | 0x0A => some (1, 100, 20, 1000, 1, 1)
  | 0x0B => some (1, 50, 5, 10000, 1, 1)
  | 0x0C => some (1, 2000, 10, 30000, 1, 1)
  | 0x0D => some (1, 10000, 1000, 50000, 1, 1)
  | 0x0E => some (1, 10000, 100, 60000, 1, 1)
  | 0x0F => some (1, 5000, 500, 50000, 1, 1)
  | 0x10 => some (1, 50000, 1000, 500000, 1, 1)
  | 0x11 => some (1, 5000, 100, 100000, 1, 1)
  | 0x12 => some (1, 2000, 100, 30000, 1, 1)
  | 0x13 => some (1, 50000, 1000, 200000, 1, 1)
  | 0x14 => some (1, 500, 50, 5000, 1, 1)
  | _ => none

/-- The rows of group 4, the DSM channels; FAST_TRIP belongs to DSM0 alone (R177). -/
def catDsm (n : Nat) : Nat → Option CatRow
  | 0x01 => some (4, (if n = 0 then 1 else if n = 3 then 0 else 2), 0, 2, 1, 0)
  | 0x02 => some (3, 0x10000, -2147483648, 2147483647, 1, 1)
  | 0x03 => some (2, 0, -2147483648, 2147483647, 1, 1)
  | 0x04 => if n = 0 then some (1, 1000000, 1000, 2000000, 1, 1) else none
  | _ => none

/-- The rows of group 5, the CAN controllers (R177). -/
def catCan : Nat → Option CatRow
  | 0x01 => some (4, 2, 0, 3, 1, 0)
  | 0x02 => some (4, 2, 0, 4, 1, 0)
  | 0x03 => some (5, 0, 0, 1, 1, 0)
  | _ => none

/-- The rows of groups 3, 6 and 7 by identifier (R177). -/
def catOther : Nat → Option CatRow
  | 0x3001 => some (1, 1000, 200, 5000, 1, 1)
  | 0x3002 => some (1, 4000, 500, 20000, 1, 1)
  | 0x6001 => some (1, 512, 64, 2048, 1, 0)
  | 0x6002 => some (1, 1024, 0, 3136, 1, 0)
  | 0x6003 => some (1, 1, 1, 100, 1, 1)
  | 0x7001 => some (2, 10500, 7000, 12000, 1, 1)
  | 0x7002 => some (1, 500, 200, 2000, 1, 1)
  | 0x7003 => some (4, 0, 0, 3, 1, 1)
  | 0x7004 => some (1, 10, 1, 60, 1, 1)
  | _ => none

/-- GROUP, INDEX and ITEM of an identifier (R172). -/
def idGroup (id : Nat) : Nat := id / 4096 % 16
def idIndex (id : Nat) : Nat := id / 256 % 16
def idItem (id : Nat) : Nat := id % 256

/-- The catalogue row of an identifier, whatever the variant (R173 check 2, R177). -/
def catalogue (id : Nat) : Option CatRow :=
  match idGroup id with
  | 0 => if idIndex id = 0 then catModule (idItem id) else none
  | 1 => if idIndex id = 0 then catSweep (idItem id) else none
  | 2 => catRegion (idItem id)
  | 4 => if idIndex id < 4 then catDsm (idIndex id) (idItem id) else none
  | 5 => if idIndex id < 4 then catCan (idItem id) else none
  | _ => catOther id

/-- The default of a field as a word, 0 for an identifier outside the catalogue. -/
def settingDefault (id : Nat) : Word :=
  match catalogue id with
  | some (_, d, _) => BitVec.ofInt 32 d
  | none => 0

/-- Look an identifier up in a settings list. -/
def cfgFind (id : Nat) : List (Nat × Word) → Option Word
  | [] => none
  | (k, v) :: t => if k = id then some v else cfgFind id t

/-- Put a value into a settings list in the place of the earlier one. -/
def cfgPut (id : Nat) (v : Word) : List (Nat × Word) → List (Nat × Word)
  | [] => [(id, v)]
  | (k, x) :: t => if k = id then (id, v) :: t else (k, x) :: cfgPut id v t

/-- The value of a settings field in force (R177). -/
def cfgGet (s : State) (id : Nat) : Word := (cfgFind id s.cfg).getD (settingDefault id)

/-- A settings field in force as a number, and as a signed number. -/
def cfgNat (s : State) (id : Nat) : Nat := (cfgGet s id).toNat
def cfgInt (s : State) (id : Nat) : Int := (cfgGet s id).toInt

/-- Set a settings field in force. -/
def cfgSet (s : State) (id : Nat) (v : Word) : State := { s with cfg := cfgPut id v s.cfg }

/-- The identifier of item `i` of region `r` (group 2). -/
def regId (r : Nat) (i : Nat) : Nat := 0x2000 + 256 * r + i

/-- Number of switch channels of the variant (R2). -/
def nChan (s : State) : Nat := if s.nReg = 16 then 64 else if s.nReg = 8 then 40 else 24

/-- The checks 5-8 of R173 on a value of a known field: the applied word and the reason, 0 when it passes as written.
`ty` is the type given in the field. -/
def checkValue (row : CatRow) (ty : Nat) (v : Word) : Word × Byte :=
  match row with
  | (t, d, lo, hi, step, _) =>
    let x : Int := if t = 2 ∨ t = 3 then v.toInt else v.toNat
    if ty ≠ t then (BitVec.ofInt 32 d, 0x06)
    else if (t = 4 ∨ t = 5) ∧ (x < lo ∨ hi < x) then (BitVec.ofInt 32 d, 0x05)
    else if x < lo then (BitVec.ofInt 32 lo, 0x02)
    else if hi < x then (BitVec.ofInt 32 hi, 0x03)
    else if x % step ≠ 0 then (BitVec.ofInt 32 ((2 * x + step) / (2 * step) * step), 0x04)
    else (v, 0)

end Sys2Proof.Machine
end

