-- ==== Sys2Proof/Machine/Ops.lean ====
section
/-! DEFINITION. The named operations over memory, registers, time, events, the recorder's intake and the clamp report
that every meaning is built from. -/
namespace Sys2Proof.Machine

/-! ## Byte memory -/

/-- The byte at an address: 0 where nothing is listed (R458). -/
def memGet : Mem → Nat → Byte
  | [], _ => 0
  | (k, v) :: t, a => if k = a then v else memGet t a

/-- Put a byte at an address, keeping the canonical form. -/
def memSet : Mem → Nat → Byte → Mem
  | [], a, v => if v = 0 then [] else [(a, v)]
  | (k, x) :: t, a, v =>
    if a < k then (if v = 0 then (k, x) :: t else (a, v) :: (k, x) :: t)
    else if a = k then (if v = 0 then t else (a, v) :: t)
    else (k, x) :: memSet t a v

/-- The canonical form: addresses strictly rising above `lo`, no byte 0 listed. -/
def memWfFrom : Nat → Mem → Bool
  | _, [] => true
  | lo, (k, v) :: t => decide (lo ≤ k) && decide (v ≠ 0) && memWfFrom (k + 1) t

/-- The canonical form of a memory. -/
def memWf (m : Mem) : Bool := memWfFrom 0 m

/-- `n` bytes from an address. -/
def memRead (m : Mem) (a n : Nat) : List Byte := (List.range n).map fun i => memGet m (a + i)

/-- Write bytes from an address upward. -/
def memWrite : Mem → Nat → List Byte → Mem
  | m, _, [] => m
  | m, a, b :: t => memWrite (memSet m a b) (a + 1) t

/-- A little-endian number of `n` bytes (R12). -/
def memNat (m : Mem) (a n : Nat) : Nat := ofBytesLE (memRead m a n)

/-- Clear `n` bytes from an address: drop what is listed there. -/
def memClear (m : Mem) (a n : Nat) : Mem := m.filter fun c => decide (c.1 < a) || decide (a + n ≤ c.1)

/-! ## Parts of the state -/

def wkOf (s : State) (w : Worker) : WorkerSt := s.wk[w]
def setWk (s : State) (w : Worker) (k : WorkerSt) : State := { s with wk := s.wk.set w k }
def modWk (s : State) (w : Worker) (f : WorkerSt → WorkerSt) : State := setWk s w (f (wkOf s w))

def rgOf (s : State) (r : Region) : RegionSt := s.region[r]
def setRg (s : State) (r : Region) (x : RegionSt) : State := { s with region := s.region.set r x }
def modRg (s : State) (r : Region) (f : RegionSt → RegionSt) : State := setRg s r (f (rgOf s r))
def modRe (s : State) (r : Region) (f : Engine → Engine) : State := modRg s r fun x => { x with re := f x.re }

def chOf (s : State) (c : Chan) : ChanSt := s.bank.ch[c]
def setCh (s : State) (c : Chan) (x : ChanSt) : State := { s with bank := { s.bank with ch := s.bank.ch.set c x } }
def modCh (s : State) (c : Chan) (f : ChanSt → ChanSt) : State := setCh s c (f (chOf s c))
def mapOf (s : State) (c : Chan) : ChanMap := s.folio.chan[c]

def coreOf (s : State) (k : Fin 4) : CoreSt := s.cores[k]
def modCore (s : State) (k : Fin 4) (f : CoreSt → CoreSt) : State := { s with cores := s.cores.set k (f (coreOf s k)) }

def canOf (s : State) (n : Fin 4) : CanSt := s.can[n]
def modCan (s : State) (n : Fin 4) (f : CanSt → CanSt) : State := { s with can := s.can.set n (f (canOf s n)) }

def modTwin (s : State) (f : TwinSt → TwinSt) : State := { s with twin := f s.twin }
def modFolio (s : State) (f : FolioSt → FolioSt) : State := { s with folio := f s.folio }
def modRec (s : State) (f : RecorderSt → RecorderSt) : State := { s with recd := f s.recd }
def modMem (s : State) (f : MemSt → MemSt) : State := { s with mem := f s.mem }

/-- Frames that go ahead of every other queued frame (R372). -/
def goesAhead : TwinOut → Bool
  | .heartbeat _ | .openOrder _ _ => true
  | _ => false

/-- A frame joins the queue of the twin link (R372). -/
def twinPut (l : List TwinOut) (x : TwinOut) : List TwinOut :=
  if goesAhead x then (l.filter goesAhead) ++ x :: l.filter fun y => !(goesAhead y) else l ++ [x]

/-- A frame to the twin. -/
def twinSend (s : State) (x : TwinOut) : State := modTwin s fun t => { t with out := twinPut t.out x }

/-- The next free value's index, and the counter advanced past it. -/
def drawFree (s : State) : Nat × State := (s.free, { s with free := s.free + 1 })

/-! ## Partitions (R500, R504) -/

/-- The partition of a code is under test. -/
def underTest (s : State) (p : Nat) : Bool := s.therm.bistBusy && decide (s.therm.bistPart.val = p)

/-- The partition does not serve: it is out of service, or under test. -/
def partDown (s : State) (p : Nat) : Bool := s.therm.bistOut.getLsbD p || underTest s p

/-- Accesses to DRAM wait: the memory controller is out of service, or under test with DRAM in self-refresh (R463, R500). -/
def dramHeld (s : State) : Bool := s.mem.dramOut || underTest s 7

/-! ## Variants, roles, scopes -/

/-- The region exists in the variant (R2, R3). -/
def hasRegion (s : State) (r : Region) : Bool := decide (r.val < s.nReg)
def hasChan (s : State) (c : Chan) : Bool := decide (c.val < nChan s)

/-- The module is lead (MOD_STATUS.LEAD): role ALONE or LEAD (R365). -/
def isLead (s : State) : Bool := s.twin.role == .alone || s.twin.role == .lead
/-- The region radios and buses transmit (R365). -/
def transmits (s : State) : Bool := isLead s
/-- Role YIELDED (R365). -/
def isYielded (s : State) : Bool := s.twin.role == .yielded
/-- The outputs are driven: ALONE, MIRROR, LEAD (R365). -/
def drives (s : State) : Bool := s.twin.driveEn

/-- The numbers of the roles (R365); before the decision ROLE reads 0. -/
def roleNum : Role → Nat
  | .undecided => 0
  | .alone => 0
  | .joining => 1
  | .mirror => 2
  | .lead => 3
  | .yielded => 4
  | .standby => 5

/-- The twin is a healthy mirror (R366). -/
def healthyMirror (s : State) : Bool :=
  s.twin.present && s.twin.peerRole == 2 && !(s.twin.peerStatus.getLsbD 3)

/-- The levels of a scope (R81). -/
def scopeLevel (x : Half) : Nat := x.toNat / 8192
def scopeIndex (x : Half) : Nat := x.toNat % 8192
def regionScope (r : Region) : Half := BitVec.ofNat 16 (0x4000 + r.val)
def chipScope : Half := 0x6000
def pairScope : Half := 0x8000

/-- Scope covers region `r` (R83). -/
def coversRegion (sc : Half) (r : Nat) : Bool :=
  decide (3 ≤ scopeLevel sc ∧ scopeLevel sc ≤ 4) || (decide (scopeLevel sc = 2) && decide (scopeIndex sc = r))
/-- Chip or pair scope (R83). -/
def chipOrPair (sc : Half) : Bool := decide (scopeLevel sc = 3 ∨ scopeLevel sc = 4)
def isPair (sc : Half) : Bool := decide (scopeLevel sc = 4)

/-! ## Time -/

/-- The stepless time base in ns: 10 ns clocks and the slew applied (R56, R61). -/
def nowNs (s : State) : Nat := (((s.time.clk : Int) * 10000 + s.time.slewDone) / 1000).toNat

/-- The time of the 10 ns clocks alone, which neither steps nor slews of network time move (R66, R131). -/
def clockNs (s : State) : Nat := 10 * s.time.clk

/-- Network time as a count of ns, without the epoch (R50). -/
def netNs (s : State) : Nat := ((nowNs s : Int) + s.time.off).toNat

/-- A count of ns as a network time stamp of the current epoch (R49, R50). -/
def toNet (s : State) (ns : Nat) : NetTime :=
  ⟨BitVec.ofNat 48 (ns / 1000000000), BitVec.ofNat 32 (ns % 1000000000), s.time.epoch⟩

/-- Network time now (R49). -/
def netNow (s : State) : NetTime := toNet s (netNs s)

/-- The ns that a network time stamp stands for, without its epoch. -/
def netToNs (t : NetTime) : Nat := t.sec.toNat * 1000000000 + t.ns.toNat

/-- The nominal cycle length (R37). -/
def nominalLen (s : State) : Nat := if s.wheel.nominal then 16666667 else 20000000

/-- The fraction of the current cycle, in 1/2^24 (R46). It does not pass the cycle's end before the boundary is taken. -/
def wheelFrac (s : State) : Nat := min ((nowNs s - s.wheel.cycStart) * 16777216 / s.wheel.cycLen) 16777215

/-- The phase stamp now (R46). -/
def phaseNow (s : State) : DWord := BitVec.ofNat 64 (s.wheel.count.toNat * 16777216 + wheelFrac s)

/-- The numbers of the wheel states (R37). -/
def wheelNum : WheelState → Nat
  | .free => 0
  | .acquire => 1
  | .locked => 2
  | .hold => 3

/-- The numbers of the network time states (R54). -/
def timeNum : TimeState → Nat
  | .unset => 0
  | .free => 1
  | .tracking => 2
  | .sync => 3

/-- Increments of a tick domain from its base until now (R61). -/
def tickCount (s : State) (n : Fin 4) : DWord :=
  let t := s.ticks[n]
  let p := nowNs s / 10 - t.since
  if t.en then (if p < t.first then t.base else t.base + 1 + BitVec.ofNat 64 ((p - t.first) / t.div)) else t.base

/-- The 10 MHz counter of controller `n` (R63). -/
def canCounter (s : State) (n : Fin 4) : Word := (canOf s n).cntBase + BitVec.ofNat 32 (s.time.clk / 10)

/-! ## Events and the recorder's intake -/

/-- The code of a module event (R527). -/
def eventCode (level : Nat) (keep : Bool) (n e : Nat) : Half :=
  BitVec.ofNat 16 (level * 0x4000 + ofBool keep * 0x1000 + n * 0x40 + e)

/-- Write one of eight rotated mark words (R31). -/
def Marks.put (m : Marks) (v : DWord) : Marks := ⟨m.words.set m.next v, m.next + 1⟩

/-- The word of the eight rotated ones that was written last. -/
def Marks.last (m : Marks) : DWord := m.words[m.next - 1]

/-- MRAM_WEAR: the sequence number over 524,288, rounded up (R453). -/
def mramWear (s : State) : Nat := (s.arb.seq.toNat + 524287) / 524288

/-- Give the next sequence number, and write the mark when its low 16 bits are zero (R27, R31). -/
def number (s : State) : State :=
  let q := s.arb.seq + 1
  { s with arb := { s.arb with seq := q, marks := if q.toNat % 65536 = 0 then s.arb.marks.put q else s.arb.marks } }

/-- A code with bits [13:12] zero: the key of its bucket (R438). -/
def bucketKey (code : Half) : Half := code &&& 0xCFFF

/-- DEPTH and REFILL of a code (R438): the limit entry that matches, or REC_DEF_LIMIT. -/
def limitOf (c : RecorderSt) (code : Half) : Nat × Nat :=
  match c.limits.toList.find? fun e => decide (bitsOf e 31 16 ≠ 0) && decide (bucketKey (BitVec.ofNat 16 (bitsOf e 31 16)) = bucketKey code) with
  | some e => (bitsOf e 15 8, bitsOf e 7 0)
  | none => (bitsOf c.defLimit 15 8, bitsOf c.defLimit 7 0)

/-- Refills that fall between two times, on the grid of 1/REFILL s (R438, R439). -/
def refillsBetween (refill a b : Nat) : Nat := b * refill / 1000000000 - a * refill / 1000000000

/-- A bucket with the refills due by `now` counted (R438, R446). -/
def refillBucket (c : RecorderSt) (now : Nat) (b : Bucket) : Bucket :=
  let (depth, refill) := limitOf c b.code
  { b with tokens := min depth (b.tokens + refillsBetween refill b.since now), since := now }

/-- The bucket of a code, full when the code has none yet. -/
def bucketOf (c : RecorderSt) (now : Nat) (code : Half) : Bucket :=
  match c.buckets.find? fun b => decide (b.code = bucketKey code) with
  | some b => refillBucket c now b
  | none => ⟨bucketKey code, (limitOf c code).1, now, 0, 0, 0⟩

/-- Put a bucket back. -/
def putBucket (c : RecorderSt) (b : Bucket) : RecorderSt :=
  { c with buckets := b :: c.buckets.filter fun x => decide (x.code ≠ b.code) }

/-- The recorder is degraded (R444). -/
def recDegraded (c : RecorderSt) : Bool := c.ringFail || c.durFail

/-- Write a record to the last-word bank, entries 1-15, the oldest overwritten (R444). -/
def bankPut (c : RecorderSt) (r : Rec) : RecorderSt :=
  if c.bank.length < 16 then { c with bank := c.bank ++ [r], bankNext := if c.bank.length + 1 < 16 then c.bank.length + 1 else 1 }
  else { c with bank := c.bank.set c.bankNext r, bankNext := if c.bankNext + 1 < 16 then c.bankNext + 1 else 1 }

/-- Take a record into the on-chip queue of 4,096; a full queue loses it, and serves as the ring after a ring fault
(R436, R444). -/
def queuePut (c : RecorderSt) (r : Rec) : RecorderSt :=
  if c.queue.length < 4096 then { c with queue := c.queue ++ [r] }
  else if c.ringFail then { c with queue := c.queue.drop 1 ++ [r] }
  else { c with queueLost := inc16 c.queueLost, lostNow := c.lostNow + 1 }

/-- The keep class bit of a code (R434). -/
def isKeep (code : Half) : Bool := code.getLsbD 12
def levelOf (code : Half) : Nat := code.toNat / 16384

/-- The record enters the recorder without a token (R437, R438). While the recorder is degraded, a keep-class record
of this module also goes to the last-word bank and to the twin (R437, R444). -/
def recEnter (s : State) (r : Rec) : State :=
  let deg := recDegraded s.recd && isKeep r.code
  let s := modRec s fun c => queuePut (if deg then bankPut c r else c) r
  if deg && !(r.code.getLsbD 13) && s.twin.present then twinSend s (.record ⟨r.code, r.scope, r.args, r.seq⟩) else s

/-- Whether a record of this code would pass its rate limit now (R438). -/
def tokenHeld (s : State) (code : Half) : Bool :=
  decide ((limitOf s.recd code).1 = 0) || decide (0 < (bucketOf s.recd (nowNs s) code).tokens)

/-- A marked record passes or is suppressed by its code's bucket (R438). -/
def recPut (s : State) (r : Rec) : State :=
  let b := bucketOf s.recd (nowNs s) r.code
  if (limitOf s.recd r.code).1 = 0 then recEnter s r
  else if 0 < b.tokens then recEnter (modRec s fun c => putBucket c { b with tokens := b.tokens - 1 }) r
  else modRec s fun c =>
    let c := putBucket c { b with suppressed := inc16 b.suppressed, scope := r.scope, firstAt := if b.suppressed = 0 then nowNs s else b.firstAt }
    { c with suppressed := satInc 0xFFFFFFFF c.suppressed }

/-- The record of the event numbered last, stamped with network time (R30, R433). -/
def recOf (s : State) (code scope : Half) (args : Word) : Rec := ⟨s.arb.seq, netNow s, code, scope, args, false⟩

/-- Number an event, in the order in which the arbiter sees it, the only order of events (R15, R27-R29), and record it
when it is marked (R526). -/
def emitCode (s : State) (code scope : Half) (args : Word) (marked : Bool) : State :=
  let s := number s
  if marked then recPut s (recOf s code scope args) else s

/-- WEAR_WARN is recorded once, when MRAM_WEAR reaches 80,000,000 (R453). -/
def wearCheck (s : State) : State :=
  if 80000000 ≤ mramWear s ∧ s.arb.wearWarn = false then
    emitCode { s with arb := { s.arb with wearWarn := true } } (eventCode 2 true 27 0x0C) chipScope (word (mramWear s)) true
  else s

/-- Raise an event of source `n` (R527): level, keep class, event number, scope, arguments, whether it is recorded. -/
def emit (s : State) (n level e : Nat) (keep marked : Bool) (scope : Half) (args : Word) : State :=
  wearCheck (emitCode s (eventCode level keep n e) scope args marked)

/-! ## Worker registers -/

/-- Read a general register: g0 reads as zero (R73). -/
def gGet (k : WorkerSt) (n : GReg) : Word := if n = 0 then 0 else k.g[n]

/-- Write a general register: a write to g0 is discarded (R73). -/
def gSet (k : WorkerSt) (n : GReg) (v : Word) : WorkerSt := if n = 0 then k else { k with g := k.g.set n v }

def aGet (k : WorkerSt) (n : AReg) : DWord := k.a[n]
def aSet (k : WorkerSt) (n : AReg) (v : DWord) : WorkerSt := { k with a := k.a.set n v }

/-- Set Z and N from a value and leave the other flags (R133). -/
def flagsZN (k : WorkerSt) (v : Word) : WorkerSt := { k with sw := { k.sw with z := v == 0, n := v.msb } }

/-- Write a status to g[d] and set Z and N from it (R133). -/
def putStatus (k : WorkerSt) (d : GReg) (v : Word) : WorkerSt := flagsZN (gSet k d v) v

/-- The PC past the instruction. -/
def nextPc (k : WorkerSt) : WorkerSt := { k with pc := k.pc + 4 }

/-- The number of restarts in the current 10 s window (R92). -/
def restartsNow (s : State) (k : WorkerSt) : Nat := min 15 (k.restarts.filter fun t => decide (nowNs s < t + 10000000000)).length

/-- The status word (R101). -/
def swWord (s : State) (k : WorkerSt) : Word :=
  word (fld k.prio.toNat 30 + fld (restartsNow s k) 26 + fld (ofBool k.sw.restarted) 25 + fld (ofBool k.sw.lead) 24
    + fld (ofBool k.sw.sat) 7 + fld (ofBool k.sw.late) 6 + fld (ofBool k.sw.disc) 5 + fld (ofBool k.sw.v) 3
    + fld (ofBool k.sw.c) 2 + fld (ofBool k.sw.n) 1 + ofBool k.sw.z)

/-- The number of a worker state (R78). -/
def wkNum : WkState → Nat
  | .empty => 0
  | .stopped => 1
  | .ready => 2
  | .running => 3
  | .waiting => 4
  | .trapped => 5
  | .quiesced => 6

/-- What the worker waits on, WAITING or QUIESCED out of WAITING (R78, R98). -/
def waitOf (k : WorkerSt) : Option Wait :=
  match k.state, k.held with
  | .waiting, _ => k.wait
  | .quiesced, .waiting => k.wait
  | _, _ => none

/-- A waiting worker becomes READY and starts a new activation (R77, R93), a QUIESCED one as its migration ends (R98). -/
def makeReady (k : WorkerSt) : WorkerSt :=
  if k.state = .quiesced then { k with held := .ready, wait := none, issued := 0 }
  else { k with state := .ready, wait := none, issued := 0 }

/-- A worker is held QUIESCED, out of the state it was in: a RUNNING one gives up its cycle (R78, R98). -/
def quiesce (k : WorkerSt) : WorkerSt :=
  match k.state with
  | .empty | .quiesced => k
  | .running => { k with state := .quiesced, held := .ready }
  | x => { k with state := .quiesced, held := x }

/-- A QUIESCED worker returns to the state it was in (R78). -/
def unquiesce (k : WorkerSt) : WorkerSt := if k.state = .quiesced then { k with state := k.held } else k

/-- The worker blocks on `w` (R78): it enters WAITING, its PC past the instruction. -/
def block (k : WorkerSt) (w : Wait) : WorkerSt := { nextPc k with state := .waiting, wait := some w }

/-- A scope of the worker. -/
def scopeOf (s : State) (w : Worker) : Half := (wkOf s w).scope

/-- Apply a function of worker and state to every worker in ascending order. -/
def forWorkers (s : State) (f : Worker → State → State) : State := (List.finRange 160).foldl (fun s w => f w s) s

/-- Apply to every region in ascending order, and to every channel. -/
def forRegions (s : State) (f : Region → State → State) : State := (List.finRange 16).foldl (fun s r => f r s) s
def forChans (s : State) (f : Chan → State → State) : State := (List.finRange 64).foldl (fun s c => f c s) s

/-! ## Region events (R137) -/

/-- Deliver the first region event held after SEQ of the worker's record, if there is one (R137): the record in
scratch, the number of later ones that have left the ring to g[d], with V set when there are any. -/
def revtDeliver (s : State) (w : Worker) (d : GReg) (r : Region) (addr : Word) : Option WorkerSt :=
  let k := wkOf s w
  let off := addr.toNat % 16384
  let seq := memNat k.scratch off 8
  match (rgOf s r).events.find? fun e => decide (seq < e.seq.toNat) with
  | none => none
  | some e =>
    let lost := if seq = 0 then 0 else ((rgOf s r).gone.filter fun q => decide (seq < q.toNat)).length
    let rec' := bytesLE 8 e.seq.toNat ++ bytesLE 2 e.code.toNat ++ bytesLE 2 e.scope.toNat ++ bytesLE 4 e.args.toNat
    let k := { k with scratch := memWrite k.scratch off rec' }
    let k := putStatus k d (word lost)
    some (if lost ≠ 0 then { k with sw := { k.sw with v := true } } else k)

/-! ## Who may write, and the run-time clamp ring -/

/-- An outcome of a command. -/
abbrev Out := Host.Outcome State Fault Refusal

/-- A command that acts only while the module runs; off, stopped or restarting, it leaves the state as it is. -/
def run (s : State) (f : State → State) : Out := .next (if s.power.state = .running then f s else s)

/-- The session slot. -/
def sessOf (s : State) (k : Session) : SessSt := s.net.sess[k]
def modSess (s : State) (k : Session) (f : SessSt → SessSt) : State :=
  { s with net := { s.net with sess := s.net.sess.set k (f (sessOf s k)) } }

/-- The session is open with the OPERATOR role (R420, R430). -/
def isOperator (s : State) (k : Session) : Bool := (sessOf s k).state == .opened && (sessOf s k).operator

/-- A chip or pair worker, or an OPERATOR session (R85). -/
def chipWriter (s : State) : Writer → Bool
  | .worker w => chipOrPair (wkOf s w).scope
  | .host k => isOperator s k

/-- A pair worker, or an OPERATOR session (R85). -/
def pairWriter (s : State) : Writer → Bool
  | .worker w => isPair (wkOf s w).scope
  | .host k => isOperator s k

/-- A worker whose scope covers region `r`, or an OPERATOR session (R83, R85). -/
def regionWriter (s : State) (r : Nat) : Writer → Bool
  | .worker w => coversRegion (wkOf s w).scope r
  | .host k => isOperator s k

/-- The scope that a writer's clamp entry carries: the worker's, and chip for the host (log entry 14). -/
def writerScope (s : State) : Writer → Half
  | .worker w => (wkOf s w).scope
  | .host _ => chipScope

/-- Add an entry to the run-time ring of the latest 1,024 (R175). -/
def clampAdd (s : State) (subject given applied : Word) (scope : Half) (source reason : Byte) : State :=
  modFolio s fun f => { f with clamp := { f.clamp with
    ring := (⟨s.arb.seq, subject, given, applied, scope, source, reason⟩ :: f.clamp.ring).take 1024
    runCount := inc16 f.clamp.runCount } }

/-- The entry of a register write whose applied value differs (R14, R175). -/
def clampReg (s : State) (who : Writer) (addr : Nat) (given applied : Word) (reason : Byte) : State :=
  clampAdd s (word addr) given applied (writerScope s who) (match who with | .host _ => 3 | .worker _ => 4) reason

/-- A register field kept by a settings field: the value checked against its row and put in force, with an entry when
it was changed (R14, R173, R177). -/
def writeSetting (s : State) (who : Writer) (addr id : Nat) (given : Word) : State :=
  match catalogue id with
  | none => s
  | some row =>
    let (v, reason) := checkValue row row.1 given
    let s := cfgSet s id v
    if reason = 0 then s else clampReg s who addr given v reason

end Sys2Proof.Machine
end

