-- ==== Sys2Proof/Machine/Flags.lean ====
section
/-! DEFINITION. The flag computations of R105 and the condition codes of R119. -/
namespace Sys2Proof.Machine

/-- The flags Z, N, C, V of a result; the other bits of SW stay. -/
def putFlags (k : WorkerSt) (z n c v : Bool) : WorkerSt := { k with sw := { k.sw with z := z, n := n, c := c, v := v } }

/-- Set V alone. -/
def putV (k : WorkerSt) (v : Bool) : WorkerSt := { k with sw := { k.sw with v := v } }

/-- SAT is sticky: it is set, never cleared, by a result that saturates (R74, R105). -/
def putSat (k : WorkerSt) (sat : Bool) : WorkerSt := { k with sw := { k.sw with sat := k.sw.sat || sat } }

/-- Z and N of a 64-bit result. -/
def flagsZN64 (k : WorkerSt) (v : DWord) : WorkerSt := { k with sw := { k.sw with z := v == 0, n := v.msb } }

/-- Flags of an addition: C is the carry, V the signed wrap (R105). -/
def addFlags {w : Nat} (k : WorkerSt) (a b : BitVec w) : WorkerSt :=
  putFlags k (a + b == 0) (a + b).msb (decide (2 ^ w ≤ a.toNat + b.toNat)) (decide ((a + b).toInt ≠ a.toInt + b.toInt))

/-- Flags of a subtraction or comparison: C is set when no borrow occurs (R105). -/
def subFlags {w : Nat} (k : WorkerSt) (a b : BitVec w) : WorkerSt :=
  putFlags k (a - b == 0) (a - b).msb (decide (b.toNat ≤ a.toNat)) (decide ((a - b).toInt ≠ a.toInt - b.toInt))

/-- Flags of a product: Z, N, and V when the signed product does not fit in `w` bits; C unchanged (R105). -/
def mulFlags {w : Nat} (k : WorkerSt) (v : BitVec w) (product : Int) : WorkerSt :=
  { k with sw := { k.sw with z := v == 0, n := v.msb
                             v := decide (product < -(2 ^ (w - 1) : Nat) ∨ ((2 ^ (w - 1) : Nat) : Int) ≤ product) } }

/-- Flags of every other ALU function and immediate instruction: Z, N, with C and V cleared (R105). -/
def plainFlags (k : WorkerSt) (v : Word) : WorkerSt := putFlags k (v == 0) v.msb false false

/-- The condition codes (R119). -/
def condHolds (f : Flags) (cond : BitVec 4) : Bool :=
  match cond.toNat with
  | 0x0 => f.z
  | 0x1 => !f.z
  | 0x2 => f.n != f.v
  | 0x3 => f.n == f.v
  | 0x4 => !f.c
  | 0x5 => f.c
  | 0x6 => !f.z && f.n == f.v
  | 0x7 => f.z || f.n != f.v
  | 0x8 => f.c && !f.z
  | 0x9 => !f.c || f.z
  | 0xA => f.n
  | 0xB => f.v
  | 0xC => f.sat
  | 0xD => f.late
  | 0xE => f.disc
  | _ => true

end Sys2Proof.Machine
end

