-- ==== Sys2Proof/Machine/TimeBase.lean ====
section
/-! DEFINITION. The phase wheel, network time, tick domains and scheduled actions (R37-R71, R123-R130). -/
namespace Sys2Proof.Machine

/-! ## The idle clock -/

/-- The slew applied in one 10 ns clock: at most 500 ppm, 5 ps (R56). -/
def slewStep (left : Int) : Int := clampInt (-5) 5 left

/-- Frames that count in this direction of the twin session (R370): all but HELLO and the key messages. -/
def countsInSession : TwinOut → Bool
  | .hello _ => false
  | .key _ => false
  | _ => true

/-- A frame that the module itself sends: it waits while the Ethernet partition is under test (R500). -/
def ownFrame : NetOut → Bool
  | .ptpForward _ _ _ | .bridged _ _ _ => false
  | _ => true

/-- One 10 ns clock of the idle block: time runs on, and what was sent in the last commands has left (log entry 1). -/
def idle (s : State) : State :=
  if s.power.state = .off then s
  else
    let d := slewStep s.time.slewLeft
    let left := (s.twin.out.filter countsInSession).length
    { s with
      time := { s.time with clk := s.time.clk + 1, slewDone := s.time.slewDone + d, slewLeft := s.time.slewLeft - d }
      twin := { s.twin with out := [], ctrOut := s.twin.ctrOut + left }
      net := { s.net with out := if partDown s 5 then s.net.out.filter ownFrame else [] } }

/-! ## Events of the time source -/

/-- An event of the time source, N = 18 (R530). -/
def emitTime (s : State) (level e : Nat) (keep marked : Bool) (args : Nat) : State :=
  emit s 18 level e keep marked chipScope (word args)

/-- The wheel enters another state (R37, R43). -/
def setWheelState (s : State) (n : WheelState) : State :=
  if s.wheel.state = n then s
  else
    let old := wheelNum s.wheel.state
    let seen (x : Option Nat) : Option Nat := if n = .free then none else x
    let s := { s with wheel := { s.wheel with state := n, nearRun := 0, prev := seen s.wheel.prev, ref := seen s.wheel.ref } }
    emitTime s 1 0x00 false true (fld (min s.wheel.acceptRun 255) 8 + fld old 2 + wheelNum n)

/-- A network time state change (R54). -/
def setTimeState (s : State) (n : TimeState) : State :=
  if s.time.state = n then s
  else
    let old := timeNum s.time.state
    emitTime { s with time := { s.time with state := n } } 1 0x05 false true
      (fld (cfgNat s 0x0006) 4 + fld old 2 + timeNum n)

/-! ## References of the wheel -/

/-- SRC of WHEEL_CTRL. -/
def wheelSrc (s : State) : Nat := cfgNat s 0x0001

/-- The current cycle, as a span. -/
def cycleNow (w : Wheel) : CycleSpan := ⟨w.cycStart, w.cycLen⟩

/-- The cycle in which stepless time `t` lies, the current one for a time before those kept (R40). -/
def cycleAt (w : Wheel) (t : Int) : CycleSpan :=
  ((cycleNow w :: w.past).find? fun c => decide ((c.start : Int) ≤ t)).getD (cycleNow w)

/-- The wheel's phase error at stepless time `t`, in ns: how far the wheel, with WHEEL_OFFSET, was ahead of a zero
crossing there, in the direction of the nearer zero (R41, R42; log entry 15). -/
def phaseError (s : State) (t : Int) : Int :=
  let c := cycleAt s.wheel t
  let len : Int := c.len
  let off := cfgInt s 0x0004 * len / 16777216
  let p := (t - c.start + off) % len
  if 2 * p ≤ len then p else p - len

/-- What the wheel falls behind a grid of cycle `meas` from stepless time `t` to the end of the cycle `c`, ns. -/
def slipIn (meas : Nat) (t : Int) (c : CycleSpan) : Int :=
  let ran := clampInt 0 c.len ((c.start : Int) + c.len - t)
  ((c.len : Int) - meas) * ran / c.len

/-- What the wheel falls behind from `t` to the end of the current cycle: the correction that is under way already (R42). -/
def slipSince (w : Wheel) (meas : Nat) (t : Int) : Int := ((cycleNow w :: w.past).map (slipIn meas t)).sum

/-- Leaves LOCKED or ACQUIRE for HOLD, or for FREE at once when WHEEL_HOLD is 0 (R38, R70). -/
def wheelToHold (s : State) : State :=
  if cfgNat s 0x0005 = 0 then setWheelState s .free
  else setWheelState { s with wheel := { s.wheel with holdAt := nowNs s } } .hold

/-- Count a rejected reference and record it (R39, R40, R530). -/
def rejectRef (s : State) (msg : Bool) (reason : Nat) : State :=
  let s := { s with wheel := { s.wheel with rejects := inc16 s.wheel.rejects, acceptRun := 0, nearRun := 0 } }
  emitTime s 1 0x02 false true (fld s.wheel.rejects 16 + fld reason 8 + ofBool msg)

/-- The measured cycle from two references, by the whole number of cycles between them nearest to it. Less than half a cycle
apart they measure none, and the measured cycle stays (R37; log entry 15). -/
def measured (s : State) (p t : Nat) : Nat :=
  let n := (2 * (t - p) + s.wheel.cycLen) / (2 * s.wheel.cycLen)
  let nom := nominalLen s
  if n = 0 then s.wheel.meas else clampNat (nom * 95 / 100) (nom * 105 / 100) ((t - p) / n)

/-- The reference that an accepted one is measured from: the previous one seen, which its window was taken against, in FREE
and ACQUIRE, and the last accepted one in LOCKED and HOLD, so that no rejected one is used there (R39, R40; log entry 15). -/
def measuredFrom (w : Wheel) : Option Nat :=
  match w.state with
  | .free | .acquire => w.prev
  | .locked | .hold => w.ref

/-- What an accepted reference does in each state (R37, R42): the error that it shows is what is left once the correction under
way has run to the end of the cycle. DESIGN CHOICE: the loss time runs from the zero crossing that a phase message states, not
from its commit (R38; log entry 15). -/
def acceptRef (s : State) (t : Nat) : State :=
  let e := phaseError s t
  let near := decide (-100000 ≤ e ∧ e ≤ 100000)
  let w := s.wheel
  let meas := match measuredFrom w with
    | some p => measured s p t
    | none => w.meas
  let left := e - slipSince w meas t
  let w := { w with acceptRun := satInc 255 w.acceptRun, prev := some t, ref := some t, lastAccept := t, meas := meas }
  match s.wheel.state with
  | .free =>
    let w := { w with nearRun := w.nearRun + 1, err := left }
    if w.nearRun < 2 then { s with wheel := w } else setWheelState { s with wheel := w } .acquire
  | .acquire =>
    let w := { w with err := left, nearRun := if near then w.nearRun + 1 else 0 }
    if w.nearRun < 8 then { s with wheel := w } else setWheelState { s with wheel := w } .locked
  | .locked => { s with wheel := { w with err := left } }
  | .hold => setWheelState { s with wheel := { w with err := left } } (if near then .locked else .acquire)

/-- A reference at stepless time `t` falls in the window of the wheel's state, `p` being the previous one seen (R39). -/
def inWindow (s : State) (p t : Nat) : Bool :=
  let nom := nominalLen s
  match s.wheel.state with
  | .locked | .hold => decide (-(nom : Int) ≤ 20 * phaseError s t ∧ 20 * phaseError s t ≤ nom)
  | .free | .acquire => decide (nom * 95 ≤ 100 * (t - p) ∧ 100 * (t - p) ≤ nom * 105)

/-- Judge a reference at stepless time `t` (R39, R40): the first after FREE is entered or SRC changes is neither accepted nor
rejected, in whatever state; every other is judged by the window of the state. A rejected pulse becomes the previous one
seen in FREE and ACQUIRE, a rejected message in every state. Answers whether it was accepted. -/
def judgeRef (s : State) (t : Nat) (msg : Bool) : State × Bool :=
  match s.wheel.prev with
  | none => ({ s with wheel := { s.wheel with prev := some t, ref := some t } }, false)
  | some p =>
    if inWindow s p t then (acceptRef s t, true)
    else
      let seen := msg || s.wheel.state == .free || s.wheel.state == .acquire
      let s := if seen then { s with wheel := { s.wheel with prev := some t } } else s
      (rejectRef s msg 0x01, false)

/-- The cycle count at stepless time `t`, of the current cycle or the one before it (R46). -/
def countAt (s : State) (t : Nat) : BitVec 40 := if t < s.wheel.cycStart then s.wheel.count - 1 else s.wheel.count

/-- GRIDSYNC_PULSE (R39, R63): the edge is referred to the pin, 2 µs before the module sees it; the event carries the cycle
count at the edge (R530). -/
def gridsync (s : State) : State :=
  if wheelSrc s = 1 then
    let t := nowNs s - 2000
    let r := judgeRef s t false
    if r.2 then emitTime r.1 0 0x01 false false ((countAt r.1 t).toNat % 4294967296) else r.1
  else s

/-- The network time of a committed phase message, as a stepless time (R40). -/
def messageAt (s : State) (ns : Word) : Int :=
  ((bitsOf s.wheel.msgHi 15 0 * 4294967296 + s.wheel.msgLo.toNat) * 1000000000 + ns.toNat : Nat) - s.time.off

/-- Commit of a phase message (R40, R51, R530). -/
def phaseMessage (s : State) (ns : Word) : State :=
  if wheelSrc s ≠ 2 then emitTime s 1 0x02 false true (fld s.wheel.rejects 16 + fld 5 8 + 1)
  else if 1000000000 ≤ ns.toNat then rejectRef s true 0x06
  else if s.time.state ≠ .sync then rejectRef s true 0x02
  else
    let t := messageAt s ns
    if (nowNs s : Int) < t then rejectRef s true 0x04
    else if t + 1000000000 < nowNs s then rejectRef s true 0x03
    else (judgeRef s t.toNat true).1

/-- The loss time (R38). -/
def lossTime (s : State) : Nat :=
  if wheelSrc s = 1 then 3 * s.wheel.cycLen + nominalLen s / 20 else 500000000

/-- The wheel is in ACQUIRE or LOCKED, and the loss time has run since the last accepted reference (R37, R38). -/
def lossDue (s : State) : Bool :=
  (s.wheel.state == .acquire || s.wheel.state == .locked) && decide (s.wheel.lastAccept + lossTime s ≤ nowNs s)

/-- WHEEL_HOLD has elapsed in HOLD (R37, R38). -/
def holdDue (s : State) : Bool :=
  s.wheel.state == .hold && decide (s.wheel.holdAt + cfgNat s 0x0005 * 1000000 ≤ nowNs s)

/-- The correction of one cycle: at most 1 % of the measured cycle (R42). -/
def cycleCorrection (w : Wheel) : Int := clampInt (-(w.meas / 100 : Nat)) (w.meas / 100 : Nat) w.err

/-- The length of the next cycle (R37, R42): nominal in FREE, the last measured in HOLD, the measured with its correction
in ACQUIRE and LOCKED, within 95-105 % of nominal. -/
def nextLen (s : State) : Nat :=
  let nom := nominalLen s
  match s.wheel.state with
  | .free => nom
  | .hold => s.wheel.meas
  | _ => clampNat (nom * 95 / 100) (nom * 105 / 100) ((s.wheel.meas : Int) + cycleCorrection s.wheel).toNat

/-- The current cycle has ended. -/
def cycleDue (s : State) : Bool := decide (s.wheel.cycStart + s.wheel.cycLen ≤ nowNs s)

/-- A cycle boundary (R41, R42, R45, R47): the count rises by one, the next length is taken, and the mark is written
when the low 16 bits pass through zero. -/
def cycleBoundary (s : State) : State :=
  let w := s.wheel
  let start := w.cycStart + w.cycLen
  let count := w.count + 1
  let len := nextLen s
  { s with wheel := { w with
      count := count
      cycStart := start
      cycLen := len
      past := (cycleNow w :: w.past).take 70
      err := w.err - ((len : Int) - w.meas)
      zc := toNet s ((start : Int) + s.time.off).toNat
      marks := if count.toNat % 65536 = 0 then w.marks.put (count.setWidth 64) else w.marks } }

/-- SRC has changed in service: the reference before it is forgotten (R39, R70). -/
def wheelSrcMoved (s : State) : State :=
  let s := { s with wheel := { s.wheel with prev := none, ref := none } }
  if s.wheel.state = .locked ∨ s.wheel.state = .acquire then wheelToHold s else s

/-- SRC is changed in service (R39, R70). -/
def setWheelSrc (s : State) (who : Writer) (src : BitVec 2) : State :=
  let old := wheelSrc s
  let s := writeSetting s who 0x10000 0x0001 (src.setWidth 32)
  if wheelSrc s = old then s else wheelSrcMoved s

/-- A write of NOMINAL is held for the next cold start (R44). -/
def setNominal (s : State) (nominal : Bool) : State := { s with wheel := { s.wheel with nominalHeld := some nominal } }

/-! ## Targets -/

/-- The time that a target's base has reached it (R66, R130). -/
def reached (s : State) : Target → Bool
  | .phase p => decide (p.toNat ≤ (phaseNow s).toNat)
  | .net ns => decide (ns ≤ netNs s)
  | .tick d c => decide (c.toNat ≤ (tickCount s d).toNat)
  | .dur ns => decide (ns < clockNs s)
  | .slot k =>
    match s.slots[k] with
    | some x => if x.net then decide (x.next ≤ netNs s) else decide (x.next ≤ (phaseNow s).toNat)
    | none => false

/-- Lateness in the units of R69. -/
def lateness (s : State) : Target → Nat
  | .phase p => (phaseNow s).toNat - p.toNat
  | .net ns => netNs s - ns
  | .tick d c => (tickCount s d).toNat - c.toNat
  | .dur ns => clockNs s - ns
  | .slot k =>
    match s.slots[k] with
    | some x => if x.net then netNs s - x.next else (phaseNow s).toNat - x.next
    | none => 0

/-- The base of a target: 0 phase, 1 network time, 2 tick (R530). -/
def targetBase (s : State) : Target → Nat
  | .phase _ => 0
  | .net _ => 1
  | .dur _ => 1
  | .tick _ _ => 2
  | .slot k =>
    match s.slots[k] with
    | some x => ofBool x.net
    | none => 0

/-- The late policy applied (R68, R69): NEXT_CYCLE on phase alone. -/
def policyApplied (given : BitVec 2) (base : Nat) : Nat :=
  if given = 1 then 1 else if given = 2 ∧ base = 0 then 2 else 0

/-- Lateness in ns for the record (R530). -/
def latenessNs (s : State) (t : Target) (late : Nat) : Nat :=
  match t with
  | .phase _ => late * s.wheel.cycLen / 16777216
  | .tick d _ => late * 10 * (s.ticks[d]).div
  | .slot k => if targetBase s (.slot k) = 0 then late * s.wheel.cycLen / 16777216 else late
  | _ => late

/-- UNIT and value of the lateness in ACTION_LATE's ARGS (R530). -/
def latenessField (ns : Nat) : Nat :=
  if ns / 1000 ≤ 0x3FFF then ns / 1000
  else if ns / 1000000 ≤ 0x3FFF then fld 1 14 + ns / 1000000
  else if ns / 1000000000 ≤ 0x3FFF then fld 2 14 + ns / 1000000000
  else fld 3 14 + 0x3FFF

/-- The due event (R67, R530): ACTION_DUE, or ACTION_LATE for a late or discarded action. -/
def dueEvent (s : State) (w : Worker) (t : TimeWait) (late : Option Nat) : State :=
  let scope := scopeOf s w
  let base := targetBase s t.target
  match late with
  | none =>
    let slot := match t.slot with
      | some x => x.1.val
      | none => 255
    emit s 18 0 0x07 false false scope (word (fld w.val 24 + fld slot 16 + fld (timeNum s.time.state) 2 + wheelNum s.wheel.state))
  | some l =>
    let st := if base = 0 then wheelNum s.wheel.state else if base = 1 then timeNum s.time.state else 0
    emit s 18 1 0x08 false true scope (word (fld w.val 24 + fld t.given.toNat 22 + fld (policyApplied t.given base) 20
      + fld base 18 + fld st 16 + latenessField (latenessNs s t.target l)))

/-- What the worker sees on release (R125, R128): LATE, DISC, the lateness accumulator, and EVERY's handle. -/
def releaseTime (k : WorkerSt) (t : TimeWait) (late : Option Nat) (disc : Bool) : WorkerSt :=
  let k := aSet k t.alat (BitVec.ofNat 64 (late.getD 0))
  let k := match t.slot with
    | some (n, d, past) => gSet k d (word (fld (min past 0xFFFF) 16 + n.val + 1))
    | none => k
  makeReady { k with sw := { k.sw with late := late.isSome, disc := disc } }

/-- The occurrence of a periodic slot that has come due is consumed (R128). -/
def consumeSlot (s : State) (t : Target) : State :=
  match t with
  | .slot k => { s with slots := s.slots.set k ((s.slots[k]).map fun x => { x with next := x.next + x.interval }) }
  | _ => s

/-- The action of a waiting worker comes due and the worker is released (R67, R125). -/
def runAction (s : State) (w : Worker) (t : TimeWait) (late : Option Nat) (disc : Bool) : State :=
  let s := dueEvent s w t late
  let s := consumeSlot s t.target
  modWk s w fun k => releaseTime k t late disc

/-- The first phase stamp after now whose fraction is that of `stamp` (R68). -/
def nextFraction (s : State) (stamp : Nat) : DWord :=
  let now := (phaseNow s).toNat
  let c := now / 16777216 * 16777216 + stamp % 16777216
  BitVec.ofNat 64 (if now < c then c else c + 16777216)

/-- A late action follows its policy (R68, R69): RUN and DISCARD release at once, NEXT_CYCLE waits for the fraction. -/
def lateAction (s : State) (w : Worker) (t : TimeWait) (late : Nat) (fraction : Nat) : State :=
  match policyApplied t.given (targetBase s t.target) with
  | 1 => runAction s w { t with target := t.target } (some late) true
  | 2 => modWk s w fun k => { k with wait := some (.time
      { t with target := .phase (nextFraction s fraction), late := some (BitVec.ofNat 64 late) }) }
  | _ => runAction s w t (some late) false

/-- The worker's wait for time, if it waits for one. -/
def timeWaitOf (k : WorkerSt) : Option TimeWait :=
  match waitOf k with
  | some (.time t) => some t
  | _ => none

/-- The place of an action among those that come due in one clock: one-shot actions in worker order 0-159, then the periodic
slots 0-63, that of an EVERY which waits under NEXT_CYCLE included (R67). -/
def dueRank (w : Worker) (t : TimeWait) : Nat :=
  match t.slot with
  | some x => 160 + x.1.val
  | none => w.val

/-- The worker whose action has a place in R67's order, if it has one: the worker of that number, or the holder of the slot. -/
def rankOwner (s : State) (n : Nat) : Option Worker :=
  if h : n < 160 then some ⟨n, h⟩ else (s.slots[n - 160]?).bind fun x => x.map Slot.owner

/-- The action of the worker comes due when its target has been reached (R66, R125). -/
def dueNow (s : State) (w : Worker) : State :=
  match timeWaitOf (wkOf s w) with
  | some t => if reached s t.target then runAction s w t (t.late.map BitVec.toNat) false else s
  | none => s

/-- The action at place `n` of R67's order comes due, if it has been reached. -/
def dueAt (s : State) (n : Nat) : State :=
  match rankOwner s n with
  | some w => if (timeWaitOf (wkOf s w)).any fun t => dueRank w t == n then dueNow s w else s
  | none => s

/-- The actions that stand before place `n` in R67's order and have been reached come due, in that order. -/
def dueBefore (s : State) (n : Nat) : State := (List.range n).foldl dueAt s

/-- ACTION_DUE (R66, R67, R125): the target of a waiting worker has been reached. Actions of the same clock that stand before
it in R67's order, and have not come due yet, come due before it (R131). -/
def actionDue (s : State) (w : Worker) : State :=
  match timeWaitOf (wkOf s w) with
  | some t =>
    if reached s t.target then dueNow (dueBefore s (dueRank w t)) w else s
  | none => s

/-- A waiting worker whose one-shot target a step or a load has jumped past is late (R58, R62); a target that it has reached
exactly counts as jumped past, with lateness 0 (log entry 38). -/
def lateByJump (isTarget : Target → Bool) (w : Worker) (s : State) : State :=
  match timeWaitOf (wkOf s w) with
  | some t => if isTarget t.target && t.late.isNone && reached s t.target then lateAction s w t (lateness s t.target) 0 else s
  | none => s

/-! ## Network time -/

/-- The ARGS of TIME_STEP (R57): unit and signed size. DESIGN CHOICE: a step beyond 2^29 - 1 s, which no unit holds, is written
modulo 2^30 (log entry 38). -/
def stepArgs (d : Int) : Word :=
  let q (n : Nat) : Int := if d < 0 then -((-d) / n) else d / n
  let fits (x : Int) : Bool := decide (-536870912 ≤ x ∧ x ≤ 536870911)
  let r := if fits (q 1) then (0, q 1) else if fits (q 1000) then (1, q 1000)
    else if fits (q 1000000) then (2, q 1000000) else (3, q 1000000000)
  word (fld r.1 30 + (BitVec.ofInt 30 r.2).toNat)

/-- Store network time in MRAM (R55). -/
def storeTime (s : State) : State :=
  { s with time := { s.time with
      marks := s.time.marks.set s.time.markNext (netNs s)
      markNext := s.time.markNext + 1
      storedAt := nowNs s } }

/-- A target on network time that belongs to no periodic slot. -/
def isNetTarget : Target → Bool
  | .net _ => true
  | _ => false

/-- Network time steps by `d` ns (R57, R58): epoch, event, store, periodic slots shifted. -/
def timeStep (s : State) (d : Int) : State :=
  let s := { s with
    time := { s.time with
      epoch := if d < 0 then s.time.epoch + 1 else s.time.epoch
      off := s.time.off + d
      slewLeft := 0
      slewing := false
      steps := satInc 255 s.time.steps }
    slots := s.slots.map fun x => x.map fun y => if y.net then { y with next := ((y.next : Int) + d).toNat } else y }
  storeTime (emit s 18 2 0x04 true true chipScope (stepArgs d))

/-- One-shot network-time targets that a forward step has jumped past become late, after the time source's own events of the
clock (R58, R67). -/
def stepLates (s : State) (d : Int) : State := if 0 < d then forWorkers s (lateByJump isNetTarget) else s

/-- A signed 32-bit saturation. -/
def satWord (x : Int) : Word := BitVec.ofInt 32 (clampInt (-2147483648) 2147483647 x)

/-- TIME_OFFSET saturates at ±2,147,483,647. -/
def satOffset (x : Int) : Word := BitVec.ofInt 32 (clampInt (-2147483647) 2147483647 x)

/-- A measured offset of network time in ns, positive when the module is ahead (R54, R56, R57): slewed below 1 ms,
stepped from 1 ms or when the time is UNSET; the window of 16 measurements moves the state. -/
def timeCorrect (s : State) (offset : Int) : State :=
  let unset := s.time.state == .unset
  let steps := unset || decide (offset ≤ -1000000) || decide (1000000 ≤ offset)
  let s := { s with time := { s.time with lastOffset := satOffset offset } }
  let s :=
    if steps then timeStep s (-offset)
    else
      emit { s with time := { s.time with slewLeft := -offset * 1000, slewing := decide (offset ≠ 0) } }
        18 0 0x03 false false chipScope (satWord offset)
  let good := decide (-1000 ≤ offset ∧ offset ≤ 1000)
  let s := { s with time := { s.time with good := if good then min 16 (s.time.good + 1) else 0 } }
  let s := setTimeState s (if s.time.good = 16 then .sync else .tracking)
  if steps then stepLates s (-offset) else s

/-- No source corrects the time any more: the window of measurements empties, and TRACKING and SYNC become FREE (R54). -/
def timeFree (s : State) : State :=
  let s := { s with time := { s.time with good := 0 } }
  if s.time.state = .tracking ∨ s.time.state = .sync then setTimeState s .free else s

/-- PTP begins again: disabled, or listening when TIME_SRC is PTP, with no master heard (R416, R532). -/
def ptpRestart (s : State) : State :=
  let old := s.net.ptpState
  let st : BitVec 4 := if cfgNat s 0x0006 = 0 then 1 else 0
  let s := { s with net := { s.net with ptpState := st, masters := [], gmClass := 0, gm := 0 } }
  if st = old then s else emit s 23 1 0x02 false true chipScope (word (fld s.net.slavePort.val 8 + fld old.toNat 4 + st.toNat))

/-- TIME_SRC has changed: the window empties, TRACKING and SYNC become FREE (R54). -/
def timeSrcMoved (s : State) : State := ptpRestart (timeFree s)

/-- A change of TIME_SRC (R54). -/
def setTimeSrc (s : State) (who : Writer) (src : BitVec 2) : State :=
  let old := cfgNat s 0x0006
  let s := writeSetting s who 0x10100 0x0006 (src.setWidth 32)
  if cfgNat s 0x0006 = old then s else timeSrcMoved s

/-- TIME_SET (R51, R53, R56): taken while TIME_SRC is Host; a nanosecond field of 1,000,000,000 or more is clamped. -/
def timeSetNs (s : State) (who : Writer) (ns : Word) : State :=
  if cfgNat s 0x0006 ≠ 2 then s
  else
    let v := if 1000000000 ≤ ns.toNat then word 999999999 else ns
    let s := if 1000000000 ≤ ns.toNat then clampReg s who 0x10128 ns v 0x03 else s
    let given := (bitsOf s.time.setHi 15 0 * 4294967296 + s.time.setLo.toNat) * 1000000000 + v.toNat
    timeCorrect s ((netNs s : Int) - given)

/-- A slew has ended (R56). -/
def slewEnd (s : State) : State := { s with time := { s.time with slewing := false } }

/-- The time store is due (R55). -/
def storeDue (s : State) : Bool := decide (s.time.storedAt + 65536000000000 ≤ nowNs s)

/-! ## Tick domains -/

def modTick (s : State) (n : Fin 4) (f : Tick → Tick) : State := { s with ticks := s.ticks.set n (f s.ticks[n]) }

/-- Periods of the 100 MHz time base from now to the domain's next increment. -/
def tickFirst (s : State) (n : Fin 4) : Nat :=
  let t := s.ticks[n]
  let p := nowNs s / 10 - t.since
  if t.en = false then t.first else if p < t.first then t.first - p else t.div - (p - t.first) % t.div

/-- Take the count as it stands now as the base, keeping the next increment's time. -/
def tickRebase (s : State) (n : Fin 4) : State :=
  let c := tickCount s n
  let f := tickFirst s n
  modTick s n fun t => { t with base := c, since := nowNs s / 10, first := f }

/-- EN of TICK_CTRL (R61). -/
def tickEnable (s : State) (n : Fin 4) (en : Bool) : State := modTick (tickRebase s n) n fun t => { t with en := en }

/-- TICK_DIV takes effect at the domain's next increment (R61). DESIGN CHOICE: written while EN is clear it rules the first
increment after the domain is enabled already, since none is on its way (log entry 38). -/
def tickSetDiv (s : State) (n : Fin 4) (div : Nat) : State :=
  modTick (tickRebase s n) n fun t => { t with div := div, first := if t.en then t.first else div }

/-- A write of the compare value arms the compare event again. -/
def tickSetCmp (s : State) (n : Fin 4) (cmp : DWord) : State := modTick s n fun t => { t with cmp := cmp, fired := false }

/-- A target on tick domain `n`. -/
def isTickTarget (n : Fin 4) : Target → Bool
  | .tick d _ => d == n
  | _ => false

/-- The count equals the compare value and the event has not been raised for it (R62). -/
def tickDue (s : State) (n : Fin 4) : Bool :=
  !(s.ticks[n]).fired && tickCount s n == (s.ticks[n]).cmp

/-- The compare event (R62). -/
def tickFire (s : State) (n : Fin 4) : State :=
  emitTime (modTick s n fun t => { t with fired := true }) 0 0x06 false false n.val

/-- TICK_LOAD_HI loads the count (R61, R62): the compare event of the count loaded stands before the actions that it makes late,
in the order of R67. -/
def tickLoadHi (s : State) (n : Fin 4) (hi : Word) : State :=
  let s := modTick (tickRebase s n) n fun t =>
    { t with base := BitVec.ofNat 64 (hi.toNat * 4294967296 + t.loadLo.toNat), fired := false }
  let s := if tickDue s n then tickFire s n else s
  forWorkers s (lateByJump (isTickTarget n))

/-- The latch of the whole second (R64). -/
def latchSecond (s : State) : State :=
  { s with canLatch := ⟨(netNow s).sec, s.time.epoch, Vector.ofFn fun n => canCounter s n⟩ }

/-- Network time has passed into a second that is not latched yet. -/
def secondDue (s : State) : Bool := decide ((netNow s).sec ≠ s.canLatch.sec ∨ s.time.epoch ≠ s.canLatch.epoch)

/-! ## The commands -/

def execGridsyncPulse (s : State) : Out := run s gridsync
def execWheelLossTime (s : State) : Out := run s fun s => if lossDue s then wheelToHold s else s
def execWheelHoldExpiry (s : State) : Out := run s fun s => if holdDue s then setWheelState s .free else s
def execWheelCycleBoundary (s : State) : Out := run s fun s => if cycleDue s then cycleBoundary s else s
def execTimeSlewEnd (s : State) : Out := run s fun s => if s.time.slewLeft = 0 then slewEnd s else s
def execTimeMarkStore (s : State) : Out := run s fun s => if storeDue s then storeTime s else s
def execTickCompare (n : Fin 4) (s : State) : Out := run s fun s => if tickDue s n then tickFire s n else s
def execCanLatchSecond (s : State) : Out := run s fun s => if secondDue s then latchSecond s else s
def execActionDue (w : Worker) (s : State) : Out := run s fun s => actionDue s w

end Sys2Proof.Machine
end

