-- ==== Sys2Proof/Machine/Can.lean ====
section
/-! DEFINITION. The CAN FD controllers (R391-R412) and the frame image of R151. -/
namespace Sys2Proof.Machine

/-! ## Frames and their image -/

/-- Bytes that a DLC gives (R391, ISO 11898-1). -/
def dlcLen (fdf : Bool) (dlc : Nat) : Nat :=
  if dlc ≤ 8 then dlc
  else if fdf = false then 8
  else match dlc with
    | 9 => 12
    | 10 => 16
    | 11 => 20
    | 12 => 24
    | 13 => 32
    | 14 => 48
    | _ => 64

/-- The ID word of the image (R151). -/
def frameIdWord (f : CanFrame) : Word :=
  word (fld (ofBool f.ide) 31 + fld (ofBool f.fdf) 30 + fld (ofBool f.brs) 29 + f.id.toNat)

/-- The frame of bytes 0-71 of an image (R151). -/
def frameOfImage (b : List Byte) : CanFrame :=
  let id := BitVec.ofNat 32 (ofBytesLE (b.take 4))
  let dlc := (b.getD 4 0).toNat % 16
  let fdf := id.getLsbD 30
  let rtr := (b.getD 5 0).getLsbD 0
  { ide := id.getLsbD 31, fdf := fdf, brs := id.getLsbD 29, id := id.setWidth 29, dlc := BitVec.ofNat 4 dlc, rtr := rtr
    data := if rtr then [] else (b.drop 8).take (dlcLen fdf dlc) }

/-- Pad a list of bytes with zeros to `n` bytes. -/
def padTo (n : Nat) (l : List Byte) : List Byte := (l ++ List.replicate (n - l.length) 0).take n

/-- The 88-byte receive image (R151). -/
def imageOf (e : RxEntry) (lost : Bool) : List Byte :=
  bytesLE 4 (frameIdWord e.frame).toNat
    ++ [BitVec.ofNat 8 e.frame.dlc.toNat, BitVec.ofNat 8 (ofBool e.frame.rtr), 0, 0]
    ++ padTo 64 e.frame.data
    ++ bytesLE 4 e.stamp.toNat
    ++ [BitVec.ofNat 8 e.buf.val, BitVec.ofNat 8 (ofBool (e.buf = 0) + 2 * ofBool lost), 0, 0]
    ++ bytesLE 8 e.seq.toNat

/-- The image of zeros that an empty buffer shows (R399). -/
def zeroImage : List Byte := List.replicate 88 0

/-- A frame that CTX faults on (R152), whatever the port. -/
def badFrame (f : CanFrame) : Bool :=
  (f.brs && !f.fdf) || (f.rtr && f.fdf) || (!f.ide && decide (0x7FF < f.id.toNat))

/-- The arbitration field as a number: lower wins (R400). -/
def arbKey (f : CanFrame) : Nat :=
  let base := if f.ide then f.id.toNat / 262144 else f.id.toNat % 2048
  let ext := if f.ide then f.id.toNat % 262144 else 0
  let b1 := if f.ide then 1 else ofBool f.rtr
  ((((base * 2 + b1) * 2 + ofBool f.ide) * 262144 + ext) * 2) + (if f.ide then ofBool f.rtr else 0)

/-- The entry that goes first of two (R400). -/
def txBefore (a b : TxEntry) : Bool :=
  let x := arbKey a.frame
  let y := arbKey b.frame
  decide (x < y) || (decide (x = y) && decide (a.seq.toNat ≤ b.seq.toNat))

/-- The entry sent next of a queue. -/
def txBest : List TxEntry → Option TxEntry
  | [] => none
  | e :: t =>
    match txBest t with
    | none => some e
    | some b => some (if txBefore e b then e else b)

/-- The CTX entry sent last of a queue (R402). -/
def txWorst : List TxEntry → Option TxEntry
  | [] => none
  | e :: t =>
    match txWorst t with
    | none => if e.owner = .ctx then some e else none
    | some b => some (if e.owner = .ctx && txBefore b e then e else b)

/-! ## Controller state -/

/-- The number of a controller state (CAN_STATUS.STATE). -/
def canNum : CanState → Nat
  | .active => 0
  | .passive => 1
  | .busOff => 2
  | .recovering => 3
  | .integrating => 4
  | .config => 5
  | .asleep => 6
  | .disabled => 7

/-- The controller takes part in bus traffic. -/
def onBus (c : CanSt) : Bool := c.state == .active || c.state == .passive

/-- The mode in effect is NORMAL, or RESTRICTED. -/
def isNormal (c : CanSt) : Bool := c.modeNow == 1
def isRestricted (c : CanSt) : Bool := c.modeNow == 2

/-- The error state that the counters give (R404). -/
def errState (c : CanSt) : CanState :=
  if 255 < c.tec then .busOff else if 128 ≤ c.tec ∨ 128 ≤ c.recCnt then .passive else .active

/-- An event of controller `n` (R531). -/
def emitCan (s : State) (n : Fin 4) (level e : Nat) (marked : Bool) (args : Word) : State :=
  emit s (19 + n.val) level e false marked chipScope args

/-- The controller enters another state, with its ERR_STATE event (R404, R531). -/
def canEnter (s : State) (n : Fin 4) (st : CanState) : State :=
  let c := canOf s n
  if c.state = st then s
  else
    emitCan (modCan s n fun c => { c with state := st }) n 2 0x04 true
      (word (fld c.tec 16 + fld (min c.recCnt 255) 8 + fld (canNum c.state) 4 + canNum st))

/-- Begin the next attempt when the controller may send and none is in progress (R400, R405; log entry 16). -/
def canKick (s : State) (n : Fin 4) : State :=
  let c := canOf s n
  if c.inTx.isNone && !c.busy && onBus c && isNormal c && isLead s then
    let pick := match c.pinned with
      | some p => some p
      | none => (txBest c.tx).map TxEntry.seq
    modCan s n fun c => { c with inTx := pick }
  else s

/-- Put a mode in effect (R392): CONFIG and SLEEP at once, NORMAL and RESTRICTED through integration; a bus-off
controller stays bus-off until it has recovered. -/
def canApplyMode (s : State) (n : Fin 4) : State :=
  let c := canOf s n
  let off := c.state == .busOff || c.state == .recovering
  let s := modCan s n fun c => { c with modeNow := c.mode, busy := false }
  match c.mode.toNat with
  | 0 => modCan s n fun c => { c with state := .config, inTx := none }
  | 3 => modCan s n fun c => { c with state := .asleep, inTx := none }
  | _ => if off then s else modCan s n fun c => { c with state := .integrating, inTx := none }

/-- The end of a frame on the bus: a mode written meanwhile takes effect, otherwise the frames queued contend anew (R392, R400). -/
def canNext (s : State) (n : Fin 4) : State :=
  let s := modCan s n fun c => { c with inTx := none, busy := false, tx := c.tx.filter fun e => !e.doomed }
  let c := canOf s n
  if c.mode = c.modeNow then canKick s n else canApplyMode s n

/-- The attempt in progress has lost arbitration: the frame that won holds the bus until it has been received (R400, R401). -/
def canYieldBus (s : State) (n : Fin 4) : State :=
  modCan s n fun c => { c with inTx := none, busy := true }

/-- A frame is in progress on the bus, as far as the commands tell: an attempt, or the frame that won arbitration over it (R392;
log entry 16). -/
def frameOn (c : CanSt) : Bool := c.inTx.isSome || c.busy

/-- Error-state changes after the counters have moved (R404, R405): on entering bus-off, the frame at the head of the
queue is pinned, and recovery begins at once under AUTO_RECOVER. -/
def canConfine (s : State) (n : Fin 4) : State :=
  let c := canOf s n
  match errState c with
  | .busOff =>
    let s := canEnter s n .busOff
    let s := modCan s n fun c => { c with busOffCnt := inc16 c.busOffCnt, inTx := none, busy := false, pinned := (txBest c.tx).map TxEntry.seq }
    if c.autoRecover then canEnter s n .recovering else s
  | st => canEnter s n st

/-! ## Transmitting -/

/-- Queue an entry, named by the next number of the model's own counter; the caller has checked for room. -/
def txPush (s : State) (n : Fin 4) (f : CanFrame) (owner : TxOwner) : State :=
  let (i, s) := drawFree s
  canKick (modCan s n fun c => { c with tx := c.tx ++ [⟨f, BitVec.ofNat 64 i, owner, false⟩] }) n

/-- Remove queued entries that a test names; one in transmission is removed at the end of a failed attempt (R401). -/
def txDrop (s : State) (n : Fin 4) (p : TxEntry → Bool) : State :=
  modCan s n fun c =>
    let inTx := c.inTx
    let rest := c.tx.filter fun e => !(p e) || inTx == some e.seq
    { c with
      tx := rest.map fun e => if p e then { e with doomed := true } else e
      pinned := match c.pinned with
        | some q => if rest.any fun e => e.seq == q then some q else none
        | none => none }

/-- A module frame enters the queue (R402): in a full queue it displaces the CTX frame that would be sent last. -/
def txModule (s : State) (n : Fin 4) (f : CanFrame) (owner : TxOwner) : State :=
  let s := match owner with
    | .zero r => txDrop s n fun e => e.owner == .zero r
    | _ => s
  let c := canOf s n
  if c.tx.length < 32 then txPush s n f owner
  else
    match txWorst (c.tx.filter fun e => c.inTx != some e.seq) with
    | none => txPush s n f owner
    | some e =>
      let s := modCan s n fun c => { c with tx := c.tx.filter fun x => x.seq != e.seq, txDisplaced := inc16 c.txDisplaced }
      let s := txPush s n f owner
      emitCan s n 2 0x07 true (word (fld (ofBool e.frame.ide) 31 + e.frame.id.toNat))

/-- The port accepts CTX (R152, R392). -/
def portOpen (c : CanSt) : Bool :=
  isNormal c && c.state != .disabled && c.state != .config && c.state != .asleep

/-- The frame as a port queues it: with CAN_DATA 0, BRS is clear (R393). -/
def portFrame (s : State) (n : Fin 4) (f : CanFrame) : CanFrame :=
  if cfgNat s (0x5002 + 256 * n.val) = 0 then { f with brs := false } else f

/-- Send a zero-current frame of region `r` on a port as CTX would queue it (R335); answers whether the image could be sent. -/
def sendZero (s : State) (r : Region) (n : Fin 4) (img : List Byte) : State × Bool :=
  let f := frameOfImage img
  if badFrame f || !(portOpen (canOf s n)) then (s, false) else (txModule s n (portFrame s n f) (.zero r), true)

/-- Withdraw the unsent zero-current frame of a region that opens (R402). -/
def withdrawZero (s : State) (r : Region) : State :=
  (List.finRange 4).foldl (fun s n => txDrop s n fun e => e.owner == .zero r) s

/-- The bus that CTX queues for is off. A mirror answers as the lead does, whose bus state no rule sends it: free (R153; log
entry 33). -/
def ctxBusOff (s : State) (n : Fin 4) : State × Bool :=
  if s.twin.role == .mirror then
    let d := drawFree s
    (d.2, (Config.freeWord d.1).getLsbD 0)
  else (s, (canOf s n).state == .busOff || (canOf s n).state == .recovering)

/-- CTX of a frame on an open port (R152): the status and the state. -/
def ctxQueue (s : State) (n : Fin 4) (f : CanFrame) : State × Nat :=
  let c := canOf s n
  if 32 ≤ c.tx.length then (s, 1)
  else
    let b := ctxBusOff s n
    (txPush b.1 n (portFrame s n f) .ctx, if b.2 then 2 else 0)

/-- The loop delay measured at an FD frame with bit-rate switch while compensation is on, a free value (R393). -/
def measureDelay (s : State) (n : Fin 4) (f : CanFrame) : State :=
  if f.fdf && f.brs && (canOf s n).btData.getLsbD 31 then
    let (i, s) := drawFree s
    modCan s n fun c => { c with tdcv := (Config.freeWord i).setWidth 7 }
  else s

/-- A frame was sent without error (R403, R404), an FD frame with the ESI of the controller's error state (R391). -/
def canSent (s : State) (n : Fin 4) (stamp : Word) : State :=
  let c := canOf s n
  match c.inTx with
  | none => s
  | some q =>
    match c.tx.find? fun e => e.seq == q with
    | none => s
    | some e =>
      let s := modCan s n fun c => { c with
        tx := c.tx.filter fun x => x.seq != q
        pinned := if c.pinned = some q then none else c.pinned
        txDone := inc16 c.txDone
        tec := c.tec - 1
        lec := 0
        esi := if e.frame.fdf then c.state == .passive else c.esi }
      let s := measureDelay s n e.frame
      let s := emitCan s n 0 0x02 false stamp
      let s := if s.twin.session then twinSend s (.retire (.can n (frameIdWord e.frame) e.frame.data)) else s
      canNext (canConfine s n) n

/-- LEC of an error (CAN_STATUS.LEC). -/
def lecOf : CanTxErr → BitVec 3
  | .arbitration => 0
  | .stuff => 1
  | .form => 2
  | .ack _ => 3
  | .bit one _ => if one then 4 else 5
  | .crc => 6

/-- Count an error by its kind. -/
def countErr (c : CanSt) (lec : BitVec 3) : CanSt :=
  let c := { c with lec := lec }
  match lec.toNat with
  | 1 => { c with errStuff := inc16 c.errStuff }
  | 2 => { c with errForm := inc16 c.errForm }
  | 3 => { c with errAck := inc16 c.errAck }
  | 4 => { c with errBit := inc16 c.errBit }
  | 5 => { c with errBit := inc16 c.errBit }
  | 6 => { c with errCrc := inc16 c.errCrc }
  | _ => c

/-- Whether a transmit error raises TEC (R404): not an acknowledgement error of an error-passive transmitter that sees
no dominant bit in its passive error flag. -/
def tecRises (c : CanSt) : CanTxErr → Bool
  | .ack dom => !(c.state == .passive) || dom
  | .arbitration => false
  | _ => true

/-- The lowest count of a clash table. -/
def clashMin : List (Word × Nat) → Nat
  | [] => 0
  | [(_, n)] => n
  | (_, n) :: t => min n (clashMin t)

/-- Remove the first entry of count `m`. -/
def clashEvictOne (m : Nat) : List (Word × Nat) → List (Word × Nat)
  | [] => []
  | (i, n) :: t => if n = m then t else (i, n) :: clashEvictOne m t

/-- Count a clash of an identifier (R408). -/
def clashCount (c : CanSt) (id : Word) : CanSt :=
  if c.clash.any fun e => e.1 == id then
    { c with clash := c.clash.map fun e => if e.1 = id then (e.1, inc16 e.2) else e }
  else if c.clash.length < 8 then { c with clash := c.clash ++ [(id, 1)] }
  else { c with clash := clashEvictOne (clashMin c.clash) c.clash ++ [(id, 1)], clashEvict := inc16 c.clashEvict }

/-- The identifier with its IDE bit, as the clash table and its events show it. -/
def idWithIde (f : CanFrame) : Word := word (fld (ofBool f.ide) 31 + f.id.toNat)

/-- An attempt lost arbitration or met an error (R401, R404, R405, R408): after a loss the winner's frame holds the bus. -/
def canTxFail (s : State) (n : Fin 4) (e : CanTxErr) : State :=
  let c := canOf s n
  match c.inTx with
  | none => s
  | some q =>
    let frame := c.tx.find? fun x => x.seq == q
    let s := modCan s n fun c =>
      let c := { c with tx := c.tx.filter fun x => !(x.seq == q && x.doomed) }
      let c := if e = .arbitration then c else countErr c (lecOf e)
      if tecRises c e then { c with tec := c.tec + 8 } else c
    let s := canConfine s n
    let s := match e, frame with
      | .bit _ true, some x =>
        emitCan (modCan s n fun c => clashCount c (idWithIde x.frame)) n 2 0x06 true (idWithIde x.frame)
      | _, _ => s
    match e, frame with
    | .arbitration, _ => canYieldBus s n
    | _, some x => canNext (measureDelay s n x.frame) n
    | _, none => canNext s n

/-! ## Receiving -/

/-- Filter `f` matches a frame (R395). -/
def filterHit (c : CanSt) (f : Fin 64) (fr : CanFrame) : Bool :=
  let id := c.fltId[f]
  let ide := id.getLsbD 30
  let bits := if ide then 0x1FFFFFFF else 0x7FF
  let m := (c.fltMask[f]) &&& bits
  id.getLsbD 31 && (ide == fr.ide) && ((id &&& m) == ((fr.id.setWidth 32) &&& m))

/-- The buffer that takes a frame: buffer 1 while the controller catches all (R495), else the first filter's (R395). -/
def bufferOf (c : CanSt) (f : CanFrame) : Option (Fin 64) :=
  if c.catching then some 1
  else ((List.finRange 64).find? fun k => filterHit c k f).map fun (k : Fin 64) => if k = 0 then 0 else c.fltBuf[k]

/-- DEPTH, KEEP and CONSUMER of a buffer (R397, R398, R412). -/
def bufDepth (c : CanSt) (k : Fin 64) : Nat := if k = 0 then 8 else bitsOf (c.bufCfg[k]) 15 8
def bufKeep (c : CanSt) (k : Fin 64) : Bool := (c.bufCfg[k]).getLsbD 1
def bufHost (c : CanSt) (k : Fin 64) : Bool := (c.bufCfg[k]).getLsbD 0

/-- Frames held in a buffer, oldest first. -/
def heldIn (c : CanSt) (k : Fin 64) : List RxEntry := c.rx.filter fun e => e.buf == k

/-- Buffer `k` has room for a frame (R396, R397). -/
def hasRoom (c : CanSt) (k : Fin 64) : Bool :=
  let held := (heldIn c k).length
  if k = 0 then decide (held < 8)
  else decide ((c.rx.filter fun e => e.buf != 0).length < 120) && (bufDepth c k == 0 || decide (held < bufDepth c k))

/-- Take a held frame out of the queue by its sequence number. -/
def consume (c : CanSt) (e : RxEntry) : CanSt := { c with rx := c.rx.filter fun x => x.seq != e.seq }

/-- A frame of the buffer was lost before this one, the next that it delivers (R397). -/
def lostWith (c : CanSt) (e : RxEntry) : Bool := e.lostBefore || c.lostFlag[e.buf]

/-- The oldest frame of buffer `k` is shown: a loss so far is shown with it, one from now on with the next (R397). -/
def showLoss (c : CanSt) (k : Fin 64) : CanSt :=
  match (heldIn c k).head? with
  | some e =>
    { c with
      rx := c.rx.map fun x => if x.seq = e.seq then { x with lostBefore := lostWith c e } else x
      lostFlag := c.lostFlag.set k false }
  | none => c

/-- The frame that a CRX on a buffer, or on any buffer, takes of those that workers consume: the earliest numbered (R154, R398). -/
def crxFrame (c : CanSt) (buf : Option (Fin 64)) : Option RxEntry :=
  match buf with
  | some k => if bufHost c k then none else (heldIn c k).head?
  | none => c.rx.find? fun e => !(bufHost c e.buf)

/-- Deliver a frame to a worker (R154): the image in its scratch, 1 in g[d], the frame consumed. -/
def crxDeliver (s : State) (w : Worker) (d : GReg) (addr : Word) (n : Fin 4) (e : RxEntry) : State :=
  let img := imageOf e (lostWith (canOf s n) e)
  let s := modCan s n fun c => consume (showLoss c e.buf) e
  modWk s w fun k => putStatus { k with scratch := memWrite k.scratch (addr.toNat % 16384) img } d 1

/-- Workers that wait in CRX for this frame, with the number their CRX issued at. -/
def crxWaiters (s : State) (n : Fin 4) (e : RxEntry) : List (Worker × Nat × GReg × Word) :=
  (List.finRange 160).filterMap fun w =>
    match waitOf (wkOf s w) with
    | some (.can d port buf addr issued) =>
      if port = n ∧ (crxFrame (canOf s n) buf).map RxEntry.seq = some e.seq then some (w, issued.toNat, d, addr) else none
    | _ => none

/-- The waiter whose CRX issued first. -/
def firstWaiter : List (Worker × Nat × GReg × Word) → Option (Worker × Nat × GReg × Word)
  | [] => none
  | x :: t =>
    match firstWaiter t with
    | none => some x
    | some y => some (if x.2.1 ≤ y.2.1 then x else y)

/-- A frame that is held releases exactly one waiting worker (R154). -/
def crxRelease (s : State) (n : Fin 4) (e : RxEntry) : State :=
  match firstWaiter (crxWaiters s n e) with
  | none => s
  | some x => modWk (crxDeliver s x.1 x.2.2.1 x.2.2.2 n e) x.1 makeReady

/-- Count a lost frame of buffer `k` (R397). -/
def rxLose (s : State) (n : Fin 4) (k : Fin 64) : State :=
  let s := modCan s n fun c => { c with rxLost := inc16 c.rxLost, lostFlag := c.lostFlag.set k true }
  emitCan s n 2 0x03 true (word (fld (canOf s n).rxLost 16 + k.val))

/-- Store a frame in buffer `k` with its RX or RX_HP event, and release a worker (R396, R154). -/
def rxStore (s : State) (n : Fin 4) (k : Fin 64) (f : CanFrame) (stamp : Word) : State :=
  let s := emitCan s n 0 (if k = 0 then 0 else 1) false (word k.val)
  let e : RxEntry := ⟨f, stamp, k, false, s.arb.seq⟩
  crxRelease (modCan s n fun c => { c with rx := c.rx ++ [e] }) n e

/-- A valid frame lowers REC as ISO 11898-1 prescribes (R404): from above 127 to a value of 119 to 127 that the standard
leaves open (log entry 4). -/
def recLower (s : State) (n : Fin 4) : State :=
  let c := canOf s n
  if isRestricted c || c.recCnt = 0 then s
  else if c.recCnt ≤ 127 then canConfine (modCan s n fun c => { c with recCnt := c.recCnt - 1 }) n
  else
    let (i, s) := drawFree s
    canConfine (modCan s n fun c => { c with recCnt := 119 + (Config.freeWord i).toNat % 9 }) n

/-- A valid frame arrives, its end freeing the bus (R395-R397, R400, R495). -/
def canReceive (s : State) (n : Fin 4) (f : CanFrame) (stamp : Word) : State :=
  let c := canOf s n
  if !(onBus c) || (isNormal c || isRestricted c) = false then s
  else
    let s := match bufferOf c f with
      | none => modCan s n fun c => { c with rxReject := inc16 c.rxReject }
      | some k =>
        if hasRoom c k then rxStore s n k f stamp
        else if bufKeep c k then
          match (heldIn c k).head? with
          | none => rxLose s n k
          | some e => rxLose (rxStore (modCan s n fun c => { c with rx := c.rx.filter fun x => x.seq != e.seq }) n k f stamp) n k
        else rxLose s n k
    canNext (recLower s n) n

/-- A receive error moves REC (R404); in RESTRICTED nothing moves (R406). -/
def canRxFail (s : State) (n : Fin 4) (e : CanRxErr) : State :=
  let c := canOf s n
  if !(onBus c) || isRestricted c then s
  else
    let up : Nat := match e with
      | .dominantAfterFlag => 8
      | .bit _ => 8
      | _ => 1
    let lec : BitVec 3 := match e with
      | .stuff => 1
      | .form => 2
      | .bit one => if one then 4 else 5
      | .crc => 6
      | .dominantAfterFlag => c.lec
    let s := modCan s n fun c =>
      let c := if e = .dominantAfterFlag then c else countErr c lec
      { c with recCnt := min 511 (c.recCnt + up) }
    canNext (canConfine s n) n

/-! ## Modes, timing, commands -/

/-- CAN_EN of a controller (R177, R392). -/
def canEnabled (s : State) (n : Fin 4) : Bool := cfgNat s (0x5003 + 256 * n.val) = 1

/-- Register address of controller `n`. -/
def canAddr (n : Fin 4) (off : Nat) : Nat := 0x50000 + 0x2000 * n.val + off

/-- A write of MODE (R392). -/
def setCanMode (s : State) (who : Writer) (n : Fin 4) (mode : BitVec 4) : State :=
  let c := canOf s n
  let m : BitVec 4 := if 3 < mode.toNat then 1 else mode
  let lacks := (m == 2 && s.nReg == 16) || (m == 3 && s.nReg != 16)
  if c.state = .disabled then clampReg s who (canAddr n 0) (mode.setWidth 32) (c.mode.setWidth 32) 0x0D
  else if lacks then clampReg s who (canAddr n 0) (mode.setWidth 32) (c.mode.setWidth 32) 0x08
  else
    let s := if m = mode then s else clampReg s who (canAddr n 0) (mode.setWidth 32) (m.setWidth 32) 0x05
    if m = c.mode then s
    else
      let s := modCan s n fun c => { c with mode := m }
      let s := if c.state = .asleep then emitCan s n 1 0x05 true 0 else s
      if isNormal c && frameOn c then s else canApplyMode s n

/-- Integration ends (R392). -/
def canIntegrate (s : State) (n : Fin 4) : State :=
  let c := canOf s n
  if c.state = .integrating then canKick (modCan s n fun c => { c with state := errState c }) n else s

/-- Controllers with CAN_EN set begin integrating 150 ms after the start's origin (R492). -/
def canStartIntegrating (s : State) (n : Fin 4) : State :=
  if canEnabled s n && !(s.therm.bistOut.getLsbD (8 + n.val)) && (canOf s n).state == .disabled && decide (s.power.origin + 150000000 ≤ nowNs s) then
    modCan s n fun c => { c with state := .integrating, mode := 1, modeNow := 1 }
  else s

/-- TDCO and TDC_EN of a data timing (R393): more than 127 turns compensation off. -/
def dataTiming (v : Word) : Word × BitVec 7 × Bool :=
  let t := (bitsOf v 4 0 + 1) * (2 + bitsOf v 12 8)
  if 127 < t then (v &&& 0x7FFFFFFF, 0, v.getLsbD 31) else (v, BitVec.ofNat 7 t, false)

/-- An SJW above TSEG2 is set to TSEG2 (R394). -/
def fixSjw (v : Word) (sjw seg : Nat) (width : Nat) : Word :=
  let a := (v.toNat >>> sjw) % 2 ^ width
  let b := (v.toNat >>> seg) % 2 ^ width
  if b < a then v - word (fld (a - b) sjw) else v

/-- A write of CAN_BT_NOM or CAN_BT_DATA (R393, R394). -/
def setCanBt (s : State) (who : Writer) (n : Fin 4) (dataPhase : Bool) (v : Word) : State :=
  let c := canOf s n
  let addr := canAddr n (if dataPhase then 0x10 else 0xC)
  if c.state ≠ .config then
    clampReg s who addr v (if dataPhase then c.btData else c.btNom) 0x0D
  else if dataPhase then
    let v := v &&& 0x8F0F1F1F
    let x := fixSjw v 24 16 4
    let (y, tdco, off) := dataTiming x
    let s := if x = v then s else clampReg s who addr v x 0x03
    let s := if off then clampReg s who addr x y 0x0A else s
    modCan s n fun c => { c with btData := y, tdco := tdco }
  else
    let v := v &&& 0x3FFFFFFF
    let x := if bitsOf v 15 8 = 0 then v + 0x100 else v
    let y := fixSjw x 23 16 7
    let s := if x = v then s else clampReg s who addr v x 0x02
    let s := if y = x then s else clampReg s who addr x y 0x03
    modCan s n fun c => { c with btNom := y }

/-- The timings that a load takes from CAN_NOM and CAN_DATA (R393). -/
def nomTiming : Nat → Word
  | 0 => 0x0F9F7E03
  | 1 => 0x0F9F7E01
  | 3 => 0x078F3E00
  | _ => 0x0F9F7E00
def dataTimingOf : Nat → Word
  | 0 => 0
  | 1 => 0x89091C01
  | 3 => 0x84040D00
  | 4 => 0x83030A00
  | _ => 0x89091C00

/-- A controller as a load leaves it (R392, R393, R411). -/
def canLoaded (s : State) (n : Fin 4) : CanSt :=
  let d := dataTimingOf (cfgNat s (0x5002 + 256 * n.val))
  { CanSt.init with
    btNom := nomTiming (cfgNat s (0x5001 + 256 * n.val))
    btData := d
    tdco := (dataTiming d).2.1
    cntBase := 0 }

/-- FLUSH (R401, R410). -/
def canFlushQueue (s : State) (n : Fin 4) : State :=
  let s := txDrop s n fun _ => true
  if isLead s && s.twin.session then twinSend s (.forward (.register (word (canAddr n 0x1C)) 2)) else s

/-- RECOVER (R405). -/
def canRecoverNow (s : State) (n : Fin 4) : State :=
  if (canOf s n).state = .busOff then canEnter s n .recovering else s

/-- Recovery has ended (R405, R406). -/
def canRecovered (s : State) (n : Fin 4) : State :=
  if (canOf s n).state = .recovering then
    canKick (canEnter (modCan s n fun c => { c with tec := 0, recCnt := 0 }) n .active) n
  else s

/-- CLASH_CLEAR (R408). -/
def canClashEmpty (s : State) (n : Fin 4) : State :=
  let s := modCan s n fun c => { c with clash := [] }
  if isLead s && s.twin.session then twinSend s (.forward (.register (word (canAddr n 0x1C)) 3)) else s

/-- A write of FLT_ID ends the catch of R495. -/
def setFilterId (s : State) (n : Fin 4) (f : Fin 64) (v : Word) : State :=
  modCan s n fun c => { c with fltId := c.fltId.set f (v &&& 0xDFFFFFFF), catching := false }

/-- A wake frame wakes the transceiver (R407). -/
def wakeFrame (c : CanSt) (f : CanFrame) : Bool :=
  let ide := c.wakeId.getLsbD 31
  let m := c.wakeMask &&& (if ide then 0x1FFFFFFF else 0x7FF)
  let want := bytesLE 4 c.wakeLo.toNat ++ bytesLE 4 c.wakeHi.toNat
  !f.fdf && (f.ide == ide) && ((f.id.setWidth 32) &&& m) == (c.wakeId &&& m)
    && f.dlc.toNat == bitsOf c.wakeCfg 3 0
    && (!(c.wakeCfg.getLsbD 7) || (f.data.zip want).any fun p => (p.1 &&& p.2) != 0)

/-- The condition that wakes a sleeping controller (R407). -/
def wakesOn (c : CanSt) : CanWakeCause → Bool
  | .pattern => !c.wakeSel
  | .frame f => c.wakeSel && wakeFrame c f
  | .errOverflow => c.wakeSel

/-- Wake (R407): WAKE is raised, the controller integrates and enters NORMAL. -/
def canWakeUp (s : State) (n : Fin 4) (cause : CanWakeCause) : State :=
  let c := canOf s n
  if c.state = .asleep ∧ wakesOn c cause = true then
    emitCan (modCan s n fun c => { c with state := .integrating, mode := 1, modeNow := 1 }) n 1 0x05 true 0
  else s

/-! ## Registers (R411, R412) -/

/-- CAN_CTRL and CAN_STATUS. -/
def canCtrl (c : CanSt) : Word := word (fld (ofBool c.wakeSel) 5 + fld (ofBool c.autoRecover) 4 + c.mode.toNat)
def canStatus (c : CanSt) : Word :=
  word (fld c.rx.length 24 + fld (min c.tx.length 255) 16 + fld (ofBool c.pinned.isSome) 8 + fld c.lec.toNat 5 + canNum c.state)

/-- A clash entry's word: identifier or count. -/
def clashWord (c : CanSt) (e : Nat) (cnt : Bool) : Word :=
  match c.clash[e]? with
  | some x => if cnt then word x.2 else x.1
  | none => 0

/-- The live word of controller `n` at an offset, windows apart. -/
def canRead (s : State) (n : Fin 4) (off : Nat) : Word :=
  let c := canOf s n
  match off with
  | 0x000 => canCtrl c
  | 0x004 => canStatus c
  | 0x008 => word (fld c.recCnt 16 + c.tec % 512)
  | 0x00C => c.btNom
  | 0x010 => c.btData
  | 0x014 => word (fld c.tdcv.toNat 8 + c.tdco.toNat)
  | 0x018 => canCounter s n
  | 0x020 => word (fld c.errStuff 16 + c.errForm)
  | 0x024 => word (fld c.errAck 16 + c.errBit)
  | 0x028 => word (fld c.errCrc 16 + c.busOffCnt)
  | 0x02C => word (fld c.rxReject 16 + c.rxLost)
  | 0x030 => word (fld c.txDone 16 + c.txDisplaced)
  | 0x034 => word c.clashEvict
  | 0x040 => if s.nReg = 16 then c.wakeId else 0
  | 0x044 => if s.nReg = 16 then c.wakeMask else 0
  | 0x048 => if s.nReg = 16 then c.wakeCfg else 0
  | 0x04C => if s.nReg = 16 then c.wakeLo else 0
  | 0x050 => if s.nReg = 16 then c.wakeHi else 0
  | off =>
    if 0x80 ≤ off ∧ off < 0xC0 then clashWord c ((off - 0x80) / 8) (decide (off % 8 = 4))
    else if 0x100 ≤ off ∧ off < 0x500 then
      let f : Fin 64 := Fin.ofNat 64 ((off - 0x100) / 16)
      if off % 16 = 0 then c.fltId[f] else if off % 16 = 4 then c.fltMask[f]
      else if off % 16 = 8 then word (c.fltBuf[f]).val else 0
    else if 0x500 ≤ off ∧ off < 0x600 then c.bufCfg[Fin.ofNat 64 ((off - 0x500) / 4)]
    else 0

/-- A write of a controller register as this twin applies it (R411, R412). -/
def canPut (s : State) (who : Writer) (n : Fin 4) (off : Nat) (v : Word) : State :=
  let lone := s.nReg = 16
  match off with
  | 0x000 =>
    let s := modCan s n fun c => { c with wakeSel := v.getLsbD 5, autoRecover := v.getLsbD 4 }
    setCanMode s who n (v.setWidth 4)
  | 0x00C => setCanBt s who n false v
  | 0x010 => setCanBt s who n true v
  | 0x01C =>
    match bitsOf v 3 0 with
    | 1 => canRecoverNow s n
    | 2 => canFlushQueue s n
    | 3 => canClashEmpty s n
    | _ => s
  | 0x040 => if lone then modCan s n fun c => { c with wakeId := v &&& 0x9FFFFFFF } else s
  | 0x044 => if lone then modCan s n fun c => { c with wakeMask := v &&& 0x1FFFFFFF } else s
  | 0x048 =>
    if lone then
      let dlc := bitsOf v 3 0
      let x := (v &&& 0x80) + word (min 8 dlc)
      let s := if 8 < dlc then clampReg s who (canAddr n off) v x 0x03 else s
      modCan s n fun c => { c with wakeCfg := x }
    else s
  | 0x04C => if lone then modCan s n fun c => { c with wakeLo := v } else s
  | 0x050 => if lone then modCan s n fun c => { c with wakeHi := v } else s
  | off =>
    if 0x100 ≤ off ∧ off < 0x500 then
      let f : Fin 64 := Fin.ofNat 64 ((off - 0x100) / 16)
      if off % 16 = 0 then setFilterId s n f v
      else if off % 16 = 4 then modCan s n fun c => { c with fltMask := c.fltMask.set f (v &&& 0x1FFFFFFF) }
      else if off % 16 = 8 ∧ f ≠ 0 then
        let b := bitsOf v 5 0
        let s := if b = 0 then clampReg s who (canAddr n off) v 1 0x02 else s
        modCan s n fun c => { c with fltBuf := c.fltBuf.set f (if b = 0 then 1 else Fin.ofNat 64 b) }
      else s
    else if 0x500 ≤ off ∧ off < 0x600 then
      let k : Fin 64 := Fin.ofNat 64 ((off - 0x500) / 4)
      let depth := if k = 0 then 8 else bitsOf v 15 8
      let x := word (fld (min depth 120) 8 + bitsOf v 1 0)
      let s := if 120 < depth then clampReg s who (canAddr n off) v x 0x03 else s
      modCan s n fun c => { c with bufCfg := c.bufCfg.set k x }
    else s

/-- The controller of an address, and the offset in it. -/
def canPort (a : Nat) : Fin 4 := Fin.ofNat 4 ((a - 0x50000) / 0x2000)
def canOff (a : Nat) : Nat := (a - 0x50000) % 0x2000

/-! ## The commands -/

def execCanFrameRx (n : Fin 4) (f : CanFrame) (stamp : Word) (s : State) : Out := run s fun s => canReceive s n f stamp
def execCanTxDone (n : Fin 4) (stamp : Word) (s : State) : Out := run s fun s => canSent s n stamp
def execCanTxError (n : Fin 4) (e : CanTxErr) (s : State) : Out := run s fun s => canTxFail s n e
def execCanRxError (n : Fin 4) (e : CanRxErr) (s : State) : Out := run s fun s => canRxFail s n e
def execCanRecoveryDone (n : Fin 4) (s : State) : Out := run s fun s => canRecovered s n
def execCanIntegrated (n : Fin 4) (s : State) : Out := run s fun s => canIntegrate s n
def execCanIntegrationStart (s : State) : Out :=
  run s fun s => (List.finRange 4).foldl (fun s n => canStartIntegrating s n) s
def execCanWake (n : Fin 4) (cause : CanWakeCause) (s : State) : Out := run s fun s => canWakeUp s n cause

end Sys2Proof.Machine
end

