-- ==== Sys2Proof/Machine/Bank.lean ====
section
/-! DEFINITION. The switch bank (R346-R364), OUT (R145, R146) and the keeper. -/
namespace Sys2Proof.Machine

/-! ## What a channel does -/

/-- A command of the bank acts while the module has logic supply: the bank runs through a restart (R359). -/
def bankRun (s : State) (f : State → State) : Out := .next (if s.power.state = .off then s else f s)

/-- An event of the bank, N = 17 (R529): none while the arbiter is stopped (R359). -/
def emitBank (s : State) (level e : Nat) (keep : Bool) (scope : Half) (args : Nat) : State :=
  if s.power.state = .running then emit s 17 level e keep true scope (word args) else s

/-- The scope of a channel's events: its owner (R529). -/
def chanScope (s : State) (c : Chan) : Half :=
  match (mapOf s c).owner with
  | some r => regionScope r
  | none => chipScope

/-- The channel conducts. -/
def conducting (x : ChanSt) : Bool := x.drive != 0

/-- The class that rules a channel: of a conducting one, that of its switch-on (R363). -/
def clsOf (s : State) (c : Chan) : Fin 3 := if conducting (chOf s c) then (chOf s c).cls else (mapOf s c).cls

def isCoil (s : State) (c : Chan) : Bool := clsOf s c == 0
def isLamp (s : State) (c : Chan) : Bool := clsOf s c == 1

/-- The supply that feeds a channel (R346). -/
def supplyOf (c : Chan) : Fin 4 := ⟨c.val / 16, by omega⟩

/-- Options of CH_OPT (R364). -/
def optExpire (x : ChanSt) : Bool := x.opt.getLsbD 3
def optOpenLoad (x : ChanSt) : Bool := x.opt.getLsbD 2
def optCoilR (x : ChanSt) : Nat := bitsOf x.opt 31 16

/-- The keeper holds the channel off: a coil after an expiry not yet read back, and an EXPIRE_OFF lamp or load (R359). -/
def keeperOff (s : State) (c : Chan) : Bool :=
  s.bank.expiryDue.isSome && (isCoil s c || optExpire (chOf s c))

/-- The channel's output stage conducts (R348-R361, R365): commanded on, and nothing holds it off. -/
def wantsDrive (s : State) (c : Chan) : Bool :=
  let x := chOf s c
  x.cmd != 0 && !x.latched && !x.dtHold && x.pauseEnd.isNone && !x.retryDue && !(s.bank.supUv[supplyOf c])
    && hasChan s c && s.twin.driveEn && !(keeperOff s c) && !(isCoil s c && s.sever.lineLow)

/-- CH_STATUS.DRIVE past pull-in: the economiser or PWM, or full drive (R349, R350). -/
def driveOf (s : State) (c : Chan) : BitVec 3 :=
  let x := chOf s c
  if isCoil s c then (if optCoilR x = 0 then 2 else 3)
  else if x.cmd = 2 then 3
  else if isLamp s c ∧ 2400 < (s.bank.supV[supplyOf c]).toNat then 3
  else 2

/-- The PWM frequency of a class, for an output that is pulsed (R349). -/
def hzOf (s : State) (c : Chan) (d : BitVec 3) : Nat :=
  if d ≠ 3 then 0
  else if isCoil s c then 20000
  else if isLamp s c then 400
  else match bitsOf (chOf s c).opt 5 4 with
    | 0 => 100
    | 2 => 20000
    | _ => 1000

/-- The duty applied, in 1/65,536 and capped at 1 (R350): V is the supply in 10 mV, COIL_HOLD in mW, COIL_R in 0.1 Ω. -/
def dutyOf (s : State) (c : Chan) (d : BitVec 3) : Nat :=
  let x := chOf s c
  let v := (s.bank.supV[supplyOf c]).toNat
  let capped (n : Nat) : Nat := if v = 0 then 65536 else min 65536 (n / (v * v))
  if d = 0 then 0
  else if d = 1 then 65536
  else if isCoil s c then (if optCoilR x = 0 then 65536 else capped (65536 * (cfgNat s 0x3002 * optCoilR x)))
  else if isLamp s c then capped ((if x.cmd = 2 then x.duty.toNat else 65535) * (2400 * 2400))
  else if x.cmd = 2 then x.duty.toNat else 65536

/-- A channel's output with a drive, its frequency and its duty. -/
def shaped (s : State) (c : Chan) (d : BitVec 3) (x : ChanSt) : ChanSt := { x with drive := d, hz := hzOf s c d, applied := dutyOf s c d }

/-- A channel's output off. -/
def outOff (x : ChanSt) : ChanSt := { x with drive := 0, hz := 0, applied := 0, attempt := none }

/-- A conducting output as its class, its supply and its options now have it (R349, R350). -/
def reshape (s : State) (c : Chan) : State :=
  let d := if (chOf s c).drive = 1 then 1 else driveOf s c
  if conducting (chOf s c) then modCh s c (shaped s c d) else s

/-- Every conducting output as it has it now. -/
def reshapeAll (s : State) : State := forChans s fun c s => reshape s c

/-- Switch a channel's output on: a coil begins with its pull-in (R349). `attempt` is its index as a retry. -/
def switchOn (s : State) (c : Chan) (attempt : Option Nat) : State :=
  let pull := isCoil s c
  let d := if pull then 1 else driveOf s c
  let pullEnd := nowNs s + (mapOf s c).pullIn * 1000000
  let now := nowNs s
  modCh s c fun x => { shaped s c d x with
    cls := (mapOf s c).cls
    pullEnd := if pull then pullEnd else 0
    since := now
    attempt := attempt }

/-- Bring a channel's output to what its state asks for: on as a commanded switch-on, off, or its drive as it stands. -/
def bankUpdate (s : State) (c : Chan) : State :=
  let x := chOf s c
  if wantsDrive s c then
    if conducting x then reshape s c else switchOn s c none
  else modCh s c outOff

/-- Update every channel of the variant. -/
def bankUpdateAll (s : State) : State := forChans s fun c s => bankUpdate s c

/-- The event flags of a channel (R529). -/
def flagBits (x : ChanSt) : Nat :=
  ofBool x.latched + 2 * ofBool x.dtHold + 4 * ofBool x.holdLong + 8 * ofBool x.openLoad + 16 * ofBool x.extDriven

/-- Change a channel's flags; a change is a CH_FLAGS event (R362, R529). -/
def setFlags (s : State) (c : Chan) (f : ChanSt → ChanSt) : State :=
  let old := flagBits (chOf s c)
  let s := modCh s c f
  let new := flagBits (chOf s c)
  if old = new then s
  else emitBank s 1 0x01 false (chanScope s c) (fld (old ^^^ new) 16 + fld new 8 + c.val)

/-! ## Commands -/

/-- OFF (R354, R363): the pause, the attempts and the latch end. -/
def cmdOff (s : State) (c : Chan) : State :=
  bankUpdate (setFlags s c fun x =>
    { x with cmd := 0, duty := 0, pauseEnd := none, retryDue := false, attempts := 0, attempt := none, latched := false }) c

/-- ON or PWM with a duty (R348, R363). -/
def cmdOn (s : State) (c : Chan) (pwm : Bool) (duty : Half) : State :=
  bankUpdate (modCh s c fun x => { x with cmd := if pwm then 2 else 1, duty := if pwm then duty else x.duty }) c

/-- CLEAR_LATCH (R354, R363). -/
def cmdClear (s : State) (c : Chan) : State :=
  bankUpdate (setFlags s c fun x => { x with latched := false, attempts := 0 }) c

/-- A command of a channel: 0 OFF, 1 ON, 2 PWM, 3 CLEAR_LATCH. -/
def bankCmd (s : State) (c : Chan) (cmd : Nat) (duty : Half) : State :=
  match cmd with
  | 0 => cmdOff s c
  | 1 => cmdOn s c false duty
  | 2 => cmdOn s c true duty
  | _ => cmdClear s c

/-- The status of an OUT (R145, R146). -/
def outStatus (s : State) (c : Chan) (cmd : Nat) : Nat :=
  if cmd = 0 ∨ cmd = 3 then 0
  else if (mapOf s c).role ≠ 0 then 1
  else if cmd = 2 ∧ isCoil s c = true then 4
  else if isYielded s then 3
  else if isCoil s c = true ∧ s.sever.lineLow = true then 2
  else 0

/-- An OUT request taken (R145, R536): the command when accepted, OUT_REFUSED when not. -/
def outTake (s : State) (scope : Half) (issuer : Nat) (c : Chan) (cmd : Nat) (duty : Half) : State × Nat :=
  let st := outStatus s c cmd
  if st = 0 then (bankCmd s c cmd duty, 0)
  else (emit s 28 1 0x03 false true scope (word (fld issuer 24 + fld c.val 16 + fld cmd 8 + st)), st)

/-- A host write of CH_CMD (R348): numbered and taken as an OUT, its status in BANK_LAST. -/
def outHost (s : State) (c : Chan) (cmd : Nat) (duty : Half) : State :=
  let r := outTake (number s) chipScope 0xFF c cmd duty
  { r.1 with bank := { r.1.bank with lastCh := c, lastStatus := BitVec.ofNat 8 r.2 } }

/-! ## Over-current, thermal and supply protection -/

/-- RETRY_N of a channel. -/
def retryN (s : State) (c : Chan) : Nat := (mapOf s c).retryN

/-- An over-current shut-off (R352, R353): a pause before the next attempt, or the latch after the last. -/
def ocShutoff (s : State) (c : Chan) : State :=
  let x := chOf s c
  let last := match x.attempt with
    | some k => decide (retryN s c ≤ k + 1)
    | none => decide (retryN s c ≤ x.attempts)
  let pause := nowNs s + 10000000 * 2 ^ x.attempts
  let s := emitBank s 2 0x00 false (chanScope s c) (fld (match x.attempt with | some k => k + 1 | none => 0) 8 + c.val)
  setFlags s c fun x => { outOff x with
    ocCount := inc16 x.ocCount
    flags := x.flags ||| (if last then 0x18 else 0x08)
    latched := last
    pauseEnd := if last then none else some pause }

/-- A retry that has come due is made as attempt k (R353, R356, R358). -/
def makeAttempt (s : State) (c : Chan) : State :=
  let k := (chOf s c).attempts
  let s := modCh s c fun x => { x with pauseEnd := none, retryDue := false }
  if wantsDrive s c then switchOn (modCh s c fun x => { x with attempts := k + 1 }) c (some k) else s

/-- A retry waits while ΔT or the supply holds the channel off (R356, R358). -/
def retryHeld (s : State) (c : Chan) : Bool := (chOf s c).dtHold || s.bank.supUv[supplyOf c]

/-- A retry pause ends (R353, R356). -/
def retryPauseEnd (s : State) (c : Chan) : State :=
  if retryHeld s c then modCh s c fun x => { x with pauseEnd := none, retryDue := true } else makeAttempt s c

/-- A hold ends: the waiting retry is made, or the channel returns to its commanded state (R355, R358). -/
def holdEnds (s : State) (c : Chan) : State :=
  if (chOf s c).retryDue then (if retryHeld s c then s else makeAttempt s c) else bankUpdate s c

/-- A ΔT trip (R355). -/
def dtTrip (s : State) (c : Chan) : State :=
  let now := nowNs s
  setFlags s c fun x => { outOff x with
    dtCut := if conducting x then some x.attempt else none, dtHold := true, dtSince := now, flags := x.flags ||| 0x04, dtCount := inc16 x.dtCount }

/-- ΔT falls below 45 K (R355). -/
def dtRelease (s : State) (c : Chan) : State := holdEnds (setFlags s c fun x => { x with dtHold := false }) c

/-- An over-current pause is over. -/
def pauseDue (s : State) (c : Chan) : Bool :=
  match (chOf s c).pauseEnd with
  | some t => decide (t ≤ nowNs s)
  | none => false

/-- The pull-in of a coil has ended: economiser or full drive (R349, R350). -/
def pullDue (s : State) (c : Chan) : Bool := (chOf s c).drive == 1 && decide ((chOf s c).pullEnd ≤ nowNs s)
def pullEnds (s : State) (c : Chan) : State := modCh s c (shaped s c (driveOf s c))

/-- The channels of a supply, in order. -/
def forSupply (s : State) (n : Fin 4) (f : Chan → State → State) : State :=
  forChans s fun c s => if supplyOf c = n then f c s else s

/-- Set a supply's under-voltage flag, with its event (R358, R529). -/
def setSupUv (s : State) (n : Fin 4) (uv : Bool) (v : Half) : State :=
  emitBank { s with bank := { s.bank with supUv := s.bank.supUv.set n uv } } 2 0x02 false chipScope
    (fld v.toNat 16 + fld (ofBool uv) 8 + n.val)

/-- A channel that its supply's under-voltage turns off keeps that in CH_FLAGS (R358, R364). -/
def uvOff (s : State) (c : Chan) : State :=
  if conducting (chOf s c) then
    modCh s c fun x => { outOff x with flags := x.flags ||| 0x01 }
  else s

/-- The measured voltage of a supply, in 10 mV, which the duties of its channels follow (R350). -/
def setSupV (s : State) (n : Fin 4) (v : Half) : State :=
  forSupply { s with bank := { s.bank with supV := s.bank.supV.set n v } } n fun c s => reshape s c

/-- A coil supply falls below 16.0 V (R358). -/
def supplyFalls (s : State) (n : Fin 4) (v : Half) : State :=
  let s := setSupV s n v
  if v.toNat < 1600 ∧ s.bank.supUv[n] = false then
    setSupUv (forSupply s n fun c s => uvOff s c) n true v
  else s

/-- A coil supply has stayed above 17.5 V for 50 ms (R358). -/
def supplyRestores (s : State) (n : Fin 4) (v : Half) : State :=
  let s := setSupV s n v
  if 1750 < v.toNat ∧ s.bank.supUv[n] = true then
    let s := { s with bank := { s.bank with supUv := s.bank.supUv.set n false } }
    setSupUv (forSupply s n fun c s => holdEnds s c) n false v
  else s

/-! ## The keeper -/

/-- KEEPER_HOLD in ms (R359). -/
def keeperMs (s : State) : Nat := cfgNat s 0x3001

/-- The chip refreshes the keeper and its TWIN_HB line changes level (R359, R367). -/
def keeperRefresh (s : State) : State :=
  let s := { s with bank := { s.bank with lastRefresh := nowNs s, holding := false } }
  modTwin s fun t => { t with hbLevel := !t.hbLevel }

/-- No refresh has come for KEEPER_HOLD. -/
def keeperDue (s : State) : Bool :=
  s.bank.expiryDue.isNone && decide (s.bank.lastRefresh + keeperMs s * 1000000 ≤ nowNs s)

/-- Coil-class channels that conduct. -/
def coilsOn (s : State) : Nat := ((List.finRange 64).filter fun c => isCoil s c && conducting (chOf s c)).length

/-- The keeper expires (R359, R363): coils off, pauses of coils abandoned, EXPIRE_OFF lamps and loads off. -/
def keeperExpire (s : State) : State :=
  let n := coilsOn s
  let s := { s with bank := { s.bank with expiryDue := some n, keeperExpired := true, holding := false } }
  forChans s fun c s =>
    if keeperOff s c then
      let s := if isCoil s c then modCh s c fun x => { x with pauseEnd := none, retryDue := false } else s
      bankUpdate s c
    else s

/-- The latched expiry is raised when the arbiter next runs, at the read-back of a start (R359, R529), with
the KEEPER_HOLD that it ran by. -/
def raiseExpiry (s : State) (hold : Nat) : State :=
  match s.bank.expiryDue with
  | none => s
  | some n => emit s 17 3 0x03 true true chipScope (word (fld (min n 0xFFFF) 16 + hold % 65536))

/-! ## Registers (R364) -/

/-- A mask of the channels from `base` that a test names. -/
def chanMask (base : Nat) (p : Chan → Bool) : Word :=
  word ((List.range 32).foldl (fun m i => if p (Fin.ofNat 64 (base + i)) then m + 2 ^ i else m) 0)

/-- A mask of the four supplies. -/
def supMask (p : Fin 4 → Bool) : Nat := (List.finRange 4).foldl (fun m i => if p i then m + 2 ^ i.val else m) 0

/-- CH_MAP, CH_STATUS of a channel. -/
def chMapWord (m : ChanMap) : Word :=
  word (fld (match m.owner with | some r => r.val | none => 255) 24 + fld m.retryN 20 + fld m.cls.val 18 + fld m.role.val 16
    + m.pullIn % 1024)
def chStatusWord (s : State) (c : Chan) : Word :=
  let x := chOf s c
  word (fld (ofBool x.latched) 31 + fld x.attempts 27 + fld (ofBool x.pauseEnd.isSome) 26 + fld (ofBool x.dtHold) 25
    + fld (ofBool (s.bank.supUv[supplyOf c] && x.cmd != 0)) 24 + fld (ofBool x.openLoad) 23 + fld (ofBool x.extDriven) 22
    + fld x.drive.toNat 17)

/-- CH_FLAGS of a channel. -/
def chFlagsWord (x : ChanSt) : Word := word (fld (ofBool x.holdLong) 5 + x.flags.toNat % 32)

/-- The live word of the switch bank at an offset. -/
def bankRead (s : State) (off : Nat) : Word :=
  let b := s.bank
  match off with
  | 0x00 => word (fld (supMask fun i => b.supUv[i]) 28 + fld (supMask fun i => decide (800 < (b.supV[i]).toNat)) 24
      + fld (ofBool b.keeperExpired) 2 + fld (ofBool b.holding) 1 + ofBool s.sever.observed)
  | 0x04 => word (ofBool b.severOnHeld)
  | 0x08 => cfgGet s 0x3001
  | 0x0C => cfgGet s 0x3002
  | 0x10 => (b.supV[0]).setWidth 32
  | 0x14 => (b.supV[1]).setWidth 32
  | 0x18 => (b.supV[2]).setWidth 32
  | 0x1C => (b.supV[3]).setWidth 32
  | 0x20 => word (fld b.lastCh.val 8 + b.lastStatus.toNat)
  | 0x30 => chanMask 0 fun c => (chOf s c).latched
  | 0x34 => chanMask 32 fun c => (chOf s c).latched
  | 0x38 => chanMask 0 fun c => conducting (chOf s c)
  | 0x3C => chanMask 32 fun c => conducting (chOf s c)
  | off =>
    if 0x1000 ≤ off ∧ off < 0x1800 then
      let c : Chan := Fin.ofNat 64 ((off - 0x1000) / 32)
      let x := chOf s c
      if hasChan s c then
        match off % 32 with
        | 0x00 => word (fld x.duty.toNat 16 + x.cmd.toNat)
        | 0x04 => chMapWord (mapOf s c)
        | 0x08 => x.opt
        | 0x0C => chStatusWord s c
        | 0x10 => chFlagsWord x
        | 0x14 => word (fld x.ocCount 16 + x.dtCount)
        | _ => 0
      else 0
    else 0

/-- CH_OPT as written: PWM_FREQ 0b11 takes 0b01 (R364). -/
def setChOpt (s : State) (who : Writer) (c : Chan) (v : Word) : State :=
  let v := v &&& 0xFFFF003C
  let x := if bitsOf v 5 4 = 3 then v &&& 0xFFFFFFDF else v
  let s := if x = v then s else clampReg s who (0x41008 + 0x20 * c.val) v x 0x05
  bankUpdate (modCh s c fun y => { y with opt := x }) c

/-- A write of a bank register, CH_CMD apart (R364). -/
def bankWrite (s : State) (who : Writer) (off : Nat) (v : Word) : State :=
  match off with
  | 0x00 => if v.getLsbD 2 then { s with bank := { s.bank with keeperExpired := false } } else s
  | 0x04 => { s with bank := { s.bank with severOnHeld := v.getLsbD 0 } }
  | 0x08 => writeSetting s who 0x40008 0x3001 (word (bitsOf v 12 0))
  | 0x0C => reshapeAll (writeSetting s who 0x4000C 0x3002 (word (bitsOf v 14 0)))
  | off =>
    if 0x1000 ≤ off ∧ off < 0x1800 then
      let c : Chan := Fin.ofNat 64 ((off - 0x1000) / 32)
      if hasChan s c then
        match off % 32 with
        | 0x08 => setChOpt s who c v
        | 0x10 => setFlags s c fun x => { x with
            flags := x.flags &&& ~~~(v.setWidth 6), holdLong := x.holdLong && !(v.getLsbD 5) }
        | _ => s
      else s
    else s

/-! ## The commands -/

/-- The time for which a channel is held at its current limit, in ns (R352): a lamp that has conducted for less than 50 ms and
the hold itself is held longer. -/
def limitHold (s : State) (c : Chan) : Nat := if isLamp s c ∧ nowNs s < (chOf s c).since + 60000000 then 10000000 else 100000

/-- The channel has conducted for as long as the limit holds it before a shut-off (R352). -/
def limitHeld (s : State) (c : Chan) : Bool := decide ((chOf s c).since + limitHold s c ≤ nowNs s)

/-- OC_SHUTOFF (R352): of a channel that conducts, or of one that a ΔT trip cut in the same clock (R356). -/
def execOcShutoff (ch : Chan) (s : State) : Out :=
  bankRun s fun s =>
    let x := chOf s ch
    if limitHeld s ch then
      (if conducting x then ocShutoff s ch
       else match x.dtCut with
         | some a => if x.dtHold && x.dtSince == nowNs s then ocShutoff (modCh s ch fun x => { x with dtCut := none, attempt := a }) ch else s
         | none => s)
    else s
def execRetryPauseEnd (ch : Chan) (s : State) : Out := bankRun s fun s => if pauseDue s ch then retryPauseEnd s ch else s
def execAttemptCountReset (ch : Chan) (s : State) : Out :=
  bankRun s fun s =>
    if conducting (chOf s ch) && decide ((chOf s ch).since + 1000000000 ≤ nowNs s) then
      modCh s ch fun x => { x with attempts := 0, attempt := none }
    else s
def execDtTrip (ch : Chan) (s : State) : Out := bankRun s fun s => if (chOf s ch).dtHold then s else dtTrip s ch
def execDtRelease (ch : Chan) (s : State) : Out := bankRun s fun s => if (chOf s ch).dtHold then dtRelease s ch else s
def execHoldLongTimer (ch : Chan) (s : State) : Out :=
  bankRun s fun s =>
    if (chOf s ch).dtHold && decide ((chOf s ch).dtSince + 10000000000 < nowNs s) then
      setFlags s ch fun x => { x with holdLong := true }
    else s
def execOpenLoadDetect (ch : Chan) (ext : Bool) (s : State) : Out :=
  bankRun s fun s =>
    let x := chOf s ch
    if optOpenLoad x && !(conducting x) && !(s.bank.supUv[supplyOf ch]) then
      setFlags s ch fun x => { x with openLoad := !ext, extDriven := ext, flags := x.flags ||| 0x02 }
    else s
def execOpenLoadClear (ch : Chan) (s : State) : Out :=
  bankRun s fun s => setFlags s ch fun x => { x with openLoad := false, extDriven := false }
def execCoilSupplyUv (n : Fin 4) (v : Half) (s : State) : Out := bankRun s fun s => supplyFalls s n v
def execCoilSupplyRestore (n : Fin 4) (v : Half) (s : State) : Out := bankRun s fun s => supplyRestores s n v
def execCoilSupplyPresentChange (n : Fin 4) (v : Half) (s : State) : Out := bankRun s fun s => setSupV s n v
def execKeeperRefresh (s : State) : Out := run s keeperRefresh
def execKeeperExpiry (s : State) : Out := bankRun s fun s => if keeperDue s then keeperExpire s else s

end Sys2Proof.Machine
end

