-- ==== Sys2Proof/Machine/Protect.lean ====
section
/-! DEFINITION. Protection, contactors and pre-charge: the region engine, the fast trip and the sever line (R320-R345),
with the readings of log entry 17. -/
namespace Sys2Proof.Machine

/-! ## The engine's parts -/

/-- The settings field `i` of region `r`, as a number and signed. -/
def reSet (s : State) (r : Region) (i : Nat) : Nat := cfgNat s (regId r.val i)
def reSetI (s : State) (r : Region) (i : Nat) : Int := cfgInt s (regId r.val i)

def reOf (s : State) (r : Region) : Engine := (rgOf s r).re

/-- An event of region engine `r` (R528), which also enters the region's own ring (R137). -/
def emitRe (s : State) (r : Region) (level e : Nat) (keep marked : Bool) (args : Nat) : State :=
  let seq := s.arb.seq + 1
  let s := emit s (r.val + 1) level e keep marked (regionScope r) (word args)
  let ev : Event := ⟨seq, eventCode level keep (r.val + 1) e, regionScope r, word args⟩
  let s := modRg s r fun x => { x with
    events := (x.events ++ [ev]).drop (x.events.length - 63)
    gone := ((x.events.take (x.events.length - 63)).map Event.seq) ++ x.gone }
  forWorkers s fun w s =>
    match waitOf (wkOf s w) with
    | some (.swpRevt d q addr) =>
      if q = r then (match revtDeliver s w d r addr with
        | some k => setWk s w (makeReady k)
        | none => s) else s
    | _ => s

/-- Frames that do not cross while the link is lost (R383). -/
def crosses (lost : Bool) : TwinOut → Bool
  | .digest _ | .openOrder _ _ => !lost
  | _ => true

/-- A frame to the twin when a session is open. -/
def pairSend (s : State) (x : TwinOut) : State := if s.twin.session && crosses s.twin.linkLost x then twinSend s x else s

/-- The numbers of the region states (R326). -/
def reNum : ReState → Nat
  | .opened => 0
  | .negClosed => 1
  | .precharging => 2
  | .precharged => 3
  | .closedPre => 4
  | .closed => 5
  | .opening => 6
  | .weldCheck => 7
  | .isolated => 8

/-- The codes of the causes (R344). -/
def causeNum : Cause → Nat
  | .none => 0
  | .cellOv => 1
  | .cellUv => 2
  | .cellOt => 3
  | .cellUt => 4
  | .ocPeak => 5
  | .i2t => 6
  | .incomplete => 7
  | .aux => 8
  | .sever => 9
  | .p0Trap => 10
  | .twin => 11
  | .circ => 12
  | .weld => 13

/-- The cause of a code; 0 and codes without a name stand for TWIN in an isolating order (R374). -/
def causeOf : Nat → Cause
  | 1 => .cellOv
  | 2 => .cellUv
  | 3 => .cellOt
  | 4 => .cellUt
  | 5 => .ocPeak
  | 6 => .i2t
  | 7 => .incomplete
  | 8 => .aux
  | 9 => .sever
  | 10 => .p0Trap
  | 12 => .circ
  | 13 => .weld
  | _ => .twin

/-- The cause of a state transfer's CAUSE, where 0 says that nothing has isolated the region (R344, R379). -/
def causeHeld (n : Nat) : Cause := if n = 0 then .none else causeOf n

/-- States in which a contactor of the region may be closed, for another region's weld check (R337). -/
def partClosed : ReState → Bool
  | .precharging | .precharged | .closedPre | .closed | .opening => true
  | _ => false

/-- CLOSED_PRE and CLOSED (R329). -/
def fullClosed : ReState → Bool
  | .closedPre | .closed => true
  | _ => false

/-- States 0x1 to 0x6: a contactor is driven (R326). -/
def isOpenable : ReState → Bool
  | .opened | .weldCheck | .isolated => false
  | _ => true

/-- The span of the closed states as the region changes state (R329). -/
def noteClosed (now : Nat) (st : ReState) (e : Engine) : Engine :=
  match e.closedAt with
  | none => if fullClosed st then { e with closedAt := some now } else e
  | some a => if fullClosed st then e else { e with closedAt := none, wasFrom := a, wasUntil := now }

/-- The engine enters a state; a region that closes is noted by the weld checks of the others (R326, R337). -/
def reEnter (s : State) (r : Region) (st : ReState) : State :=
  let now := nowNs s
  let s := modRe s r fun e => noteClosed now st { e with state := st }
  if partClosed st then
    forRegions s fun q s =>
      if q = r then s else modRe s q fun e => { e with weld := e.weld.map fun w => { w with otherClosed := true } }
  else s

/-- Some other region satisfies a test. -/
def someOther (s : State) (r : Region) (p : Engine → Bool) : Bool :=
  (List.finRange 16).any fun q => q != r && hasRegion s q && p (reOf s q)

/-- The region was in CLOSED_PRE or CLOSED at a time (R329). -/
def wasClosed (t : Nat) (e : Engine) : Bool :=
  (match e.closedAt with
   | some a => decide (a ≤ t)
   | none => false) || decide (e.wasFrom ≤ t ∧ t < e.wasUntil)

/-! ## Orders of the engine -/

/-- The region's order queue holds its 16 orders (R248). -/
def ordersFull (s : State) (r : Region) : Bool := decide (16 ≤ (rgOf s r).orders.length)

/-- A submission that a full queue refuses (R248). -/
def orderRefused (s : State) (r : Region) (code : Byte) : State :=
  modRg s r fun x => { x with queueFull := inc16 x.queueFull, lastOrder := code, ordResult := 0x02 }

/-- An order that the region engine submits itself (log entry 17): a capture goes ahead of every other, a PRE_STREAM
behind the captures, any other at the tail (R250, R329); a full queue refuses it (R248). -/
def pushOwnOrder (s : State) (r : Region) (o : Order) (head : Bool) : State :=
  if ordersFull s r then orderRefused s r o.code
  else modRg s r fun x =>
    if head then
      { x with orders := (x.orders.filter fun y => y.code == 3) ++ [o] ++ x.orders.filter fun y => y.code != 3 }
    else { x with orders := x.orders ++ [o] }

def ownOrder (code : Byte) (arg0 : Word) (ref : Nat) : Order := ⟨code, 1, arg0, 0, [], 0, 0, ref, []⟩

/-- PRE_STOP (R326); the stream ends with it (R261), and runs on when a full queue refuses it. -/
def preStop (s : State) (r : Region) : State :=
  let full := ordersFull s r
  modRg (pushOwnOrder s r (ownOrder 0x05 0 0) false) r fun x => { x with streaming := x.streaming && full }

/-! ## Step results -/

/-- The steps' codes (R147). -/
def stepResult (s : State) (r : Region) (code : Nat) (ticket : Half) (result : Nat) : State :=
  emitRe s r 1 0x02 false true (fld ticket.toNat 16 + fld code 12 + result)

/-- RE_DETAIL of a step that ended FAILED (R344). -/
def setDetail (s : State) (r : Region) (code : Nat) (ticket : Half) (cause : Nat) : State :=
  modRe s r fun e => { e with detailStep := BitVec.ofNat 4 code, detailCause := BitVec.ofNat 8 cause, detailTicket := ticket }

/-- CHECK_FAIL to the twin (R374). -/
def sendCheckFail (s : State) (r : Region) (ticket : Half) (result : Nat) : State :=
  pairSend s (.openOrder ⟨r, false, 0, BitVec.ofNat 8 result, ticket⟩ true)

/-- An open order to the twin (R36, R374). -/
def sendOpen (s : State) (r : Region) (iso : Option Cause) (result : Nat) (ticket : Half) : State :=
  pairSend s (.openOrder ⟨r, iso.isSome, BitVec.ofNat 8 (causeNum (iso.getD .none)), BitVec.ofNat 8 result, ticket⟩ false)

/-- The step in progress ends (R147, R148): its result event; RE_DETAIL when FAILED; the outcome of a PRECHARGE or
CLOSE_POS is kept, and CHECK_FAIL sent when it failed (R342, R374). -/
def stepEnd (s : State) (r : Region) (result cause : Nat) : State :=
  match (reOf s r).step with
  | none => s
  | some (code, ticket) =>
    let s := modRe s r fun e => { e with step := none, confirm := none }
    let s := if result = 6 then setDetail s r code.toNat ticket cause else s
    let s := stepResult s r code.toNat ticket result
    if code = 2 ∨ code = 3 then
      let s := modRe s r fun e => { e with passed := ((ticket, decide (result = 0)) :: e.passed).take 16 }
      if result = 6 ∨ result = 7 then sendCheckFail s r ticket result else s
    else s

/-- An open overtakes the step in progress, unless it is a weld check (R149, R327). -/
def overtake (s : State) (r : Region) : State :=
  match (reOf s r).step with
  | some (8, _) => s
  | _ => stepEnd s r 8 0

/-! ## Coils and auxiliary inputs (R325) -/

/-- The channels of a role of the region: 1 negative, 2 pre-charge, 3 positive (R164). -/
def roleChans (s : State) (r : Region) (role : Nat) : List Chan :=
  (List.finRange 64).filter fun c => (mapOf s c).owner == some r && decide ((mapOf s c).role.val = role) && hasChan s c

/-- Command the channels of a role. -/
def roleCmd (s : State) (r : Region) (role : Nat) (on : Bool) : State :=
  (roleChans s r role).foldl (fun s c => bankCmd s c (ofBool on) 0) s

/-- The DIN of an auxiliary input (R344): 0x3F none. -/
def auxDin (e : Engine) (pos : Bool) : Nat := if pos then bitsOf e.auxCfg 11 6 else bitsOf e.auxCfg 5 0

/-- The auxiliary input is configured. -/
def auxOn (e : Engine) (pos : Bool) : Bool := decide (auxDin e pos < 32)

/-- The input after inversion: true when it says closed. -/
def auxLevel (s : State) (r : Region) (pos : Bool) : Bool :=
  let e := reOf s r
  auxOn e pos && (s.din.getLsbD (auxDin e pos) != e.auxCfg.getLsbD (if pos then 13 else 12))

/-- The commanded state of a contactor. -/
def coilCmd (e : Engine) (pos : Bool) : Bool := if pos then e.coilS else e.coilN

/-- The end of AUX_TIME of an input. -/
def auxAt (e : Engine) (pos : Bool) : Option Nat := if pos then e.auxPosAt else e.auxNegAt
def setAuxAt (e : Engine) (pos : Bool) (t : Option Nat) : Engine := if pos then { e with auxPosAt := t } else { e with auxNegAt := t }

/-- The code of the close step of a contactor. -/
def closeCode (pos : Bool) : BitVec 4 := if pos then 3 else 1

/-- The step that waits for its contactor passes (R326); after CLOSE_POS, PRE_AUTO_OFF runs for 5 s. -/
def closePasses (s : State) (r : Region) (pos : Bool) : State :=
  let now := nowNs s
  let s := stepEnd s r 0 0
  if pos then modRe s r fun e => { e with autoOffAt := if e.state = .closedPre then some (now + 5000000000) else none } else s

/-- The auxiliary check of one contactor (R321, R325): a difference starts AUX_TIME, agreement ends it, and agreement
on a closed contactor confirms the close step that waits for it. -/
def auxCheck (s : State) (r : Region) (pos : Bool) : State :=
  let e := reOf s r
  if auxOn e pos = false then modRe s r fun e => setAuxAt e pos none
  else if auxLevel s r pos ≠ coilCmd e pos then
    let t := (auxAt e pos).getD (nowNs s + reSet s r 0x0A * 1000000)
    modRe s r fun e => setAuxAt e pos (some t)
  else
    let s := modRe s r fun e => setAuxAt e pos none
    match e.confirm with
    | some (code, _) => if code = closeCode pos ∧ coilCmd e pos = true then closePasses s r pos else s
    | none => s

/-- Both auxiliary inputs. -/
def auxBoth (s : State) (r : Region) : State := auxCheck (auxCheck s r false) r true

/-- Drive a contactor of the region on or off (R325, R326). -/
def coilSet (s : State) (r : Region) (role : Nat) (on : Bool) : State :=
  let s := roleCmd s r role on
  match role with
  | 1 => auxCheck (modRe s r fun e => { e with coilN := on }) r false
  | 2 => modRe s r fun e => { e with coilP := on }
  | _ => auxCheck (modRe s r fun e => { e with coilS := on }) r true

/-- The close step of a contactor switches it on and waits for its auxiliary input, or for its pull-in (R325). A role
without a channel has no pull-in and completes at once. -/
def closeCoil (s : State) (r : Region) (pos : Bool) (ticket : Half) : State :=
  let s := modRe s r fun e => { e with confirm := some (closeCode pos, ticket) }
  let role := if pos then 3 else 1
  let s := coilSet s r role true
  if auxOn (reOf s r) pos = false ∧ (roleChans s r role).isEmpty then closePasses s r pos else s

/-! ## Opening (R328, R334, R336) -/

/-- Withdraw what an open ends: the pre-charge, the stream, the waits (R261, R402). -/
def dropWaits (s : State) (r : Region) : State :=
  let s := withdrawZero s r
  modRg s r fun x => { x with
    streaming := false
    re := { x.re with pre := none, confirm := none, circEnd := none, autoOffAt := none } }

/-- The weld check begins (R337), at the switching of the negative contactor or from a step. -/
def weldStart (s : State) (r : Region) (ticket : Half) : State :=
  let now := nowNs s
  let fin := now + reSet s r 0x14 * 1000000
  let others := someOther s r fun e => partClosed e.state
  modRe s r fun e => { e with weld := some ⟨ticket, now, fin, false, false, none, none, others, 0⟩ }

/-- The positive contactor and the pre-charge relay go off together, the negative 20 ms later (R328). -/
def switchOff (s : State) (r : Region) : State :=
  let due := nowNs s + 20000000
  let s := dropWaits s r
  let s := reEnter s r .weldCheck
  let s := coilSet s r 3 false
  let s := coilSet s r 2 false
  modRe s r fun e => { e with negOffAt := some due }

/-- The negative contactor goes off, and its weld check starts (R328, R337). -/
def negOff (s : State) (r : Region) : State :=
  let s := modRe s r fun e => { e with negOffAt := none }
  weldStart (coilSet s r 1 false) r 0

/-- The region becomes isolated; CAUSE keeps the first cause (R324). -/
def isolateNow (s : State) (r : Region) (c : Cause) : State :=
  reEnter (modRe s r fun e => { e with isolates := none, cause := if e.cause = .none then c else e.cause }) r .isolated

/-- Note an isolation that waits for the open or the check in progress. -/
def isolateLater (s : State) (r : Region) (c : Cause) : State :=
  modRe s r fun e => { e with isolates := some (e.isolates.getD c) }

/-- A region that is open, in its weld check or isolated takes an isolation (R324): a check in progress finishes first. -/
def isolateOpen (s : State) (r : Region) (iso : Option Cause) : State :=
  match iso, (reOf s r).state with
  | some c, .opened => if (reOf s r).weld.isSome then isolateLater s r c else isolateNow s r c
  | some c, .weldCheck => isolateLater s r c
  | _, _ => s

/-! ## The sever line (R341, R345) -/

/-- The line goes low: no coil-class output of this twin conducts (R36, R341). -/
def lineFalls (s : State) : State :=
  let now := nowNs s
  bankUpdateAll { s with sever := { s.sever with lineLow := true, lowAt := if s.sever.lineLow then s.sever.lowAt else now } }

/-- This module asserts SEVER_N. -/
def severAssert (s : State) : State :=
  let now := nowNs s
  lineFalls { s with sever := { s.sever with ownHold := true, assertedAt := if s.sever.ownHold then s.sever.assertedAt else now } }

/-- CMD_HOLD is set (R341). -/
def severCmd (s : State) : State := severAssert { s with sever := { s.sever with cmdHold := true } }

/-- A stopped twin's keeper may still hold the coils: KEEPER_HOLD from the loss of the twin has not passed (R361). -/
def twinKeeperHolds (s : State) : Bool :=
  match s.twin.lostAt with
  | some t => decide (nowNs s < t + keeperMs s * 1000000)
  | none => false

/-- An open becomes a sever under SEVER_ON_HELD (R361). -/
def opensAsSever (s : State) : Bool := s.bank.severOnHeld && twinKeeperHolds s

/-- An emergency open of the region (R328), isolating for a cause when one is given, with the open order to the twin.
`ticket` is 0 for an open without a step. -/
def emergency (s : State) (r : Region) (iso : Option Cause) (ticket : Half) (severs : Bool) : State :=
  if isOpenable (reOf s r).state then
    let s := overtake s r
    let s := match iso with
      | some c => isolateLater s r c
      | none => s
    let s := if severs && opensAsSever s then severCmd s else s
    sendOpen (switchOff s r) r (reOf s r).isolates 0 ticket
  else
    let sends := iso.isSome && (reOf s r).state != .isolated
    let s := isolateOpen s r iso
    if sends then sendOpen s r iso 0 0 else s

/-- A floor verdict of a kind is raised and counted (R323, R324, R528). -/
def verdictNote (s : State) (r : Region) (c : Cause) (sweep : Nat) : State :=
  let s := emitRe s r 3 0x00 true true (fld (causeNum c) 24 + sweep % 16777216)
  let s := modRe s r fun e => { e with verdicts := inc16 e.verdicts }
  modTwin s fun t => { t with verdicts := t.verdicts ||| (1 <<< r.val) }

/-- What verdicts do to the region (R324): it opens and isolates, the first cause kept. -/
def verdictAct (s : State) (r : Region) (cs : List Cause) : State := cs.foldl (fun s c => emergency s r (some c) 0 true) s

/-- A floor verdict of a kind. -/
def verdict (s : State) (r : Region) (c : Cause) (sweep : Nat) : State := verdictAct (verdictNote s r c sweep) r [c]

/-- The zero-current frame (R334, R335): its image when EN is set; ZC_BAD when it cannot be sent. -/
def sendZeroFrame (s : State) (r : Region) : State :=
  let e := reOf s r
  if e.zcCtrl.getLsbD 2 then
    let port : Fin 4 := Fin.ofNat 4 (bitsOf e.zcCtrl 1 0)
    let img := (e.zcImage.toList.map fun w => bytesLE 4 w.toNat).flatten
    let x := sendZero s r port img
    if x.2 then x.1 else emitRe x.1 r 2 0x0D false true port.val
  else s

/-- A planned open (R334): the wait begins, or an earlier wait is taken over (R326). -/
def planned (s : State) (r : Region) (limitMs : Nat) (iso : Option Cause) (ticket : Option Half) : State :=
  let due := nowNs s + limitMs * 1000000
  let st := (reOf s r).state
  let note (s : State) : State := match iso with
    | some c => isolateLater s r c
    | none => s
  let take (s : State) : State := match ticket with
    | some t => modRe s r fun e => { e with step := some (5, t) }
    | none => s
  if st = .opening then
    let s := stepEnd s r 8 0
    let s := modRe s r fun e => { e with openLimit := min e.openLimit due }
    take (note s)
  else if isOpenable st then
    let s := overtake s r
    let s := modRg s r fun x => { x with re := { x.re with pre := none, autoOffAt := none, openLimit := due } }
    let s := reEnter s r .opening
    sendZeroFrame (take (note s)) r
  else
    let s := isolateOpen s r iso
    match ticket with
    | some t => stepResult s r 5 t 0
    | none => s

/-- The wait of OPENING ends (R334): its step ends, this twin switches off, and the order goes to the twin. The step's result
is numbered before what the bank raises in the same clock (R28). -/
def openingEnds (s : State) (r : Region) (result : Nat) : State :=
  if (reOf s r).state = .opening then
    let ticket := match (reOf s r).step with
      | some (_, t) => t
      | none => 0
    let s := switchOff (stepEnd s r result 0) r
    sendOpen s r (reOf s r).isolates result ticket
  else s

/-- A final trap of a P0 worker (R94): planned open and isolation. -/
def p0Open (s : State) (r : Region) : State := planned s r (reSet s r 0x12) (some .p0Trap) none

/-- An open order from the twin (R374): at once, no order sent back; the planned open's step ends with its result. -/
def takeOpenOrder (s : State) (o : OpenOrder) : State :=
  let r := o.region
  let iso := if o.isolate then some (causeOf o.cause.toNat) else none
  if isOpenable (reOf s r).state then
    let s := match (reOf s r).step with
      | some (5, _) => stepEnd s r o.result.toNat 0
      | _ => overtake s r
    let s := match iso with
      | some c => isolateLater s r c
      | none => s
    switchOff s r
  else isolateOpen s r iso

/-- Both twins fail a close step together, or both open (R342). -/
def peerCheckFails (s : State) (r : Region) : State := emergency s r (some .twin) 0 false

/-- A CHECK_FAIL order (R374): acted on by this twin's own step of that ticket, now or once it has been judged. -/
def takeCheckFail (s : State) (o : OpenOrder) : State :=
  match (reOf s o.region).passed.find? fun p => p.1 == o.ticket with
  | some p => if p.2 then peerCheckFails s o.region else s
  | none => modRe s o.region fun e => { e with peerFailed := (o.ticket :: e.peerFailed).take 16 }

/-- A PRECHARGE or CLOSE_POS has passed: a CHECK_FAIL that came before is acted on (R374). -/
def settlePeer (s : State) (r : Region) (ticket : Half) : State :=
  if (reOf s r).peerFailed.any fun t => t == ticket then
    let s := modRe s r fun e => { e with peerFailed := e.peerFailed.filter fun t => t != ticket }
    if ((reOf s r).passed.find? fun p => p.1 == ticket) == some (ticket, true) then peerCheckFails s r else s
  else s

/-- Settle every CHECK_FAIL order that this twin has judged since. -/
def settlePeers (s : State) (r : Region) : State := (reOf s r).peerFailed.foldl (fun s t => settlePeer s r t) s

/-- SEVER_N is low (R341): the engine follows the coils that the bank switched off. -/
def severRegion (s : State) (r : Region) : State :=
  let e := reOf s r
  if e.state = .isolated then s
  else if e.state = .opened then isolateOpen s r (some .sever)
  else
    let s := isolateLater s r .sever
    let s := if e.state = .weldCheck then s else switchOff (overtake s r) r
    if (reOf s r).negOffAt.isSome then negOff s r else s

/-! ## Weld check (R337) -/

/-- The check's result: 0 CONFIRMED, 1 WELDED, 2 UNCONFIRMED. -/
def weldVerdict (w : WeldSt) (openI : Nat) : Nat :=
  let last := match w.closing with
    | some (i, _) => some i
    | none => w.lastCur
  let quiet := match last with
    | some i => decide (i < openI)
    | none => false
  let closingLoud := match w.closing with
    | some (i, _) => decide (openI ≤ i)
    | none => false
  let closingReach := match w.closing with
    | some (_, x) => x
    | none => false
  if w.reached && quiet then 0
  else if last.isNone then 2
  else if closingLoud || (!w.reached && !closingReach && !w.otherClosed) then 1
  else 2

/-- The weld check ends with its result (R337): the step's result event is numbered before WELD_RESULT (R28). -/
def weldJudge (s : State) (r : Region) (w : WeldSt) : State :=
  let res := weldVerdict w (reSet s r 0x11)
  let s := modRe s r fun e => { e with
    weld := none
    welded := if res = 0 then false else if res = 1 then true else e.welded
    weldUnconf := if res = 0 then false else if res = 2 then true else e.weldUnconf
    weldFails := if res = 0 then e.weldFails else inc16 e.weldFails }
  let s := if w.ticket = 0 then s else stepEnd s r (if res = 0 then 0 else 6) (if res = 1 then 7 else 8)
  let s := emitRe s r 2 0x03 true true (fld w.ticket.toNat 16 + res)
  let e := reOf s r
  let iso := match e.isolates with
    | some c => some c
    | none => if res = 1 then some .weld else none
  match e.state, iso with
  | .isolated, _ => s
  | .opened, some c => isolateNow s r c
  | .weldCheck, some c => isolateNow s r c
  | .weldCheck, none => reEnter s r .opened
  | _, _ => s

/-- A sample with head values: its time, current, and the voltage across the string path (R337). -/
abbrev HeadSample := Nat × Int × Int × Int

/-- The check takes one sample (R337). -/
def weldSample (weldV : Nat) (w : WeldSt) (x : HeadSample) : WeldSt :=
  let reach := decide (weldV ≤ (x.2.2.1 - x.2.2.2).natAbs)
  if x.1 < w.startAt ∨ w.closing.isSome then w
  else if x.1 ≤ w.endAt then { w with reached := w.reached || reach, lastCur := some x.2.1.natAbs }
  else { w with closing := some (x.2.1.natAbs, reach) }

/-- The check takes the samples of a closed frame that began at `origin` (R337). -/
def weldFeed (s : State) (r : Region) (origin : Nat) (xs : List HeadSample) : State :=
  let v := reSet s r 0x13
  modRe s r fun e => { e with weld := e.weld.map fun w =>
    let w := xs.foldl (weldSample v) w
    if w.endAt < origin then { w with frames := w.frames + 1 } else w }

/-- The check can be judged (R337). -/
def weldReady (s : State) (r : Region) (w : WeldSt) : Bool :=
  w.closing.isSome || decide (3 ≤ w.frames) || ((rgOf s r).map.isNone && decide (w.endAt ≤ nowNs s))

/-! ## Pre-charge (R329-R333) -/

/-- log2 of x / 2^40 in 1/2^32, for x in [2^40, 2^41): one bit a step. -/
def log2Bits : Nat → Nat → Nat → Nat
  | 0, _, acc => acc
  | n + 1, x, acc =>
    let y := x * x / 2 ^ 40
    if 2 ^ 41 ≤ y then log2Bits n (y / 2) (2 * acc + 1) else log2Bits n y (2 * acc)

/-- ln(a / b) in 1/2^32, for a ≥ b > 0. -/
def lnRatio (a b : Nat) : Nat :=
  let k := Nat.log2 (a / b)
  (k * 2 ^ 32 + log2Bits 32 (a * 2 ^ 40 / (b * 2 ^ k)) 0) * 2977044472 / 2 ^ 32

/-- What a judgement of the stream came to: nothing yet, DONE, or FAILED with a detail cause. -/
inductive PreRes where
  | more
  | done
  | fail (cause : Nat)
deriving DecidableEq, Repr

/-- The settings of a pre-charge, and the free value of a τ that the rule does not give (log entry 17). -/
structure PreSet where
  tauMin : Nat
  tauMax : Nat
  doneV : Nat
  parW : Nat
  open' : Nat
deriving DecidableEq, Repr

/-- The measured time constant in ms from two times in ns, rounded to the nearest (R330); a free value where the two points are one. -/
def preTau (c : PreSet) (t1 a1 t2 a2 : Nat) : Nat :=
  if a2 = 0 then 0
  else if lnRatio a1 a2 = 0 then c.open'
  else (2 * (t2 - t1) * 2 ^ 32 + 1000000 * lnRatio a1 a2) / (2000000 * lnRatio a1 a2)

/-- One stream sample of a DEAD pre-charge (R330): the judgement's points and result, and τ when it is measured. -/
def deadStep (c : PreSet) (p : PreSt) (dv0 : Int) (t : Nat) (dv : Int) : PreSt × PreRes × Option Nat :=
  let a := dv.natAbs
  let p := if p.t1.isNone ∧ 10 * a ≤ 8 * dv0.natAbs then { p with t1 := some (t, a) } else p
  match p.t1, p.t2 with
  | some (t1, a1), none =>
    if 10 * a ≤ 3 * dv0.natAbs then
      let tau := preTau c t1 a1.natAbs t a
      let p := { p with t2 := some (t, a) }
      if tau < c.tauMin then (p, .fail 1, some tau)
      else if c.tauMax < tau ∨ 981000 * c.tauMax < t - t1 then (p, .fail 2, some tau)
      else (p, if a ≤ c.doneV then .done else .more, some tau)
    else if 981000 * c.tauMax < t - t1 then (p, .fail 2, none)
    else (p, .more, none)
  | some _, some _ => (p, if a ≤ c.doneV then .done else .more, none)
  | none, _ => (p, .more, none)

/-- One stream sample of a LIVE pre-charge (R331). -/
def liveStep (c : PreSet) (p : PreSt) (dv : Int) : PreSt × PreRes :=
  let n := if dv.natAbs ≤ c.parW then p.run + 1 else 0
  ({ p with run := n }, if 100 ≤ n then .done else .more)

/-- A stream sample: its time in ns, current, string and bus voltage. -/
abbrev StreamSample := Nat × Int × Int × Int
def sampleDv (x : StreamSample) : Int := x.2.2.1 - x.2.2.2

/-- The judgement over the samples of one close (R329-R331): the pre-charge, ΔV0 and mode, τ, and the result. -/
def preJudge (c : PreSet) (others : Bool) : List StreamSample → PreSt → Option Nat → PreSt × Option Nat × PreRes
  | [], p, tau => (p, tau, .more)
  | x :: t, p, tau =>
    let dv := sampleDv x
    match p.dv0 with
    | none =>
      let live := others || decide (x.2.2.1.natAbs ≤ 2 * x.2.2.2.natAbs)
      let p := { p with dv0 := some dv, live := live }
      if live = false ∧ dv.natAbs ≤ c.doneV then (p, some (tau.getD 0), .done)
      else if live then
        match liveStep c p dv with
        | (p, .more) => preJudge c others t p (some 0)
        | (p, res) => (p, some 0, res)
      else preJudge c others t p tau
    | some d0 =>
      if p.live then
        match liveStep c p dv with
        | (p, .more) => preJudge c others t p tau
        | (p, res) => (p, tau, res)
      else
        match deadStep c p d0 x.1 dv with
        | (p, .more, u) => preJudge c others t p (if u.isSome then u else tau)
        | (p, res, u) => (p, if u.isSome then u else tau, res)

/-- The settings of the region's pre-charge. -/
def preSetOf (s : State) (r : Region) : PreSet :=
  ⟨reSet s r 0x0B, reSet s r 0x0C, reSet s r 0x0D, reSet s r 0x0F, (Config.freeWord s.free).toNat⟩

/-- The pre-charge relay goes off where it is driven. -/
def relayOff (s : State) (r : Region) : State := if (reOf s r).coilP then coilSet s r 2 false else s

/-- What ends a PRECHARGE without success, the relay apart: PRE_STOP and the result. -/
def preEnds (s : State) (r : Region) (result cause : Nat) : State :=
  let s := modRe (preStop s r) r fun e => { e with pre := none }
  let s := if (reOf s r).state = .precharging then reEnter s r .negClosed else s
  stepEnd s r result cause

/-- PRECHARGE ends without success (R326). Its result is numbered before what the bank raises at the relay (R28). -/
def preFail (s : State) (r : Region) (result cause : Nat) : State := relayOff (preEnds s r result cause) r

/-- PRECHARGE ends DONE (R326). -/
def preDone (s : State) (r : Region) (p : PreSt) : State :=
  let s := modRe s r fun e => { e with pre := some { p with judged := true } }
  settlePeers (stepEnd (reEnter s r .precharged) r 0 0) r

/-- PRECHARGE is taken (R329): PRE_STREAM is submitted for PRE_TIMEOUT; refused by a full queue, the pre-charge is
unobserved (log entry 29). -/
def preStart (s : State) (r : Region) (ticket : Half) : State :=
  let dur := reSet s r 0x0E
  let full := ordersFull s r
  let s := modRe s r fun e => { e with pre := some ⟨ticket, none, none, false, none, none, false, none, none, 0, 0, false, none, []⟩ }
  let s := pushOwnOrder s r (ownOrder 0x04 (word dur) ticket.toNat) true
  if full then preFail s r 6 5 else s

/-- The first whole millisecond of network time after a stepless time. -/
def nextMs (s : State) (t : Nat) : Nat :=
  let net := (t : Int) + s.time.off
  (-((-net) / 1000000) * 1000000 - s.time.off).toNat

/-- A stream is running (PRE_STATUS.STREAMING): it ends at its duration in any state (R261). -/
def streamRuns (s : State) (r : Region) : Bool := (rgOf s r).streaming && decide (nowNs s < (rgOf s r).streamEnd)

/-- A frame carries PRE_STREAM (R261, R329): the stream begins at the first whole millisecond after the head acts, and the
relay is due 2 ms after the end of command slot 1. In a stream that runs already the new duration replaces the remainder
(R266), at the second try too; where none ran before, the entry sent once more begins it anew, the head not having acted on the
first (R199). -/
def preCarried (s : State) (r : Region) (sweep : Word) (o : Order) (actAt slotEnd : Nat) : State :=
  let start := nextMs s actAt
  let keep := streamRuns s r && (o.tries == 1 || (rgOf s r).streamKept)
  let s := modRg s r fun x => { x with
    streaming := true, streamKept := keep, streamStart := if keep then x.streamStart else start, streamEnd := start + o.arg0.toNat % 65536 * 1000000 }
  modRe s r fun e => { e with pre := e.pre.map fun p =>
    if p.ticket.toNat = o.ref ∧ p.frame.isNone then { p with frame := some sweep, relayAt := some (slotEnd + 2000000) } else p }

/-- The relay is switched on (R329): the state changes at switching, and PRE_TIMEOUT runs. -/
def relayOn (s : State) (r : Region) : State :=
  let fin := nowNs s + reSet s r 0x0E * 1000000
  let s := modRe s r fun e => { e with pre := e.pre.map fun p => { p with relayOn := true, relayAt := none, limit := some fin } }
  coilSet (reEnter s r .precharging) r 2 true

/-- A frame close judges the pre-charge in progress (R329): `first` is the close of the frame that first carried
PRE_STREAM, `tagged` says that its head record brought the TAG. Samples that a close brings before the relay instant are kept and
judged first at the first close after it (DESIGN CHOICE, log entry 29). -/
def preClose (s : State) (r : Region) (first tagged : Bool) (xs : List StreamSample) : State :=
  match (reOf s r).step, (reOf s r).pre with
  | some (2, _), some p =>
    let misses := if p.frame.isNone then 0 else if xs.isEmpty then p.misses + 1 else 0
    if first && !tagged then preFail s r 6 5
    else if 2 ≤ misses then preFail s r 6 5
    else if p.relayOn = false then
      modRe s r fun e => { e with pre := some { p with misses := misses, early := if p.frame.isNone then [] else p.early ++ xs } }
    else
      let others := someOther s r (wasClosed (rgOf s r).streamStart)
      let j := preJudge (preSetOf s r) others (p.early ++ xs) { p with misses := misses, early := [] } none
      let s := (drawFree s).2
      let s := modRe s r fun e => { e with
        pre := some j.1
        live := j.1.live
        tau := match j.2.1 with
          | some x => word x
          | none => e.tau
        dv0 := match j.1.dv0 with
          | some d => BitVec.ofInt 32 d
          | none => e.dv0 }
      match j.2.2 with
      | .more => s
      | .done => preDone s r j.1
      | .fail c => preFail s r 6 c
  | _, _ => s

/-- CLOSE_POS is judged at the first close after it was taken (R332). -/
def posClose (s : State) (r : Region) (xs : List StreamSample) : State :=
  match (reOf s r).pre with
  | some p =>
    match p.closeTicket with
    | some ticket =>
      let s := modRe s r fun e => { e with pre := some { p with closeTicket := none } }
      let limit := if (reOf s r).live then reSet s r 0x0F else reSet s r 0x0D
      if xs.isEmpty then stepEnd s r 6 5
      else if xs.any fun x => decide (limit < (sampleDv x).natAbs) then stepEnd s r 6 4
      else
        let now := nowNs s
        let s := reEnter s r .closedPre
        let s := if (reOf s r).live then modRe s r fun e => { e with circEnd := some (now + 2000000000) } else s
        settlePeers (closeCoil s r true ticket) r
    | none => s
  | none => s

/-- A CLOSE_POS that waits for its judgement is overtaken (R326). -/
def posOvertaken (s : State) (r : Region) : State :=
  match (reOf s r).step with
  | some (3, _) => if ((reOf s r).pre.bind PreSt.closeTicket).isSome then stepEnd s r 8 0 else s
  | _ => s

/-- OPEN_PRE (R326, R327). The relay is driven in no state in which it switches nothing. The results are numbered before what
the bank raises at the relay (R28). -/
def openPre (s : State) (r : Region) (ticket : Half) : State :=
  let st := (reOf s r).state
  let s := match (reOf s r).step with
    | some (2, _) => preEnds s r 8 0
    | _ =>
      match st with
      | .precharged => reEnter (modRe (posOvertaken (preStop s r) r) r fun e => { e with pre := none }) r .negClosed
      | .closedPre => reEnter (modRe (preStop s r) r fun e => { e with pre := none, autoOffAt := none }) r .closed
      | _ => s
  relayOff (stepResult s r 4 ticket 0) r

/-- Samples of a close watched for circulating current, those taken from the switching of the positive contactor on (R333),
and for the end of OPENING (R334). -/
def currentClose (s : State) (r : Region) (xs : List HeadSample) : State :=
  let circ := match (reOf s r).circEnd with
    | some t => xs.any fun x => decide (t ≤ x.1 + 2000000000 ∧ reSet s r 0x10 < x.2.1.natAbs)
    | none => false
  let s := if circ then emergency s r (some .circ) 0 false else s
  if (reOf s r).state = .opening ∧ (xs.any fun x => decide (x.2.1.natAbs < reSet s r 0x11)) = true
    then openingEnds s r 0 else s

/-! ## Steps (R147, R148, R326) -/

/-- RESTART's conditions (R338). -/
def restartOk (s : State) (r : Region) : Bool :=
  let e := reOf s r
  (match (rgOf s r).held.head? with
   | some x => x.complete
   | none => false)
  && e.viol == 0 && !e.welded && !s.sever.lineLow
  && !(auxLevel s r false) && !(auxLevel s r true)

/-- RESTART in ISOLATED (R338). -/
def restartStep (s : State) (r : Region) : State :=
  if restartOk s r then
    stepEnd (reEnter (modRe s r fun e => { e with
      persist := Vector.replicate 6 0, raised := e.raised / 64 * 64, cause := .none }) r .opened) r 0 0
  else stepEnd s r 6 6

/-- The refusal of a close-direction step, in the order of R148; 0 when it is taken. -/
def ctcRefusal (s : State) (r : Region) (code : Nat) : Nat :=
  let e := reOf s r
  let moves := decide (code ≤ 3)
  if moves && s.sever.lineLow then 9
  else if moves && isYielded s then 5
  else if e.step.isSome then 3
  else if moves && e.state == .isolated then 2
  else
    let ok : Bool := match code with
      | 1 => e.state == .opened
      | 2 => e.state == .negClosed
      | 3 => e.state == .precharged
      | 7 => e.state == .isolated
      | _ => e.state == .opened || e.state == .isolated
    if ok then 0 else 1

/-- A close-direction step that is taken. -/
def ctcClose (s : State) (r : Region) (code : Nat) (ticket : Half) : State :=
  let s := modRe s r fun e => { e with step := some (BitVec.ofNat 4 code, ticket) }
  match code with
  | 1 => closeCoil (reEnter s r .negClosed) r false ticket
  | 2 => preStart s r ticket
  | 3 => modRe s r fun e => { e with pre := e.pre.map fun p => { p with closeTicket := some ticket } }
  | 7 => restartStep s r
  | _ => weldStart s r ticket

/-- The region engine takes a CTC request (R147-R149, R320, R326); `limitMs` is the clamped TIMEOUT. -/
def ctcTake (s : State) (r : Region) (code limitMs : Nat) (ticket : Half) : State :=
  match code with
  | 4 => openPre s r ticket
  | 5 => planned s r (if limitMs = 0 then reSet s r 0x12 else limitMs) none (some ticket)
  | 6 =>
    let s := if isOpenable (reOf s r).state then overtake s r else s
    emergency (stepResult s r 6 ticket 0) r none ticket true
  | _ =>
    if code = 0 ∨ 8 < code then stepResult s r code ticket 4
    else
      let x := ctcRefusal s r code
      if x = 0 then ctcClose s r code ticket else stepResult s r code ticket x

/-- The next step ticket: 1 to 0xFFFF and round (R147). -/
def nextTicket (t : Half) : Half := if t = 0xFFFF then 1 else t + 1

/-! ## Floor protections (R25, R26, R319, R321-R324) -/

/-- The value of a cell that protection uses (R18, R321), none when it counts only toward completeness or is absent (R10). -/
def usedCell (code : BitVec 3) (v : Half) : Option Nat := if code.toNat ≤ 3 ∧ v ≠ 0xFFFF then some v.toNat else none

/-- The used cell values of a node record with `c` configured cells. -/
def usedCells (c : Nat) (n : NodeRec) : List (BitVec 3 × Nat) :=
  ((n.codes.zip n.volts).take c).filterMap fun x => (usedCell x.1 x.2).map fun v => (x.1, v)

/-- The used temperatures of a node record with `t` configured sensors. -/
def usedTemps (t : Nat) (n : NodeRec) : List Int := ((n.temps.take t).filter fun x => x != 0x8000).map BitVec.toInt

/-- Cells and sensors configured at a hop by the region map. -/
def hopSize (x : RegionSt) (hop : Nat) : Nat × Nat :=
  match x.map.bind fun m => m.hops[hop - 1]? with
  | some h => (h.cells, h.sensors)
  | none => (0, 0)

/-- Which of the kinds CELL_OV to CELL_UT the records violate, and which they let judge, as bit masks (R321). -/
def nodeKinds (s : State) (r : Region) (ns : List NodeRec) : Nat × Nat :=
  let x := rgOf s r
  let vs := (ns.map fun n => usedCells (hopSize x n.hop).1 n).flatten
  let ts := (ns.map fun n => usedTemps (hopSize x n.hop).2 n).flatten
  let ov := vs.any fun v => decide (reSet s r 0x01 ≤ v.2) || (v.1 == 2 && v.2 == 0xFFFE)
  let uv := vs.any fun v => decide (v.2 ≤ reSet s r 0x02) || (v.1 == 2 && v.2 == 0)
  let ot := ts.any fun t => decide (reSetI s r 0x03 ≤ t)
  let ut := ts.any fun t => decide (t ≤ reSetI s r 0x04)
  (ofBool ov + 2 * ofBool uv + 4 * ofBool ot + 8 * ofBool ut,
    3 * ofBool (!vs.isEmpty) + 12 * ofBool (!ts.isEmpty))

/-- The word that stands for an absent current or voltage (R10). -/
def missingWord : Word := 0x80000000

/-- The kinds OC_PEAK and I2T of a head record that carries a current (R10), with E already updated (R321, R322). -/
def headKinds (s : State) (r : Region) (h : Option HeadRec) : Nat × Nat :=
  match h.filter fun h => h.cur != missingWord with
  | none => (0, 0)
  | some h =>
    let oc := decide (reSet s r 0x05 ≤ h.cur.toInt.natAbs)
    let it := decide (reSet s r 0x07 * 1000000000000000 ≤ (reOf s r).e)
    (16 * ofBool oc + 32 * ofBool it, 0x30)

/-- The I²t store at a head record sampled at `at'`, in mA²·ns (R322). The first head record sets the start only;
one whose current is absent changes nothing (R10). -/
def i2tStep (s : State) (r : Region) (at' : Nat) (h : HeadRec) : State :=
  let cont := reSet s r 0x06
  modRe s r fun e =>
    let d : Int := match e.lastHead with
      | some t => ((h.cur.toInt * h.cur.toInt - (cont * cont : Nat)) * ((at' - t : Nat) : Int))
      | none => 0
    if h.cur = missingWord then e else { e with e := ((e.e : Int) + d).toNat, lastHead := some at' }

/-- The kinds in the order of their persistence counts. -/
def kindCause : Nat → Cause
  | 0 => .cellOv
  | 1 => .cellUv
  | 2 => .cellOt
  | 3 => .cellUt
  | 4 => .ocPeak
  | _ => .i2t

/-- The running count of a kind has raised its verdict. -/
def raise (s : State) (r : Region) (k : Nat) : State := modRe s r fun e => { e with raised := e.raised ||| (1 <<< k) }

/-- A kind newly violated in this sweep adds one to its count, and a count that stands at FLOOR_PERSIST or above, which can be
lowered under it, is a verdict once (R323). The
verdicts are raised; what they do to the region follows once all are (R28). -/
def floorCount (r : Region) (sweep new : Nat) (x : State × List Cause) (k : Fin 6) : State × List Cause :=
  let (s, cs) := x
  if new.testBit k.val then
    let n := min 15 ((reOf s r).persist[k] + 1)
    let s := modRe s r fun e => { e with persist := e.persist.set k n }
    if reSet s r 0x08 ≤ n ∧ (reOf s r).raised.testBit k.val = false then
      (verdictNote (raise s r k.val) r (kindCause k.val) sweep, cs ++ [kindCause k.val]) else (s, cs)
  else (s, cs)

/-- Count newly arrived records (R190, R323): `before` are the kinds already seen violated in this sweep. -/
def floorCounts (s : State) (r : Region) (sweep before now : Nat) : State × List Cause :=
  let new := now &&& (63 ^^^ before)
  (List.finRange 6).foldl (floorCount r sweep new) (s, [])

/-- Judge newly arrived records. -/
def floorPacket (s : State) (r : Region) (sweep before now : Nat) : State :=
  let x := floorCounts s r sweep before now
  verdictAct x.1 r x.2

/-- At the close, a judged kind without a violation returns to 0 (R323), and VIOL shows the sweep (R344). -/
def floorClose (s : State) (r : Region) (viol judged : Nat) (inc : Bool) : State :=
  modRe s r fun e => { e with
    persist := Vector.ofFn fun k : Fin 6 =>
      if judged.testBit k.val && !(viol.testBit k.val) then 0 else e.persist[k]
    raised := e.raised &&& (127 ^^^ (judged % 64 &&& (127 ^^^ viol)))
    viol := BitVec.ofNat 8 (viol + 128 * ofBool inc) }

/-! ## Fast trip (R339, R340) -/

/-- A DSM value in its channel's unit (R229; log entry 18). -/
def dsmScale (s : State) (n : Nat) (raw : Word) : Int :=
  clampInt (-2147483648) 2147483647 (roundDiv (raw.toInt * cfgInt s (0x4002 + 256 * n)) 65536 + cfgInt s (0x4003 + 256 * n))

/-- The DSM0 current in mA. -/
def tripCurrent (s : State) (raw : Word) : Int := dsmScale s 0 raw

/-- The fast trip is on: DSM0 measures current (R339). -/
def tripOn (s : State) : Bool := cfgNat s 0x4001 = 1

/-- The current stands at FAST_TRIP or above. -/
def overTrip (s : State) (raw : Word) : Bool := tripOn s && decide (cfgNat s 0x4004 ≤ (tripCurrent s raw).natAbs)

/-- The trip filter's output (R340): above the threshold it sets TRIP_LATCH, which pulls SEVER_N low. -/
def fastTrip (s : State) (raw : Word) : State :=
  let s := { s with sever := { s.sever with filtered := raw } }
  if overTrip s raw && !s.sever.tripLatch then
    let ma := BitVec.ofInt 32 (tripCurrent s raw)
    let s := severAssert { s with sever := { s.sever with tripLatch := true, trips := inc16 s.sever.trips, tripLast := ma } }
    emit s 26 3 0x04 true true chipScope ma
  else s

/-- This module no longer holds the line when nothing sets it and 100 ms have passed (R341). -/
def severMayRise (s : State) : Bool :=
  !s.sever.tripLatch && !s.sever.cmdHold && decide (s.sever.assertedAt + 100000000 ≤ nowNs s)

/-- Let go of the line. -/
def severRelease (s : State) : State := { s with sever := { s.sever with ownHold := s.sever.ownHold && !(severMayRise s) } }

/-- SEVER_CMD CLEAR (R341). -/
def severClear (s : State) : State :=
  let keep := overTrip s s.sever.filtered
  severRelease { s with sever := { s.sever with cmdHold := false, tripLatch := s.sever.tripLatch && keep } }

/-- The bank observes the line low (R340, R341, R529): every coil is commanded OFF, and the engines follow. -/
def severObserved (s : State) : State :=
  let v := s.sever
  let s := forChans s fun c s => if isCoil s c then cmdOff s c else s
  let s := lineFalls { s with sever := { s.sever with observed := true, peerHolds := !v.ownHold } }
  let s := emitBank s 3 0x04 true chipScope
    (ofBool v.tripLatch + 2 * ofBool v.cmdHold + 4 * ofBool (!v.tripLatch && !v.cmdHold))
  if s.power.state = .running then forRegions s fun r s => if hasRegion s r then severRegion s r else s else s

/-- The line is high again (R341, R529). -/
def severRises (s : State) : State :=
  let ms := min ((nowNs s - s.sever.lowAt) / 1000000) 4294967295
  let s := { s with sever := { s.sever with lineLow := false, observed := false, peerHolds := false } }
  emitBank s 1 0x05 false chipScope ms

/-! ## Adoption at a warm restart (R343) -/

/-- The region state that the latched bank shows. -/
def adoptRegion (s : State) (r : Region) : State :=
  let on (role : Nat) : Bool := (roleChans s r role).any fun c => (chOf s c).cmd != 0
  let n := on 1
  let p := on 2
  let q := on 3
  let s := modRe s r fun e => { e with coilN := n, coilP := p, coilS := q }
  match n, p, q with
  | false, false, false => reEnter s r .opened
  | true, false, false => reEnter s r .negClosed
  | true, true, false => reEnter (coilSet s r 2 false) r .negClosed
  | true, false, true => reEnter s r .closed
  | true, true, true => reEnter s r .closedPre
  | _, _, _ =>
    let s := coilSet s r 3 false
    let s := coilSet s r 2 false
    isolateNow (coilSet s r 1 false) r .aux

/-! ## Registers (R344, R345) -/

/-- E in A²s, saturating. -/
def i2tWord (e : Nat) : Word := word (min (e / 1000000000000000) 4294967295)

/-- The word of a region engine register, by offset in the region page. -/
def reRead (s : State) (r : Region) (off : Nat) : Word :=
  let e := reOf s r
  match off with
  | 0x300 => word (fld (causeNum e.cause) 24 + fld (match e.step with | some (c, _) => c.toNat | none => 0) 20
      + fld (ofBool e.welded) 15 + fld (ofBool e.weldUnconf) 14 + fld (ofBool e.live) 13
      + fld (ofBool (auxLevel s r false)) 12 + fld (ofBool (auxLevel s r true)) 11 + reNum e.state)
  | 0x304 => word (e.viol.toNat % 64 + 64 * ofBool (e.auxNegAt.isSome || e.auxPosAt.isSome) + e.viol.toNat / 128 * 128)
  | 0x308 => word ((List.finRange 6).foldl (fun a k => a + fld e.persist[k] (4 * k.val)) 0)
  | 0x30C => i2tWord e.e
  | 0x310 => word (fld e.detailStep.toNat 28 + fld e.detailCause.toNat 16 + e.detailTicket.toNat)
  | 0x314 => e.tau
  | 0x318 => e.dv0
  | 0x31C => e.dv
  | 0x320 => e.auxCfg
  | 0x324 => e.zcCtrl
  | 0x328 => word (fld e.verdicts 16 + e.weldFails)
  | off => if 0x380 ≤ off ∧ off < 0x3C8 then e.zcImage.getD ((off - 0x380) / 4) 0 else 0

/-- A DIN field of RE_AUX as it takes effect: 32-62 take 0x3F (R344). -/
def fixDin (n : Nat) : Nat := if n < 32 then n else 63

/-- RE_AUX is rewritten (R343, R344): at once, the AUX timers start afresh. -/
def setAux (s : State) (who : Writer) (r : Region) (v : Word) : State :=
  let v := v &&& 0x3FFF
  let x := word (fld (bitsOf v 13 12) 12 + fld (fixDin (bitsOf v 11 6)) 6 + fixDin (bitsOf v 5 0))
  let s := if x = v then s else clampReg s who (0x30320 + 0x1000 * r.val) v x 0x05
  let s := modRe s r fun e => { e with auxCfg := x, auxNegAt := none, auxPosAt := none }
  settlePeers (auxBoth s r) r

/-- A write of a region engine register, RE_AUX apart (R344). -/
def reWrite (s : State) (r : Region) (off : Nat) (v : Word) : State :=
  if off = 0x324 then modRe s r fun e => { e with zcCtrl := v &&& 0x7 }
  else if 0x380 ≤ off ∧ off < 0x3C8 then
    modRe s r fun e => { e with zcImage := e.zcImage.setIfInBounds ((off - 0x380) / 4) v }
  else s

/-- SEVER_STATUS and TRIP_LAST. -/
def severRead (s : State) (addr : Nat) : Word :=
  let v := s.sever
  match addr with
  | 0x80800 => word (fld v.trips 16 + fld (ofBool v.tripOff) 4 + fld (ofBool v.lineLow) 3 + fld (ofBool v.ownHold) 2
      + fld (ofBool v.tripLatch) 1 + ofBool v.cmdHold)
  | 0x80808 => v.tripLast
  | _ => 0

/-- SEVER_CMD (R345). -/
def severWrite (s : State) (v : Word) : State :=
  match bitsOf v 3 0 with
  | 1 => severCmd s
  | 2 => severClear s
  | _ => s

/-! ## The commands -/

/-- A timer of the engine has run out. -/
def due (s : State) : Option Nat → Bool
  | some t => decide (t ≤ nowNs s)
  | none => false

/-- DIN_CHANGE (R534): the event, and the auxiliary checks of the regions that name the input. -/
def dinChange (s : State) (n : Fin 32) (level : Bool) : State :=
  if s.din.getLsbD n.val = level then s
  else
    let m : BitVec 32 := 1 <<< n.val
    let s := { s with din := s.din ^^^ m }
    let s := emit s 26 0 0x00 false true chipScope (word (fld (ofBool level) 8 + n.val))
    forRegions s fun r s => settlePeers (auxBoth s r) r

/-- The channel's region and role, when a close step without an auxiliary check waits for its pull-in (R325). -/
def pullConfirms (s : State) (c : Chan) : State :=
  match (mapOf s c).owner with
  | none => s
  | some r =>
    let pos := decide ((mapOf s c).role = 3)
    match (reOf s r).confirm with
    | some (code, _) =>
      if code = closeCode pos ∧ ((mapOf s c).role = 1 ∨ (mapOf s c).role = 3) ∧ auxOn (reOf s r) pos = false
      then settlePeers (closePasses s r pos) r else s
    | none => s

def execDinChange (n : Fin 32) (level : Bool) (s : State) : Out := run s fun s => dinChange s n level
def execAuxTimeout (r : Region) (pos : Bool) (s : State) : Out :=
  run s fun s =>
    if due s (auxAt (reOf s r) pos) then
      verdict (modRe s r fun e => setAuxAt e pos none) r .aux 0
    else s
def execPullinEnd (ch : Chan) (s : State) : Out :=
  bankRun s fun s =>
    if pullDue s ch then
      let s := pullEnds s ch
      if s.power.state = .running then pullConfirms s ch else s
    else s
def execPrechargeRelayOn (r : Region) (s : State) : Out :=
  run s fun s => if due s ((reOf s r).pre.bind PreSt.relayAt) then relayOn s r else s
def execPrechargeTimeout (r : Region) (s : State) : Out :=
  run s fun s =>
    if (reOf s r).state == .precharging && due s ((reOf s r).pre.bind PreSt.limit) then
      (if (reOf s r).live && ((reOf s r).pre.bind PreSt.dv0).isSome then preFail s r 6 3 else preFail s r 7 0)
    else s
/-- PRE_EXPIRED: in PRECHARGED the pre-charge ends with its stream; in any other state the stream ends (R261, R326). -/
def execPreExpired (r : Region) (s : State) : Out :=
  run s fun s =>
    if (reOf s r).state == .precharged && decide ((rgOf s r).streamEnd ≤ nowNs s) then
      let ticket := match (reOf s r).pre with
        | some p => p.ticket
        | none => 0
      let s := posOvertaken s r
      let s := coilSet (emitRe s r 1 0x0B false true ticket.toNat) r 2 false
      reEnter (modRg s r fun x => { x with streaming := false, re := { x.re with pre := none } }) r .negClosed
    else modRg s r fun x => { x with streaming := streamRuns s r }
def execPreAutoOff (r : Region) (s : State) : Out :=
  run s fun s =>
    if (reOf s r).state == .closedPre && due s (reOf s r).autoOffAt then
      let ticket := match (reOf s r).passed.head? with
        | some p => p.1
        | none => 0
      let s := coilSet (emitRe s r 0 0x0C false true ticket.toNat) r 2 false
      reEnter (modRe s r fun e => { e with autoOffAt := none, pre := none }) r .closed
    else s
def execOpenWaitLimit (r : Region) (s : State) : Out :=
  run s fun s =>
    if (reOf s r).state == .opening && decide ((reOf s r).openLimit ≤ nowNs s) then openingEnds s r 7 else s
def execNegOpenDelay (r : Region) (s : State) : Out :=
  run s fun s => if due s (reOf s r).negOffAt then negOff s r else s
def execWeldTimeEnd (r : Region) (s : State) : Out :=
  run s fun s =>
    match (reOf s r).weld with
    | some w => if w.endAt ≤ nowNs s then modRe s r fun e => { e with weld := some { w with waiting := true } } else s
    | none => s
def execWeldCheckJudge (r : Region) (s : State) : Out :=
  run s fun s =>
    match (reOf s r).weld with
    | some w => if weldReady s r w then weldJudge s r w else s
    | none => s
def execCircWatchEnd (r : Region) (s : State) : Out :=
  run s fun s => if due s (reOf s r).circEnd then modRe s r fun e => { e with circEnd := none } else s
def execFastTrip (raw : Word) (s : State) : Out := run s fun s => fastTrip s raw
def execSeverLowObserved (s : State) : Out := bankRun s fun s => if s.sever.observed then s else severObserved s
def execSeverMinHoldEnd (s : State) : Out := bankRun s severRelease
def execSeverReleased (s : State) : Out :=
  bankRun s fun s => if s.sever.lineLow && !s.sever.ownHold then severRises s else s
def execReAuxWrite (sess : Session) (r : Region) (v : Word) (s : State) : Out :=
  run s fun s => if isOperator s sess && hasRegion s r then setAux s (.host sess) r v else s
def execStartGraceEnd (r : Region) (s : State) : Out :=
  run s fun s => if due s (reOf s r).graceEnd then modRe s r fun e => { e with graceEnd := none } else s

end Sys2Proof.Machine
end

