-- ==== Sys2Proof/Machine/Frames.lean ====
section
/-! DEFINITION. Sweep numbers, sample instants and frame origins (R135, R186, R220), and the hand-over of the lead
that follows from them (R385). -/
namespace Sys2Proof.Machine

/-- The sweep number after another: 0 is skipped (R135). -/
def succSweep (n : Word) : Word := if n = 0xFFFFFFFF then 1 else n + 1

/-- Sweep number m is reached by n (R135). -/
def sweepReached (n m : Word) : Bool := !((n - m).msb)

/-- The phase stamp of the next sample instant (R220). -/
def nextStamp (s : State) : Nat := s.sweep.nextCycle * 16777216 + s.sweep.frac.toNat

/-- The stepless time at which the wheel, as it runs now, reaches a phase stamp. -/
def stampTime (s : State) (stamp : Nat) : Nat :=
  ((s.wheel.cycStart : Int) + ((stamp : Int) - s.wheel.count.toNat * 16777216) * s.wheel.cycLen / 16777216).toNat

/-- The deepest enrolled hop of a region (R186). -/
def hopsOf (s : State) (r : Region) : Nat :=
  match (rgOf s r).map with
  | some m => m.hops.length
  | none => 0

/-- T_LEAD in ns (R186). -/
def tLead (s : State) (r : Region) : Nat := 528000 * hopsOf s r + 500000 + s.sweep.hush * 1000

/-- The region runs frames: it has a signed map (R135). -/
def hasMap (s : State) (r : Region) : Bool := hasRegion s r && (rgOf s r).map.isSome

/-- The longest T_LEAD of the mapped regions. -/
def longestLead (s : State) : Nat :=
  (List.finRange 16).foldl (fun a r => if hasMap s r then max a (tLead s r) else a) 0

/-- The nominal length of a frame (R186). -/
def frameNs (s : State) : Nat := s.sweep.n * nominalLen s

/-- A sweep number some frames after another. -/
def sweepAfter (n : Word) : Nat → Word
  | 0 => n
  | k + 1 => succSweep (sweepAfter n k)

/-- How many frames ahead the first lies whose earliest origin is at least 5 ms away (R385). -/
def framesAhead (s : State) : Nat :=
  let first : Int := (stampTime s (nextStamp s) : Int) - longestLead s
  let miss : Int := (nowNs s : Int) + 5000000 - first
  let len := max 1 (s.sweep.n * s.wheel.cycLen)
  if miss ≤ 0 then 0 else ((miss + len - 1) / len).toNat

/-- Sweep m of a GRANT sent now. -/
def grantSweep (s : State) : Word := sweepAfter s.sweep.nextNum (framesAhead s)

/-- A hand-over can begin: this module leads a pair whose mirror is healthy (R385). -/
def canYield (s : State) : Bool := s.twin.role == .lead && healthyMirror s && s.twin.grant.isNone

/-- The lead sends GRANT (R385); the hand-over takes place at the frame origin of sweep m. -/
def yieldStart (s : State) : State :=
  let m := grantSweep s
  pairSend (modTwin s fun t => { t with grant := some m }) (.grant m)

/-! ## Stamps at the MII (R63, R415) -/

/-- Receive and transmit latency of a port, P0, P1 or TWL, ns: a stamp taken at the MII is referred to the port's pins. -/
def latRx (s : State) (p : Fin 3) : Nat := bitsOf s.net.lat[p] 31 16
def latTx (s : State) (p : Fin 3) : Nat := bitsOf s.net.lat[p] 15 0

end Sys2Proof.Machine
end

