-- ==== Sys2Proof/Machine/Operands.lean ====
section
/-! DEFINITION. The operand forms: immediates, Q16.16 values, network-time triples, fields of words (R102, R103, R109, R122). -/
namespace Sys2Proof.Machine

/-- imm16 sign-extended and zero-extended to 32 bits (R109). -/
def sextImm (imm : Half) : Word := imm.signExtend 32
def zextImm (imm : Half) : Word := imm.setWidth 32

/-- A signed integer saturated to Q16.16, and whether it saturated (R110). -/
def satQ (x : Int) : Word × Bool :=
  (BitVec.ofInt 32 (clampInt (-2147483648) 2147483647 x), decide (x < -2147483648 ∨ 2147483647 < x))

/-- Seconds and nanoseconds of a triple, without its epoch (R122). -/
def tripleSec (k : WorkerSt) (n : TReg) : Nat :=
  let hi := gGet k ⟨n.val + 1, by omega⟩
  bitsOf hi 15 0 * 4294967296 + (gGet k ⟨n.val, by omega⟩).toNat
def tripleNs (k : WorkerSt) (n : TReg) : Nat := (gGet k ⟨n.val + 2, by omega⟩).toNat
def tripleEpoch (k : WorkerSt) (n : TReg) : Half := BitVec.ofNat 16 (bitsOf (gGet k ⟨n.val + 1, by omega⟩) 31 16)

/-- The nanosecond field of a triple is 1,000,000,000 or more: TIME_FIELD (R51). -/
def badTriple (k : WorkerSt) (n : TReg) : Bool := decide (1000000000 ≤ tripleNs k n)

/-- A triple as a count of ns. -/
def tripleCount (k : WorkerSt) (n : TReg) : Nat := tripleSec k n * 1000000000 + tripleNs k n

/-- Write a triple (R122). -/
def putTriple (k : WorkerSt) (n : TReg) (sec : Nat) (epoch : Half) (ns : Nat) : WorkerSt :=
  let k := gSet k ⟨n.val, by omega⟩ (word (sec % 4294967296))
  let k := gSet k ⟨n.val + 1, by omega⟩ (word (fld epoch.toNat 16 + sec / 4294967296 % 65536))
  gSet k ⟨n.val + 2, by omega⟩ (word ns)

/-- The size in bytes of LDX and STX (R113). -/
def xBytes : XSize → Nat
  | .byteS | .byteU => 1
  | .halfS | .halfU => 2
  | .word => 4

/-- A loaded value extended by its size (R113). -/
def xExtend (z : XSize) (v : Nat) : Word :=
  match z with
  | .byteS => (BitVec.ofNat 8 v).signExtend 32
  | .halfS => (BitVec.ofNat 16 v).signExtend 32
  | _ => word v

/-- The address of the immediate form, and of LDX and STX (R113). -/
def immAddr (k : WorkerSt) (s1 : GReg) (imm : Half) : Word := gGet k s1 + sextImm imm
def xAddr (k : WorkerSt) (s1 s2 : GReg) (z : XSize) (scale : Bool) : Word :=
  gGet k s1 + (if scale then gGet k s2 * word (xBytes z) else gGet k s2)

/-- The address of the branch target: PC + 4 × offset (R120). -/
def branchTarget (k : WorkerSt) (off : Half) : Word := k.pc + 4 * off.signExtend 32

end Sys2Proof.Machine
end

