-- ==== Sys2Proof/Machine/Words.lean ====
section
/-! DEFINITION. Instruction words: which command each 32-bit word spells (R102-R104, R107-R124, R132). -/
namespace Sys2Proof.Machine

/-- The general register that a field names (R103). -/
def regField (n : Nat) : GReg := Fin.ofNat 32 n
/-- The accumulator that a field names: 8-31 name none (R103). -/
def accField (n : Nat) : Option AReg := if h : n < 8 then some ⟨n, h⟩ else none
/-- The triple that a field names: 30 and 31 name none (R103). -/
def triField (n : Nat) : Option TReg := if h : n < 30 then some ⟨n, h⟩ else none

/-- The ALU group, op 0x00, by fn (R107). -/
def aluWord (w : Worker) (d a b : GReg) (fn : Nat) : Option Instr :=
  match fn with
  | 0x00 => some (.add w d a b)
  | 0x01 => some (.sub w d a b)
  | 0x02 => some (.and w d a b)
  | 0x03 => some (.or w d a b)
  | 0x04 => some (.xor w d a b)
  | 0x05 => some (.nor w d a b)
  | 0x06 => some (.sll w d a b)
  | 0x07 => some (.srl w d a b)
  | 0x08 => some (.sra w d a b)
  | 0x09 => some (.slt w d a b)
  | 0x0A => some (.sltu w d a b)
  | 0x0B => some (.mul w d a b)
  | 0x0C => some (.mulh w d a b)
  | 0x0D => some (.mulhu w d a b)
  | 0x0E => some (.div w d a b)
  | 0x0F => some (.divu w d a b)
  | 0x10 => some (.rem w d a b)
  | 0x11 => some (.remu w d a b)
  | 0x12 => some (.min w d a b)
  | 0x13 => some (.max w d a b)
  | 0x14 => some (.minu w d a b)
  | 0x15 => some (.maxu w d a b)
  | 0x16 => some (.clz w d a)
  | 0x17 => some (.popc w d a)
  | 0x18 => some (.rdsw w d)
  | _ => none

/-- SHI by the kind in imm16 [6:5]; [15:7] must be zero (R109). -/
def shiWord (w : Worker) (d a : GReg) (imm : Nat) : Option Instr :=
  let n := BitVec.ofNat 5 imm
  match imm / 32 with
  | 0 => some (.shiSll w d a n)
  | 1 => some (.shiSrl w d a n)
  | 2 => some (.shiSra w d a n)
  | 3 => some (.shiRotateRight w d a n)
  | _ => none

/-- The FX group, op 0x0A, by fn (R110). -/
def fxWord (w : Worker) (d a b : GReg) (fn : Nat) : Option Instr :=
  match fn with
  | 0 => some (.qadd w d a b)
  | 1 => some (.qsub w d a b)
  | 2 => some (.qmul w d a b)
  | 3 => some (.qdiv w d a b)
  | 4 => some (.qabs w d a)
  | 5 => some (.qneg w d a)
  | 6 => some (.itoq w d a)
  | 7 => some (.qtoi w d a)
  | 8 => some (.qrnd w d a)
  | 9 => some (.qclr w)
  | _ => none

/-- The ACC group, op 0x0C, by fn: the fields are numbers, which name accumulators or general registers (R112). -/
def accWord (w : Worker) (d a b fn : Nat) : Option Instr :=
  match fn with
  | 0x0 => (accField d).map fun d => .mac w d (regField a) (regField b)
  | 0x1 => (accField d).map fun d => .macu w d (regField a) (regField b)
  | 0x2 => (accField d).map fun d => .msu w d (regField a) (regField b)
  | 0x3 => (accField d).map fun d => .qmac w d (regField a) (regField b)
  | 0x4 => (accField d).map fun d => .aclr w d
  | 0x5 => (accField d).bind fun d => (accField a).map fun a => .amov w d a
  | 0x6 => (accField d).map fun d => .ajoin w d (regField a) (regField b)
  | 0x7 => (accField a).map fun a => .alo w (regField d) a
  | 0x8 => (accField a).map fun a => .ahi w (regField d) a
  | 0x9 => (accField d).bind fun d => (accField a).bind fun a => (accField b).map fun b => .aadd w d a b
  | 0xA => (accField d).bind fun d => (accField a).bind fun a => (accField b).map fun b => .asub w d a b
  | 0xB => (accField a).map fun a => .aq w (regField d) a
  | 0xC => (accField d).map fun d => .asext w d (regField a)
  | 0xD => (accField a).bind fun a => (accField b).map fun b => .acmp w a b
  | 0xE => (accField d).bind fun d => (accField a).map fun a => .asra w d a (regField b)
  | 0xF => (accField d).bind fun d => (accField a).map fun a => .asll w d a (regField b)
  | _ => none

/-- The NT group, op 0x0D, by fn (R123). -/
def ntWord (w : Worker) (d a b fn : Nat) : Option Instr :=
  match fn with
  | 0 => (triField d).map fun d => .tnow w d
  | 1 => (accField d).map fun d => .pnow w d
  | 2 => (triField d).bind fun d => (triField a).bind fun a => (accField b).map fun b => .tadd w d a b
  | 3 => (accField d).bind fun d => (triField a).bind fun a => (triField b).map fun b => .tdif w d a b
  | _ => none

/-- The size that fn [2:0] of LDX and STX names (R113). -/
def sizeField (n : Nat) : Option XSize :=
  match n with
  | 0 => some .byteS
  | 1 => some .byteU
  | 2 => some .halfS
  | 3 => some .halfU
  | 4 => some .word
  | _ => none

/-- LDX and STX, with SCALE in fn [3] and fn [10:4] zero (R113). -/
def xWord (f : XSize → Bool → Instr) (fn : Nat) : Option Instr :=
  if fn < 16 then (sizeField (fn % 8)).map fun z => f z (decide (8 ≤ fn)) else none

/-- The ATOM group, op 0x16, by fn (R116). -/
def atomWord (w : Worker) (d a b : GReg) (fn : Nat) : Option Instr :=
  match fn with
  | 0 => some (.xchg w d a b)
  | 1 => some (.fadd w d a b)
  | 2 => some (.cas w d a b)
  | 3 => some (.fetchOr w d a b)
  | 4 => some (.fetchAnd w d a b)
  | _ => none

/-- LATE in fn [10:9], ALAT in fn [6:4] and DOM in fn [1:0] (R124). -/
def lateField (fn : Nat) : BitVec 2 := BitVec.ofNat 2 (fn / 512)
def alatField (fn : Nat) : AReg := Fin.ofNat 8 (fn / 16)
def domField (fn : Nat) : Fin 4 := Fin.ofNat 4 fn

/-- AT and ATT: BASE, CANCEL, [3:2] and DOM are reserved there (R124, R126, R127). -/
def atWord (w : Worker) (a fn : Nat) : Option Instr :=
  if fn / 128 % 4 = 0 ∧ fn % 16 = 0 then (accField a).map fun a => .waitAt w a (lateField fn) (alatField fn) else none
def attWord (w : Worker) (a fn : Nat) : Option Instr :=
  if fn / 128 % 4 = 0 ∧ fn % 16 = 0 then (triField a).map fun a => .waitAtt w a (lateField fn) (alatField fn) else none

/-- EVERY: BASE in fn [8], CANCEL in fn [7], with which s1 and s2 are not used (R124, R128). -/
def everyWord (w : Worker) (d : GReg) (a b fn : Nat) : Option Instr :=
  if fn % 16 ≠ 0 then none
  else if fn / 128 % 2 = 1 then some (.everyCancel w d)
  else (accField b).bind fun b =>
    if fn / 256 % 2 = 1 then (triField a).map fun a => .every w d (.net a) b (lateField fn) (alatField fn)
    else (accField a).map fun a => .every w d (.phase a) b (lateField fn) (alatField fn)

/-- WAIT by KIND in fn [8:7]: a duration, or a tick count in domain DOM (R124, R130). -/
def waitWord (w : Worker) (a fn : Nat) : Option Instr :=
  match fn / 128 % 4 with
  | 0 => if fn % 16 = 0 then (accField a).map fun a => .waitDuration w a (alatField fn) else none
  | 1 => if fn / 4 % 4 = 0 then (accField a).map fun a => .waitTick w a (domField fn) (lateField fn) (alatField fn) else none
  | _ => none

/-- SWP, FETCH and QIN by fn (R136, R139, R150). -/
def swpWord (w : Worker) (d a b : GReg) (fn : Nat) : Option Instr :=
  match fn with
  | 0 => some (.swpAll w d a b)
  | 1 => some (.swpAny w d a b)
  | 2 => some (.swpRevt w d a b)
  | _ => none
def fetchWord (w : Worker) (d a : GReg) (fn : Nat) : Option Instr :=
  match fn with
  | 0 => some (.fetchVolt w d a)
  | 1 => some (.fetchTemp w d a)
  | 2 => some (.fetchNode w d a)
  | 3 => some (.fetchHead w d a)
  | 4 => some (.fetchPack w d a)
  | _ => none
def qinWord (w : Worker) (d a b : GReg) (fn : Nat) : Option Instr :=
  match fn with
  | 0 => some (.qinCount w d a)
  | 1 => some (.qinSpeed w d a)
  | 2 => some (.qinStat w d a)
  | 3 => some (.qinIndex w d a)
  | 4 => some (.qinCfg w d a b)
  | _ => none

/-- OUT is one word and four rows of the table: CMD in gs2 [1:0] tells which (R145). -/
def outWord (w : Worker) (d a b : GReg) (cmd : Nat) : Instr :=
  match cmd % 4 with
  | 0 => .outOff (.isken w d a b)
  | 1 => .outOn (.isken w d a b)
  | 2 => .outPwm (.isken w d a b)
  | _ => .outClearLatch (.isken w d a b)

/-- CTC is one word and eight rows: STEP in gs2 [3:0] tells which; an undefined code is refused by every row alike
(R147, R148). -/
def ctcWord (w : Worker) (d a b : GReg) (step : Nat) : Instr :=
  match step % 16 with
  | 2 => .precharge w d a b
  | 3 => .closePos w d a b
  | 4 => .openPre w d a b
  | 5 => .openPlanned w d a b
  | 6 => .openEmergency w d a b
  | 7 => .ctcRestart w d a b
  | 8 => .weldCheck w d a b
  | _ => .closeNeg w d a b

/-- MIR, SIG and SYS by fn (R156, R157, R159). TEMP takes what the sensors read from its row. -/
def mirWord (w : Worker) (d a b : GReg) (fn : Nat) : Option Instr :=
  match fn with
  | 0 => some (.mstat w d)
  | 1 => some (.msend w d a b)
  | 2 => some (.mrecv w d a)
  | 3 => some (.myield w d)
  | _ => none
def sigWord (w : Worker) (d a b : GReg) (fn : Nat) : Option Instr :=
  match fn with
  | 0 => some (.sigHash w d a b)
  | 1 => some (.sigSign w d a b)
  | 2 => some (.sigVerify w d a b)
  | _ => none
def sysWord (w : Worker) (d : GReg) (board die : Half) (fn : Nat) : Option Instr :=
  match fn with
  | 0 => some (.halt w)
  | 1 => some (.yieldQ w)
  | 2 => some (.temp w d board die)
  | fn => if fn / 128 = 1 then some (.trap w (BitVec.ofNat 7 fn)) else none

/-- The command that a word spells in worker `w`, whose registers are `k`, with the temperatures that a TEMP would measure; none
for a word that faults with cause ILLEGAL (R102-R104, R132). A register field that an instruction does not use, the [20:16] of
a branch among them, is ignored. -/
def decodeWord (k : WorkerSt) (w : Worker) (board die : Half) (x : Word) : Option Instr :=
  let d := bitsOf x 25 21
  let a := bitsOf x 20 16
  let b := bitsOf x 15 11
  let fn := bitsOf x 10 0
  let imm : Half := x.setWidth 16
  let gd := regField d
  let ga := regField a
  let gb := regField b
  let plain (i : Instr) : Option Instr := if fn = 0 then some i else none
  match bitsOf x 31 26 with
  | 0x00 => aluWord w gd ga gb fn
  | 0x01 => some (.addi w gd ga imm)
  | 0x02 => some (.slti w gd ga imm)
  | 0x03 => some (.sltiu w gd ga imm)
  | 0x04 => some (.andi w gd ga imm)
  | 0x05 => some (.ori w gd ga imm)
  | 0x06 => some (.xori w gd ga imm)
  | 0x07 => some (.lui w gd imm)
  | 0x08 => shiWord w gd ga imm.toNat
  | 0x09 => some (.muli w gd ga imm)
  | 0x0A => fxWord w gd ga gb fn
  | 0x0B => some (.qmuli w gd ga imm)
  | 0x0C => accWord w d a b fn
  | 0x0D => ntWord w d a b fn
  | 0x0E => some (.cmpi w ga imm)
  | 0x0F => if fn < 16 then some (.csel w gd ga gb (BitVec.ofNat 4 fn)) else none
  | 0x10 => some (.ldw w gd ga imm)
  | 0x11 => some (.stw w gd ga imm)
  | 0x12 => xWord (.ldx w gd ga gb) fn
  | 0x13 => xWord (.stx w gd ga gb) fn
  | 0x14 => (accField d).map fun d => .ldd w d ga imm
  | 0x15 => (accField d).map fun d => .std w d ga imm
  | 0x16 => atomWord w gd ga gb fn
  | 0x17 => plain (.fence w)
  | 0x18 => some (.beq w gd ga imm)
  | 0x19 => some (.bne w gd ga imm)
  | 0x1A => some (.bc w (x.getLsbD 25) (BitVec.ofNat 4 (bitsOf x 24 21)) imm)
  | 0x1B => match fn with
    | 0 => some (.jr w ga)
    | 1 => some (.jalr w gd ga)
    | _ => none
  | 0x1C => atWord w a fn
  | 0x1D => attWord w a fn
  | 0x1E => everyWord w gd a b fn
  | 0x1F => waitWord w a fn
  | 0x20 => swpWord w gd ga gb fn
  | 0x21 => fetchWord w gd ga fn
  | 0x28 => plain (.cmb w gd ga)
  | 0x29 => plain (.cmbw w gd ga)
  | 0x2C => plain (outWord w gd ga gb (gGet k gb).toNat)
  | 0x2D => plain (ctcWord w gd ga gb (gGet k gb).toNat)
  | 0x2E => qinWord w gd ga gb fn
  | 0x30 => plain (.ctx w gd ga gb)
  | 0x31 => if fn < 2 then some (.crx w gd ga gb (decide (fn = 1))) else none
  | 0x34 => if fn < 2 then some (.evt w gd ga gb (decide (fn = 1))) else none
  | 0x35 => mirWord w gd ga gb fn
  | 0x36 => sigWord w gd ga gb fn
  | 0x3F => sysWord w gd board die fn
  | _ => none

/-- A word that spells an instruction (R102-R104, R132): which fields it holds does not depend on registers or sensors. -/
def legalWord (x : Word) : Bool := (decodeWord (WorkerSt.init 0) 0 0 0 x).isSome

end Sys2Proof.Machine
end

