-- ==== Sys2Proof/Machine/Worker.lean ====
section
/-! DEFINITION. Workers and cores: issue, posted stores, traps and restarts, worker commands (R72-R101, R114, R117), with
the readings of log entry 19. -/
namespace Sys2Proof.Machine

/-! ## DRAM as the workers reach it -/

/-- The lines of 64 bytes that an access touches. -/
def linesOf (off len : Nat) : List Nat := (List.range ((off + len - 1) / 64 + 1 - off / 64)).map fun i => off / 64 + i

/-- An access meets a poisoned line (R118). -/
def poisoned (s : State) (off len : Nat) : Bool := (linesOf off len).any fun l => s.mem.poison.contains l

/-- Store bytes to usable DRAM: none into a poisoned line (R118). -/
def dramPut (s : State) (off : Nat) (b : List Byte) : State :=
  if poisoned s off b.length then s else modMem s fun m => { m with dram := memWrite m.dram off b }

/-- The address in the worker's aperture of a usable offset (R87). -/
def apertureAddr (k : WorkerSt) (off : Nat) : Word := word (0x20000000 + (off - k.dramBase.toNat / 64 * 64))

/-- The posted stores of a worker become visible, oldest first (R117). -/
def drainWorker (s : State) (w : Worker) : State :=
  let k := (wkOf s w).core
  let mine := (coreOf s k).storeQ.filter fun x => x.1 == w
  let s := modCore s k fun c => { c with storeQ := c.storeQ.filter fun x => x.1 != w }
  mine.foldl (fun s x => dramPut s x.2.1 x.2.2) s

/-- The worker has posted stores. -/
def hasPosted (s : State) (w : Worker) : Bool := (coreOf s (wkOf s w).core).storeQ.any fun x => x.1 == w

/-- The address of a posted store of the worker that goes into a poisoned line (R118). -/
def postedBad (s : State) (w : Worker) : Option Word :=
  ((coreOf s (wkOf s w).core).storeQ.find? fun x => x.1 == w && poisoned s x.2.1 x.2.2.length).map fun x =>
    apertureAddr (wkOf s w) x.2.1

/-! ## Leaving a state (R79) -/

/-- The periodic slots that a worker holds become free. -/
def freeSlots (s : State) (w : Worker) : State :=
  { s with slots := s.slots.map fun x => x.bind fun y => if y.owner = w then none else some y }

/-- The core gives up the worker's quantum (R75). -/
def loseQuantum (s : State) (w : Worker) : State :=
  modCore s (wkOf s w).core fun c =>
    { c with quanta := c.quanta.map fun q => q.bind fun x => if x.1 = w then none else some x }

/-- Drop the snapshots of a reader (R79, R89). -/
def dropSnaps (s : State) (rd : Reader) : State := { s with snaps := s.snaps.filter fun x => x.reader != rd }

/-- The signing requests of a worker: one started completes and is discarded, the others are withdrawn (R79). -/
def dropCrypto (w : Worker) : List CryptoReq → List CryptoReq
  | [] => []
  | h :: t => (if h.worker = some w then { h with worker := none } else h) :: t.filter fun q => q.worker != some w

/-- What a STOP, a HALT, a trap and an unload do (R79, R117). A launch still queued is no longer waited for: its completion
wakes no one (R160). -/
def leaveWorker (s : State) (w : Worker) (st : WkState) : State :=
  let s := drainWorker (loseQuantum s w) w
  let s := freeSlots s w
  let s := dropSnaps s (.worker w)
  let s := { s with crypto := dropCrypto w s.crypto }
  modWk s w fun k => { k with state := st, wait := none, flight := .none, restartAt := none, actDue := false, tickets := [] }

/-- A worker goes over to another core, with the stores that it has posted (R98, R117); the quantum stays behind. DESIGN CHOICE:
the stores join the new core's queue even where it then holds more than 8 (log entry 19). -/
def moveTo (s : State) (w : Worker) (c : Fin 4) : State :=
  let old := (wkOf s w).core
  let mine := (coreOf s old).storeQ.filter fun x => x.1 == w
  let s := modCore (loseQuantum s w) old fun x => { x with storeQ := x.storeQ.filter fun y => y.1 != w }
  modWk (modCore s c fun x => { x with storeQ := x.storeQ ++ mine }) w fun k => { k with core := c }

/-- The cores in service counting upward from core k + 1 and wrapping (R98). -/
def coresAfter (s : State) (k : Fin 4) : List (Fin 4) := [k + 1, k + 2, k + 3].filter fun c => (coreOf s c).inService

/-- The core that serves a worker of core k while k is out of service: the j-th in service after it, j being the worker's place
among the 40 of its own core (R98). A worker that core k serves for another core is spread in the same way (log entry 19). -/
def placeFrom (s : State) (k : Fin 4) (w : Worker) : Option (Fin 4) :=
  let l := coresAfter s k
  l[w.val % 40 % l.length]?

/-- The core that serves a worker as it is loaded: its own, or the one that stands in for it (R98). -/
def placeOf (s : State) (w : Worker) : Fin 4 :=
  let home := (WorkerSt.init w).core
  if (coreOf s home).inService then home else (placeFrom s home w).getD home

/-- A worker home again at a block or a quantum's end (R99). -/
def goHome (s : State) (w : Worker) : State :=
  let home := (WorkerSt.init w).core
  if (coreOf s home).inService && (wkOf s w).core != home then moveTo s w home else s

/-! ## Traps (R90-R95) -/

/-- A final trap's outcome by level and priority (R94). A region whose state the open request finds already open, WELD_CHECK
among them, is not opened and isolated again (log entry 19). -/
def finalTrap (s : State) (w : Worker) : State :=
  let k := wkOf s w
  if k.prio = 0 then
    if chipOrPair k.scope then
      forRegions s fun r s => if hasRegion s r && isOpenable (reOf s r).state then p0Open s r else s
    else
      let r : Region := Fin.ofNat 16 (scopeIndex k.scope)
      if hasRegion s r then p0Open s r else s
  else s

/-- The trap would be final (R92). -/
def trapFinal (s : State) (k : WorkerSt) : Bool := !k.action || decide (k.restartMax.toNat ≤ restartsNow s k)

/-- The trap action (R92, R94): the restart pause begins, or the trap is final. -/
def trapAction (s : State) (w : Worker) : State :=
  let now := nowNs s
  if trapFinal s (wkOf s w) then finalTrap (modWk s w fun k => { k with actDue := false }) w
  else modWk s w fun k => { k with actDue := false, restartAt := some (now + 1000000) }

/-- This module leads and its twin is healthy: a hand-over is possible, or under way already (R34, R95). -/
def handsOver (s : State) : Bool := s.twin.role == .lead && healthyMirror s

/-- A fault or TRAP (R90): precise; the record; then the trap action, after a hand-over where R95 asks for one, which a yield
under way already is. DESIGN CHOICE: that hand-over grants at once even while a state transfer is in progress, where a YIELD
command would be answered BUSY (log entry 19). A fault that names no address or resource leaves 0 in WK_FAULT_ADDR (log entry 19). -/
def trapWorker (s : State) (w : Worker) (cause : Byte) (addr : Word) : State :=
  let s := leaveWorker s w .trapped
  let s := modWk s w fun k => { k with
    faultCause := cause, faultCount := satInc 255 k.faultCount, faultPc := k.pc, faultAddr := addr }
  let k := wkOf s w
  let s := emit s 28 3 0x00 true true k.scope
    (word (fld w.val 24 + fld cause.toNat 16 + fld (restartsNow s k) 12 + fld (ofBool k.action) 8))
  if cause = 0x08 && decide (k.prio.toNat ≤ 1) && handsOver s then
    (let s := modWk s w fun k => { k with actDue := true }
     if canYield s then yieldStart s else s)
  else trapAction s w

/-- Trap actions that waited for a hand-over are applied once this module no longer leads, or cannot hand over (R95). -/
def settleTraps (s : State) : State :=
  forWorkers s fun w s =>
    if (wkOf s w).actDue && (s.twin.role != .lead || s.twin.grant.isNone) then trapAction s w else s

/-! ## Issue (R75, R93) -/

/-- The worker is eligible: READY or RUNNING, with no access in flight (R75, R106). -/
def eligible (k : WorkerSt) : Bool := (k.state == .ready || k.state == .running) && k.flight == .none

/-- The eligible workers of a priority that a core serves, in ascending order (R75, R99). -/
def contenders (s : State) (c : Fin 4) (p : BitVec 2) : List Worker :=
  (List.finRange 160).filter fun w => (wkOf s w).core == c && (wkOf s w).prio == p && eligible (wkOf s w)

/-- The one of them that issues: the holder of the quantum, else the next after the last holder, wrapping (R75). -/
def pick (c : CoreSt) (p : Fin 4) (l : List Worker) : Option Worker :=
  let next := match l.find? fun w => decide (c.last[p] < w) with
    | some w => some w
    | none => l.head?
  match c.quanta[p] with
  | some (v, _) => if l.contains v then some v else next
  | none => next

/-- The worker that a core chooses: of the highest priority with an eligible worker (R75, R76, R99). -/
def choice (s : State) (c : Fin 4) : Option Worker :=
  (List.finRange 4).findSome? fun p => pick (coreOf s c) p (contenders s c (BitVec.ofFin p))

/-- The worker issues next on its core (R75). -/
def canIssue (s : State) (w : Worker) : Bool := eligible (wkOf s w) && choice s (wkOf s w).core == some w

/-- The worker has reached its run budget (R93); 0xFFFF_FFFF is no budget. -/
def overBudget (k : WorkerSt) : Bool := k.budget != 0xFFFFFFFF && decide (k.budget.toNat ≤ k.issued)

/-- The worker's core and quantum as it issues (R75, R76): the one RUNNING before becomes READY. While the holder's access is
in flight, the worker that issues takes no quantum: the holder keeps the rest of it (R75, R106; log entry 19). -/
def takeCore (s : State) (w : Worker) : State :=
  let c := (wkOf s w).core
  let p : Fin 4 := (wkOf s w).prio.toFin
  let s := forWorkers s fun v s =>
    if (wkOf s v).state = .running ∧ (wkOf s v).core = c then modWk s v fun k => { k with state := .ready } else s
  modCore s c fun x =>
    match x.quanta[p] with
    | some (v, n) => if v = w then { x with quanta := x.quanta.set p (some (w, n - 1)) } else x
    | none => { x with quanta := x.quanta.set p (some (w, s.quantum - 1)), last := x.last.set p w }

/-- After the issue, a worker whose quantum has ended leaves the core and goes home (R75, R99). -/
def quantumEnd (s : State) (w : Worker) : State :=
  let p : Fin 4 := (wkOf s w).prio.toFin
  match (coreOf s (wkOf s w).core).quanta[p] with
  | some (v, n) =>
    if v = w ∧ n = 0 then
      goHome (modWk (loseQuantum s w) w fun k => { k with state := if k.state = .running then .ready else k.state }) w
    else s
  | none => s

/-- The instruction counts as issued and SW takes the copy of LEAD (R93, R101). -/
def countIssue (s : State) (w : Worker) : State :=
  let lead := isLead s
  modWk s w fun k => { k with
    state := .running, issued := k.issued + 1, run := k.run + 1, sw := { k.sw with lead := lead } }

/-- Issue an instruction of worker `w` with its effect (R75, R93, R101). A worker that cannot issue changes nothing;
one that has reached its budget traps. -/
def issue (s : State) (w : Worker) (f : State → State) : Out :=
  run s fun s =>
    if canIssue s w then
      if overBudget (wkOf s w) then trapWorker s w 0x09 0
      else quantumEnd (f (countIssue (takeCore s w) w)) w
    else s

/-- An instruction that acts on its worker alone and goes on to the next. -/
def issueK (s : State) (w : Worker) (f : WorkerSt → WorkerSt) : Out := issue s w fun s => modWk s w fun k => nextPc (f k)

/-- An access is in flight: the worker is shown READY (R106). -/
def fly (k : WorkerSt) (f : Flight) : WorkerSt := { k with flight := f, state := .ready }

/-- The instruction waits for the worker's posted stores and issues after them: it does not count as issued yet (R117). -/
def awaitDrain (s : State) (w : Worker) : State :=
  modWk s w fun k => fly { k with issued := k.issued - 1, run := k.run - 1 } .drain

/-- An instruction that may block, and HALT: they first complete the worker's posted stores, as a FENCE does (R117). One that
goes into a poisoned line is not made and faults there (R118; log entry 19), and while no store can drain the instruction waits. -/
def issueDrained (s : State) (w : Worker) (f : State → State) : Out :=
  issue s w fun s => match postedBad s w with
    | some a => trapWorker s w 0x08 a
    | none => if dramHeld s && hasPosted s w then awaitDrain s w else f (drainWorker s w)

/-- The worker blocks on `x`, its PC past the instruction (R78). -/
def blockOn (s : State) (w : Worker) (x : Wait) : State := goHome (modWk (loseQuantum s w) w fun k => block k x) w

/-! ## Worker commands (R78, R100) -/

/-- Registers and flags cleared (R92). -/
def clearRegs (k : WorkerSt) : WorkerSt :=
  { k with g := Vector.replicate 32 0, a := Vector.replicate 8 0, sw := { Flags.clear with restarted := true }, launched := false }

/-- READY at the entry point: a new activation. -/
def atEntry (k : WorkerSt) : WorkerSt :=
  { k with pc := k.entry, state := .ready, wait := none, flight := .none, issued := 0, restartAt := none, actDue := false }

/-- The rule of R83 for WK_CMD. An EMPTY worker, which has no scope, is in the scope of pair writers alone (log entry 19). -/
def wkAllowed (s : State) (who : Writer) (w : Worker) : Bool :=
  match who with
  | .host k => isOperator s k
  | .worker v =>
    let sc := (wkOf s v).scope
    let target := (wkOf s w).scope
    let loaded := (wkOf s w).state != .empty
    match scopeLevel sc with
    | 2 => loaded && target == sc
    | 3 => loaded && (scopeLevel target == 2 || scopeLevel target == 3)
    | 4 => true
    | _ => false

/-- The address of a worker's control register. -/
def wkAddr (w : Worker) (off : Nat) : Nat := 0x21000 + 0x40 * w.val + off

/-- A command that does not apply is recorded (R100, R536). -/
def wkNop (s : State) (w : Worker) (cmd : Nat) : State :=
  emit s 28 1 0x02 false true (scopeOf s w) (word (fld w.val 24 + fld (wkNum (wkOf s w).state) 4 + cmd))

/-- START (R78). -/
def wkStart (s : State) (w : Worker) : State := if (wkOf s w).state = .stopped then modWk s w atEntry else wkNop s w 1

/-- STOP (R78-R80, R100). -/
def wkStop (s : State) (w : Worker) : State :=
  if (wkOf s w).state = .empty then wkNop s w 2 else leaveWorker s w .stopped

/-- RESTART (R78): registers cleared, RESTARTED set, from TRAPPED too (log entry 19). -/
def wkRestart (s : State) (w : Worker) : State :=
  match (wkOf s w).state with
  | .stopped | .trapped => modWk s w fun k => atEntry (clearRegs k)
  | _ => wkNop s w 3

/-- Clear RESTARTS (R100). -/
def wkClear (s : State) (w : Worker) : State :=
  if (wkOf s w).state = .empty then wkNop s w 4 else modWk s w fun k => { k with restarts := [] }

/-- A write of WK_CMD. -/
def wkCmd (s : State) (w : Worker) (cmd : Nat) : State :=
  match cmd with
  | 1 => wkStart s w
  | 2 => wkStop s w
  | 3 => wkRestart s w
  | 4 => wkClear s w
  | _ => s

/-- The restart after the pause (R92): registers cleared, scratch kept, RESTARTS advanced. -/
def trapRestart (s : State) (w : Worker) : State :=
  let now := nowNs s
  modWk s w fun k => atEntry { clearRegs k with restarts := (now :: k.restarts).take 16 }

/-! ## Accesses in flight (R114, R117) -/

/-- What an atomic function stores, none for a CAS that fails, and the flags (R116). -/
def atomStore (op : AtomOp) (old d s2 : Word) : Option Word :=
  match op with
  | .xchg => some s2
  | .fadd => some (old + s2)
  | .cas => if old = d then some s2 else none
  | .or => some (old ||| s2)
  | .and => some (old &&& s2)

/-- gd and Z after an atomic access (R116). -/
def atomResult (op : AtomOp) (d : GReg) (old : Word) (stored : Bool) (k : WorkerSt) : WorkerSt :=
  let k := gSet k d old
  match op with
  | .cas => { k with sw := { k.sw with z := stored } }
  | _ => k

/-- DRAM as the worker itself sees it: with its own posted stores (R117; log entry 19). -/
def dramSeen (s : State) (w : Worker) : Mem :=
  ((coreOf s (wkOf s w).core).storeQ.filter fun x => x.1 == w).foldl (fun m x => memWrite m x.2.1 x.2.2) s.mem.dram

/-- A posted store of the worker's core drains (R117): the worker's oldest; into a poisoned line it is not made and faults
(R118). A store that waited for room is posted, a FENCE with nothing left is over, and an instruction that waited for the stores
may issue. Nothing drains while DRAM accesses wait. -/
def storeDrain (s : State) (w : Worker) : State :=
  if dramHeld s then s
  else
  let c := (wkOf s w).core
  let s := match (coreOf s c).storeQ.find? fun x => x.1 == w with
    | some x =>
      let s' := modCore s c fun q => { q with storeQ := q.storeQ.erase x }
      if poisoned s x.2.1 x.2.2.length then trapWorker s' w 0x08 (apertureAddr (wkOf s w) x.2.1) else dramPut s' x.2.1 x.2.2
    | none => s
  match (wkOf s w).flight with
  | .store off b =>
    if (coreOf s c).storeQ.length < 8 then
      modWk (modCore s c fun q => { q with storeQ := q.storeQ ++ [(w, off, b)] }) w fun k => nextPc { k with flight := .none }
    else s
  | .fence => if hasPosted s w then s else modWk s w fun k => nextPc { k with flight := .none }
  | .drain => if hasPosted s w then s else modWk s w fun k => { k with flight := .none }
  | _ => s

/-! ## Registers of the worker block -/

/-- WAIT_ON (WK_STATE). -/
def waitOn (k : WorkerSt) : Nat :=
  match waitOf k with
  | some (.time _) => 1
  | some (.swpAll ..) => 2
  | some (.swpAny ..) => 2
  | some (.swpRevt ..) => 2
  | some (.comb ..) => 3
  | some (.can ..) => 4
  | some (.twin ..) => 5
  | some .crypto => 6
  | none => 0

/-- A mask of the cores. -/
def coreMask (s : State) (p : CoreSt → Bool) : Nat := (List.finRange 4).foldl (fun m k => if p (coreOf s k) then m + 2 ^ k.val else m) 0

/-- The word of a worker's block at an offset, the run counter apart. -/
def wkRead (s : State) (w : Worker) (off : Nat) : Word :=
  let k := wkOf s w
  match off with
  | 0x00 => word (fld k.core.val 24 + fld (restartsNow s k) 20 + fld k.prio.toNat 16 + fld (waitOn k) 8 + wkNum k.state)
  | 0x04 => k.scope.setWidth 32
  | 0x08 => k.pc
  | 0x0C => swWord s k
  | 0x10 => word (fld k.faultCause.toNat 8 + k.faultCount)
  | 0x14 => k.faultPc
  | 0x18 => k.faultAddr
  | 0x20 => word (fld (ofBool k.action) 4 + k.restartMax.toNat)
  | 0x24 => k.budget
  | 0x28 => k.dramBase
  | 0x2C => k.dramLen
  | 0x30 => k.run.setWidth 32
  | 0x34 => (k.run >>> 32).setWidth 32
  | _ => 0

/-- The live word of the worker control block at an offset from 0x0002_0000. -/
def wcRead (s : State) (off : Nat) : Word :=
  match off with
  | 0x00 => word s.quantum
  | 0x04 => word (fld (coreMask s CoreSt.selftest) 8 + fld (coreMask s CoreSt.failed) 4 + coreMask s CoreSt.inService)
  | off =>
    if 0x10 ≤ off ∧ off < 0x24 then
      word ((List.range 32).foldl (fun m j =>
        match s.wk[32 * ((off - 0x10) / 4) + j]? with
        | some k => if k.state = .trapped then m + 2 ^ j else m
        | none => m) 0)
    else if 0x1000 ≤ off ∧ off < 0x3800 then
      wkRead s (Fin.ofNat 160 ((off - 0x1000) / 64)) (off % 64)
    else 0

/-- A run budget as it takes effect for a priority, and whether it was changed (R93). -/
def fixBudget (prio : BitVec 2) (v : Word) : Word × Byte :=
  if v = 0xFFFFFFFF then (if prio = 0 then (word 40000000, 0x03) else (v, 0))
  else if v.toNat < 1000 then (word 1000, 0x02)
  else if 40000000 < v.toNat then (word 40000000, 0x03)
  else (v, 0)

/-- A write of a worker control register, WK_CMD apart (R101 registers). -/
def wcWrite (s : State) (who : Writer) (off : Nat) (v : Word) : State :=
  if off = 0x00 then
    let q := word (bitsOf v 8 0)
    let s := writeSetting s who 0x20000 0x0007 q
    { s with quantum := cfgNat s 0x0007 }
  else if 0x1000 ≤ off ∧ off < 0x3800 then
    let w : Worker := Fin.ofNat 160 ((off - 0x1000) / 64)
    match off % 64 with
    | 0x20 => modWk s w fun k => { k with action := v.getLsbD 4, restartMax := v.setWidth 4 }
    | 0x24 =>
      let (x, reason) := fixBudget (wkOf s w).prio v
      let s := if reason = 0 then s else clampReg s who (wkAddr w 0x24) v x reason
      modWk s w fun k => { k with budget := x }
    | _ => s
  else s

/-! ## The commands -/

def execTrapRestartPauseEnd (w : Worker) (s : State) : Out :=
  run s fun s => if (wkOf s w).state == .trapped && due s (wkOf s w).restartAt then trapRestart s w else s
def execStoreQueueDrain (w : Worker) (s : State) : Out := run s fun s => storeDrain s w
def execIllegalOpcode (w : Worker) (word : Word) (s : State) : Out :=
  if legalWord word then .next s else issue s w fun s => trapWorker s w 0x01 0

end Sys2Proof.Machine
end

