-- ==== Sys2Proof/Machine/Arith.lean ====
section
/-! DEFINITION. The integer, fixed-point and accumulator instructions (R105, R107-R112). -/
namespace Sys2Proof.Machine

/-! ## Shared forms -/

/-- Write g[d], with Z and N from the value and C and V cleared (R105). -/
def putPlain (k : WorkerSt) (d : GReg) (v : Word) : WorkerSt := plainFlags (gSet k d v) v

/-- An ALU function of two registers with plain flags. -/
def alu (s : State) (w : Worker) (d s1 s2 : GReg) (f : Word → Word → Word) : Out :=
  issueK s w fun k => putPlain k d (f (gGet k s1) (gGet k s2))

/-- An immediate instruction with plain flags. -/
def aluImm (s : State) (w : Worker) (d s1 : GReg) (f : Word → Word) : Out :=
  issueK s w fun k => putPlain k d (f (gGet k s1))

/-- A division: DIVIDE when the divisor is 0 (R108). -/
def divide (s : State) (w : Worker) (s2 : GReg) (f : WorkerSt → WorkerSt) : Out :=
  issue s w fun s =>
    if gGet (wkOf s w) s2 = 0 then trapWorker s w 0x05 0 else modWk s w fun k => nextPc (f k)

/-- Write a Q16.16 result: saturated with SAT, Z and N from it, C and V unchanged (R105, R110). -/
def putQ (k : WorkerSt) (d : GReg) (x : Int) : WorkerSt :=
  let q := satQ x
  putSat (flagsZN (gSet k d q.1) q.1) q.2

/-- Leading zero bits, and one bits, of a word (R107). -/
def clz32 (x : Word) : Nat := if x.toNat = 0 then 32 else 31 - Nat.log2 x.toNat
def popc32 (x : Word) : Nat := (List.range 32).foldl (fun n i => n + ofBool (x.getLsbD i)) 0

def b2w (b : Bool) : Word := word (ofBool b)

/-- Low 5 bits of a shift amount (R107). -/
def shAmt (x : Word) : Nat := x.toNat % 32

/-- Add a product to an accumulator, V when the sum leaves 64 bits; `signed` tells which range (R105, R112). -/
def accAdd (k : WorkerSt) (d : AReg) (signed zn : Bool) (x : Int) : WorkerSt :=
  let old : Int := if signed then (aGet k d).toInt else (aGet k d).toNat
  let v := BitVec.ofInt 64 (old + x)
  let wraps := if signed then decide (v.toInt ≠ old + x) else decide ((v.toNat : Int) ≠ old + x)
  let k := putV (aSet k d v) wraps
  if zn then flagsZN64 k v else k

/-! ## ALU (R107, R108) -/

/-- ADD (R107). -/
def execAdd (w : Worker) (d s1 s2 : GReg) (s : State) : Out :=
  issueK s w fun k => addFlags (gSet k d (gGet k s1 + gGet k s2)) (gGet k s1) (gGet k s2)
/-- SUB (R107). -/
def execSub (w : Worker) (d s1 s2 : GReg) (s : State) : Out :=
  issueK s w fun k => subFlags (gSet k d (gGet k s1 - gGet k s2)) (gGet k s1) (gGet k s2)
/-- AND (R107). -/
def execAnd (w : Worker) (d s1 s2 : GReg) (s : State) : Out :=
  alu s w d s1 s2 fun a b => a &&& b
/-- OR (R107). -/
def execOr (w : Worker) (d s1 s2 : GReg) (s : State) : Out :=
  alu s w d s1 s2 fun a b => a ||| b
/-- XOR (R107). -/
def execXor (w : Worker) (d s1 s2 : GReg) (s : State) : Out :=
  alu s w d s1 s2 fun a b => a ^^^ b
/-- NOR (R107). -/
def execNor (w : Worker) (d s1 s2 : GReg) (s : State) : Out :=
  alu s w d s1 s2 fun a b => ~~~(a ||| b)
/-- SLL (R107). -/
def execSll (w : Worker) (d s1 s2 : GReg) (s : State) : Out :=
  alu s w d s1 s2 fun a b => a <<< shAmt b
/-- SRL (R107). -/
def execSrl (w : Worker) (d s1 s2 : GReg) (s : State) : Out :=
  alu s w d s1 s2 fun a b => a >>> shAmt b
/-- SRA (R107). -/
def execSra (w : Worker) (d s1 s2 : GReg) (s : State) : Out :=
  alu s w d s1 s2 fun a b => a.sshiftRight (shAmt b)
/-- SLT (R107). -/
def execSlt (w : Worker) (d s1 s2 : GReg) (s : State) : Out :=
  alu s w d s1 s2 fun a b => b2w (a.slt b)
/-- SLTU (R107). -/
def execSltu (w : Worker) (d s1 s2 : GReg) (s : State) : Out :=
  alu s w d s1 s2 fun a b => b2w (a.ult b)
/-- MULHU (R107). -/
def execMulhu (w : Worker) (d s1 s2 : GReg) (s : State) : Out :=
  alu s w d s1 s2 fun a b => word (a.toNat * b.toNat / 4294967296)
/-- MIN (R107). -/
def execMin (w : Worker) (d s1 s2 : GReg) (s : State) : Out :=
  alu s w d s1 s2 fun a b => if a.slt b then a else b
/-- MAX (R107). -/
def execMax (w : Worker) (d s1 s2 : GReg) (s : State) : Out :=
  alu s w d s1 s2 fun a b => if a.slt b then b else a
/-- MINU (R107). -/
def execMinu (w : Worker) (d s1 s2 : GReg) (s : State) : Out :=
  alu s w d s1 s2 fun a b => if a.ult b then a else b
/-- MAXU (R107). -/
def execMaxu (w : Worker) (d s1 s2 : GReg) (s : State) : Out :=
  alu s w d s1 s2 fun a b => if a.ult b then b else a
/-- MUL (R105, R107). -/
def execMul (w : Worker) (d s1 s2 : GReg) (s : State) : Out :=
  issueK s w fun k =>
    let p := (gGet k s1).toInt * (gGet k s2).toInt
    mulFlags (gSet k d (BitVec.ofInt 32 p)) (BitVec.ofInt 32 p) p
/-- MULH (R105, R107). -/
def execMulh (w : Worker) (d s1 s2 : GReg) (s : State) : Out :=
  issueK s w fun k =>
    let p := (gGet k s1).toInt * (gGet k s2).toInt
    let v : Word := BitVec.ofInt 32 (p / 4294967296)
    mulFlags (gSet k d v) v p
/-- DIV (R105, R108). -/
def execDiv (w : Worker) (d s1 s2 : GReg) (s : State) : Out :=
  divide s w s2 fun k =>
    let q := (gGet k s1).toInt.tdiv (gGet k s2).toInt
    let v : Word := BitVec.ofInt 32 q
    putFlags (gSet k d v) (v == 0) v.msb false (decide (q = 2147483648))
/-- DIVU (R107, R108). -/
def execDivu (w : Worker) (d s1 s2 : GReg) (s : State) : Out :=
  divide s w s2 fun k => putPlain k d (gGet k s1 / gGet k s2)
/-- REM (R107, R108). -/
def execRem (w : Worker) (d s1 s2 : GReg) (s : State) : Out :=
  divide s w s2 fun k => putPlain k d (BitVec.ofInt 32 ((gGet k s1).toInt.tmod (gGet k s2).toInt))
/-- REMU (R107, R108). -/
def execRemu (w : Worker) (d s1 s2 : GReg) (s : State) : Out :=
  divide s w s2 fun k => putPlain k d (gGet k s1 % gGet k s2)
/-- CLZ (R107). -/
def execClz (w : Worker) (d s1 : GReg) (s : State) : Out :=
  aluImm s w d s1 fun a => word (clz32 a)
/-- POPC (R107). -/
def execPopc (w : Worker) (d s1 : GReg) (s : State) : Out :=
  aluImm s w d s1 fun a => word (popc32 a)
/-- RDSW (R107): SW as it stands before the instruction's own flags. -/
def execRdsw (w : Worker) (d : GReg) (s : State) : Out :=
  issue s w fun s =>
    let v := swWord s (wkOf s w)
    modWk s w fun k => nextPc (putPlain k d v)

/-! ## Immediate forms (R109) -/

/-- ADDI (R109). -/
def execAddi (w : Worker) (d s1 : GReg) (imm : Half) (s : State) : Out :=
  issueK s w fun k => addFlags (gSet k d (gGet k s1 + sextImm imm)) (gGet k s1) (sextImm imm)
/-- CMPI (R109). -/
def execCmpi (w : Worker) (s1 : GReg) (imm : Half) (s : State) : Out :=
  issueK s w fun k => subFlags k (gGet k s1) (sextImm imm)
/-- SLTI (R109). -/
def execSlti (w : Worker) (d s1 : GReg) (imm : Half) (s : State) : Out :=
  aluImm s w d s1 fun a => b2w (a.slt (sextImm imm))
/-- SLTIU (R109). -/
def execSltiu (w : Worker) (d s1 : GReg) (imm : Half) (s : State) : Out :=
  aluImm s w d s1 fun a => b2w (a.ult (sextImm imm))
/-- ANDI (R109). -/
def execAndi (w : Worker) (d s1 : GReg) (imm : Half) (s : State) : Out :=
  aluImm s w d s1 fun a => a &&& zextImm imm
/-- ORI (R109). -/
def execOri (w : Worker) (d s1 : GReg) (imm : Half) (s : State) : Out :=
  aluImm s w d s1 fun a => a ||| zextImm imm
/-- XORI (R109). -/
def execXori (w : Worker) (d s1 : GReg) (imm : Half) (s : State) : Out :=
  aluImm s w d s1 fun a => a ^^^ zextImm imm
/-- LUI (R109). -/
def execLui (w : Worker) (d : GReg) (imm : Half) (s : State) : Out :=
  issueK s w fun k => putPlain k d (zextImm imm <<< 16)
/-- SHI, kind Sll (R109). -/
def execShiSll (w : Worker) (d s1 : GReg) (sh : BitVec 5) (s : State) : Out :=
  aluImm s w d s1 fun a => a <<< sh.toNat
/-- SHI, kind Srl (R109). -/
def execShiSrl (w : Worker) (d s1 : GReg) (sh : BitVec 5) (s : State) : Out :=
  aluImm s w d s1 fun a => a >>> sh.toNat
/-- SHI, kind Sra (R109). -/
def execShiSra (w : Worker) (d s1 : GReg) (sh : BitVec 5) (s : State) : Out :=
  aluImm s w d s1 fun a => a.sshiftRight sh.toNat
/-- SHI, kind RotateRight (R109). -/
def execShiRotateRight (w : Worker) (d s1 : GReg) (sh : BitVec 5) (s : State) : Out :=
  aluImm s w d s1 fun a => a.rotateRight sh.toNat
/-- MULI (R105, R109). -/
def execMuli (w : Worker) (d s1 : GReg) (imm : Half) (s : State) : Out :=
  issueK s w fun k =>
    let p := (gGet k s1).toInt * imm.toInt
    mulFlags (gSet k d (BitVec.ofInt 32 p)) (BitVec.ofInt 32 p) p
/-- QMULI: Q16.16 × Q8.8 (R109, R110). -/
def execQmuli (w : Worker) (d s1 : GReg) (imm : Half) (s : State) : Out :=
  issueK s w fun k => putQ k d (roundDiv ((gGet k s1).toInt * imm.toInt) 256)

/-! ## Q16.16 (R110) -/

/-- QADD (R110). -/
def execQadd (w : Worker) (d s1 s2 : GReg) (s : State) : Out :=
  issueK s w fun k => putQ k d (let a := (gGet k s1).toInt; let b := (gGet k s2).toInt; a + b)
/-- QSUB (R110). -/
def execQsub (w : Worker) (d s1 s2 : GReg) (s : State) : Out :=
  issueK s w fun k => putQ k d (let a := (gGet k s1).toInt; let b := (gGet k s2).toInt; a - b)
/-- QMUL (R110). -/
def execQmul (w : Worker) (d s1 s2 : GReg) (s : State) : Out :=
  issueK s w fun k => putQ k d (let a := (gGet k s1).toInt; let b := (gGet k s2).toInt; roundDiv (a * b) 65536)
/-- QDIV: rounded toward zero (R110). -/
def execQdiv (w : Worker) (d s1 s2 : GReg) (s : State) : Out :=
  divide s w s2 fun k => putQ k d (((gGet k s1).toInt * 65536).tdiv (gGet k s2).toInt)
/-- QABS (R110). -/
def execQabs (w : Worker) (d s1 : GReg) (s : State) : Out :=
  issueK s w fun k => putQ k d (gGet k s1).toInt.natAbs
/-- QNEG (R110). -/
def execQneg (w : Worker) (d s1 : GReg) (s : State) : Out :=
  issueK s w fun k => putQ k d (-(gGet k s1).toInt)
/-- ITOQ (R110). -/
def execItoq (w : Worker) (d s1 : GReg) (s : State) : Out :=
  issueK s w fun k => putQ k d ((gGet k s1).toInt * 65536)
/-- QTOI (R110). -/
def execQtoi (w : Worker) (d s1 : GReg) (s : State) : Out :=
  issueK s w fun k => putQ k d ((gGet k s1).toInt / 65536)
/-- QRND (R110). -/
def execQrnd (w : Worker) (d s1 : GReg) (s : State) : Out :=
  issueK s w fun k => putQ k d (roundDiv (gGet k s1).toInt 65536)
/-- QCLR (R110). -/
def execQclr (w : Worker) (s : State) : Out :=
  issueK s w fun k => { k with sw := { k.sw with sat := false } }
/-- CSEL (R111). -/
def execCsel (w : Worker) (d s1 s2 : GReg) (cond : BitVec 4) (s : State) : Out :=
  issueK s w fun k => gSet k d (if condHolds k.sw cond then gGet k s1 else gGet k s2)

/-! ## Accumulators (R112) -/

/-- MAC (R105, R112; log entry 19). -/
def execMac (w : Worker) (d : AReg) (s1 s2 : GReg) (s : State) : Out :=
  issueK s w fun k => accAdd k d true true ((gGet k s1).toInt * (gGet k s2).toInt)
/-- MACU (R105, R112). -/
def execMacu (w : Worker) (d : AReg) (s1 s2 : GReg) (s : State) : Out :=
  issueK s w fun k => accAdd k d false false ((gGet k s1).toNat * (gGet k s2).toNat : Nat)
/-- MSU (R105, R112). -/
def execMsu (w : Worker) (d : AReg) (s1 s2 : GReg) (s : State) : Out :=
  issueK s w fun k => accAdd k d true false (-((gGet k s1).toInt * (gGet k s2).toInt))
/-- QMAC: Q16.16 × Q16.16 is Q32.32 (R105, R112). -/
def execQmac (w : Worker) (d : AReg) (s1 s2 : GReg) (s : State) : Out :=
  issueK s w fun k => accAdd k d true false ((gGet k s1).toInt * (gGet k s2).toInt)
/-- ACLR (R112). -/
def execAclr (w : Worker) (d : AReg) (s : State) : Out :=
  issueK s w fun k => aSet k d 0
/-- AMOV (R112). -/
def execAmov (w : Worker) (d s1 : AReg) (s : State) : Out :=
  issueK s w fun k => aSet k d (aGet k s1)
/-- AJOIN (R112). -/
def execAjoin (w : Worker) (d : AReg) (s1 s2 : GReg) (s : State) : Out :=
  issueK s w fun k => aSet k d (BitVec.ofNat 64 ((gGet k s2).toNat * 4294967296 + (gGet k s1).toNat))
/-- ALO (R112). -/
def execAlo (w : Worker) (d : GReg) (s1 : AReg) (s : State) : Out :=
  issueK s w fun k => gSet k d ((aGet k s1).setWidth 32)
/-- AHI (R112). -/
def execAhi (w : Worker) (d : GReg) (s1 : AReg) (s : State) : Out :=
  issueK s w fun k => gSet k d ((aGet k s1 >>> 32).setWidth 32)
/-- AADD (R105, R112). -/
def execAadd (w : Worker) (d s1 s2 : AReg) (s : State) : Out :=
  issueK s w fun k => addFlags (aSet k d (aGet k s1 + aGet k s2)) (aGet k s1) (aGet k s2)
/-- ASUB (R105, R112). -/
def execAsub (w : Worker) (d s1 s2 : AReg) (s : State) : Out :=
  issueK s w fun k => subFlags (aSet k d (aGet k s1 - aGet k s2)) (aGet k s1) (aGet k s2)
/-- AQ: Q32.32 to Q16.16, toward negative infinity, saturated (R105, R112). -/
def execAq (w : Worker) (d : GReg) (s1 : AReg) (s : State) : Out :=
  issueK s w fun k =>
    let q := satQ ((aGet k s1).toInt / 65536)
    putSat (gSet k d q.1) q.2
/-- ASEXT (R112). -/
def execAsext (w : Worker) (d : AReg) (s1 : GReg) (s : State) : Out :=
  issueK s w fun k => aSet k d ((gGet k s1).signExtend 64)
/-- ACMP (R105, R112). -/
def execAcmp (w : Worker) (s1 s2 : AReg) (s : State) : Out :=
  issueK s w fun k => subFlags k (aGet k s1) (aGet k s2)
/-- ASRA (R112). -/
def execAsra (w : Worker) (d s1 : AReg) (s2 : GReg) (s : State) : Out :=
  issueK s w fun k => aSet k d ((aGet k s1).sshiftRight ((gGet k s2).toNat % 64))
/-- ASLL: V when the signed value leaves 64 bits (R105, R112; log entry 19). -/
def execAsll (w : Worker) (d s1 : AReg) (s2 : GReg) (s : State) : Out :=
  issueK s w fun k =>
    let x := (aGet k s1).toInt * 2 ^ ((gGet k s2).toNat % 64)
    let v := BitVec.ofInt 64 x
    putV (aSet k d v) (decide (v.toInt ≠ x))

end Sys2Proof.Machine
end

