-- ==== Sys2Proof/Machine/Flow.lean ====
section
/-! DEFINITION. Branches and jumps (R119-R121), time operands and the scheduling instructions (R122-R130). -/
namespace Sys2Proof.Machine

/-! ## Branches (R119-R121) -/

/-- The code segment of an offset: none for the chip segment, or region's. -/
def segmentOf (off : Nat) : Option Nat := if off < 0x100000 then none else some ((off - 0x100000) / 0x10000)

/-- A worker of the scope may run from the offset (R162). -/
def segmentAllowed (sc : Half) (off : Nat) : Bool :=
  match segmentOf off with
  | none => true
  | some r => decide (r < 16) && coversRegion sc r

/-- The worker runs code at a byte offset: within the folio's code section, and within a region's segment only for a worker of
that region, or of chip or pair scope (R121, R162). -/
def inCode (s : State) (w : Worker) (target : Word) : Bool :=
  decide (target.toNat < s.folio.codeLen) && segmentAllowed (scopeOf s w) target.toNat

/-- Go to a target, with the registers that the branch writes (R121): a target outside the code that the worker may run faults. -/
def goTo (s : State) (w : Worker) (target : Word) (f : WorkerSt → WorkerSt) : State :=
  if inCode s w target then modWk s w fun k => { f k with pc := target } else trapWorker s w 0x03 target

/-- A conditional branch. -/
def branch (s : State) (w : Worker) (off : Half) (taken : WorkerSt → Bool) (link : Bool) : Out :=
  issue s w fun s =>
    let k := wkOf s w
    if taken k then goTo s w (branchTarget k off) fun k => if link then gSet k 31 (k.pc + 4) else k
    else modWk s w nextPc

/-- BEQ: the d field is a source (R120). -/
def execBeq (w : Worker) (d s1 : GReg) (imm : Half) (s : State) : Out :=
  branch s w imm (fun k => gGet k d == gGet k s1) false
/-- BNE (R120). -/
def execBne (w : Worker) (d s1 : GReg) (imm : Half) (s : State) : Out :=
  branch s w imm (fun k => gGet k d != gGet k s1) false
/-- BC, with the call form (R120). -/
def execBc (w : Worker) (link : Bool) (cond : BitVec 4) (off : Half) (s : State) : Out :=
  branch s w off (fun k => condHolds k.sw cond) link

/-- A jump to a register's value (R121): the alignment is judged before the place (log entry 19). -/
def jump (s : State) (w : Worker) (s1 : GReg) (f : WorkerSt → WorkerSt) : Out :=
  issue s w fun s =>
    let target := gGet (wkOf s w) s1
    if target.toNat % 4 = 0 then goTo s w target f else trapWorker s w 0x04 target

/-- JR (R120). -/
def execJr (w : Worker) (s1 : GReg) (s : State) : Out := jump s w s1 fun k => k
/-- JALR: the target is read before g[d] is written (R120, R131). -/
def execJalr (w : Worker) (d s1 : GReg) (s : State) : Out := jump s w s1 fun k => gSet k d (k.pc + 4)

/-! ## Network time and phase (R122, R123) -/

/-- TNOW (R123). -/
def execTnow (w : Worker) (d : TReg) (s : State) : Out :=
  issue s w fun s =>
    let t := netNow s
    modWk s w fun k => nextPc (putTriple k d t.sec.toNat t.epoch t.ns.toNat)

/-- PNOW (R123). -/
def execPnow (w : Worker) (d : AReg) (s : State) : Out :=
  issue s w fun s =>
    let p := phaseNow s
    modWk s w fun k => nextPc (aSet k d p)

/-- TADD (R105, R123). -/
def execTadd (w : Worker) (d s1 : TReg) (s2 : AReg) (s : State) : Out :=
  issue s w fun s =>
    if badTriple (wkOf s w) s1 then trapWorker s w 0x06 0
    else modWk s w fun k =>
      let total : Int := tripleCount k s1 + (aGet k s2).toInt
      let sec := total / 1000000000
      let k' := putTriple k d (sec % 281474976710656).toNat (tripleEpoch k s1) (total % 1000000000).toNat
      nextPc (putV k' (decide (sec < 0 ∨ 281474976710656 ≤ sec)))

/-- TDIF (R105, R123); a difference beyond 64 bits wraps (log entry 19). -/
def execTdif (w : Worker) (d : AReg) (s1 s2 : TReg) (s : State) : Out :=
  issue s w fun s =>
    let k := wkOf s w
    if badTriple k s1 || badTriple k s2 then trapWorker s w 0x06 0
    else modWk s w fun k =>
      let v := BitVec.ofInt 64 ((tripleCount k s1 : Int) - tripleCount k s2)
      nextPc (putV (flagsZN64 (aSet k d v) v) (tripleEpoch k s1 != tripleEpoch k s2))

/-! ## Scheduling (R124-R130) -/

/-- Wait for a target, or follow the late policy when it is reached already (R66, R68, R125). -/
def schedule (s : State) (w : Worker) (t : TimeWait) (fraction : Nat) : State :=
  let late := reached s t.target
  let l := lateness s t.target
  let s := blockOn s w (.time t)
  if late then lateAction s w t l fraction else s

/-- AT (R126). -/
def execWaitAt (w : Worker) (s1 : AReg) (late : BitVec 2) (alat : AReg) (s : State) : Out :=
  issueDrained s w fun s =>
    let p := aGet (wkOf s w) s1
    schedule s w ⟨.phase p, late, alat, none, none⟩ (p.toNat % 16777216)

/-- ATT (R127): the EPOCH of the operand is ignored. -/
def execWaitAtt (w : Worker) (s1 : TReg) (late : BitVec 2) (alat : AReg) (s : State) : Out :=
  issueDrained s w fun s =>
    let k := wkOf s w
    if badTriple k s1 then trapWorker s w 0x06 0
    else schedule s w ⟨.net (tripleCount k s1), late, alat, none, none⟩ 0

/-- WAIT of a duration: never late (R130). -/
def execWaitDuration (w : Worker) (s1 : AReg) (alat : AReg) (s : State) : Out :=
  issueDrained s w fun s =>
    blockOn s w (.time ⟨.dur (clockNs s + (aGet (wkOf s w) s1).toNat), 0, alat, none, none⟩)

/-- WAIT for a tick count (R130). DESIGN CHOICE: a count that is reached already is late at once (R68), in a domain whose EN is
clear too (log entry 38). -/
def execWaitTick (w : Worker) (s1 : AReg) (dom : Fin 4) (late : BitVec 2) (alat : AReg) (s : State) : Out :=
  issueDrained s w fun s => schedule s w ⟨.tick dom (aGet (wkOf s w) s1), late, alat, none, none⟩ 0

/-- The slot that a handle names, when the worker holds it (R128). -/
def heldSlot (s : State) (w : Worker) (handle : Word) : Option (Fin 64) :=
  (List.finRange 64).find? fun n =>
    decide (handle.toNat % 128 = n.val + 1) &&
    (match s.slots[n] with
     | some x => x.owner == w
     | none => false)

/-- The free periodic slot that an EVERY takes (R65, R128): DESIGN CHOICE, the lowest (log entry 19). -/
def freeSlot (s : State) : Option (Fin 64) := (List.finRange 64).find? fun n => (s.slots[n]).isNone

/-- The bounds of an interval (R129). -/
def intervalMin (net : Bool) : Nat := if net then 100000 else 65536
def intervalMax (net : Bool) : Nat := if net then 86400000000000 else 281474976710656

/-- A worker's operand was set to a bound: the clamp report entry (R129, R175; GIVEN and APPLIED hold the low words). -/
def clampOperand (s : State) (w : Worker) (given applied : Nat) (reason : Byte) : State :=
  clampAdd s (word w.val) (word given) (word applied) (scopeOf s w) 5 reason

/-- A new schedule in slot `n` (R128, R129). -/
def takeSlot (s : State) (w : Worker) (d : GReg) (n : Fin 64) (net : Bool) (first interval : Nat) : State :=
  let x := clampNat (intervalMin net) (intervalMax net) interval
  let s := if x = interval then s else clampOperand s w interval x (if interval < x then 0x02 else 0x03)
  let s := { s with slots := s.slots.set n (some ⟨w, net, first, x⟩) }
  modWk s w fun k => gSet k d (word (n.val + 1))

/-- The wait of EVERY on its slot (R128): the next occurrence, or the late policy with every reached one consumed. -/
def everyWait (s : State) (w : Worker) (d : GReg) (n : Fin 64) (late : BitVec 2) (alat : AReg) : State :=
  match s.slots[n] with
  | none => s
  | some x =>
    let now := if x.net then netNs s else (phaseNow s).toNat
    if now < x.next then blockOn s w (.time ⟨.slot n, late, alat, none, some (n, d, 0)⟩)
    else
      let k := (now - x.next) / x.interval + 1
      let last := x.next + (k - 1) * x.interval
      let s := { s with slots := s.slots.set n (some { x with next := x.next + k * x.interval }) }
      let target : Target := if x.net then .net last else .phase (BitVec.ofNat 64 last)
      schedule s w ⟨target, late, alat, none, some (n, d, k - 1)⟩ (last % 16777216)

/-- EVERY (R128). DESIGN CHOICE: a bad nanosecond field faults before the want of a slot does (log entry 19). -/
def execEvery (w : Worker) (d : GReg) (first : EveryFirst) (s2 : AReg) (late : BitVec 2) (alat : AReg) (s : State) : Out :=
  issueDrained s w fun s =>
    let k := wkOf s w
    match heldSlot s w (gGet k d) with
    | some n => everyWait s w d n late alat
    | none =>
      let bad := match first with
        | .net t => badTriple k t
        | .phase _ => false
      if bad then trapWorker s w 0x06 0
      else
        match freeSlot s with
        | none => trapWorker s w 0x07 0
        | some n =>
          let s := match first with
            | .net t => takeSlot s w d n true (tripleCount k t) (aGet k s2).toNat
            | .phase a => takeSlot s w d n false (aGet k a).toNat (aGet k s2).toNat
          everyWait s w d n late alat

/-- EVERY with CANCEL (R128). -/
def execEveryCancel (w : Worker) (d : GReg) (s : State) : Out :=
  issue s w fun s =>
    let s := match heldSlot s w (gGet (wkOf s w) d) with
      | some n => { s with slots := s.slots.set n none }
      | none => s
    modWk s w fun k => nextPc (gSet k d 0)

end Sys2Proof.Machine
end

