-- ==== Sys2Proof/Machine/Memory.lean ====
section
/-! DEFINITION. DRAM areas, the check store, the scrubber and poison (R448-R464). -/
namespace Sys2Proof.Machine

/-! ## Areas (R454) -/

def mib : Nat := 1048576
/-- Usable DRAM in bytes, and in lines of 64 bytes (R456). -/
def dramBytes : Nat := 0xE0000000
def dramLines : Nat := 58720256
def estBase : Nat := 0x04000000
def capBase : Nat := 0x08000000
def ringBase : Nat := 0x18000000
def archBase (s : State) : Nat := ringBase + s.mem.recRing * mib
def progBase (s : State) : Nat := archBase s + s.mem.archive * mib

/-- The areas of R454. -/
inductive Area where
  | staging | estimator | capture | ring | archive | program
deriving DecidableEq, Repr

/-- The area of a usable offset. -/
def areaOf (s : State) (off : Nat) : Area :=
  if off < estBase then .staging
  else if off < capBase then .estimator
  else if off < ringBase then .capture
  else if off < archBase s then .ring
  else if off < progBase s then .archive
  else .program

/-- Two ranges of bytes meet. -/
def meets (a la b lb : Nat) : Bool := decide (a < b + lb ∧ b < a + la ∧ 0 < la ∧ 0 < lb)

/-- A store of a worker is allowed at every byte of the range: estimator tables or program area (R455). -/
def storable (s : State) (off len : Nat) : Bool :=
  decide (estBase ≤ off ∧ off + len ≤ capBase) || decide (progBase s ≤ off ∧ off + len ≤ dramBytes)

/-- A write of whole lines by the module itself: the bytes are stored and the lines are no longer poisoned (R460). -/
def dramWhole (s : State) (off : Nat) (b : List Byte) : State :=
  modMem s fun m => { m with
    dram := memWrite m.dram off b
    poison := m.poison.filter fun l => !(linesOf off b.length).contains l }

/-- Insert a line index in rising order, once. -/
def insertLine (l : Nat) : List Nat → List Nat
  | [] => [l]
  | x :: t => if l < x then l :: x :: t else if l = x then x :: t else x :: insertLine l t

/-! ## Errors (R448, R457, R460) -/

/-- MEM_CORR and MEM_UNCORR (R535): memory 0 DRAM, 1 SRAM, 2 MRAM. -/
def emitMem (s : State) (bad : Bool) (memory index : Nat) : State :=
  emit s 27 (if bad then 3 else 0) (ofBool bad) bad true chipScope (word (fld memory 28 + index % 268435456))

/-- A line found uncorrectable is poisoned, counted and recorded, its place latched (R457, R460). -/
def poisonLine (s : State) (l : Nat) (tag : Bool) : State :=
  let s := modMem s fun m => { m with
    poison := insertLine l m.poison, eccUncorr := inc16 m.eccUncorr, lastUe := word (l * 64)
    lastUeSeq := (s.arb.seq + 1).setWidth 32, tagFail := if tag then inc16 m.tagFail else m.tagFail }
  emitMem s true 0 l

/-- The scrubber goes on to the next line (R459). -/
def scrubNext (s : State) : State :=
  modMem s fun m =>
    if m.scrubPos + 1 < dramLines then { m with scrubPos := m.scrubPos + 1 }
    else { m with scrubPos := 0, scrubPasses := (m.scrubPasses + 1) % 4294967296 }

/-- The scrubber is walking. -/
def scrubRuns (s : State) : Bool := s.mem.trained && !(dramHeld s)

/-- Clear one SRAM word of 8 bytes, and its error (R448). -/
def zeroScratch (s : State) (w : Worker) (i : Nat) : State :=
  let s := modWk s w fun k => { k with scratch := memClear k.scratch (8 * i) 8 }
  modMem s fun m => { m with badScratch := m.badScratch.filter fun x => x != (w, i), sramUncorr := inc16 m.sramUncorr }

def zeroTable (s : State) (i : Nat) : State :=
  modMem s fun m => { m with
    tables := memClear m.tables (8 * i) 8, badTable := m.badTable.filter fun x => x != i, sramUncorr := inc16 m.sramUncorr }

/-- The index of an SRAM word (log entry 20): scratch of worker 0 first, then the shared tables. -/
def scratchIndex (w : Worker) (i : Nat) : Nat := w.val * 2048 + i
def tableIndex (i : Nat) : Nat := 327680 + i

/-- The background read of an SRAM word (R448). Where a corrected word lies is not told to the model: its index in the
event is a free value. -/
def sramScrubbed (s : State) (o : SramScrub) : State :=
  match o with
  | .clean => s
  | .corrected =>
    let (n, s) := drawFree s
    emitMem (modMem s fun m => { m with sramCorr := inc16 m.sramCorr }) false 1 (Config.freeWord n).toNat
  | .badScratch w i => if i < 2048 then emitMem (zeroScratch s w i) true 1 (scratchIndex w i) else s
  | .badTable i => if i < 524288 then emitMem (zeroTable s i) true 1 (tableIndex i) else s

/-! ## MEM_CMD ZERO (R460, R463) -/

/-- The range may be zeroed: within usable DRAM and clear of the recorder ring. -/
def zeroAllowed (s : State) (base len : Nat) : Bool :=
  decide (base + len ≤ dramBytes) && !(meets base len ringBase (s.mem.recRing * mib))

/-- MEM_CMD ZERO. -/
def memZeroStart (s : State) : State :=
  let base := s.mem.zeroBase.toNat
  let len := s.mem.zeroLen.toNat
  if s.mem.zeroing.isSome then modMem s fun m => { m with memResult := 0x02 }
  else if zeroAllowed s base len then modMem s fun m => { m with zeroing := some (base, len), memResult := 0xFF }
  else modMem s fun m => { m with memResult := 0x01 }

/-- Whole lines of a range become zero and lose their poison (R460). -/
def zeroRange (s : State) (base len : Nat) : State :=
  modMem s fun m => { m with
    dram := memClear m.dram base len
    poison := m.poison.filter fun l => !(decide (base ≤ 64 * l ∧ 64 * l + 64 ≤ base + len)) }

/-- The zeroing completes (R464). -/
def memZeroEnd (s : State) : State :=
  match s.mem.zeroing with
  | some (base, len) => if dramHeld s then s else modMem (zeroRange s base len) fun m => { m with zeroing := none, memResult := 0 }
  | none => s

/-! ## Registers of the memory block (R464) -/

/-- MEM_STATUS. -/
def memStatus (s : State) : Word :=
  word (fld (ofBool s.arb.wearWarn) 3 + fld (ofBool s.mem.dramOut) 2 + fld (ofBool (scrubRuns s)) 1 + ofBool s.mem.initDone)

/-- The live word at an offset from 0x000B_0000. -/
def memRegRead (s : State) (off : Nat) : Word :=
  let m := s.mem
  match off with
  | 0x00 => memStatus s
  | 0x04 => word (fld m.eccCorr 16 + m.eccUncorr)
  | 0x08 => word (fld m.sramCorr 16 + m.sramUncorr)
  | 0x0C => word (fld m.tagFail 16 + m.hostPoison)
  | 0x10 => m.lastUe
  | 0x14 => m.lastUeSeq
  | 0x20 => word m.scrubPos
  | 0x24 => word m.scrubPasses
  | 0x30 => m.zeroBase
  | 0x34 => m.zeroLen
  | 0x3C => m.memResult.setWidth 32
  | 0x40 => word (progBase s)
  | 0x44 => word (dramBytes - progBase s)
  | 0x48 => word ringBase
  | 0x50 => word (mramWear s)
  | 0x54 => word (fld m.mramCorr 16 + m.mramDiscarded)
  | _ => 0

/-- A write of MEM_ZERO_BASE or MEM_ZERO_LEN by a chip or pair writer; MEM_CMD is the row MEM_ZERO. -/
def memRegWrite (s : State) (who : Writer) (off : Nat) (v : Word) : State :=
  if chipWriter s who then
    match off with
    | 0x30 => modMem s fun m => { m with zeroBase := word (v.toNat / 64 * 64) }
    | 0x34 => modMem s fun m => { m with zeroLen := word (v.toNat / 64 * 64) }
    | 0x38 => if v.toNat % 16 = 1 then memZeroStart s else s
    | _ => s
  else s

/-! ## The commands -/

def execMemZeroDone (s : State) : Out := run s memZeroEnd
def execSramScrub (o : SramScrub) (s : State) : Out := run s fun s => sramScrubbed s o

/-- CHECK_STORE_INIT: the initialiser finishes the check store (R458). -/
def execCheckStoreInit (s : State) : Out :=
  run s fun s => if s.mem.trained then modMem s fun m => { m with initDone := true, initPos := dramLines } else s

/-- DRAM_TRAINING_DONE: the recorder's queue may move to the DRAM ring, and the initialiser begins (R436, R458). -/
def execDramTrainingDone (s : State) : Out :=
  run s fun s => modMem s fun m => { m with trained := true, initPos := if m.trained then m.initPos else 0 }

end Sys2Proof.Machine
end

