-- ==== Sys2Proof/Machine/Access.lean ====
section
/-! DEFINITION. How a worker's address reaches scratch, the shared tables and its DRAM aperture (R85-R88, R113, R118),
and CRC-32C. -/
namespace Sys2Proof.Machine

/-- Where a memory address lies. -/
inductive Place where
  | scratch (off : Nat)
  | table (off : Nat)
  | dram (off : Nat)
deriving DecidableEq, Repr

/-- A place, or the cause of the fault. -/
inductive Acc where
  | ok (p : Place)
  | bad (cause : Byte)
deriving DecidableEq, Repr

/-- Causes of R91. -/
def causeScope : Byte := 0x02
def causeAddress : Byte := 0x03
def causeAlign : Byte := 0x04
def causeMem : Byte := 0x08

/-! ## The register ranges of the program view (R85) -/

/-- The address lies in a range of register blocks or result windows. -/
def inBlocks (a : Nat) : Bool := decide (a < 0xC0000) || decide (0x100000 ≤ a ∧ a < 0x200000)
/-- Stores there are ignored. -/
def storesIgnored (a : Nat) : Bool := decide (a < 0x10000) || decide (0x100000 ≤ a)

/-- The region of a page address. -/
def pageOf (a : Nat) : Region := Fin.ofNat 16 ((a - 0x30000) / 0x1000)

/-- The worker's scope covers the owner of a channel (R83). -/
def ownsChan (s : State) (sc : Half) (c : Chan) : Bool :=
  match (mapOf s c).owner with
  | some r => coversRegion sc r.val
  | none => chipOrPair sc

/-- The writer may store to a word of the switch bank: the fields of a channel by its owner, as OUT; the rest by chip and
pair writers (R83, R85, R364). -/
def bankAllowed (s : State) (who : Writer) (off : Nat) : Bool :=
  let c : Chan := Fin.ofNat 64 ((off - 0x1000) / 32)
  if 0x1000 ≤ off ∧ off < 0x1800 ∧ off % 32 ≠ 8 ∧ hasChan s c = true then
    (match who with
     | .host k => isOperator s k
     | .worker w => ownsChan s (wkOf s w).scope c)
  else chipWriter s who

/-- The worker's scope may store at the address. -/
def storeAllowed (s : State) (w : Worker) (a : Nat) : Bool :=
  let sc := (wkOf s w).scope
  if storesIgnored a then true
  else if 0x21000 ≤ a ∧ a < 0x23800 ∧ a % 64 = 0x1C then wkAllowed s (.worker w) (Fin.ofNat 160 ((a - 0x21000) / 64))
  else if 0x30000 ≤ a ∧ a < 0x40000 then coversRegion sc (pageOf a).val
  else if 0x40000 ≤ a ∧ a < 0x50000 then bankAllowed s (.worker w) (a - 0x40000)
  else if 0x80000 ≤ a ∧ a < 0x90000 then isPair sc
  else chipOrPair sc

/-! ## Places -/

/-- The usable offset of byte x of a worker's aperture. -/
def aperture (k : WorkerSt) (x : Nat) : Nat := k.dramBase.toNat / 64 * 64 + x

/-- The place of `len` bytes at an address for reading (R85, R87). -/
def loadPlace (k : WorkerSt) (a len : Nat) : Acc :=
  if 0x40000000 ≤ a ∧ a + len ≤ 0x40004000 then .ok (.scratch (a - 0x40000000))
  else if 0x50000000 ≤ a ∧ a + len ≤ 0x50400000 then .ok (.table (a - 0x50000000))
  else if 0x20000000 ≤ a ∧ a + len ≤ 0x40000000 ∧ a - 0x20000000 + len ≤ k.dramLen.toNat then
    .ok (.dram (aperture k (a - 0x20000000)))
  else .bad causeAddress

/-- The worker may store to every table segment of a range (R85, R86). -/
def segmentsOk (k : WorkerSt) (off len : Nat) : Bool :=
  chipOrPair k.scope || (decide (off / 0x40000 = (off + len - 1) / 0x40000) && coversRegion k.scope (off / 0x40000))

/-- The place of `len` bytes for storing (R85-R87, R455). -/
def storePlace (s : State) (k : WorkerSt) (a len : Nat) : Acc :=
  match loadPlace k a len with
  | .bad c => .bad c
  | .ok (.table off) => if segmentsOk k off len then .ok (.table off) else .bad causeScope
  | .ok (.dram off) => if k.dramBase.getLsbD 0 && storable s off len then .ok (.dram off) else .bad causeAddress
  | .ok p => .ok p

/-- The words of 8 bytes that a range touches. -/
def dwordsOf (off len : Nat) : List Nat := (List.range ((off + len - 1) / 8 + 1 - off / 8)).map fun i => off / 8 + i

/-- A range meets an uncorrectable error (R118, R448). -/
def badPlace (s : State) (w : Worker) (p : Place) (len : Nat) : Bool :=
  match p with
  | .scratch off => (dwordsOf off len).any fun i => s.mem.badScratch.contains (w, i)
  | .table off => (dwordsOf off len).any fun i => s.mem.badTable.contains i
  | .dram off => poisoned s off len

/-- Read and write the bytes of a place. -/
def readPlace (s : State) (w : Worker) (p : Place) (len : Nat) : List Byte :=
  match p with
  | .scratch off => memRead (wkOf s w).scratch off len
  | .table off => memRead s.mem.tables off len
  | .dram off => memRead s.mem.dram off len

def writePlace (s : State) (w : Worker) (p : Place) (b : List Byte) : State :=
  match p with
  | .scratch off => modWk s w fun k => { k with scratch := memWrite k.scratch off b }
  | .table off => modMem s fun m => { m with tables := memWrite m.tables off b }
  | .dram off => modMem s fun m => { m with dram := memWrite m.dram off b }

/-- Go on with the place of a range to be read, aligned to `al`, or trap (R88, R118; log entry 19). -/
def withLoad (s : State) (w : Worker) (a : Word) (len al : Nat) (f : Place → State) : State :=
  if a.toNat % al ≠ 0 then trapWorker s w causeAlign a
  else match loadPlace (wkOf s w) a.toNat len with
    | .bad c => trapWorker s w c a
    | .ok p => if badPlace s w p len then trapWorker s w causeMem a else f p

/-- Go on with the place of a range to be stored to, or trap. -/
def withStore (s : State) (w : Worker) (a : Word) (len al : Nat) (f : Place → State) : State :=
  if a.toNat % al ≠ 0 then trapWorker s w causeAlign a
  else match storePlace s (wkOf s w) a.toNat len with
    | .bad c => trapWorker s w c a
    | .ok p => f p

/-- The place of a block that an instruction copies: a register block is no such place, and faults as a store there would
(R140, R143). -/
def copyPlace (s : State) (w : Worker) (a len : Nat) : Acc :=
  if inBlocks a && !(storeAllowed s w a) then .bad causeScope else storePlace s (wkOf s w) a len

/-- Go on with a range of the worker's own scratch alone; any other address faults with cause ADDRESS, a misaligned one with
cause ALIGN (R137). -/
def withScratch (s : State) (w : Worker) (a : Word) (len al : Nat) (f : State) : State :=
  if a.toNat % al ≠ 0 then trapWorker s w causeAlign a
  else match loadPlace (wkOf s w) a.toNat len with
    | .ok (.scratch _) => f
    | _ => trapWorker s w causeAddress a

/-! ## CRC-32C (R235) -/

/-- One bit of the reflected Castagnoli CRC. -/
def crcBit (c : Word) : Word := if c.getLsbD 0 then (c >>> 1) ^^^ 0x82F63B78 else c >>> 1
def crcByte (c : Word) (b : Byte) : Word :=
  crcBit (crcBit (crcBit (crcBit (crcBit (crcBit (crcBit (crcBit (c ^^^ b.setWidth 32))))))))

/-- CRC-32C of bytes. -/
def crc32c (b : List Byte) : Word := b.foldl crcByte 0xFFFFFFFF ^^^ 0xFFFFFFFF

/-- Bytes with their CRC behind them. -/
def withCrc (b : List Byte) : List Byte := b ++ bytesLE 4 (crc32c b).toNat

/-- The last four bytes are the CRC of those before. -/
def crcHolds (b : List Byte) : Bool :=
  decide (4 ≤ b.length) && decide (ofBytesLE (b.drop (b.length - 4)) = (crc32c (b.take (b.length - 4))).toNat)

end Sys2Proof.Machine
end

