-- ==== Sys2Proof/Machine/Domain.lean ====
section
/-! DEFINITION. Domain instructions of sweeps, cell data, fields, buses, log, twin and system (R132-R160), with the
readings of log entry 21. -/
namespace Sys2Proof.Machine

/-- A request that the arbiter numbers (R134, R536): worker and major opcode. -/
def request (s : State) (w : Worker) (op : Nat) : State :=
  emit s 28 0 0x07 false false (scopeOf s w) (word (fld w.val 24 + op))

/-- The instruction ends with a status in g[d] (R133). -/
def finish (s : State) (w : Worker) (d : GReg) (v : Nat) : State := modWk s w fun k => nextPc (putStatus k d (word v))

/-! ## SWP (R135-R137) -/

/-- Region `r` has reached sweep m (R135). -/
def regionReached (s : State) (r : Region) (m : Word) : Bool :=
  (rgOf s r).lastSweep != 0 && sweepReached (rgOf s r).lastSweep m

/-- Region `r` closed sweep m complete (R136): the number lies in a run of sweeps that did. -/
def closedComplete (s : State) (r : Region) (m : Word) : Bool :=
  m != 0 && (rgOf s r).complete.any fun x => decide ((m - x.1).toNat ≤ (x.2 - x.1).toNat)

/-- The mapped regions of a mask. -/
def maskMapped (s : State) (mask : Half) : List Region :=
  (List.finRange 16).filter fun r => mask.getLsbD r.val && hasMap s r

/-- A mask of regions as a number. -/
def regionMask (l : List Region) : Nat := l.foldl (fun m r => m + 2 ^ r.val) 0

/-- The regions that SWP.ALL waits for: those mapped at issue, and one mapped since from its first closed sweep on
(R160). -/
def allOf (s : State) (mask mapped : Half) : List Region :=
  (maskMapped s mask).filter fun r => mapped.getLsbD r.val || (rgOf s r).lastSweep != 0

/-- The target of SWP when gs2 is 0: one more than the highest sweep closed by a mapped region of the mask. -/
def nextTarget (s : State) (mask : Half) : Word :=
  succSweep ((maskMapped s mask).foldl (fun a r =>
    let n := (rgOf s r).lastSweep
    if n ≠ 0 ∧ (a = 0 ∨ sweepReached n a = true) then n else a) 0)

/-- The condition of a SWP wait with the worker's registers on release. -/
def swpHolds (s : State) (k : WorkerSt) : Wait → Option WorkerSt
  | .swpAll d mask mapped t =>
    let rs := allOf s mask mapped
    if rs.all fun r => regionReached s r t then
      some (putStatus { k with sw := { k.sw with c := rs.all fun r => closedComplete s r t } } d (if rs.isEmpty then 0 else t))
    else none
  | .swpAny d mask t =>
    let rs := (maskMapped s mask).filter fun r => regionReached s r t
    if rs.isEmpty then (if (maskMapped s mask).isEmpty then some (putStatus k d 0) else none)
    else some (putStatus k d (word (regionMask rs)))
  | _ => none

/-- Release every worker whose SWP condition holds, after a sweep has closed (R136). -/
def swpRelease (s : State) : State :=
  forWorkers s fun w s =>
    let k := wkOf s w
    match waitOf k with
    | some x =>
      (match swpHolds s k x with
       | some k' => setWk s w (makeReady k')
       | none => s)
    | none => s

/-- SWP.ALL and SWP.ANY: the worker goes on when the condition holds already. -/
def swpIssue (s : State) (w : Worker) (x : Wait) : State :=
  match swpHolds s (wkOf s w) x with
  | some k => setWk s w (nextPc k)
  | none => blockOn s w x

/-- The lowest region of a mask that the variant does not have (R3). -/
def beyond (s : State) (mask : Half) : Option Nat := (List.range 16).find? fun r => mask.getLsbD r && decide (s.nReg ≤ r)

/-- Both forms over a mask. -/
def swpMask (s : State) (w : Worker) (s1 s2 : GReg) (x : Half → Half → Word → Wait) : State :=
  let k := wkOf s w
  let mask : Half := (gGet k s1).setWidth 16
  match beyond s mask with
  | some r => trapWorker s w causeScope (word r)
  | none =>
    let t := if gGet k s2 = 0 then nextTarget s mask else gGet k s2
    swpIssue s w (x mask (BitVec.ofNat 16 (regionMask (maskMapped s mask))) t)

def execSwpAll (w : Worker) (d s1 s2 : GReg) (s : State) : Out :=
  issueDrained s w fun s => swpMask s w s1 s2 fun mask mapped t => .swpAll d mask mapped t
def execSwpAny (w : Worker) (d s1 s2 : GReg) (s : State) : Out :=
  issueDrained s w fun s => swpMask s w s1 s2 fun mask _ t => .swpAny d mask t

/-- SWP.REVT (R136, R137). -/
def execSwpRevt (w : Worker) (d s1 s2 : GReg) (s : State) : Out :=
  issueDrained s w fun s =>
    let k := wkOf s w
    let r : Region := Fin.ofNat 16 (gGet k s1).toNat
    if hasRegion s r = false then trapWorker s w causeScope (word r.val)
    else withScratch s w (gGet k s2) 16 8
      (if badPlace s w (.scratch ((gGet k s2).toNat % 16384)) 8 then trapWorker s w causeMem (gGet k s2)
       else match revtDeliver s w d r (gGet k s2) with
       | some k' => setWk s w (nextPc k')
       | none => blockOn s w (.swpRevt d r (gGet k s2)))

/-! ## FETCH (R138-R140) -/

/-- FIRST, COUNT, REGION and AGE of a selector, with COUNT reduced (R138). -/
def selFirst (x : Word) : Nat := bitsOf x 11 8
def selCount (x : Word) : Nat := min (bitsOf x 7 0) (16 - selFirst x)
def selRegion (x : Word) : Region := Fin.ofNat 16 (bitsOf x 23 20)
def selAge (x : Word) : Nat := bitsOf x 31 29

/-- Bits of a list of flags, the first in bit 0. -/
def bitMask : List Bool → Nat
  | [] => 0
  | b :: t => ofBool b + 2 * bitMask t

/-- A block of which no sweep is held: every field at its absent value (R7, R139). -/
def absentBlock (status : Half) : Block :=
  ⟨status, 0, false, false, false, false, false, List.replicate 24 0xFFFF, List.replicate 24 7, 0, List.replicate 8 0x8000⟩

/-- The 16-byte header (R139). -/
def fetchHeader (sweep : Word) (state kind first count : Nat) (phase : DWord) : List Byte :=
  bytesLE 4 sweep.toNat ++ [BitVec.ofNat 8 state, BitVec.ofNat 8 kind, BitVec.ofNat 8 first, BitVec.ofNat 8 count] ++ bytesLE 8 phase.toNat

/-- Cell words, sensors and node words of a block (R139). -/
def voltBytes (b : Block) : List Byte := ((b.codes.zip b.volts).map fun x => bytesLE 4 (fld x.1.toNat 16 + x.2.toNat)).flatten
def tempBytes (b : Block) : List Byte := (b.temps.map fun t => bytesLE 2 t.toNat).flatten
def nodeBytes (b : Block) : List Byte :=
  bytesLE 2 b.status.toNat ++ [BitVec.ofNat 8 b.c, BitVec.ofNat 8 (bitMask [b.absent, b.identity, b.rejoined])]

/-- What one block gives to a KIND. -/
def kindBytes (kind : Nat) (b : Block) : List Byte :=
  match kind with
  | 0 => voltBytes b
  | 1 => tempBytes b
  | _ => nodeBytes b

/-- The bytes of FETCH.VOLT, TEMP and NODE. A sweep that is not held has absent values; the node status word has none,
and reads as a free value. -/
def fetchBlocks (s : State) (x : Word) (kind : Nat) : List Byte :=
  let f := selFirst x
  let n := selCount x
  match (rgOf s (selRegion x)).held[selAge x]? with
  | some v =>
    fetchHeader v.sweep (bitMask [v.complete, false, v.isolated, v.lateFill]) kind f n v.phase
      ++ (((v.blocks.drop f).take n).map (kindBytes kind)).flatten
  | none =>
    fetchHeader 0 2 kind f n 0 ++ ((List.range n).map fun j => kindBytes kind
      (absentBlock ((Config.freeWord (s.free + j)).setWidth 16))).flatten

/-- The bytes of FETCH.HEAD. -/
def fetchHeadBytes (s : State) (x : Word) : List Byte :=
  match (rgOf s (selRegion x)).held[selAge x]? with
  | some v =>
    fetchHeader v.sweep (bitMask [v.complete, false, v.isolated, v.lateFill]) 3 0 0 v.phase
      ++ bytesLE 4 v.cur.toNat ++ bytesLE 4 v.vStr.toNat ++ bytesLE 4 v.vBus.toNat ++ bytesLE 2 v.headStatus.toNat ++ [0, 0]
  | none =>
    fetchHeader 0 2 3 0 0 0 ++ bytesLE 4 0x80000000 ++ bytesLE 4 0x80000000 ++ bytesLE 4 0x80000000
      ++ bytesLE 2 ((Config.freeWord s.free).toNat % 65536) ++ [0, 0]

/-- The pack records of sweeps that have closed, newest first (R138): DESIGN CHOICE, once the first region has closed the sweep,
and in a module without a map at their sample instant (log entry 21). -/
def closedPacks (s : State) : List PackRec :=
  s.sweep.packs.dropWhile fun p =>
    (List.finRange 16).any (hasMap s) && !((List.finRange 16).any fun r => hasMap s r && regionReached s r p.sweep)

/-- The bytes of FETCH.PACK; whether COMPLETE is set in its header is left open. -/
def fetchPackBytes (s : State) (x : Word) : List Byte :=
  match (closedPacks s)[selAge x]? with
  | some p =>
    fetchHeader p.sweep (ofBool (Config.freeBool s.free)) 4 0 0 p.phase
      ++ (p.dsm.toList.map fun v => bytesLE 4 v.toNat).flatten
  | none => fetchHeader 0 2 4 0 0 0 ++ (List.replicate 4 (bytesLE 4 0x80000000)).flatten

/-- FETCH: the copy goes to scratch or to a table segment that the worker may store to; elsewhere it faults as a store there
would (R140). -/
def fetch (w : Worker) (d s1 : GReg) (s : State) (pack : Bool) (bytes : State → Word → List Byte) : Out :=
  issue s w fun s =>
    let k := wkOf s w
    let sel := gGet k s1
    if !pack && !(hasRegion s (selRegion sel)) then trapWorker s w causeScope (word (selRegion sel).val)
    else
      let b := bytes s sel
      let a := gGet k d
      if a.toNat % 8 ≠ 0 then trapWorker s w causeAlign a
      else match copyPlace s w a.toNat b.length with
        | .bad c => trapWorker s w c a
        | .ok (.dram _) => trapWorker s w causeAddress a
        | .ok p => modWk { writePlace s w p b with free := s.free + 16 } w nextPc

def execFetchVolt (w : Worker) (d s1 : GReg) (s : State) : Out := fetch w d s1 s false fun s x => fetchBlocks s x 0
def execFetchTemp (w : Worker) (d s1 : GReg) (s : State) : Out := fetch w d s1 s false fun s x => fetchBlocks s x 1
def execFetchNode (w : Worker) (d s1 : GReg) (s : State) : Out := fetch w d s1 s false fun s x => fetchBlocks s x 2
def execFetchHead (w : Worker) (d s1 : GReg) (s : State) : Out := fetch w d s1 s false fetchHeadBytes
def execFetchPack (w : Worker) (d s1 : GReg) (s : State) : Out := fetch w d s1 s true fetchPackBytes

/-! ## OUT (R145, R146) -/

/-- OUT from either side. An Isken OUT whose command word holds another CMD is another row of the table. -/
def outCommand (src : OutSrc) (s : State) (cmd : Nat) : Out :=
  match src with
  | .host k c duty => run s fun s => if isOperator s k && hasChan s c then outHost s c cmd duty else s
  | .isken w d s1 s2 =>
    if (gGet (wkOf s w) s2).toNat % 4 ≠ cmd then .next s
    else issue s w fun s =>
      let k := wkOf s w
      let c : Chan := Fin.ofNat 64 (gGet k s1).toNat
      if !(hasChan s c && ownsChan s k.scope c) then trapWorker s w causeScope (word c.val)
      else
        let r := outTake (request s w 0x2C) k.scope w.val c cmd ((gGet k s2 >>> 16).setWidth 16)
        finish r.1 w d r.2

def execOutOff (src : OutSrc) (s : State) : Out := outCommand src s 0
def execOutOn (src : OutSrc) (s : State) : Out := outCommand src s 1
def execOutPwm (src : OutSrc) (s : State) : Out := outCommand src s 2
def execOutClearLatch (src : OutSrc) (s : State) : Out := outCommand src s 3

/-! ## CTC (R147-R149) -/

/-- TIMEOUT of an OPEN_PLANNED within the range of the region's open time-out, with a clamp entry when it was not. -/
def ctcLimit (s : State) (w : Worker) (given : Nat) : State × Nat :=
  let applied := clampNat 100 30000 given
  if given = 0 ∨ applied = given then (s, given)
  else (clampAdd s (word w.val) (word given) (word applied) (scopeOf s w) 0x05 (if given < 100 then 0x02 else 0x03), applied)

/-- A step code that no row names. -/
def undefinedStep (c : Nat) : Bool := decide (c = 0 ∨ 8 < c)

/-- CTC. A word with another step's code is another row of the table. -/
def ctc (w : Worker) (d s1 s2 : GReg) (s : State) (code : Nat) : Out :=
  let given := (gGet (wkOf s w) s2).toNat % 16
  if given ≠ code ∧ undefinedStep given = false then .next s
  else issue s w fun s =>
    let k := wkOf s w
    let r : Region := Fin.ofNat 16 (gGet k s1).toNat
    if !(hasRegion s r && coversRegion k.scope r.val) then trapWorker s w causeScope (word r.val)
    else
      let (s, limit) := if given = 5 then ctcLimit s w (bitsOf (gGet k s2) 31 16) else (s, 0)
      let t := (reOf s r).nextTicket
      let s := modRe (request s w 0x2D) r fun e => { e with nextTicket := nextTicket t }
      ctcTake (finish s w d (fld r.val 16 + t.toNat)) r given limit t

def execCloseNeg (w : Worker) (d s1 s2 : GReg) (s : State) : Out := ctc w d s1 s2 s 1
def execPrecharge (w : Worker) (d s1 s2 : GReg) (s : State) : Out := ctc w d s1 s2 s 2
def execClosePos (w : Worker) (d s1 s2 : GReg) (s : State) : Out := ctc w d s1 s2 s 3
def execOpenPre (w : Worker) (d s1 s2 : GReg) (s : State) : Out := ctc w d s1 s2 s 4
def execOpenPlanned (w : Worker) (d s1 s2 : GReg) (s : State) : Out := ctc w d s1 s2 s 5
def execOpenEmergency (w : Worker) (d s1 s2 : GReg) (s : State) : Out := ctc w d s1 s2 s 6
def execCtcRestart (w : Worker) (d s1 s2 : GReg) (s : State) : Out := ctc w d s1 s2 s 7
def execWeldCheck (w : Worker) (d s1 s2 : GReg) (s : State) : Out := ctc w d s1 s2 s 8

/-! ## CTX and CRX (R151-R154) -/

/-- CTX (R152). -/
def execCtx (w : Worker) (d s1 s2 : GReg) (s : State) : Out :=
  issue s w fun s =>
    let k := wkOf s w
    let n : Fin 4 := Fin.ofNat 4 (gGet k s1).toNat
    if !(chipOrPair k.scope) then trapWorker s w causeScope (word n.val)
    else withLoad s w (gGet k s2) 72 8 fun p =>
      match p with
      | .scratch off =>
        let f := frameOfImage (memRead k.scratch off 72)
        if badFrame f || !(portOpen (canOf s n)) then trapWorker s w 0x0B 0
        else
          let r := ctxQueue (request s w 0x30) n f
          let s := if r.2 = 1 then emit r.1 28 1 0x04 false true k.scope (word (fld w.val 24 + fld n.val 16 + 1)) else r.1
          finish s w d r.2
      | _ => trapWorker s w causeAddress (gGet k s2)

/-- CRX (R154): a buffer that the host consumes faults with cause BUS (R398). The order of issue is kept by the model's counter. -/
def execCrx (w : Worker) (d s1 s2 : GReg) (nb : Bool) (s : State) : Out :=
  issueDrained s w fun s =>
    let k := wkOf s w
    let n : Fin 4 := Fin.ofNat 4 (gGet k s1).toNat
    let buf : Option (Fin 64) := if (gGet k s1).getLsbD 16 then none else some (Fin.ofNat 64 (bitsOf (gGet k s1) 15 8))
    withScratch s w (gGet k s2) 88 8
      (if buf.any (bufHost (canOf s n)) then trapWorker s w 0x0B 0
       else match crxFrame (canOf s n) buf with
       | some e => modWk (crxDeliver s w d (gGet k s2) n e) w nextPc
       | none =>
         if nb then finish s w d 0
         else
           let (i, s) := drawFree s
           blockOn s w (.can d n buf (gGet k s2) (BitVec.ofNat 64 i)))

/-! ## EVT (R155, R434) -/

/-- The code of a program's record: KEEP from fn, FWD clear, ORIGIN set. -/
def programCode (x : Word) (keep : Bool) : Half :=
  BitVec.ofNat 16 (fld (bitsOf x 15 14) 14 + fld (ofBool keep) 12 + 0x800 + bitsOf x 10 0)

def execEvt (w : Worker) (d s1 s2 : GReg) (keep : Bool) (s : State) : Out :=
  issue s w fun s =>
    let k := wkOf s w
    let code := programCode (gGet k s1) keep
    let s := number s
    let entered := tokenHeld s code
    finish (wearCheck (recPut s (recOf s code k.scope (gGet k s2)))) w d (ofBool entered)

/-! ## MIR (R156) -/

/-- MIR is for pair workers; with `twin`, only while the twin is present. -/
def mir (s : State) (w : Worker) (twin : Bool) (f : State → State) : State :=
  if !(isPair (scopeOf s w)) then trapWorker s w causeScope 0
  else if twin && !s.twin.present then trapWorker s w 0x0C 0
  else f s

def execMstat (w : Worker) (d : GReg) (s : State) : Out :=
  issue s w fun s => mir s w false fun s =>
    finish s w d (bitMask [s.twin.present, isLead s, isYielded s, s.twin.statesMatch] + fld (min 255 s.twin.mismatch) 8)

/-- Messages sent to a worker of the twin since the attach, at most 8 counted. -/
def sentTo (s : State) (w : Worker) : Nat :=
  match s.twin.peerMail.find? fun x => x.1 == w with
  | some x => x.2
  | none => 0

/-- MSEND: whether the twin's mailbox is full is for the twin to say; it can be only after 8 messages. -/
def execMsend (w : Worker) (d s1 s2 : GReg) (s : State) : Out :=
  issue s w fun s => mir s w true fun s =>
    let k := wkOf s w
    let len := clampNat 1 64 (gGet k s2).toNat
    withLoad s w (gGet k s1) len 1 fun p =>
      match p with
      | .scratch off =>
        let (i, s) := drawFree (request s w 0x35)
        if 8 ≤ sentTo s w ∧ Config.freeBool i = true then finish s w d 1
        else
          let n := min 8 (sentTo s w + 1)
          let s := modTwin s fun t => { t with peerMail := (w, n) :: t.peerMail.filter fun x => x.1 != w }
          finish (twinSend s (.mirMsg w (memRead k.scratch off len))) w d 0
      | _ => trapWorker s w causeAddress (gGet k s1)

/-- A message to a worker: into its scratch, its length to g[d]. -/
def mirDeliver (k : WorkerSt) (d : GReg) (addr : Word) (b : List Byte) : WorkerSt :=
  putStatus { k with scratch := memWrite k.scratch (addr.toNat % 16384) b } d (word b.length)

/-- MRECV. -/
def execMrecv (w : Worker) (d s1 : GReg) (s : State) : Out :=
  issueDrained s w fun s => mir s w true fun s =>
    let k := wkOf s w
    withScratch s w (gGet k s1) 64 1
      (match s.twin.mail.find? fun x => x.1 == w with
       | some x => modWk (modTwin s fun t => { t with mail := t.mail.erase x }) w fun k => nextPc (mirDeliver k d (gGet k s1) x.2)
       | none => blockOn s w (.twin d (gGet k s1)))

/-- MYIELD: the lead yields as the YIELD command does, which with no healthy mirror or during a transfer changes nothing. With a
hand-over under way the module counts as no longer lead (R389). DESIGN CHOICE: the request is numbered as one of MIR, though the
table of R134 names only a send (log entry 21). -/
def execMyield (w : Worker) (d : GReg) (s : State) : Out :=
  issue s w fun s => mir s w true fun s =>
    if s.twin.role = .lead ∧ s.twin.grant = none then
      finish (if canYield s && !s.twin.xferBusy then yieldStart (request s w 0x35) else request s w 0x35) w d 0
    else finish s w d 1

/-! ## SYS (R159) -/

/-- HALT: DESIGN CHOICE, it is numbered as no event, since R90 and R536 give it none (log entry 21). -/
def execHalt (w : Worker) (s : State) : Out := issueDrained s w fun s => leaveWorker (modWk s w nextPc) w .stopped

def execYieldQ (w : Worker) (s : State) : Out :=
  issue s w fun s => goHome (loseQuantum (modWk s w fun k => nextPc { k with state := .ready }) w) w

/-- A temperature as TEMP gives it: a multiple of 25. -/
def temp25 (x : Half) : Half := BitVec.ofInt 16 (roundDiv x.toInt 25 * 25)

/-- TEMP: 50 µs of one measurement, which a TEMP issued meanwhile shares. -/
def execTemp (w : Worker) (d : GReg) (board die : Half) (s : State) : Out :=
  issue s w fun s =>
    let now := nowNs s
    let s := if now < s.therm.measEnd then s
      else { s with therm := { s.therm with lastBoard := temp25 board, lastDie := temp25 die, measEnd := now + 50000 } }
    finish s w d (fld s.therm.lastBoard.toNat 16 + s.therm.lastDie.toNat)

def execTrap (w : Worker) (code : BitVec 7) (s : State) : Out :=
  issue s w fun s => trapWorker s w (BitVec.ofNat 8 (128 + code.toNat)) 0

end Sys2Proof.Machine
end

