-- ==== Sys2Proof/Machine/Numeric.lean ====
section
/-! DEFINITION. Exact fractions, and the exponential, logarithm and square root of the estimation models (R275-R294),
with the precision of log entry 23. -/
namespace Sys2Proof.Machine

/-- A fraction; the denominator of every fraction the kernels form is positive. -/
structure Frac where
  n : Int
  d : Nat
deriving DecidableEq, Repr

namespace Frac
def ofInt (x : Int) : Frac := ⟨x, 1⟩
def ofNat (x : Nat) : Frac := ⟨x, 1⟩
def add (a b : Frac) : Frac := ⟨a.n * b.d + b.n * a.d, a.d * b.d⟩
def neg (a : Frac) : Frac := ⟨-a.n, a.d⟩
def sub (a b : Frac) : Frac := add a (neg b)
def mul (a b : Frac) : Frac := ⟨a.n * b.n, a.d * b.d⟩
/-- Division; by zero it gives zero, which no rule asks for. -/
def div (a b : Frac) : Frac :=
  if b.n = 0 then ⟨0, 1⟩ else if 0 < b.n then ⟨a.n * b.d, a.d * b.n.toNat⟩ else ⟨-(a.n * b.d), a.d * (-b.n).toNat⟩
def lt (a b : Frac) : Bool := decide (a.n * b.d < b.n * a.d)
def le (a b : Frac) : Bool := decide (a.n * b.d ≤ b.n * a.d)
def isZero (a : Frac) : Bool := decide (a.n = 0)
def abs (a : Frac) : Frac := ⟨a.n.natAbs, a.d⟩
def min (a b : Frac) : Frac := if lt b a then b else a
def max (a b : Frac) : Frac := if lt a b then b else a
/-- To the nearest integer, ties away from zero (R278). -/
def round (a : Frac) : Int := roundDiv a.n a.d
/-- The same value with the denominator 2^96. -/
def fix (a : Frac) : Frac := ⟨Int.fdiv (a.n * 2 ^ 96) a.d, 2 ^ 96⟩
end Frac

/-- A Q16.16 value as a fraction. -/
def qFrac (x : Int) : Frac := ⟨x, 65536⟩

/-! ## Fixed point with 96 fractional bits -/

def fxOne : Int := 2 ^ 96
def fxMul (a b : Int) : Int := Int.fdiv (a * b) fxOne
def fxDiv (a b : Int) : Int := if b = 0 then 0 else Int.fdiv (a * fxOne) b
def fxOf (a : Frac) : Int := Int.fdiv (a.n * fxOne) a.d

/-- Terms of e^x from the k-th down: 1 + x/k (1 + x/(k+1) (…)). -/
def expTerms (x : Int) (k : Nat) : Nat → Int
  | 0 => fxOne
  | m + 1 => fxOne + fxMul x (expTerms x (k + 1) m) / (k : Int)

/-- Square m times. -/
def fxSquares (x : Int) : Nat → Int
  | 0 => x
  | m + 1 => fxSquares (fxMul x x) m

/-- e^x: the argument reduced by 2^24, and squared back. -/
def fxExp (x : Int) : Int := fxSquares (expTerms (Int.fdiv x (2 ^ 24)) 1 24) 24

/-- e^(−x) for x ≥ 0, zero beyond 100. -/
def expNeg (x : Frac) : Frac := if Frac.lt (Frac.ofNat 100) x then Frac.ofNat 0 else ⟨fxExp (-(fxOf x)), 2 ^ 96⟩

/-- The odd series of 2 atanh z. -/
def atanhTerms (z2 : Int) (k : Nat) : Nat → Int
  | 0 => 0
  | m + 1 => fxOne / (k : Int) + fxMul z2 (atanhTerms z2 (k + 2) m)

def fxLnNear (x : Int) : Int :=
  let z := fxDiv (x - fxOne) (x + fxOne)
  2 * fxMul z (atanhTerms (fxMul z z) 1 64)

/-- Halve until below 2, counting. -/
def fxHalve (x : Int) : Nat → Int × Nat
  | 0 => (x, 0)
  | m + 1 => if x < 2 * fxOne then (x, 0) else
    let r := fxHalve (x / 2) m
    (r.1, r.2 + 1)

/-- ln x for x ≥ 1. -/
def fxLn (x : Int) : Int :=
  let r := fxHalve x 64
  fxLnNear r.1 + r.2 * fxLnNear (2 * fxOne)

/-- One bit of a square root. -/
def isqrtBits (x r : Nat) : Nat → Nat
  | 0 => r
  | m + 1 => let t := r + 2 ^ m; isqrtBits x (if t * t ≤ x then t else r) m

/-- The whole part of a square root. -/
def isqrt (x : Nat) : Nat := isqrtBits x 0 160

/-- √x rounded to the nearest integer. -/
def roundSqrt (x : Frac) : Nat := if x.n ≤ 0 then 0 else (isqrt (4 * x.n.toNat / x.d) + 1) / 2

/-- √x in fixed point. -/
def fxSqrt (x : Int) : Int := if x ≤ 0 then 0 else (isqrt (x.toNat * 2 ^ 96) : Nat)

/-! ## Little-endian fields of byte lists -/

def byteAt (b : List Byte) (i : Nat) : Nat := match b[i]? with | some x => x.toNat | none => 0
def natAt (b : List Byte) (i n : Nat) : Nat := ofBytesLE ((b.drop i).take n)
def intAt (b : List Byte) (i n : Nat) : Int := (BitVec.ofNat (8 * n) (natAt b i n)).toInt
/-- Bytes of an integer, two's complement. -/
def intLE (n : Nat) (v : Int) : List Byte := bytesLE n (v % (2 ^ (8 * n) : Nat)).toNat
/-- Replace bytes from an offset. -/
def putAt (b : List Byte) (i : Nat) (x : List Byte) : List Byte := b.take i ++ x ++ b.drop (i + x.length)

end Sys2Proof.Machine
end

