-- ==== Sys2Proof/Machine/Comb.lean ====
section
/-! DEFINITION. The comb: launches, tickets, completions, tables and segments (R141-R144, R268-R278, R304), with the
readings of log entries 23 and 24. -/
namespace Sys2Proof.Machine

/-! ## Positions (R6, R7) -/

/-- Region, block of the region and cell of the block of a global cell index. -/
def cellRegion (c : Nat) : Region := Fin.ofNat 16 (c / 384)
def cellBlock (c : Nat) : Nat := c % 384 / 24
def cellK (c : Nat) : Nat := c % 24

/-- The map's hop of block j of a region: hop j + 2. -/
def blockHop (s : State) (r : Region) (j : Nat) : Option MapHop :=
  if hasRegion s r then (rgOf s r).map.bind fun m => m.hops[j + 1]? else none

/-- Configured cells and sensors of block j; 0 when the position has no block. -/
def blockCells (s : State) (r : Region) (j : Nat) : Nat := match blockHop s r j with | some h => h.cells | none => 0
def blockSensors (s : State) (r : Region) (j : Nat) : Nat := match blockHop s r j with | some h => h.sensors | none => 0

/-- A populated cell (R7). -/
def populated (s : State) (c : Nat) : Bool := decide (c < 6144) && decide (cellK c < blockCells s (cellRegion c) (cellBlock c))

/-- Sweep a comes after sweep b (R135). -/
def sweepAfterOf (a b : Word) : Bool := a != b && sweepReached a b

/-! ## Tables -/

/-- The place of a table address of a launch. -/
def tabPlace (l : Launch) (a : Nat) : Place :=
  if 0x50000000 ≤ a then .table (a - 0x50000000) else .dram (l.aperture + (a - 0x20000000))

def tabRead (s : State) (l : Launch) (a n : Nat) : List Byte := readPlace s l.worker (tabPlace l a) n
def tabBad (s : State) (l : Launch) (a n : Nat) : Bool := decide (0 < n) && badPlace s l.worker (tabPlace l a) n

/-- Commit bytes to a table (R269, R460): lines covered whole lose their poison; a line covered in part keeps it, and
then nothing is written. Answers whether that happened. -/
def tabCommit (s : State) (l : Launch) (a : Nat) (b : List Byte) : State × Bool :=
  match tabPlace l a with
  | .dram off =>
    let lines := linesOf off b.length
    let whole (x : Nat) : Bool := decide (off ≤ 64 * x ∧ 64 * x + 64 ≤ off + b.length)
    if b.isEmpty then (s, false)
    else if lines.any fun x => s.mem.poison.contains x && !whole x then (s, true)
    else (modMem s fun m => { m with dram := memWrite m.dram off b, poison := m.poison.filter fun x => !(lines.contains x) }, false)
  | p => (writePlace s l.worker p b, false)

/-! ## The estimator directory (R304) -/

def dirKind (e : DirEntry) : Nat := bitsOf e.ctrl 3 0
def dirDram (e : DirEntry) : Bool := e.ctrl.getLsbD 8
def dirFirst (e : DirEntry) : Nat := bitsOf e.range 12 0
def dirCount (e : DirEntry) : Nat := bitsOf e.range 31 16

/-- Bytes per element. -/
def dirElem (e : DirEntry) : Nat :=
  match dirKind e with
  | 1 => 128
  | 2 => 32
  | 3 => 8
  | 5 => bitsOf e.ctrl 31 24
  | _ => 0

/-- The place of byte x of an entry's table. -/
def dirPlace (e : DirEntry) (x : Nat) : Place :=
  if dirDram e then .dram (e.addr.toNat + x) else .table (e.addr.toNat - 0x50000000 + x)

/-- The entry covers cell c. -/
def dirCovers (e : DirEntry) (c : Nat) : Bool := decide (dirFirst e ≤ c ∧ c < dirFirst e + dirCount e)

/-- The entry's address lies in its memory (log entry 27: an entry whose address does not, names no table). -/
def dirInside (e : DirEntry) : Bool :=
  if dirDram e then decide (e.addr.toNat < 0xE0000000) else decide (0x50000000 ≤ e.addr.toNat ∧ e.addr.toNat < 0x50400000)

/-- The entry of a kind that covers a cell. -/
def dirFor (s : State) (kind c : Nat) : Option DirEntry :=
  s.est.dir.toList.find? fun e => dirKind e == kind && dirInside e && dirCovers e c

/-- The tables that cappings take: kinds 1, 2 and 5. -/
def dirCapped (e : DirEntry) : Bool := (dirKind e == 1 || dirKind e == 2 || dirKind e == 5) && dirInside e

/-- Two places lie in one memory and their ranges meet. -/
def placesMeet (p : Place) (n : Nat) (q : Place) (m : Nat) : Bool :=
  match p, q with
  | .table a, .table b => meets a n b m
  | .dram a, .dram b => meets a n b m
  | _, _ => false

/-! ## Kernels and their tables (R142, R143, R272, R294) -/

/-- Blocks of 24 cells that lie wholly in a range, and blocks that the range touches. -/
def wholeBlocks (first count : Nat) : List Nat := (List.range 256).filter fun b => decide (first ≤ 24 * b ∧ 24 * b + 24 ≤ first + count)
def touchedBlocks (first count : Nat) : List Nat := (List.range 256).filter fun b => meets first count (24 * b) 24

/-- A listed kernel; a built-in one. -/
def knownKernel (k : Nat) : Bool := decide (1 ≤ k ∧ k ≤ 9) || decide (0x20 ≤ k ∧ k ≤ 0x26)
def builtIn (k : Nat) : Bool := decide (k ≤ 9)

/-- The bytes of the result at DST. -/
def dstLen (l : Launch) : Nat :=
  match l.kernel.toNat with
  | 7 => 8 * l.count
  | 8 => 64 * (wholeBlocks l.first l.count).length
  | 9 => 32 * (1 + if l.param1.getLsbD 0 then (touchedBlocks l.first l.count).length else 0)
  | 5 => 32 * l.count
  | 0x23 | 0x24 => 8
  | 0x26 => 4 * ((l.count + 31) / 32)
  | 0x20 | 0x21 | 0x22 | 0x25 => 4 * l.count
  | _ => 128 * l.count

/-- The tables that a kernel reads, with the bytes that the launch checks: SRC_A, SRC_B, and parameters that are
addresses. -/
def loadTables (l : Launch) : List (Word × Nat) :=
  let n := l.count
  match l.kernel.toNat with
  | 1 => [(l.srcA, 128 * n), (l.param1, 64)]
  | 2 | 3 => [(l.srcA, 128 * n), (l.param0, 64)]
  | 4 => [(l.srcA, 128 * n), (l.srcB, 32 * n), (l.param0, 64)]
  | 5 => [(l.srcA, 32), (l.srcB, 128 * n), (l.param0, 64)]
  | 6 => [(l.srcA, 128 * n), (l.srcB, 32 * n), (l.param0, 64), (l.param1, 24)]
  | 7 => [(l.srcA, 128 * n), (l.param0, 64), (l.param1, 84)]
  | 8 => [(l.srcA, 128 * n), (l.param0, 16)]
  | 9 => [(l.srcA, 128 * n)]
  | 0x20 | 0x21 => [(l.srcA, 4 * n), (l.srcB, 4 * n)]
  | 0x22 => if l.srcB = 0 then [(l.srcA, 4 * n)] else [(l.srcA, 4 * n), (l.srcB, 4 * n)]
  | 0x25 => [(l.srcA, 4 * n), (l.param0, 8)]
  | _ => [(l.srcA, 4 * n)]

/-- The descriptor's fields (R142). -/
def launchOf (s : State) (w : Worker) (b : List Byte) (ticket : Word) : Launch :=
  let k := wkOf s w
  { ticket := ticket, worker := w, prio := k.prio, seq := 0, kernel := BitVec.ofNat 8 (byteAt b 0)
    temp := decide (byteAt b 1 % 2 = 1), first := natAt b 4 2, count := natAt b 6 2
    srcA := word (natAt b 8 4), srcB := word (natAt b 12 4), dst := word (natAt b 16 4)
    param0 := word (natAt b 20 4), param1 := word (natAt b 24 4), aperture := aperture k 0
    seg := 0, excluded := 0, acc := [], target := none }

/-- A malformed descriptor (R143). -/
def badDescriptor (b : List Byte) (l : Launch) : Bool :=
  let k := l.kernel.toNat
  !(knownKernel k) || (l.temp && builtIn k) || l.count == 0
    || decide ((if l.temp then 2048 else 6144) < l.first + l.count)
    || decide (byteAt b 1 / 2 ≠ 0) || decide (natAt b 2 2 ≠ 0) || decide (natAt b 28 4 ≠ 0)
    || (loadTables l).any (fun t => decide (t.1.toNat % 8 ≠ 0)) || decide (l.dst.toNat % 8 ≠ 0)

/-- The range lies in the variant and in the worker's scope (R3, R83). -/
def rangeOk (s : State) (sc : Half) (l : Launch) : Bool :=
  let per := if l.temp then 128 else 384
  let a := l.first / per
  let z := (l.first + l.count - 1) / per
  decide (z < s.nReg) && (chipOrPair sc || (a == z && coversRegion sc a))

/-- A table lies in the shared tables or in the aperture, where the worker may load it. -/
def tableLoad (k : WorkerSt) (a : Word) (n : Nat) : Acc :=
  match loadPlace k a.toNat n with
  | .ok (.scratch _) => .bad causeAddress
  | x => x

def tableStore (s : State) (w : Worker) (a : Word) (n : Nat) : Acc :=
  match copyPlace s w a.toNat n with
  | .ok (.scratch _) => .bad causeAddress
  | x => x

/-- The first table address that fails, with the cause. -/
def badTable (s : State) (w : Worker) (l : Launch) : Option (Byte × Word) :=
  let loads := (loadTables l).filterMap fun t =>
    match tableLoad (wkOf s w) t.1 t.2 with
    | .bad c => some (c, t.1)
    | .ok _ => none
  let store := match (if dstLen l = 0 then Acc.ok (.table 0) else tableStore s w l.dst (dstLen l)) with
    | .bad c => [(c, l.dst)]
    | .ok _ => []
  (loads ++ store).head?

/-! ## CMB (R141-R143) -/

/-- The ticket of a worker's next launch (log entry 24): the worker and the count of its launches. -/
def ticketOf (w : Worker) (launches : Nat) : Word := word (fld w.val 24 + launches % 0xFFFFFF + 1)

/-- A launch entry is free for the worker: the last 4 are for P0 and P1. -/
def entryFree (s : State) (k : WorkerSt) : Bool :=
  decide (s.comb.queue.length < (if k.prio.toNat ≤ 1 then 32 else 28))

/-- The launch is queued with the number of its event. -/
def launch (s : State) (w : Worker) (d : GReg) (l : Launch) : State :=
  let s := request s w 0x28
  let s := { s with comb := { s.comb with queue := s.comb.queue ++ [{ l with seq := s.arb.seq }] } }
  modWk s w fun k => nextPc (putStatus { k with tickets := k.tickets ++ [l.ticket], launched := true, launches := k.launches + 1 } d l.ticket)

def execCmb (w : Worker) (d s1 : GReg) (s : State) : Out :=
  issue s w fun s =>
    let k := wkOf s w
    withLoad s w (gGet k s1) 32 8 fun p =>
      match p with
      | .dram _ => trapWorker s w causeAddress (gGet k s1)
      | p =>
        let b := readPlace s w p 32
        let l := launchOf s w b (ticketOf w k.launches)
        if badDescriptor b l then trapWorker s w 0x0A (gGet k s1)
        else if !(rangeOk s k.scope l) then trapWorker s w causeScope (word l.first)
        else match badTable s w l with
          | some (c, a) => trapWorker s w c a
          | none => if entryFree s k then launch s w d l else finish s w d 0

/-! ## CMBW and completions (R144) -/

/-- The completion word. -/
def doneWord (excluded status : Nat) : Word := word (fld (min 0xFFFF excluded) 16 + status)

/-- A ticket that the worker has launched under, at some time. -/
def wasTicket (k : WorkerSt) (w : Worker) (t : Word) : Bool :=
  bitsOf t 31 24 == w.val && decide (1 ≤ bitsOf t 23 0) && decide (bitsOf t 23 0 ≤ k.launches ∨ 0xFFFFFF ≤ k.launches)

def execCmbw (w : Worker) (d s1 : GReg) (s : State) : Out :=
  issueDrained s w fun s =>
    let k := wkOf s w
    let t := gGet k s1
    let finishW (v : Word) : State := modWk s w fun k => nextPc (putStatus k d v)
    if t = 0 then
      if k.tickets.isEmpty then finishW (doneWord 0 (if k.launched then 0 else 0xFF))
      else blockOn s w (.comb d 0 0 false)
    else match k.done.find? fun x => x.1 == t with
      | some x => finishW x.2
      | none =>
        if k.tickets.contains t then blockOn s w (.comb d t 0 false)
        else finishW (doneWord 0 (if wasTicket k w t then 0xFE else 0xFF))

/-- What a completion does for the worker's CMBW. -/
def combWake (k : WorkerSt) (t : Word) (excluded status : Nat) : WorkerSt :=
  match waitOf k with
  | some (.comb d u e p) =>
    if u = t then makeReady (putStatus k d (doneWord excluded status))
    else if u = 0 then
      let e := e + min 0xFFFF excluded
      let p := p || status == 1
      if k.tickets.isEmpty then makeReady (putStatus k d (doneWord e (if p then 1 else status)))
      else { k with wait := some (.comb d 0 e p) }
    else k
  | _ => k

/-- A launch completes: it leaves the queue, its word is held, the event is numbered, and the worker is released, unless it has
left the state in which it launched (R79, R160). -/
def combDone (s : State) (l : Launch) (excluded status : Nat) : State :=
  let s := { s with comb := { s.comb with queue := s.comb.queue.filter fun x => x.ticket != l.ticket } }
  let v := doneWord excluded status
  let s := emit s 28 0 0x08 false false (scopeOf s l.worker) v
  modWk s l.worker fun k =>
    let k' := { k with tickets := k.tickets.erase l.ticket, done := ((l.ticket, v) :: k.done).take 8 }
    if k.tickets.contains l.ticket then combWake k' l.ticket excluded status else k'

/-! ## Grants (R33, R270, R313) -/

/-- A launch that a capping copy holds: its DST meets a table being copied. -/
def launchHeld (s : State) (l : Launch) : Bool :=
  match s.est.step with
  | .copying _ _ tables => tables.any fun e => placesMeet (tabPlace l l.dst.toNat) (dstLen l) (dirPlace e 0) (dirElem e * dirCount e)
  | _ => false

/-- The launch that the comb grants next: by priority, then by sequence; a held launch holds the later ones of its
priority. Under test the launches stay queued (R500). -/
def granted (s : State) : Option Launch :=
  if s.comb.out || underTest s 4 then none
  else ([0, 1, 2, 3] : List (BitVec 2)).findSome? fun p =>
    match s.comb.queue.find? fun l => l.prio == p with
    | some l => if launchHeld s l then none else some l
    | none => none

/-- What a segment of a launch does: the state, the launch with what it carries on, the elements left out, whether a line was
poisoned, and whether the kernel ends with this segment (R268, R269). -/
structure KRun where
  s : State
  l : Launch
  excluded : Nat
  poisoned : Bool
  stop : Bool

/-- The segment's first element and how many it has (R268). -/
def segFirst (l : Launch) : Nat := 64 * l.seg
def segLen (l : Launch) : Nat := min 64 (l.count - segFirst l)

/-- The segment ends: the launch completes after its last one, at a poisoned line and where the kernel ends; else it waits for
its next segment in its place of the queue, behind any launch of higher priority (R268-R270). -/
def segDone (k : KRun) : State :=
  let l := { k.l with seg := k.l.seg + 1, excluded := k.l.excluded + k.excluded }
  if k.poisoned || k.stop || decide (l.count ≤ segFirst l) then combDone k.s l l.excluded (ofBool k.poisoned)
  else { k.s with comb := { k.s.comb with queue := k.s.comb.queue.map fun x => if x.seq == l.seq then l else x } }

/-- A kernel row: it runs one segment of the launch granted next when that is its kernel (R33, R268). -/
def kernelRow (s : State) (code : Nat) (f : State → Launch → KRun) : Out :=
  run s fun s =>
    match granted s with
    | some l => if l.kernel.toNat = code then segDone (f s l) else s
    | none => s

/-- A segment that meets a poisoned line writes nothing (R269, R295). -/
def poisonedRun (s : State) (l : Launch) : KRun := ⟨s, l, 0, true, false⟩

/-- A source of a segment holds a poisoned line: address and bytes per element. -/
def srcBad (s : State) (l : Launch) (srcs : List (Word × Nat)) : Bool :=
  srcs.any fun x => tabBad s l (x.1.toNat + x.2 * segFirst l) (x.2 * segLen l)

/-- The segment's results in one commit (R269). -/
def segCommit (s : State) (l : Launch) (a : Nat) (b : List Byte) (excluded : Nat) : KRun :=
  let c := tabCommit s l a b
  if c.2 then poisonedRun s l else ⟨c.1, l, excluded, false, false⟩

/-- One element of a segment: the state goes through, its bytes are appended, and it may count as left out. -/
def elements (f : State → Nat → State × List Byte × Bool) (s : State) (i : Nat) : Nat → State × List Byte × Nat
  | 0 => (s, [], 0)
  | m + 1 =>
    let r := f s i
    let t := elements f r.1 (i + 1) m
    (t.1, r.2.1 ++ t.2.1, ofBool r.2.2 + t.2.2)

/-- A kernel of one result per element: read the sources, compute each element of the segment, commit. -/
def mapKernel (s : State) (l : Launch) (size : Nat) (srcs : List (Word × Nat)) (f : State → Nat → State × List Byte × Bool) : KRun :=
  if srcBad s l srcs then poisonedRun s l
  else
    let r := elements f s (segFirst l) (segLen l)
    let k := segCommit r.1 l (l.dst.toNat + size * segFirst l) r.2.1 r.2.2
    if k.poisoned then poisonedRun s l else k

/-! ## The chemistry table (R277, R278) -/

structure Chem where
  capNom : Nat
  tPts : List Int
  zsDef : Nat
  zpDef : Nat
  tpDef : Nat
  zsMin : Nat
  zsMax : Nat
  tpMin : Nat
  tpMax : Nat
  rmsMax : Nat
  soc : List Nat
  chg : List (List Nat)
  dis : List (List Nat)
  zf : List Nat

/-- 16-bit points from an offset. -/
def pointsAt (b : List Byte) (i n : Nat) : List Nat := (List.range n).map fun j => natAt b (i + 2 * j) 2

def strictlyRising : List Int → Bool
  | a :: b :: t => decide (a < b) && strictlyRising (b :: t)
  | _ => true

def nonFalling : List Nat → Bool
  | a :: b :: t => decide (a ≤ b) && nonFalling (b :: t)
  | _ => true

/-- The table's bytes by its NS and NT. -/
def chemLen (ns nt : Nat) : Nat := 64 + 2 * ns + 4 * ns * nt + 4 * nt

/-- The chemistry table that bytes hold, none when they break a condition. -/
def chemOf (b : List Byte) : Option Chem :=
  let ns := byteAt b 4
  let nt := byteAt b 5
  let t := (List.range 8).map fun j => intAt b (12 + 2 * j) 2
  let soc := pointsAt b 64 ns
  let rows (o : Nat) : List (List Nat) := (List.range nt).map fun j => pointsAt b (o + 2 * ns * j) ns
  let chg := rows (64 + 2 * ns)
  let dis := rows (64 + 2 * ns + 2 * ns * nt)
  let zf := (List.range nt).map fun j => natAt b (64 + 2 * ns + 4 * ns * nt + 4 * j) 4
  let ok := natAt b 0 4 == 0x4D454843 && decide (2 ≤ ns ∧ ns ≤ 64 ∧ 1 ≤ nt ∧ nt ≤ 8) && natAt b 6 2 == 0 && natAt b 8 4 != 0
    && strictlyRising (t.take nt) && (t.drop nt).all (fun x => decide (x = 0)) && decide (1000 ≤ natAt b 48 4)
    && decide (natAt b 52 4 ≤ 1000000) && natAt b 60 4 == 0 && soc.head? == some 0 && soc.getLast? == some 10000
    && strictlyRising (soc.map Int.ofNat) && chg.all nonFalling && dis.all nonFalling
  if ok then
    some ⟨natAt b 8 4, t.take nt, natAt b 28 4, natAt b 32 4, natAt b 36 4, natAt b 40 4, natAt b 44 4, natAt b 48 4,
      natAt b 52 4, natAt b 56 4, soc, chg, dis, zf⟩
  else none

/-- The chemistry table at an address of a launch. -/
def chemAt (s : State) (l : Launch) (a : Word) : Option Chem :=
  let h := tabRead s l a.toNat 64
  chemOf (tabRead s l a.toNat (chemLen (byteAt h 4) (byteAt h 5)))

/-- A line of the chemistry table is poisoned. -/
def chemBad (s : State) (l : Launch) (a : Word) : Bool :=
  tabBad s l a.toNat 64 || (let h := tabRead s l a.toNat 64
    decide (byteAt h 4 ≤ 64 ∧ byteAt h 5 ≤ 8) && tabBad s l a.toNat (chemLen (byteAt h 4) (byteAt h 5)))

/-- A kernel that needs a chemistry table: without a valid one it updates nothing more, leaves out every element still to come
and raises CHEM_BAD (R277). -/
def withChem (s : State) (l : Launch) (a : Word) (f : Chem → KRun) : KRun :=
  if chemBad s l a then poisonedRun s l
  else match chemAt s l a with
    | some c => f c
    | none => ⟨emit s 28 2 0x05 false true (scopeOf s l.worker) a, l, l.count - segFirst l, false, true⟩

/-- Linear interpolation between two points. -/
def between (x0 x1 : Int) (y0 y1 : Frac) (x : Frac) : Frac :=
  Frac.add y0 (Frac.mul (Frac.sub y1 y0) (Frac.div (Frac.sub x (Frac.ofInt x0)) (Frac.ofInt (x1 - x0))))

/-- A curve through points of rising x, held at its ends. -/
def interp : List (Int × Frac) → Frac → Frac
  | [], _ => Frac.ofNat 0
  | [p], _ => p.2
  | p :: q :: t, x =>
    if Frac.le x (Frac.ofInt p.1) then p.2
    else if Frac.le x (Frac.ofInt q.1) then between p.1 q.1 p.2 q.2 x
    else interp (q :: t) x

/-- A value given at each temperature, at temperature T (R278). -/
def atTemp (c : Chem) (ys : List Frac) (t : Int) : Frac := interp (c.tPts.zip ys) (Frac.ofInt t)

/-- The open-circuit curve at a temperature: voltage at each state-of-charge point. -/
def curveAt (c : Chem) (charge : Bool) (t : Int) : List (Int × Frac) :=
  let rows := if charge then c.chg else c.dis
  (indexed c.soc).map fun x => ((x.2 : Int), atTemp c (rows.map fun r => Frac.ofNat (match r[x.1]? with | some v => v | none => 0)) t)

/-- ZF(T). -/
def zfAt (c : Chem) (t : Int) : Frac := atTemp c (c.zf.map fun (x : Nat) => qFrac (Int.ofNat x)) t

/-! ## The cell state table (R274-R276) -/

def cQNet (b : List Byte) : Int := intAt b 0 8
def cQThru (b : List Byte) : Nat := natAt b 8 8
def cQRes (b : List Byte) : Int := intAt b 16 4
def cCap (b : List Byte) : Nat := natAt b 20 4
def cSocV (b : List Byte) : Nat := natAt b 24 2
def cSocF (b : List Byte) : Nat := natAt b 26 2
def cSocR (b : List Byte) : Nat := natAt b 28 2
def cVLast (b : List Byte) : Nat := natAt b 30 2
def cVComp (b : List Byte) : Nat := natAt b 32 2
def cTemp (b : List Byte) : Int := intAt b 34 2
def cRestT (b : List Byte) : Nat := natAt b 36 2
def cFlags (b : List Byte) : Nat := natAt b 38 2
def cILast (b : List Byte) : Int := intAt b 40 4
def cSweepC (b : List Byte) : Word := word (natAt b 44 4)
def cSweepU (b : List Byte) : Word := word (natAt b 48 4)
def cCode (b : List Byte) : Nat := byteAt b 60 % 8
def cDir (b : List Byte) : Nat := byteAt b 61 % 4
def cLastDir (b : List Byte) : Nat := byteAt b 61 / 4 % 4

/-- The temperature that the kernels evaluate at: 25 °C where none has ever been set (R281; log entry 24). -/
def cTempUse (b : List Byte) : Int := if cTemp b = -32768 then 2500 else cTemp b

/-- The absent current. -/
def absentI : Int := -2147483648

/-- A flag of FLAGS, and FLAGS with one flag set to a value. -/
def cFlag (b : List Byte) (i : Nat) : Bool := (cFlags b).testBit i
def setFlag (b : List Byte) (i : Nat) (v : Bool) : List Byte :=
  let f := cFlags b
  putAt b 38 (bytesLE 2 (if f.testBit i then (if v then f else f - 2 ^ i) else (if v then f + 2 ^ i else f)))

def fStale : Nat := 0
def fDefaulted : Nat := 1
def fCapSuspect : Nat := 2
def fZDefault : Nat := 3
def fChgGap : Nat := 4
def fTempSubst : Nat := 5
def fPlateau : Nat := 6
def fRpTaken : Nat := 7
def fInRest : Nat := 8
def fEmptyConflict : Nat := 9
def fFullConflict : Nat := 10
def fEarlyEnd : Nat := 11
def fHeld : Nat := 12
def fRestored : Nat := 13
def fVFused : Nat := 14
def fLowTrust : Nat := 15

/-- The square of a quarter of a default (R276). -/
def quarterSq (x : Nat) : Nat := (roundDiv ((x * x : Nat) : Int) 16).toNat % 4294967296

/-- The default record (R276). -/
def defaultRec (c : Chem) (sweep : Word) : List Byte :=
  bytesLE 20 0 ++ bytesLE 4 c.capNom ++ bytesLE 2 0xFFFF ++ bytesLE 2 0xFFFF ++ bytesLE 2 0xFFFF ++ bytesLE 2 0xFFFF
    ++ bytesLE 2 0xFFFF ++ bytesLE 2 0x8000 ++ bytesLE 2 0 ++ bytesLE 2 0x0E ++ bytesLE 4 0x80000000 ++ bytesLE 4 sweep.toNat
    ++ bytesLE 16 0 ++ bytesLE 4 c.zsDef ++ bytesLE 4 c.zpDef ++ bytesLE 4 c.tpDef ++ bytesLE 8 0
    ++ bytesLE 4 (quarterSq c.zsDef) ++ bytesLE 4 (quarterSq c.zpDef) ++ bytesLE 4 (quarterSq c.tpDef)
    ++ bytesLE 20 0 ++ bytesLE 2 0xFFFF ++ bytesLE 10 0

/-- An impedance at the cell's temperature. -/
def zAt (c : Chem) (b : List Byte) (off : Nat) : Frac := Frac.mul (Frac.ofNat (natAt b off 4)) (zfAt c (cTempUse b))

/-- e^(−Δt / τ), zero for a time constant of zero. -/
def decay (dt tau : Nat) : Frac := if tau = 0 then Frac.ofNat 0 else expNeg ⟨dt, tau⟩

/-- An element of a source table. -/
def elemAt (s : State) (l : Launch) (a : Word) (size i : Nat) : List Byte := tabRead s l (a.toNat + size * i) size

/-- The network time seconds [31:0] now. -/
def secNow (s : State) : Nat := netNs s / 1000000000 % 4294967296

end Sys2Proof.Machine
end

