-- ==== Sys2Proof/Machine/Sha.lean ====
section
/-! DEFINITION. SHA-256 (R157, R166, R465), with the constants of FIPS 180-4 that the name SHA-256 stands for. -/
namespace Sys2Proof.Machine

def shaK1 : List Word := [0x428A2F98, 0x71374491, 0xB5C0FBCF, 0xE9B5DBA5, 0x3956C25B, 0x59F111F1, 0x923F82A4, 0xAB1C5ED5, 0xD807AA98, 0x12835B01, 0x243185BE, 0x550C7DC3, 0x72BE5D74, 0x80DEB1FE, 0x9BDC06A7, 0xC19BF174]
def shaK2 : List Word := [0xE49B69C1, 0xEFBE4786, 0x0FC19DC6, 0x240CA1CC, 0x2DE92C6F, 0x4A7484AA, 0x5CB0A9DC, 0x76F988DA, 0x983E5152, 0xA831C66D, 0xB00327C8, 0xBF597FC7, 0xC6E00BF3, 0xD5A79147, 0x06CA6351, 0x14292967]
def shaK3 : List Word := [0x27B70A85, 0x2E1B2138, 0x4D2C6DFC, 0x53380D13, 0x650A7354, 0x766A0ABB, 0x81C2C92E, 0x92722C85, 0xA2BFE8A1, 0xA81A664B, 0xC24B8B70, 0xC76C51A3, 0xD192E819, 0xD6990624, 0xF40E3585, 0x106AA070]
def shaK4 : List Word := [0x19A4C116, 0x1E376C08, 0x2748774C, 0x34B0BCB5, 0x391C0CB3, 0x4ED8AA4A, 0x5B9CCA4F, 0x682E6FF3, 0x748F82EE, 0x78A5636F, 0x84C87814, 0x8CC70208, 0x90BEFFFA, 0xA4506CEB, 0xBEF9A3F7, 0xC67178F2]
def shaK : List Word := shaK1 ++ shaK2 ++ shaK3 ++ shaK4

/-- The working variables a to h. -/
structure Sha where
  a : Word
  b : Word
  c : Word
  d : Word
  e : Word
  f : Word
  g : Word
  h : Word

def shaInit : Sha := ⟨0x6A09E667, 0xBB67AE85, 0x3C6EF372, 0xA54FF53A, 0x510E527F, 0x9B05688C, 0x1F83D9AB, 0x5BE0CD19⟩

def ror (x : Word) (n : Nat) : Word := x.rotateRight n

/-- One round with its schedule word and constant. -/
def shaRound (v : Sha) (wk : Word × Word) : Sha :=
  let t1 := v.h + (ror v.e 6 ^^^ ror v.e 11 ^^^ ror v.e 25) + ((v.e &&& v.f) ^^^ (~~~v.e &&& v.g)) + wk.2 + wk.1
  let t2 := (ror v.a 2 ^^^ ror v.a 13 ^^^ ror v.a 22) + ((v.a &&& v.b) ^^^ (v.a &&& v.c) ^^^ (v.b &&& v.c))
  ⟨t1 + t2, v.a, v.b, v.c, v.d + t1, v.e, v.f, v.g⟩

/-- The next schedule word from the last 16, newest first. -/
def shaNext (l : List Word) : Word :=
  let at' (i : Nat) : Word := match l[i]? with | some x => x | none => 0
  let x := at' 14
  let y := at' 1
  at' 15 + (ror x 7 ^^^ ror x 18 ^^^ (x >>> 3)) + at' 6 + (ror y 17 ^^^ ror y 19 ^^^ (y >>> 10))

/-- The schedule, newest first, after n more words. -/
def shaSchedule (l : List Word) : Nat → List Word
  | 0 => l
  | n + 1 => shaSchedule (shaNext l :: l) n

/-- Big-endian word of four bytes. -/
def beWord (b : List Byte) : Word := word (b.foldl (fun n x => 256 * n + x.toNat) 0)

/-- One block of 64 bytes. -/
def shaBlock (v : Sha) (b : List Byte) : Sha :=
  let ws := (List.range 16).map fun i => beWord ((b.drop (4 * i)).take 4)
  let u := (((shaSchedule ws.reverse 48).reverse).zip shaK).foldl shaRound v
  ⟨v.a + u.a, v.b + u.b, v.c + u.c, v.d + u.d, v.e + u.e, v.f + u.f, v.g + u.g, v.h + u.h⟩

/-- The blocks of a padded message, one after another. -/
def shaBlocks (v : Sha) (b : List Byte) : Nat → Sha
  | 0 => v
  | n + 1 => shaBlocks (shaBlock v (b.take 64)) (b.drop 64) n

def beBytes (x : Word) : List Byte := (bytesLE 4 x.toNat).reverse

/-- SHA-256 of bytes. -/
def sha256 (b : List Byte) : List Byte :=
  let n := b.length
  let z := (119 - n % 64) % 64
  let m := b ++ [0x80] ++ List.replicate z 0 ++ (bytesLE 8 (8 * n)).reverse
  let v := shaBlocks shaInit m (m.length / 64)
  beBytes v.a ++ beBytes v.b ++ beBytes v.c ++ beBytes v.d ++ beBytes v.e ++ beBytes v.f ++ beBytes v.g ++ beBytes v.h

end Sys2Proof.Machine
end

