-- ==== Sys2Proof/Machine/Crypto.lean ====
section
/-! DEFINITION. Keys, signatures and the SIG instructions (R33, R79, R157, R158, R465-R467). -/
namespace Sys2Proof.Machine

/-! ## Keys (R465-R467; log entry 5: a key is modelled as 384 opaque bytes) -/

def identityKey : List Byte := (List.range 384).map Config.idKeyByte
def cappingKey : List Byte := (List.range 384).map Config.capKeyByte
def appKey (s : State) : List Byte := (List.range 384).map (Config.appKeyByte s.ident.appKeys)

/-- The public half of a key pair. -/
def publicOf (key : List Byte) : List Byte := (List.range 384).map (Config.publicByte key)

/-- The identity hash of a public key: the first 8 bytes of its digest (R465). -/
def hashOf (pub : List Byte) : DWord := BitVec.ofNat 64 (ofBytesLE ((sha256 pub).take 8))

/-- This module's identity hash. -/
def moduleHash : DWord := hashOf (publicOf identityKey)
def deviceCa : List Byte := (List.range 384).map Config.deviceCaByte
def nodeCa : List Byte := (List.range 384).map Config.nodeCaByte

/-- RSASSA-PSS with SHA-256 over a message under a public key. -/
def sigHolds (pub msg sig : List Byte) : Bool := Config.rsaVerify pub (sha256 msg) sig

/-- A signature over a digest by a key pair, with the salt of a draw. -/
def signDigest (key digest : List Byte) (salt : Nat) : List Byte := (List.range 384).map (Config.rsaSigByte key digest salt)

/-- A message with its signature drawn (R166, R213, R312, R468). -/
def signMsg (s : State) (key msg : List Byte) : List Byte × State :=
  let (n, s) := drawFree s
  (signDigest key (sha256 msg) n, s)

/-- A fresh block of random bytes. -/
def drawBytes (s : State) (n : Nat) : List Byte × State :=
  let (i, s) := drawFree s
  ((List.range n).map (Config.drawByte i), s)

/-- A message wrapped for a public key under RSA-OAEP, with the seed of a draw (R207, R466). -/
def oaepWrap (pub msg : List Byte) (seed : Nat) : List Byte := (List.range 384).map (Config.oaepByte pub msg seed)

/-- A network time stamp as 12 bytes (R49). -/
def netBytes (t : NetTime) : List Byte := bytesLE 6 t.sec.toNat ++ bytesLE 4 t.ns.toNat ++ bytesLE 2 t.epoch.toNat

/-! ## SIG (R157, R158) -/

/-- The key pair of a slot that SIGN may use. -/
def signKey (s : State) (slot : Byte) : Option (List Byte) :=
  if slot = 0x01 then some cappingKey else if slot = 0x02 then some (appKey s) else none

/-- The slots that VERIFY may use. -/
def verifySlot (slot : Byte) : Bool := [0x01, 0x02, 0x10, 0x11, 0x20].contains slot

/-- The public key that a slot holds. -/
def slotKey (s : State) (slot : Byte) : Option (List Byte) :=
  if slot = 0x01 then some (publicOf cappingKey)
  else if slot = 0x02 then some (publicOf (appKey s))
  else if slot = 0x10 then s.ident.folioKey
  else if slot = 0x11 then some s.ident.serviceKey
  else if slot = 0x20 then s.twin.capKey
  else none

/-- A request enters the engine's queue, its head being the operation in progress; the worker waits. -/
def sigRequest (s : State) (w : Worker) (op : Fin 3) (d : GReg) (data sig : List Byte) (slot : Byte) : State :=
  let k := wkOf s w
  blockOn { s with crypto := s.crypto ++ [⟨some w, decide (k.prio.toNat ≤ 1), s.arb.seq, op, d, gGet k d, data, sig, slot, .sig⟩] } w .crypto

/-- SIG is for chip and pair workers. What it hashes, signs and verifies holds the worker's own posted stores, which complete
first (R117). -/
def sig (w : Worker) (s : State) (f : State → State) : Out :=
  issueDrained s w fun s => if chipOrPair (scopeOf s w) then f s else trapWorker s w causeScope 0

/-- HASH. -/
def execSigHash (w : Worker) (d s1 s2 : GReg) (s : State) : Out :=
  sig w s fun s =>
    let k := wkOf s w
    let len := (gGet k s2).toNat
    withLoad s w (gGet k s1) len 1 fun p =>
      withScratch s w (gGet k d) 32 1 (sigRequest s w 0 d (readPlace s w p len) [] 0)

/-- SIGN. -/
def execSigSign (w : Worker) (d s1 s2 : GReg) (s : State) : Out :=
  sig w s fun s =>
    let k := wkOf s w
    let slot := (gGet k s2).setWidth 8
    if (signKey s slot).isNone then trapWorker s w 0x0D 0
    else withLoad s w (gGet k s1) 32 1 fun p =>
      withScratch s w (gGet k d) 384 1 (sigRequest s w 1 d (readPlace s w p 32) [] slot)

/-- VERIFY. -/
def execSigVerify (w : Worker) (d s1 s2 : GReg) (s : State) : Out :=
  sig w s fun s =>
    let k := wkOf s w
    let slot := (gGet k s2).setWidth 8
    if !(verifySlot slot) then trapWorker s w 0x0D 0
    else if slot = 0x20 ∧ s.twin.capKey = none then trapWorker s w 0x0C 0
    else withLoad s w (gGet k s1) 32 1 fun p =>
      withLoad s w (gGet k d) 384 1 fun q => sigRequest s w 2 d (readPlace s w p 32) (readPlace s w q 384) slot

/-! ## Completion (R33, R79, R157) -/

/-- What a completed operation gives its worker. -/
def sigResult (s : State) (w : Worker) (q : CryptoReq) : State :=
  let off := q.dst.toNat % 16384
  let put (s : State) (b : List Byte) : State := modWk s w fun k => makeReady { k with scratch := memWrite k.scratch off b }
  if q.op = 0 then put s (sha256 q.data)
  else if q.op = 1 then
    match signKey s q.slot with
    | some key => (let (n, s) := drawFree s
                   put s (signDigest key q.data n))
    | none => s
  else
    let ok := match slotKey s q.slot with
      | some pub => Config.rsaVerify pub q.data q.sig
      | none => false
    modWk s w fun k => makeReady { k with sw := { k.sw with z := ok } }

/-- The request granted next goes to the head: of P0 and P1 workers first, then the rest, each in sequence order. -/
def cryptoGrant (l : List CryptoReq) : List CryptoReq :=
  match l.find? fun q => q.urgent with
  | some q => q :: l.erase q
  | none => l

/-- A SIG completes; that of a worker that has left is discarded (R79). -/
def sigDone (s : State) (q : CryptoReq) : State :=
  match q.worker with
  | none => number s
  | some w => sigResult (number s) w q

/-! ## The RSA unit (R33) -/

/-- A request of the module itself enters the queue, behind what came before it in sequence order. -/
def rsaAsk (s : State) (job : RsaJob) (data sig : List Byte) : State :=
  { s with crypto := s.crypto ++ [⟨none, false, s.arb.seq, 0, 0, 0, data, sig, 0, job⟩] }

/-- The unit is free: it serves, and no request waits. -/
def rsaFree (s : State) : Bool := !(partDown s 6) && s.crypto.isEmpty

/-- The module's own operation: it is done at once where the unit is free, since no operation takes time here; else its request enters
the queue, and it is done when the operation granted to it ends (R33; log entry 5). -/
def rsaDo (s : State) (job : RsaJob) (act : State → State) : State := if rsaFree s then act s else rsaAsk s job [] []

/-- A request of this kind waits for the unit, or has been granted it. -/
def rsaAsked (s : State) (job : RsaJob) : Bool := s.crypto.any fun q => q.job == job

/-- The operation in progress is of this kind, and the unit serves: under test and out of service its requests wait (R500, R504). -/
def rsaServes (s : State) (job : RsaJob) : Bool :=
  !(partDown s 6) && (match s.crypto with
    | q :: _ => q.job == job
    | [] => false)

/-- The operation in progress ends, and the next is granted. -/
def rsaNext (s : State) : State := { s with crypto := cryptoGrant s.crypto.tail }

end Sys2Proof.Machine
end

