-- ==== Sys2Proof/Machine/Kernels.lean ====
section
/-! DEFINITION. The built-in kernels COUL, ZCOMP, OCV, SOCF, LIMP, BALP, STAT and RLSZ (R279-R302), with the readings of
log entry 24. -/
namespace Sys2Proof.Machine

/-! ## COUL (R276, R279-R281) -/

/-- The earlier of two sweeps, 0 (none closed yet) before every other (R135). -/
def earlierSweep (a b : Word) : Word := if a = 0 ∨ b = 0 then 0 else if sweepReached a b then b else a

/-- The latest sweep that every mapped region of the range has closed, 0 while one of them has closed none (R272). -/
def latestOfRange (s : State) (l : Launch) : Word :=
  match ((List.finRange 16).filter fun r => hasMap s r && meets l.first l.count (384 * r.val) 384).map fun r => (rgOf s r).lastSweep with
  | [] => 0
  | n :: t => t.foldl earlierSweep n

/-- The held sweeps of a region after one sweep and up to another, in order; after 0, all of them up to it; up to 0, none. -/
def walkOf (s : State) (r : Region) (after upTo : Word) : List SweepRec :=
  if upTo = 0 then []
  else ((rgOf s r).held.filter fun v =>
    sweepReached upTo v.sweep && (after == 0 || sweepAfterOf v.sweep after)).reverse

/-- The block entry of a sweep at block j, as it stood at close (R295). -/
def blockAt (v : SweepRec) (j : Nat) : Block := match v.atClose[j]? with | some b => b | none => absentBlock 0

/-- The voltage of the cell is taken from this sweep (R279 step 2); an absent value is no measurement (R10). -/
def taken (v : SweepRec) (j k : Nat) : Bool :=
  let b := blockAt v j
  let code := match b.codes[k]? with | some x => x.toNat | none => 7
  (code == 0 || code == 3) && b.volts[k]?.any (· != 0xFFFF) && bitsOf (b.status.setWidth 32) 15 14 == 0 && !b.absent && !b.identity && !b.rejoined && !b.untrusted

/-- Sweep numbers from one to another, 0 skipped. -/
def sweepDist (a b : Word) : Nat := (b - a).toNat - (if b.toNat < a.toNat then 1 else 0)

/-- The nearest healthy sensor to sensor x of a block, the lower one on a tie; one with an absent value measures nothing (R10). -/
def nearSensor (v : Block) (x : Nat) : Option Nat :=
  ((List.range v.t).flatMap fun d => if d ≤ x then [x - d, x + d] else [x + d]).find? fun i =>
    decide (i < v.t) && !(v.status.getLsbD i) && v.temps[i]?.any (· != 0x8000)

/-- TEMP and TEMP_SUBST of cell k of a block (R281). -/
def takeTemp (b : List Byte) (v : Block) (k : Nat) : List Byte :=
  let own := if v.c = 0 then 0 else k * v.t / v.c
  match nearSensor v own with
  | some i => setFlag (putAt b 34 (intLE 2 (match v.temps[i]? with | some x => x.toInt | none => -32768))) fTempSubst (i != own)
  | none =>
    let b := if cTemp b = -32768 then putAt b 34 (intLE 2 2500) else b
    setFlag b fTempSubst true

/-- Take voltage and temperature, or mark the cell stale. -/
def takeSample (b : List Byte) (v : SweepRec) (j k : Nat) : List Byte × Bool :=
  if taken v j k then
    let e := blockAt v j
    let b := putAt b 30 (bytesLE 2 (match e.volts[k]? with | some x => x.toNat | none => 0xFFFF))
    let b := takeTemp b e k
    let b := putAt b 48 (bytesLE 4 v.sweep.toNat)
    (setFlag (setFlag b fStale false) fRestored false, false)
  else (setFlag b fStale true, true)

/-- The charge of one interval into QRES, Q_NET and Q_THRU (R280). -/
def addCharge (b : List Byte) (i1 i2 : Int) (dt : Nat) : List Byte :=
  let q := cQRes b + roundDiv ((i1 + i2) * dt) 2
  let mc := q.tdiv 1000000000
  let b := putAt b 16 (intLE 4 (q - mc * 1000000000))
  let b := putAt b 0 (intLE 8 (cQNet b + mc))
  putAt b 8 (bytesLE 8 ((cQThru b + mc.natAbs) % 2 ^ 64))

/-- DIR after an interval that ends at current `i`: the last nonzero direction is kept beside it. -/
def putDir (b : List Byte) (i : Int) (restI : Nat) : List Byte :=
  let d := if (restI : Int) ≤ i then 1 else if i ≤ -(restI : Int) then 2 else 0
  putAt b 61 [BitVec.ofNat 8 (d + 4 * (if d = 0 then cLastDir b else d))]

/-- REST_T and the flags that hang on it (R281): whole seconds of the stepless base that the interval passes. -/
def putRest (s : State) (b : List Byte) (i : Int) (a z : Nat) : List Byte :=
  if i.natAbs < cfgNat s 0x1005 then
    let t := min 65535 (cRestT b + (z / 1000000000 - a / 1000000000))
    setFlag (putAt b 36 (bytesLE 2 t)) fInRest (decide (cfgNat s 0x1006 ≤ t))
  else setFlag (setFlag (putAt b 36 (bytesLE 2 0)) fInRest false) fRpTaken false

/-- One interval of the walk, an absent current being one that is missing (R10, R280): the record, and the ns integrated so far. -/
def walkStep (s : State) (x : List Byte × Nat) (v : SweepRec) : List Byte × Nat :=
  let b := x.1
  let gap := decide (1 < sweepDist (cSweepC b) v.sweep)
  let dt := if gap then sweepDist (cSweepC b) v.sweep * frameNs s else v.dt
  let i1 := cILast b
  let missing := v.headAbsent || v.cur == 0x80000000
  let i2 := if missing then i1 else v.cur.toInt
  let b := if gap || missing then setFlag b fChgGap true else b
  let b := putAt b 44 (bytesLE 4 v.sweep.toNat)
  if i2 = absentI then (b, x.2)
  else
    let integrate := decide (i1 ≠ absentI)
    let b := if integrate then addCharge b i1 i2 dt else b
    let b := putDir b i2 (cfgNat s 0x1005)
    let b := putRest s b i2 (v.sAt - dt) v.sAt
    (putAt b 40 (intLE 4 i2), if integrate then x.2 + dt else x.2)

/-- The block's status has shown NODE_RESET since the record's tally was read: at a sweep walked now, or at one after the
record's last that was bridged or is still to come (R280). -/
def resetSince (s : State) (r : Region) (j : Nat) (was : Word) (walk : List SweepRec) : Bool :=
  let n := match (rgOf s r).hops[j + 2]? with | some h => h.resetSweep | none => 0
  walk.any (fun v => !(blockAt v j).absent && (blockAt v j).status.getLsbD 9) || (n != 0 && (was == 0 || sweepAfterOf n was))

/-- The balancing tally (R280). -/
def addTally (s : State) (b : List Byte) (r : Region) (j k : Nat) (reset : Bool) : List Byte :=
  match ((rgOf s r).hops[j + 2]?).bind fun h => h.tally[k]? with
  | none => b
  | some t =>
    let last := word (natAt b 120 4)
    let b' := putAt b 120 (bytesLE 4 t.toNat)
    if reset then setFlag b' fChgGap true
    else putAt b' 0 (intLE 8 (cQNet b + (t - last).toInt))

/-- The record goes to defaults at this run (R276). -/
def toDefault (b : List Byte) (walk : List SweepRec) (v : SweepRec) (j : Nat) : Bool :=
  cSweepC b == 0 || ((blockAt v j).identity && !(cFlag b fDefaulted)) || walk.any (fun u => (blockAt u j).again)

/-- COUL on one cell: the walk, or the default record with nothing integrated (R276), then the sample, the tally, CODE and
DT_US (R279). -/
def coulCell (s : State) (c : Chem) (target : Word) (cell : Nat) (b : List Byte) : List Byte × Bool :=
  let r := cellRegion cell
  let j := cellBlock cell
  let k := cellK cell
  if populated s cell = false then (b, true)
  else
    let walk := walkOf s r (cSweepC b) target
    match walk.getLast? with
    | none =>
      if cSweepC b = 0 then (setFlag b fStale true, true)
      else match (rgOf s r).held.find? fun v => v.sweep == cSweepC b with
        | some v => (setFlag b fStale (!(taken v j k)), !(taken v j k))
        | none => (setFlag b fStale true, true)
    | some v =>
      let x := if toDefault b walk v j then walkStep s (defaultRec c v.sweep, 0) { v with dt := 0 }
        else walk.foldl (walkStep s) (b, 0)
      let t := takeSample x.1 v j k
      let b := addTally s t.1 r j k (resetSince s r j (cSweepC b) walk)
      let b := putAt b 60 [BitVec.ofNat 8 (match (blockAt v j).codes[k]? with | some y => y.toNat | none => 7)]
      (putAt b 124 (bytesLE 4 ((roundDiv (x.2 : Nat) 1000).toNat % 4294967296)), t.2)

/-- The sweep that the launch walks to, found at its first segment (R272). -/
def coulTarget (s : State) (l : Launch) : Word :=
  match l.target with
  | some t => t
  | none => if l.param0 = 0 then latestOfRange s l else l.param0

def coulRun (s : State) (l : Launch) : KRun :=
  let target := coulTarget s l
  withChem s { l with target := some target } l.param1 fun c =>
    mapKernel s { l with target := some target } 128 [(l.srcA, 128)] fun s i =>
      let r := coulCell s c target (l.first + i) (elemAt s l l.srcA 128 i)
      (s, r.1, r.2)

/-! ## ZCOMP (R282) -/

/-- A polarization voltage over the interval. -/
def polar (c : Chem) (b : List Byte) (u : Int) (a : Frac) (zOff : Nat) : Frac :=
  let z := zAt c b zOff
  Frac.add (Frac.mul a (qFrac u))
    (Frac.mul (Frac.sub (Frac.ofNat 1) a) (Frac.div (Frac.mul (Frac.ofInt (cILast b)) z) (Frac.ofNat 100000)))

/-- A Q16.16 field of a fraction. -/
def toQ (x : Frac) : Int := (Frac.mul x (Frac.ofNat 65536)).round

def zcompCell (s : State) (c : Chem) (cell : Nat) (b : List Byte) : List Byte × Bool :=
  if populated s cell = false ∨ cILast b = absentI then (b, true)
  else
    let dt := natAt b 124 4
    let a := decay dt (natAt b 72 4)
    let a2 := if natAt b 76 4 = 0 then Frac.ofNat 0 else decay dt (natAt b 80 4)
    let up := polar c b (intAt b 52 4) a 68
    let up2 := polar c b (intAt b 56 4) a2 76
    let b := putAt b 52 (intLE 4 (toQ up))
    let b := putAt b 56 (intLE 4 (toQ up2))
    if cSweepU b = cSweepC b ∧ cVLast b ≠ 0xFFFF then
      let ohm := Frac.div (Frac.mul (Frac.ofInt (cILast b)) (zAt c b 64)) (Frac.ofNat 100000)
      let v := (Frac.sub (Frac.sub (Frac.sub (Frac.ofNat (cVLast b)) ohm) (qFrac (intAt b 52 4))) (qFrac (intAt b 56 4))).round
      (putAt b 32 (bytesLE 2 (clampInt 0 65534 v).toNat), false)
    else (b, false)

def zcompRun (s : State) (l : Launch) : KRun :=
  withChem s l l.param0 fun c => mapKernel s l 128 [(l.srcA, 128)] fun s i =>
    let r := zcompCell s c (l.first + i) (elemAt s l l.srcA 128 i)
    (s, r.1, r.2)

/-! ## OCV (R283-R285) -/

/-- The state of charge at which a curve reaches v, and the slope's ΔV and ΔSOC over the segment found. -/
def socSeek (v : Frac) : List (Int × Frac) → Option (Frac × Frac × Int)
  | p :: q :: t =>
    let dv := Frac.sub q.2 p.2
    if dv.isZero then
      (if Frac.le v p.2 && Frac.le p.2 v then some (⟨p.1 + q.1, 2⟩, dv, q.1 - p.1) else socSeek v (q :: t))
    else if Frac.lt v q.2 || (Frac.le v q.2 && (socFlat v (q :: t)).isNone) then
      some (Frac.add (Frac.ofInt p.1) (Frac.mul (Frac.ofInt (q.1 - p.1)) (Frac.div (Frac.sub v p.2) dv)), dv, q.1 - p.1)
    else socSeek v (q :: t)
  | _ => none
where
  /-- A flat segment at v begins here. -/
  socFlat (v : Frac) : List (Int × Frac) → Option Int
    | p :: q :: _ => if (Frac.sub q.2 p.2).isZero && Frac.le v p.2 && Frac.le p.2 v then some p.1 else none
    | _ => none

/-- ΔV and ΔSOC of the first, or the last, segment. -/
def endSlope : List (Int × Frac) → Frac × Int
  | p :: q :: _ => (Frac.sub q.2 p.2, q.1 - p.1)
  | _ => (Frac.ofNat 0, 1)

/-- SOC_V and the slope in µV per 1 % (R283). -/
def socOf (curve : List (Int × Frac)) (v : Frac) : Int × Frac :=
  let slope (dv : Frac) (ds : Int) : Frac := Frac.div (Frac.mul dv (Frac.ofNat 10000)) (Frac.ofInt ds)
  let first := match curve.head? with | some p => p.2 | none => Frac.ofNat 0
  let last := match curve.getLast? with | some p => p.2 | none => Frac.ofNat 0
  if Frac.lt v first then (0, slope (endSlope curve).1 (endSlope curve).2)
  else if Frac.lt last v then
    (let e := endSlope ((curve.reverse).map fun p => (-p.1, Frac.neg p.2))
     (10000, slope e.1 e.2))
  else match socSeek v curve with
    | some x => (x.1.round, slope x.2.1 x.2.2)
    | none => (10000, slope (endSlope curve).1 (endSlope curve).2)

/-- The curve that a cell reads: after charge, or after discharge and with no direction known. -/
def cellCurve (c : Chem) (b : List Byte) : List (Int × Frac) := curveAt c (cLastDir b == 1) (cTempUse b)

/-- TEMP lies within T_PTS. -/
def tempInTable (c : Chem) (t : Int) : Bool :=
  (match c.tPts.head? with | some a => decide (a ≤ t) | none => false) && (match c.tPts.getLast? with | some z => decide (t ≤ z) | none => false)

/-- Write the anchor (R284). -/
def putAnchor (s : State) (b : List Byte) : List Byte :=
  let b := putAt b 104 (intLE 8 (cQNet b))
  let b := putAt b 112 (bytesLE 4 (secNow s))
  setFlag (putAt b 116 (bytesLE 2 (cSocV b))) fChgGap false

/-- A capacity estimate accepted (R275, R285). -/
def acceptCap (s : State) (b : List Byte) (cNew : Int) : List Byte :=
  let w0 := cfgNat s 0x1009
  let w := if cFlag b fCapSuspect then min (2 * w0) 65536 else w0
  let cap : Int := cCap b
  let x := roundDiv (65536 * cap + (w : Int) * (cNew - cap)) 65536
  let b := putAt b 20 (bytesLE 4 x.toNat)
  let b := putAt b 63 [BitVec.ofNat 8 (min 255 (byteAt b 63 + 1))]
  let b := putAt b 100 (bytesLE 4 (secNow s))
  let b := setFlag (setFlag b fCapSuspect false) fEarlyEnd false
  if cFlag b fZDefault then b else setFlag b fDefaulted false

/-- The rest point B judged against anchor A (R285). -/
def judgeRest (s : State) (cell : Nat) (b : List Byte) : State × List Byte :=
  let sa : Int := natAt b 116 2
  let sb : Int := cSocV b
  let ds := (sb - sa).natAbs
  let dq := cQNet b - intAt b 104 8
  let old : Bool := decide (604800 < (BitVec.ofInt 32 ((secNow s : Int) - natAt b 112 4)).toInt)
  let dflt := cFlag b fDefaulted
  if decide (cfgNat s 0x1008 ≤ ds) && !(cFlag b fChgGap) then
    let cNew := roundDiv ((dq.natAbs : Int) * 10000) (3600 * ds)
    let cap : Int := cCap b
    let opposite := decide (0 < dq ∧ sb < sa) || decide (dq < 0 ∧ sa < sb)
    if opposite || decide (cap < 5 * (cNew - cap).natAbs) then
      let b := putAt b 118 (bytesLE 2 (min 65535 (natAt b 118 2 + 1)))
      (emit s 28 0 0x06 false true (BitVec.ofNat 16 cell) (BitVec.ofInt 32 cNew), putAnchor s b)
    else (s, putAnchor s (acceptCap s b cNew))
  else if old || dflt then (s, putAnchor s b)
  else (s, b)

/-- The rest point of a cell, when it is to be taken (R284). -/
def restPoint (s : State) (c : Chem) (cell : Nat) (b : List Byte) : State × List Byte :=
  if cFlag b fInRest && !(cFlag b fRpTaken) && cSweepU b == cSweepC b && !(cFlag b fPlateau) && tempInTable c (cTemp b)
      && !(cFlag b fTempSubst) then
    let b := setFlag b fRpTaken true
    if natAt b 116 2 = 0xFFFF then (s, putAnchor s b) else judgeRest s cell b
  else (s, b)

def ocvCell (s : State) (c : Chem) (cell : Nat) (b : List Byte) : State × List Byte × Bool :=
  let v := if cFlag b fInRest then cVLast b else cVComp b
  if populated s cell = false || cFlag b fStale || v == 0xFFFF then (s, b, true)
  else
    let x := socOf (cellCurve c b) (Frac.ofNat v)
    let b := putAt b 24 (bytesLE 2 x.1.toNat)
    let b := setFlag b fPlateau (Frac.lt x.2 (Frac.ofNat (cfgNat s 0x1007)))
    let r := restPoint s c cell b
    (r.1, r.2, false)

def ocvRun (s : State) (l : Launch) : KRun :=
  withChem s l l.param0 fun c => mapKernel s l 128 [(l.srcA, 128)] fun s i =>
    ocvCell s c (l.first + i) (elemAt s l l.srcA 128 i)

/-! ## SOCF (R296-R302) -/

/-- The parameter block (R297). -/
structure SocfPar where
  gRest : Int
  gRun : Int
  catchUp : Int
  recon : Nat
  trustAge : Nat
  fullV : Nat

/-- A parameter brought within its range, with a clamp entry that names the worker, made once in the launch, at its first
segment. -/
def clampPar (s : State) (l : Launch) (lo hi given : Int) : State × Int :=
  let x := clampInt lo hi given
  if x = given ∨ l.seg ≠ 0 then (s, x)
  else (clampAdd s (word l.worker.val) (BitVec.ofInt 32 given) (BitVec.ofInt 32 x) (scopeOf s l.worker) 0x05
    (if given < lo then 0x02 else 0x03), x)

/-- FULL_V: 0 or 20,000-50,000. -/
def clampFull (s : State) (l : Launch) (v : Int) : State × Int :=
  if v = 0 ∨ 20000 ≤ v then clampPar s l 0 50000 v
  else if v < 10000 then clampPar s l 0 0 v
  else clampPar s l 20000 50000 v

def socfPar (s : State) (l : Launch) : State × SocfPar :=
  let b := tabRead s l l.param1.toNat 24
  let (s, a) := clampPar s l 0 0x10000 (intAt b 0 4)
  let (s, g) := clampPar s l 0 0x1000 (intAt b 4 4)
  let (s, c) := clampPar s l 0 0x20000 (intAt b 8 4)
  let (s, r) := clampPar s l 1 100 (natAt b 12 2)
  let (s, t) := clampPar s l 100 65535 (natAt b 14 2)
  let (s, f) := clampFull s l (natAt b 16 2)
  (s, ⟨a, g, c, r.toNat, t.toNat, f.toNat⟩)

/-- A state of charge of a whole number of 0.01 % in Q16.16. -/
def socQ (n : Nat) : Int := n * 65536

/-- Move x toward y by at most step. -/
def toward (x y : Int) (step : Int) : Int := if x < y then min y (x + step) else max y (x - step)

/-- The run's direction as R301 takes it: 1 charge, 2 discharge, 0 rest, 3 a change of direction. -/
def runDir (dir prev : Nat) : Nat := if dir = 0 then 0 else if dir = prev then dir else 3

/-- SOCRX by the direction rule (R301), and whether the rule held it back. -/
def moveSocrx (p : SocfPar) (kind : Nat) (x rx : Int) (c : Frac) : Int × Bool :=
  let room := toQ (Frac.mul c (Frac.add (Frac.ofNat 1) (qFrac p.catchUp)))
  match kind with
  | 1 => if rx < x then (rx + min (x - rx) room, false) else (rx, decide (x < rx))
  | 2 => if x < rx then (rx - min (rx - x) room, false) else (rx, decide (rx < x))
  | _ => (toward rx x (socQ p.recon), false)

/-- The 1 % floor of a cell above its empty voltage (R302): `old` is SOCRX before the run. -/
def floorSocrx (p : SocfPar) (kind : Nat) (old new : Int) : Int × Bool :=
  if socQ 100 ≤ old then (max new (socQ 100), false)
  else if kind = 1 then (max new (socQ 100), false)
  else if kind = 2 then (old, true)
  else (toward old (socQ 100) (socQ p.recon), false)

/-- The 99 % ceiling of a cell below its full voltage (R302). -/
def ceilSocrx (p : SocfPar) (kind : Nat) (old new : Int) : Int × Bool :=
  if old ≤ socQ 9900 then (min new (socQ 9900), false)
  else if kind = 2 then (min new (socQ 9900), false)
  else if kind = 1 then (old, true)
  else (toward old (socQ 9900) (socQ p.recon), false)

/-- The result of a SOCF run on a cell that has a state of charge. -/
def socfStep (s : State) (c : Chem) (p : SocfPar) (b q : List Byte) (dq : Int) : List Byte × List Byte :=
  let stale := cFlag b fStale
  let x0 := intAt q 8 4
  let rx0 := intAt q 12 4
  let soq := Frac.add (qFrac x0) (Frac.div (Frac.ofInt (dq * 10000)) (Frac.ofNat (3600 * cCap b)))
  let cnt := Frac.abs (Frac.sub soq (qFrac x0))
  let g := if stale || cFlag b fPlateau || cSocV b == 0xFFFF then 0 else if cFlag b fInRest then p.gRest else p.gRun
  let fused := Frac.add soq (Frac.mul (qFrac g) (Frac.sub (Frac.ofNat (cSocV b)) soq))
  let x1 := clampInt 0 (socQ 10000) (toQ fused)
  let age := if 0 < g then 0 else min 65535 (natAt q 22 2 + 1)
  let known := cVComp b != 0xFFFF
  let v := cVComp b
  let ev := cfgNat s 0x100A
  let fv : Frac := if p.fullV = 0 then (match (curveAt c true (cTempUse b)).getLast? with | some y => y.2 | none => Frac.ofNat 0) else Frac.ofNat p.fullV
  let empty := known && decide (v ≤ ev)
  let full := known && Frac.le fv (Frac.ofNat v)
  let x := if empty then 0 else if full then socQ 10000 else x1
  let dir := cDir b
  let kind := runDir dir (byteAt q 20)
  let m := moveSocrx p kind x rx0 cnt
  let n1 : Int × Bool := if stale || (known && !empty) then floorSocrx p kind rx0 m.1 else (m.1, false)
  let n2 : Int × Bool := if stale || (known && !full) then ceilSocrx p kind rx0 n1.1 else n1
  let rx := if empty && dir == 2 && !stale then 0 else if full && dir == 1 && !stale then socQ 10000 else n2.1
  let socF := roundDiv x 65536
  let socR := roundDiv rx 65536
  let le (y : Int) : Bool := Frac.le soq (Frac.ofInt y)
  let ge (y : Int) : Bool := Frac.le (Frac.ofInt y) soq
  let b := putAt b 26 (bytesLE 2 socF.toNat)
  let b := putAt b 28 (bytesLE 2 socR.toNat)
  let emptyC := known && !empty && le 0
  let fullC := known && !full && ge 10000
  let early := (empty && !(le 500)) || (full && !(ge 9500))
  let b := setFlag b fEmptyConflict (if emptyC then true else if empty || !(le 100) then false else cFlag b fEmptyConflict)
  let b := setFlag b fFullConflict (if fullC then true else if full || !(ge 9900) then false else cFlag b fFullConflict)
  let b := if early then setFlag b fEarlyEnd true else b
  let b := if emptyC || fullC || early then setFlag b fCapSuspect true else b
  let b := setFlag b fHeld
    (if n1.2 || n2.2 then true else if rx ≠ rx0 ∨ socR = socF then false else if m.2 then true else cFlag b fHeld)
  let b := setFlag b fVFused (decide (0 < g))
  let b := setFlag b fLowTrust
    (if 0 < g ∧ cFlag b fPlateau = false then false else if p.trustAge < age then true else cFlag b fLowTrust)
  let q := putAt q 8 (intLE 4 x)
  let q := putAt q 12 (intLE 4 rx)
  let q := putAt q 20 [BitVec.ofNat 8 (if dir = 0 then byteAt q 20 else dir)]
  (b, putAt q 22 (bytesLE 2 age))

/-- SOCF on one cell: the record, its SOCF state, and whether it counts as left out. -/
def socfCell (s : State) (c : Chem) (p : SocfPar) (cell : Nat) (b q : List Byte) : List Byte × List Byte × Bool :=
  if populated s cell = false then (b, q, true)
  else
    let dq := cQNet b - intAt q 0 8
    let q := putAt q 0 (intLE 8 (cQNet b))
    let done (q : List Byte) : List Byte := putAt q 16 (bytesLE 4 (cSweepC b).toNat)
    if cSocF b = 0xFFFF then
      if cSocV b ≠ 0xFFFF ∧ cFlag b fStale = false then
        let v := cSocV b
        let b' := putAt (putAt b 26 (bytesLE 2 v)) 28 (bytesLE 2 v)
        let b' := if cFlag b fPlateau then setFlag b' fLowTrust true else b'
        let q := putAt (putAt q 8 (intLE 4 (socQ v))) 12 (intLE 4 (socQ v))
        (b', done (putAt q 22 (bytesLE 2 0)), false)
      else (b, done q, true)
    else
      let r := socfStep s c p b q dq
      (r.1, done r.2, false)

/-- A segment of SOCF: the cell records and the SOCF state go in one commit (R269, R290). -/
def socfRun (s : State) (l : Launch) : KRun :=
  if tabBad s l l.param1.toNat 24 then poisonedRun s l
  else withChem s l l.param0 fun c =>
    let (s, p) := socfPar s l
    let i := segFirst l
    if srcBad s l [(l.srcA, 128), (l.srcB, 32)] then poisonedRun s l
    else
      let rs := (List.range (segLen l)).map fun j =>
        socfCell s c p (l.first + i + j) (elemAt s l l.srcA 128 (i + j)) (elemAt s l l.srcB 32 (i + j))
      let a := tabCommit s l (l.srcB.toNat + 32 * i) (rs.map fun x => x.2.1).flatten
      let d := tabCommit a.1 l (l.dst.toNat + 128 * i) (rs.map fun x => x.1).flatten
      if a.2 || d.2 then poisonedRun s l
      else ⟨d.1, l, (rs.filter fun x => x.2.2).length, false, false⟩

/-! ## LIMP (R291) -/

/-- A limit: (num) × 100,000 / Z, at 0 or above, derated and capped. -/
def limitOf' (num z der : Frac) (cap : Nat) : Nat :=
  if Frac.le num (Frac.ofNat 0) then 0
  else if Frac.le z (Frac.ofNat 0) then cap
  else min cap (Frac.mul (Frac.div (Frac.mul num (Frac.ofNat 100000)) z) der).round.toNat

def limpCell (s : State) (c : Chem) (par : List Byte) (cell : Nat) (b : List Byte) : List Byte × Bool :=
  let age := sweepDist (cSweepU b) (cSweepC b)
  if populated s cell = false || decide (natAt par 16 2 < age) || cVComp b == 0xFFFF then (bytesLE 8 0, true)
  else
    let h := natAt par 4 4 * 1000
    let a := decay h (natAt b 72 4)
    let a2 := if natAt b 76 4 = 0 then Frac.ofNat 0 else decay h (natAt b 80 4)
    let rest (x : Frac) : Frac := Frac.sub (Frac.ofNat 1) x
    let z := Frac.add (zAt c b 64) (Frac.add (Frac.mul (zAt c b 68) (rest a)) (Frac.mul (zAt c b 76) (rest a2)))
    let v := Frac.add (Frac.ofNat (cVComp b)) (Frac.add (Frac.mul (qFrac (intAt b 52 4)) a) (Frac.mul (qFrac (intAt b 56 4)) a2))
    let der (o : Nat) : Frac := atTemp c ((List.range c.tPts.length).map fun i => qFrac (intAt par (o + 4 * i) 4)) (cTemp b)
    let chg := limitOf' (Frac.sub (Frac.ofNat (natAt par 0 2)) v) z (der 20) (natAt par 8 4)
    let dis := limitOf' (Frac.sub v (Frac.ofNat (natAt par 2 2))) z (der 52) (natAt par 12 4)
    (bytesLE 4 chg ++ bytesLE 4 dis, false)

def limpRun (s : State) (l : Launch) : KRun :=
  if tabBad s l l.param1.toNat 84 then poisonedRun s l
  else withChem s l l.param0 fun c =>
    let par := tabRead s l l.param1.toNat 84
    mapKernel s l 8 [(l.srcA, 128)] fun s i =>
      let r := limpCell s c par (l.first + i) (elemAt s l l.srcA 128 i)
      (s, r.1, r.2)

/-! ## BALP (R292) -/

/-- A trusted cell. -/
def trustedCell (s : State) (cell : Nat) (b : List Byte) : Bool :=
  populated s cell && !(cFlag b fStale) && !(cFlag b fDefaulted) && !(cFlag b fCapSuspect) && cSocF b != 0xFFFF

/-- The amount of a cell against the block's sum and number of trusted cells. -/
def planAmount (s : State) (par b : List Byte) (cell sum n : Nat) : Int :=
  let diff := Frac.sub (Frac.ofNat (cSocF b)) ⟨sum, n⟩
  if trustedCell s cell b && decide (2 ≤ n) && cCode b != 3 && Frac.le (Frac.ofNat (natAt par 0 2)) (Frac.abs diff) then
    let lim : Int := natAt par 6 2
    clampInt (-lim) lim (Frac.div (Frac.mul (Frac.neg diff) (Frac.ofNat (cCap b))) (Frac.ofNat 10000)).round
  else 0

/-- The plan image of block `bk` and the cells of it left out. -/
def planImage (s : State) (l : Launch) (par : List Byte) (bk : Nat) : List Byte × Nat :=
  let c := blockCells s (Fin.ofNat 16 (bk / 16)) (bk % 16)
  let cells := (List.range 24).map fun k => (24 * bk + k, elemAt s l l.srcA 128 (24 * bk + k - l.first))
  let ok := cells.filter fun x => trustedCell s x.1 x.2
  let sum := ok.foldl (fun a x => a + cSocF x.2) 0
  if c = 0 then (List.replicate 64 0, 24)
  else
    let gen := if bitsOf l.param1 7 0 = 0 then 1 else bitsOf l.param1 7 0
    let amounts := ((cells.take c).map fun x => intLE 2 (planAmount s par x.2 x.1 sum ok.length)).flatten
    let img := [BitVec.ofNat 8 (bk % 16 + 2), 0x10, BitVec.ofNat 8 gen, BitVec.ofNat 8 c] ++ (par.drop 2).take 2 ++ (par.drop 4).take 2 ++ amounts
    (img ++ List.replicate (64 - img.length) 0, 24 - ok.length)

/-- A segment of BALP: the images of the blocks whose last cell lies in it; a cell outside every whole block is left out. -/
def balpRun (s : State) (l : Launch) : KRun :=
  let whole := wholeBlocks l.first l.count
  let lo := l.first + segFirst l
  let hi := lo + segLen l
  let bs := whole.filter fun b => decide (lo ≤ 24 * b + 23 ∧ 24 * b + 23 < hi)
  let stray := (List.range (segLen l)).filter fun i => !(whole.contains ((lo + i) / 24))
  if tabBad s l l.param0.toNat 16 || srcBad s l [(l.srcA, 128)]
      || bs.any (fun b => tabBad s l (l.srcA.toNat + 128 * (24 * b - l.first)) 3072) then poisonedRun s l
  else
    let par := tabRead s l l.param0.toNat 16
    let xs := bs.map fun b => planImage s l par b
    let at0 := match bs.head?, whole.head? with | some b, some w => b - w | _, _ => 0
    segCommit s l (l.dst.toNat + 64 * at0) (xs.map fun x => x.1).flatten (stray.length + xs.foldl (fun a x => a + x.2) 0)

/-! ## STAT (R293) -/

/-- The value of a field in a record that counts, none otherwise; an absent value is no measurement (R10). -/
def statField (s : State) (sel cell : Nat) (b : List Byte) : Option Int :=
  let stale := cFlag b fStale
  let pick (ok : Bool) (v : Int) : Option Int := if ok && populated s cell then some v else none
  match sel with
  | 0 => pick (!stale && cVLast b != 0xFFFF) (cVLast b)
  | 1 => pick (!stale && cVComp b != 0xFFFF) (cVComp b)
  | 2 => pick (!(cFlag b fTempSubst) && cTemp b != -32768) (cTemp b)
  | 3 => pick (!stale && cSocF b != 0xFFFF) (cSocF b)
  | 4 => pick (cSocR b != 0xFFFF) (cSocR b)
  | 5 => pick (!(cFlag b fCapSuspect) && cCap b != 0) (cCap b)
  | 6 => pick (!(cFlag b fZDefault) && natAt b 64 4 != 0xFFFFFFFF) (natAt b 64 4)
  | 7 => pick (!(cFlag b fZDefault) && natAt b 68 4 != 0xFFFFFFFF) (natAt b 68 4)
  | 8 => pick (!(cFlag b fZDefault)) (natAt b 72 4)
  | _ => none

/-- The statistics record of values with their index in the range, out of `total` cells. -/
def statRecord (xs : List (Nat × Int)) (total : Nat) : List Byte :=
  match xs with
  | [] => bytesLE 2 0 ++ bytesLE 2 total ++ bytesLE 8 0 ++ bytesLE 4 0xFFFFFFFF ++ bytesLE 16 0
  | x :: t =>
    let n := xs.length
    let lo := t.foldl (fun a y => if y.2 < a.2 then y else a) x
    let hi := t.foldl (fun a y => if a.2 < y.2 then y else a) x
    let sum := xs.foldl (fun a y => a + y.2) 0
    let sq := xs.foldl (fun a y => a + y.2 * y.2) 0
    let sd := roundSqrt ⟨sq * n - sum * sum, n * n⟩
    bytesLE 2 n ++ bytesLE 2 (total - n) ++ intLE 4 lo.2 ++ intLE 4 hi.2 ++ bytesLE 2 lo.1 ++ bytesLE 2 hi.1
      ++ intLE 4 (roundDiv sum n) ++ bytesLE 4 sd ++ bytesLE 8 0

/-- A segment of STAT: the record over what has been counted so far, and the records of the blocks that it touches (log entry
24). -/
def statRun (s : State) (l : Launch) : KRun :=
  if srcBad s l [(l.srcA, 128)] then poisonedRun s l
  else
    let mine := (List.range (segLen l)).map (segFirst l + ·)
    let new : List (Nat × Int) := mine.filterMap fun i =>
      (statField s l.param0.toNat (l.first + i) (elemAt s l l.srcA 128 i)).map fun v => (i, v)
    let xs := l.acc ++ new
    let seen := segFirst l + segLen l
    let part (b : Nat) : List Byte :=
      statRecord (xs.filter fun x => decide ((l.first + x.1) / 24 = b))
        ((List.range seen).filter fun i => decide ((l.first + i) / 24 = b)).length
    let bs := if l.param1.getLsbD 0 then touchedBlocks l.first seen else []
    segCommit s { l with acc := xs } l.dst.toNat (statRecord xs seen ++ (bs.map part).flatten) (segLen l - new.length)

/-! ## RLSZ (R288) -/

/-- One parameter x with variance P blended with y of deviation S at the factor λ: the new x and P, and the weight;
the weight of 0 / 0 is left open. -/
def blend (x p y dev : Nat) (lam : Nat) : Option (Nat × Nat × Frac) :=
  let m := Frac.mul (qFrac lam) (Frac.ofNat (dev * dev))
  let den := Frac.add m (Frac.ofNat p)
  if den.isZero then none
  else
    let k := Frac.div (Frac.ofNat p) den
    let x' := (Frac.add (Frac.ofNat x) (Frac.mul k (Frac.ofInt ((y : Int) - x)))).round
    let p' := (Frac.div (Frac.mul (Frac.sub (Frac.ofNat 1) k) (Frac.ofNat p)) (qFrac lam)).round
    some (x'.toNat, p'.toNat, k)

/-- Blend one parameter at its offsets; with 0 / 0 for a weight both take free values. -/
def blendAt (b fit : List Byte) (xo po fo so sn lam free : Nat) : List Byte × Frac :=
  match blend (natAt b xo 4) (natAt b po 4) (natAt fit fo 4) (natAt fit so sn) lam with
  | some r => (putAt (putAt b xo (bytesLE 4 r.1)) po (bytesLE 4 r.2.1), r.2.2)
  | none => (putAt (putAt b xo (bytesLE 4 (Config.freeWord free).toNat)) po (bytesLE 4 (Config.freeWord (free + 1)).toNat), Frac.ofNat 0)

/-- ZP2 or TP2: taken at the first fit that carries it, blended afterwards. -/
def blend2 (b fit : List Byte) (xo fo : Nat) (k : Frac) : List Byte :=
  let x := natAt b xo 4
  let y := natAt fit fo 4
  if y = 0 then b
  else if x = 0 then putAt b xo (bytesLE 4 y)
  else putAt b xo (bytesLE 4 (Frac.add (Frac.ofNat x) (Frac.mul k (Frac.ofInt ((y : Int) - x)))).round.toNat)

def rlszCell (s : State) (lam free : Nat) (cell : Nat) (b fit : List Byte) : List Byte × Bool :=
  if populated s cell = false ∨ byteAt fit 30 ≠ 0 then (b, true)
  else
    let z := blendAt b fit 64 84 0 22 2 lam free
    let p := blendAt z.1 fit 68 88 4 24 2 lam (free + 2)
    let t := blendAt p.1 fit 72 92 8 26 4 lam (free + 4)
    let b := blend2 (blend2 t.1 fit 76 12 p.2) fit 80 16 t.2
    let b := setFlag b fZDefault false
    let b := if byteAt b 63 = 0 then b else setFlag b fDefaulted false
    let b := putAt b 62 [BitVec.ofNat 8 (min 255 (byteAt b 62 + 1))]
    (putAt b 96 (bytesLE 4 (secNow s)), false)

def rlszRun (s : State) (l : Launch) : KRun :=
  withChem s l l.param0 fun _ =>
    let (s, lam) := clampPar s l 0x8000 0x10000 l.param1.toInt
    let f := s.free
    let k := mapKernel s l 128 [(l.srcA, 128), (l.srcB, 32)] fun s i =>
      let r := rlszCell s lam.toNat (f + 6 * (i - segFirst l)) (l.first + i) (elemAt s l l.srcA 128 i) (elemAt s l l.srcB 32 i)
      (s, r.1, r.2)
    { k with s := { k.s with free := f + 6 * segLen l } }

/-! ## The commands -/

/-- The state of a cell is still untrusted: its record has kept DEFAULTED since (R35, R275; log entry 31). -/
def untrustedCell (s : State) (c : Nat) : Bool :=
  match dirFor s 1 c with
  | some e => cFlag (readPlace s 0 (dirPlace e (128 * (c - dirFirst e))) 128) fDefaulted
  | none => false

/-- After a run, the cells that a poisoned line had defaulted and that are trusted again leave the list (R34, R35). -/
def recheckTrust (s : State) : State :=
  modMem s fun m => { m with untrusted := m.untrusted.filter fun c => untrustedCell s c }

def trusting (f : State → Launch → KRun) (s : State) (l : Launch) : KRun :=
  let k := f s l
  { k with s := recheckTrust k.s }

def execCoul (s : State) : Out := kernelRow s 0x01 coulRun
def execOcv (s : State) : Out := kernelRow s 0x02 (trusting ocvRun)
def execZcomp (s : State) : Out := kernelRow s 0x03 zcompRun
def execRlsz (s : State) : Out := kernelRow s 0x04 (trusting rlszRun)
def execSocf (s : State) : Out := kernelRow s 0x06 socfRun
def execLimp (s : State) : Out := kernelRow s 0x07 limpRun
def execBalp (s : State) : Out := kernelRow s 0x08 balpRun
def execStat (s : State) : Out := kernelRow s 0x09 statRun

end Sys2Proof.Machine
end

