-- ==== Sys2Proof/Machine/Fit.lean ====
section
/-! DEFINITION. STEPFIT (R260, R286, R287) and the generic vector kernels (R294), with the readings of log entry 24. -/
namespace Sys2Proof.Machine

/-! ## Least squares in fixed point -/

def sumInt (l : List Int) : Int := l.foldl (· + ·) 0
def dotInt (a b : List Int) : Int := sumInt ((a.zip b).map fun x => fxMul x.1 x.2)

/-- A linear fit: the coefficients, the diagonal of the inverse of the normal matrix, and the sum of squares left. -/
structure Lsq where
  x : List Int
  inv : List Int
  ss : Int

/-- The squares that a fit leaves. -/
def residual (y : List Int) (cols : List (List Int)) (x : List Int) : Int :=
  let fit := (cols.zip x).foldl (fun acc cx => (acc.zip cx.1).map fun v => v.1 - fxMul v.2 cx.2) y
  dotInt fit fit

/-- Two columns; none when they do not determine the fit. -/
def lsq2 (y a b : List Int) : Option Lsq :=
  let aa := dotInt a a
  let ab := dotInt a b
  let bb := dotInt b b
  let det := fxMul aa bb - fxMul ab ab
  if det = 0 then none
  else
    let ay := dotInt a y
    let bY := dotInt b y
    let x := [fxDiv (fxMul ay bb - fxMul bY ab) det, fxDiv (fxMul bY aa - fxMul ay ab) det]
    some ⟨x, [fxDiv bb det, fxDiv aa det], residual y [a, b] x⟩

/-- Three columns. -/
def lsq3 (y a b c : List Int) : Option Lsq :=
  let aa := dotInt a a
  let ab := dotInt a b
  let ac := dotInt a c
  let bb := dotInt b b
  let bc := dotInt b c
  let cc := dotInt c c
  let c11 := fxMul bb cc - fxMul bc bc
  let c12 := fxMul bc ac - fxMul ab cc
  let c13 := fxMul ab bc - fxMul bb ac
  let c22 := fxMul aa cc - fxMul ac ac
  let c23 := fxMul ab ac - fxMul aa bc
  let c33 := fxMul aa bb - fxMul ab ab
  let det := fxMul aa c11 + fxMul ab c12 + fxMul ac c13
  if det = 0 then none
  else
    let ay := dotInt a y
    let bY := dotInt b y
    let cy := dotInt c y
    let x := [fxDiv (fxMul c11 ay + fxMul c12 bY + fxMul c13 cy) det,
      fxDiv (fxMul c12 ay + fxMul c22 bY + fxMul c23 cy) det, fxDiv (fxMul c13 ay + fxMul c23 bY + fxMul c33 cy) det]
    some ⟨x, [fxDiv c11 det, fxDiv c22 det, fxDiv c33 det], residual y [a, b, c] x⟩

/-! ## The fit of one cell (R286) -/

/-- ln of the grid's span, and the grid value of index i, µs in fixed point: 48 values evenly spaced in ln TP. -/
def gridSpan (c : Chem) : Int := fxLn (fxDiv c.tpMax c.tpMin)
def gridTp (c : Chem) (i : Nat) : Int := c.tpMin * fxExp (gridSpan c * i / 47)

/-- 1 − e^(−t/TP) at each time (ns). -/
def riseCol (ts : List Int) (tp : Int) : List Int :=
  ts.map fun t => fxOne - fxExp (-(fxDiv (t * fxOne) (1000 * tp)))

/-- The fit at a pair of time constants, the second only with PAIR2. -/
def fitAt (ts y : List Int) (tp : Int) (tp2 : Option Int) : Option Lsq :=
  let ones := ts.map fun _ => fxOne
  match tp2 with
  | none => lsq2 y ones (riseCol ts tp)
  | some u => lsq3 y ones (riseCol ts tp) (riseCol ts u)

/-- The grid pairs that are searched: with PAIR2 those with TP2 ≥ 4 TP. -/
def gridPairs (c : Chem) (pair2 : Bool) : List (Nat × Option Nat) :=
  if pair2 then
    (List.range 48).flatMap fun i => ((List.range 48).filter fun k => decide (4 * gridTp c i ≤ gridTp c k)).map fun k => (i, some k)
  else (List.range 48).map fun i => (i, none)

/-- The best of the grid by least residual, the first on a tie. -/
def bestOf (c : Chem) (ts y : List Int) (pair2 : Bool) : Option (Nat × Option Nat × Int) :=
  (gridPairs c pair2).foldl (fun a x =>
    match fitAt ts y (gridTp c x.1) (x.2.map (gridTp c)) with
    | none => a
    | some f => match a with
      | some b => if f.ss < b.2.2 then some (x.1, x.2, f.ss) else a
      | none => some (x.1, x.2, f.ss)) none

/-- What a fit gives: TP refined (µs, fixed point), TP2, the linear fit, the standard deviation of ln TP, and whether TP lies at
an end of its grid. -/
structure FitOut where
  tp : Int
  tp2 : Int
  f : Lsq
  dev : Int
  atEnd : Bool

/-- The parabola through the neighbouring log values: the offset of its vertex and its second derivative. -/
def parabola (h a b c : Int) : Int × Int :=
  let curve := a - 2 * b + c
  if curve = 0 then (0, 0) else (fxMul h (fxDiv (a - c) (2 * curve)), fxDiv curve (fxMul h h))

/-- The residual variance: the squares left over the samples less the resistances fitted. -/
def residVar (ss : Int) (n p : Nat) : Int := if n ≤ p then 0 else ss / ((n - p : Nat) : Int)

/-- Grid search and refinement; none when the samples do not determine a fit. -/
def fitCell (c : Chem) (ts y : List Int) (pair2 : Bool) : Option FitOut :=
  match bestOf c ts y pair2 with
  | none => none
  | some (i, k, ss) =>
    let tp2 := k.map (gridTp c)
    let h := gridSpan c / 47
    let near (j : Nat) : Int := match fitAt ts y (gridTp c j) tp2 with | some f => f.ss | none => ss
    let atEnd := decide (i = 0 ∨ i = 47)
    let par := if atEnd then (0, 0) else parabola h (near (i - 1)) ss (near (i + 1))
    let tp := if atEnd then gridTp c i else fxMul (gridTp c i) (fxExp par.1)
    match fitAt ts y tp tp2 with
    | none => none
    | some f =>
      let v := residVar f.ss ts.length f.x.length
      let dev := if par.2 ≤ 0 then 0 else fxSqrt (fxDiv (2 * v) par.2)
      some ⟨tp, tp2.getD 0, f, dev, atEnd⟩

/-! ## The capture record (R260) -/

/-- The section of a hop: 32-byte header and samples; sections follow one another in hop order. -/
def sectionOf (b : List Byte) (hop : Nat) : Nat → Option (List Byte)
  | 0 => none
  | m + 1 =>
    let h := byteAt b 0
    let len := if h = 1 then 2672 else 32 + 440 * byteAt b 1
    if h = hop then some (b.take len)
    else if h = 0 then none
    else sectionOf (b.drop len) hop m

/-- Times of the 220 samples from the step, ns. -/
def sampleTimes (sec : List Byte) : List Int := (List.range 220).map fun (j : Nat) => intAt sec 12 4 + (j : Int) * 1000000

/-- The samples of cell k. -/
def sampleVolts (sec : List Byte) (k : Nat) : List Int := (List.range 220).map fun (j : Nat) => (natAt sec (32 + 440 * k + 2 * j) 2 : Int)

/-- The line through the samples before the step: V0 and slope per ns, in counts. -/
def baseLine (xs : List (Int × Int)) : Option (Frac × Frac) :=
  let n : Int := xs.length
  let st := sumInt (xs.map fun x => x.1)
  let sv := sumInt (xs.map fun x => x.2)
  let stt := sumInt (xs.map fun x => x.1 * x.1)
  let stv := sumInt (xs.map fun x => x.1 * x.2)
  let det := n * stt - st * st
  if det = 0 then none
  else
    let d := Frac.div (Frac.ofInt (n * stv - st * sv)) (Frac.ofInt det)
    some (Frac.div (Frac.sub (Frac.ofInt sv) (Frac.mul d (Frac.ofInt st))) (Frac.ofInt n), d)

/-- Times and responses after the step, in µΩ: y over ΔI, 100,000 nV to a count. -/
def responses (sec : List Byte) (k : Nat) (di : Int) : Option (List Int × List Int) :=
  let xs := (sampleTimes sec).zip (sampleVolts sec k)
  match baseLine (xs.filter fun x => decide (x.1 < 0)) with
  | none => none
  | some (v0, d) =>
    if di = 0 then none
    else
      let after := xs.filter fun x => decide (0 < x.1)
      some (after.map fun x => x.1, after.map fun x =>
        fxOf (Frac.div (Frac.mul (Frac.sub (Frac.ofInt x.2) (Frac.add v0 (Frac.mul d (Frac.ofInt x.1)))) (Frac.ofNat 100000)) (Frac.ofInt di)))

/-- Fixed point to the nearest integer, and within a field. -/
def fxRound (x : Int) : Int := roundDiv x (2 ^ 96)
def sat (n : Nat) (x : Int) : Nat := (clampInt 0 (2 ^ n - 1) x).toNat

/-- A fit record that carries a RESULT and no parameters (R287). -/
def fitNone (result : Nat) : List Byte := bytesLE 30 0 ++ [BitVec.ofNat 8 result, 0]

/-- RESULT from the position, the capture and the section, before a fit is tried (R287). -/
def fitRefusal (s : State) (cap : List Byte) (cell : Nat) : Nat × List Byte :=
  let j := cellBlock cell
  let k := cellK cell
  if populated s cell = false then (1, [])
  else if (cellRegion cell).val ≠ byteAt cap 4 then (2, [])
  else if !((natAt cap 6 2).testBit j) then (3, [])
  else match sectionOf (cap.drop 32) (j + 2) 18 with
    | none => (3, [])
    | some sec =>
      let f := byteAt sec 2
      (if byteAt sec 1 ≤ k then 3 else if f.testBit 0 then 4 else if f.testBit 1 then 5 else if f.testBit 2 then 6
       else if (natAt sec 4 3).testBit k then 7 else if (natAt sec 8 3).testBit k then 8 else 0, sec)

/-- The record of a fit, referred to 25 °C, with RMS and BOUNDS judged. -/
def fitRecord (c : Chem) (temp di : Int) (n : Nat) (o : FitOut) : List Byte × Bool :=
  let zf := fxOf (zfAt c temp)
  let to25 (x : Int) : Int := fxDiv x zf
  let v := residVar o.f.ss n o.f.x.length
  let get (l : List Int) (i : Nat) : Int := match l[i]? with | some x => x | none => 0
  let zs := fxRound (to25 (get o.f.x 0))
  let zp := fxRound (to25 (get o.f.x 1))
  let zp2 := fxRound (to25 (get o.f.x 2))
  let dev (i : Nat) : Nat := sat 16 (fxRound (to25 (fxSqrt (fxMul v (get o.f.inv i)))))
  let rms := fxRound (fxSqrt (o.f.ss / (n : Int)) * di.natAbs / 1000)
  if (c.rmsMax : Int) < rms then (fitNone 9, true)
  else if zs < c.zsMin ∨ (c.zsMax : Int) < zs ∨ zp < 0 ∨ zp2 < 0 ∨ o.atEnd = true then (fitNone 10, true)
  else
    (bytesLE 4 zs.toNat ++ bytesLE 4 zp.toNat ++ bytesLE 4 (fxRound o.tp).toNat ++ bytesLE 4 zp2.toNat ++ bytesLE 4 (fxRound o.tp2).toNat
      ++ bytesLE 2 (sat 16 rms) ++ bytesLE 2 (dev 0) ++ bytesLE 2 (dev 1) ++ bytesLE 4 (fxRound (fxMul o.tp o.dev)).toNat ++ [0, 0], false)

/-- STEPFIT on one cell; samples that determine no fit leave the outcome open: a free value among OK with free parameters, RMS and
BOUNDS. -/
def stepfitCell (s : State) (c : Chem) (cap : List Byte) (pair2 : Bool) (free cell : Nat) (b : List Byte) : List Byte × Bool :=
  let x := fitRefusal s cap cell
  if x.1 ≠ 0 then (fitNone x.1, true)
  else
    let di := intAt cap 20 4
    match (responses x.2 (cellK cell) di).bind fun r => (fitCell c r.1 r.2 pair2).map fun o => fitRecord c (cTempUse b) di r.1.length o with
    | some r => r
    | none =>
      match (Config.freeWord free).toNat % 3 with
      | 0 => (((List.range 7).map fun i => bytesLE 4 (Config.freeWord (free + 1 + i)).toNat).flatten
              ++ bytesLE 2 (Config.freeWord (free + 8)).toNat ++ [0, 0], false)
      | 1 => (fitNone 9, true)
      | _ => (fitNone 10, true)

/-- The bytes of a capture slot that a capture record can take. -/
def captureBytes : Nat := 172176

def stepfitRun (s : State) (l : Launch) : KRun :=
  if tabBad s l l.srcA.toNat captureBytes then poisonedRun s l
  else withChem s l l.param0 fun c =>
    let cap := tabRead s l l.srcA.toNat captureBytes
    let f := s.free
    let k := mapKernel s l 32 [(l.srcB, 128)] fun s i =>
      let r := stepfitCell s c cap (l.param1.getLsbD 0) (f + 16 * (i - segFirst l)) (l.first + i) (elemAt s l l.srcB 128 i)
      (s, r.1, r.2)
    { k with s := { k.s with free := f + 16 * segLen l } }

/-! ## Generic kernels (R294) -/

def vecQ (l : Launch) : Bool := l.param1.getLsbD 0
def vecSkip (l : Launch) (x : Int) : Bool := l.param1.getLsbD 1 && decide (x = absentI)

/-- A 32-bit result: saturated with Q, wrapped without. -/
def vecOut (l : Launch) (x : Int) : List Byte :=
  intLE 4 (if vecQ l then clampInt (-2147483648) 2147483647 x else x)

/-- Element i of a source, signed. -/
def vecAt (s : State) (l : Launch) (a : Word) (i : Nat) : Int := intAt (elemAt s l a 4 i) 0 4

/-- A kernel of one element from A, and from B where it is given. -/
def vecRun (s : State) (l : Launch) (useB : Bool) (f : Int → Int → Int) : KRun :=
  mapKernel s l 4 ((l.srcA, 4) :: if useB then [(l.srcB, 4)] else []) fun s i =>
    (s, vecOut l (f (vecAt s l l.srcA i) (if useB then vecAt s l l.srcB i else 0)), false)

/-- A product in the launch's arithmetic. -/
def vecMul (l : Launch) (a b : Int) : Int := if vecQ l then roundDiv (a * b) 65536 else a * b

def vaddRun (s : State) (l : Launch) : KRun := vecRun s l true fun a b => a + b
def vmulRun (s : State) (l : Launch) : KRun := vecRun s l true (vecMul l)
def vmaddRun (s : State) (l : Launch) : KRun :=
  vecRun s l (l.srcB != 0) fun a b =>
    if vecQ l then roundDiv (a * l.param0.toInt + b * 65536) 65536 else a * l.param0.toInt + b

/-- The elements of the segment that count, with their index. -/
def vecElems (s : State) (l : Launch) : List (Nat × Int) :=
  ((List.range (segLen l)).map fun i => (segFirst l + i, vecAt s l l.srcA (segFirst l + i))).filter fun x => !(vecSkip l x.2)

/-- A segment of VMIN or VMAX: the pick of what has been counted so far; with no element that counts the value is left open. -/
def vecPick (s : State) (l : Launch) (better : Int → Int → Bool) : KRun :=
  if srcBad s l [(l.srcA, 4)] then poisonedRun s l
  else
    let new := vecElems s l
    let xs := l.acc ++ new
    let (i, s) := drawFree s
    match xs with
    | [] => segCommit s l l.dst.toNat (bytesLE 4 (Config.freeWord i).toNat ++ bytesLE 4 0xFFFFFFFF) (segLen l)
    | x :: t =>
      let m := t.foldl (fun a y => if better y.2 a.2 then y else a) x
      segCommit s { l with acc := [m] } l.dst.toNat (intLE 4 m.2 ++ bytesLE 4 m.1) (segLen l - new.length)

/-- The VINTERP table, none when its n or its order is invalid. -/
def interpTable (s : State) (l : Launch) : Option (List (Int × Frac)) :=
  let n := natAt (tabRead s l l.param0.toNat 4) 0 2
  let b := tabRead s l l.param0.toNat (4 + 8 * n)
  let xs := (List.range n).map fun i => intAt b (4 + 4 * i) 4
  let ys := (List.range n).map fun i => Frac.ofInt (intAt b (4 + 4 * n + 4 * i) 4)
  if 2 ≤ n ∧ n ≤ 64 ∧ strictlyRising xs = true then some (xs.zip ys) else none

def vinterpRun (s : State) (l : Launch) : KRun :=
  let n := natAt (tabRead s l l.param0.toNat 4) 0 2
  if tabBad s l l.param0.toNat 8 || (decide (n ≤ 64) && tabBad s l l.param0.toNat (4 + 8 * n)) then poisonedRun s l
  else match interpTable s l with
    | none => ⟨s, l, l.count - segFirst l, false, true⟩
    | some t => vecRun s l false fun a _ => (interp t (Frac.ofInt a)).round

/-- The condition of VCMPM. -/
def cmpHolds (code : Nat) (a b : Int) : Bool :=
  match code with
  | 0 => decide (a = b)
  | 1 => decide (a ≠ b)
  | 2 => decide (a < b)
  | 3 => decide (a ≤ b)
  | 4 => decide (b < a)
  | 5 => decide (b ≤ a)
  | _ => false

/-- A segment of VCMPM: its one or two words. -/
def vcmpmRun (s : State) (l : Launch) : KRun :=
  if srcBad s l [(l.srcA, 4)] then poisonedRun s l
  else
    let xs := vecElems s l
    let hit (i : Nat) : Bool := xs.any fun x => x.1 == i && cmpHolds (bitsOf l.param1 4 2) x.2 l.param0.toInt
    let w (j : Nat) : Nat := bitMask ((List.range 32).map fun i => hit (segFirst l + 32 * j + i))
    segCommit s l (l.dst.toNat + segFirst l / 8) (((List.range ((segLen l + 31) / 32)).map fun j => bytesLE 4 (w j)).flatten)
      (segLen l - xs.length)

/-! ## The commands -/

def execStepfit (s : State) : Out := kernelRow s 0x05 stepfitRun
def execVadd (s : State) : Out := kernelRow s 0x20 vaddRun
def execVmul (s : State) : Out := kernelRow s 0x21 vmulRun
def execVmadd (s : State) : Out := kernelRow s 0x22 vmaddRun
def execVmin (s : State) : Out := kernelRow s 0x23 fun s l => vecPick s l fun a b => decide (a < b)
def execVmax (s : State) : Out := kernelRow s 0x24 fun s l => vecPick s l fun a b => decide (b < a)
def execVinterp (s : State) : Out := kernelRow s 0x25 vinterpRun
def execVcmpm (s : State) : Out := kernelRow s 0x26 vcmpmRun

end Sys2Proof.Machine
end

