-- ==== Sys2Proof/Machine/Notice.lean ====
section
/-! DEFINITION. The outbound queue of a host session, notices and capping segments (R314, R423, R428). -/
namespace Sys2Proof.Machine

/-- The session slots in order. -/
def sessions : List Session := List.finRange 9

/-- Bytes of a message: 8 of header and its body (R422, R423). -/
def msgBytes : HostMsg → Nat
  | .readResp _ _ data => 12 + data.length
  | .writeResp _ _ _ _ => 16
  | .descResp _ _ => 12
  | .subResp _ _ => 12
  | .badType _ => 12
  | .notice _ _ _ => 24
  | .cappingSeg _ _ _ b => 20 + b.length
  | .pong _ _ => 20

/-- Bytes in a queue of 256 KiB, and whether n more fit. -/
def queued (x : SessSt) : Nat := (x.out.map msgBytes).foldl (· + ·) 0
def fitsOut (x : SessSt) (n : Nat) : Bool := decide (queued x + n ≤ 262144)

/-- Put a message into the queue of a session. -/
def sendOut (s : State) (k : Session) (m : HostMsg) : State := modSess s k fun x => { x with out := x.out ++ [m] }

/-- A notice to one session: dropped when the queue is full, preceded by LOST when notices were dropped before (R428). -/
def noticeTo (s : State) (k : Session) (kind : Byte) (seq : DWord) (arg : Word) : State :=
  let x := sessOf s k
  let lost : List HostMsg := if x.lostNotices = 0 then [] else [.notice 0xFF seq (word x.lostNotices)]
  if fitsOut x (24 + 24 * lost.length) then
    modSess s k fun x => { x with out := x.out ++ lost ++ [.notice kind seq arg], lostNotices := 0 }
  else
    let s := { s with net := { s.net with noticesLost := inc16 s.net.noticesLost } }
    modSess s k fun x => { x with lostNotices := x.lostNotices + 1 }

/-- A notice to every open session that subscribed: bit 1 PUBLISH, bit 2 SWEEP. -/
def notify (s : State) (kind : Byte) (bit : Nat) (arg : Word) : State :=
  let seq := s.arb.seq
  sessions.foldl (fun s k =>
    if (sessOf s k).state == .opened && (sessOf s k).mask.getLsbD bit then noticeTo s k kind seq arg else s) s

/-- The capping that is first goes on into a session's queue, a segment of at most 16,384 bytes at a time; one that does not fit
waits (R314, R428). The fuel bounds the segments of one capping. -/
def feedCapping (k : Session) (s : State) : Nat → State
  | 0 => s
  | n + 1 =>
    let x := sessOf s k
    match x.sending with
    | [] => s
    | (serial, off, left, seal') :: more =>
      let b := left.take 16384
      if b.isEmpty then
        if seal' then modSess s k fun x => { x with sending := more } else s
      else if fitsOut x (20 + b.length) then
        let rest := left.drop 16384
        let last := seal' && rest.isEmpty
        let s := modSess s k fun x => { x with
          out := x.out ++ [.cappingSeg serial off last b]
          stallSince := none
          sending := if last then more else (serial, off + b.length, rest, seal') :: more }
        feedCapping k s n
      else modSess s k fun y => { y with stallSince := some (y.stallSince.getD (nowNs s)) }

/-- Feed every session. -/
def feedCappings (s : State) : State := sessions.foldl (fun s k => feedCapping k s 300) s

/-- The network takes the first message of a session's queue or not: that is left open (log entry 25). While the Ethernet
partition is under test or out of service the module's own frames wait (R500, R504). -/
def drainOut (s : State) : State :=
  let f := s.free
  let s := sessions.foldl (fun s k =>
    if Config.freeBool (f + k.val) = true ∧ (k.val = 8 ∨ partDown s 5 = false) then modSess s k fun x => { x with out := x.out.drop 1 } else s) s
  { s with free := f + 9 }

end Sys2Proof.Machine
end

