-- ==== Sys2Proof/Machine/Air.lean ====
section
/-! DEFINITION. The region link's packets as bytes under their integrity code, sent and received, and the spans of a frame
(R184-R209, R224, R225), with the readings of log entry 26. -/
namespace Sys2Proof.Machine

/-! ## Hops -/

/-- Hops of the region map. -/
def mapHops (x : RegionSt) : Nat := match x.map with
  | some m => m.hops.length
  | none => 0

/-- Hops of the map in ascending order. -/
def hopList (x : RegionSt) : List Nat := (List.range (mapHops x)).map fun i => i + 1

/-- The state kept of hop h, 1-17. -/
def hopAt (x : RegionSt) (h : Nat) : HopSt := x.hops[Fin.ofNat 18 h]
def setHop (x : RegionSt) (h : Nat) (f : HopSt → HopSt) : RegionSt :=
  { x with hops := x.hops.set (Fin.ofNat 18 h) (f (hopAt x h)) }

/-! ## Bytes of packets (R184, R191, R197, R200, R201, R203; log entry 26 for the bodies of spare exchanges) -/

/-- Cell status codes packed 3 bits each from bit 0 (R200). -/
def packCodes (l : List (BitVec 3)) : List Byte :=
  bytesLE ((3 * l.length + 7) / 8) (l.reverse.foldl (fun n c => 8 * n + c.toNat) 0)

/-- TAG and HOP of a record. -/
def tagHop (tag : BitVec 3) (hop : Nat) : Byte := BitVec.ofNat 8 (32 * tag.toNat + hop % 32)

/-- 16-bit and 32-bit values one after another. -/
def bytes2 (l : List Half) : List Byte := (l.map fun x => bytesLE 2 x.toNat).flatten
def bytes4 (l : List Word) : List Byte := (l.map fun x => bytesLE 4 x.toNat).flatten

def nodeRecBytes (n : NodeRec) : List Byte :=
  [tagHop n.tag n.hop] ++ bytesLE 2 n.status.toNat ++ bytes2 n.volts ++ packCodes n.codes ++ bytes2 n.temps

def headRecBytes (h : HeadRec) : List Byte :=
  [tagHop h.tag 1, 0] ++ bytesLE 2 h.status.toNat ++ bytes4 [h.cur, h.vStr, h.vBus]

def streamRecBytes (r : StreamRec) : List Byte :=
  [1, 1] ++ bytesLE 2 r.first.toNat ++ (r.samples.map fun x => bytes4 [x.1, x.2.1, x.2.2]).flatten

def upRecBytes : UpRec → List Byte
  | .node n => nodeRecBytes n
  | .head h => headRecBytes h
  | .stream r => streamRecBytes r

def upBody (p : UpPacket) : List Byte :=
  (match p.counts with
   | some (a, b) => [a, b]
   | none => []) ++ (p.recs.map upRecBytes).flatten

def spareBody (a : SpareUp) : List Byte :=
  BitVec.ofNat 8 a.hop :: (match a.body with
    | .plan gen t => [0x10, gen] ++ bytes4 t
    | .tally t => 0x11 :: bytes4 t
    | .limits ov uv ot ut => 0x12 :: bytes2 [ov, uv, ot, ut]
    | .fwQuery n l ok => [0x15] ++ bytesLE 2 n.toNat ++ [BitVec.ofNat 8 (ofBool ok)] ++ bytes2 l
    | .ranging d => 0x20 :: bytesLE 2 d.toNat
    | .keyConfirm => [0x21])

def segBody (p : CapSegment) : List Byte := [0x13, p.cap] ++ bytesLE 2 p.index ++ p.data

def alarmByte (origin code : Nat) : Byte := BitVec.ofNat 8 (8 * origin + code)
def alarmBody (p : AlarmPacket) : List Byte := [alarmByte p.origin.toNat p.code.toNat]

def keptBody (hop : Nat) (k : KeptPacket) : List Byte :=
  [BitVec.ofNat 8 hop, 0x22] ++ (k.recs.map fun x => bytesLE 4 x.sweep.toNat ++ nodeRecBytes x.record).flatten

def reachBody (hop : Nat) (a : ReachAnswer) : List Byte := BitVec.ofNat 8 hop :: bytesLE 2 a.delay.toNat

def sigBody (hop : Nat) (data : List Byte) : List Byte := [BitVec.ofNat 8 hop, 0x24] ++ data

/-- The 24 bytes of a beacon (R191). -/
def beaconBytes (b : Beacon) : List Byte :=
  bytes4 [b.sweep, b.originS, b.originNs, b.corr] ++ bytesLE 3 b.toS.toNat ++ [b.flags] ++ bytes2 [b.hopHush, b.fe]

/-- An entry of a command packet, and the packet's body (R197). -/
def entryBytes (e : CmdEntry) : List Byte := [tagHop e.tag e.hops.toNat, e.order] ++ bytes4 [e.arg0, e.arg1]
def commandBody (l : List CmdEntry) : List Byte := [BitVec.ofNat 8 l.length, 0] ++ (l.map entryBytes).flatten

/-- TYPE and body of a packet of the lead (R184). -/
def leadBytes : LeadBody → Nat × List Byte
  | .ack n => (4, [n, 0])
  | .command l _ => (2, commandBody l)
  | .beacon b => (1, beaconBytes b)
  | .spareDown h c l => (5, [h.setWidth 8, c] ++ l)
  | .reach h => (0xB, [BitVec.ofNat 8 h])

/-! ## Integrity (R207, R209) -/

/-- Air header byte 1. -/
def airByte1 (sideB : Bool) (sender : Nat) : Byte := BitVec.ofNat 8 (128 * ofBool sideB + sender % 32)

/-- The nonce: region, byte 1, type byte, bytes 3-4, sweep, FE, MAP_ID. -/
def airNonce (r : Region) (byte1 type : Byte) (fc : Nat) (sweep : Word) (fe : Half) (mapId : Word) : List Byte :=
  [BitVec.ofNat 8 r.val, byte1, type] ++ bytesLE 2 fc ++ bytesLE 4 sweep.toNat ++ bytesLE 2 fe.toNat ++ bytesLE 2 mapId.toNat

/-- The MIC of a packet with an air header: what the nonce and the header name, and the body. -/
def airMicOf (r : Region) (key : List Byte) (mapId : Word) (type : Nat) (b1 : Byte) (fc : Nat) (sweep : Word) (fe : Half)
    (body : List Byte) : Word :=
  let t := BitVec.ofNat 8 (16 * type)
  Config.airMic key (airNonce r b1 t fc sweep fe mapId) ([t, b1, BitVec.ofNat 8 body.length] ++ bytesLE 2 fc ++ body)

/-- A received packet's MIC holds under a key, in this frame, with the frame epoch of the beacon's twin. -/
def micHolds (r : Region) (key : List Byte) (mapId : Word) (f : Frame) (fe : Half) (type : Nat) (h : AirHdr) (body : List Byte)
    (mic : Word) : Bool :=
  airMicOf r key mapId type (airByte1 h.sideB h.sender.toNat) h.fc.toNat f.sweep fe body == mic

/-- The last FC accepted from a sender in this frame. -/
def lastFc (f : Frame) (sender : Nat) : Option Nat := (f.fcs.find? fun x => x.1 == sender).map fun x => x.2

/-- The region's radio is out of service (R504). -/
def radioOut (s : State) (r : Region) : Bool := s.therm.bistOut.getLsbD (16 + r.val)

/-- The stamp of a packet received now: the access address, 1.25 µs back (R63). -/
def rxStampNow (s : State) : NetTime := toNet s (netNs s - 1250)

/-- A packet outside the frame's air header is heard: it is stamped like every other (R63). -/
def airHeard (s : State) (r : Region) : State :=
  let t := rxStampNow s
  modRg s r fun x => { x with rxStamp := t }

/-- Judge a packet under a key and a frame epoch: none when it is discarded and counted, else the frame with its FC taken;
every packet heard is stamped (R63, R209). -/
def airAcceptKey (s : State) (r : Region) (key : List Byte) (mapId : Word) (f : Frame) (fe : Half) (type : Nat) (h : AirHdr)
    (body : List Byte) (mic : Word) : State × Option Frame :=
  if radioOut s r then (s, none)
  else
    let stamp := rxStampNow s
    let s := modRg s r fun x => { x with rxStamp := stamp }
    if micHolds r key mapId f fe type h body mic then
      let snd' := h.sender.toNat
      let late := match lastFc f snd' with
        | some n => decide (h.fc.toNat ≤ n)
        | none => false
      if late then (modRg s r fun x => { x with replay := inc16 x.replay }, none)
      else (s, some { f with fcs := (snd', h.fc.toNat) :: f.fcs.filter fun x => x.1 != snd' })
    else (modRg s r fun x => { x with micFail := inc16 x.micFail }, none)

/-- Judge a packet of the region's air under the key in force. -/
def airAccept (s : State) (r : Region) (m : RegionMap) (f : Frame) (type : Nat) (h : AirHdr) (body : List Byte) (mic : Word) :
    State × Option Frame := airAcceptKey s r m.key m.mapId f f.fe type h body mic

/-- A packet heard in a frame of a mapped region: its FC is taken and the meaning follows, or it is discarded (R209). -/
def airTake (s : State) (r : Region) (type : Nat) (h : AirHdr) (body : List Byte) (mic : Word) (act : State → State) : State :=
  match (rgOf s r).map, (rgOf s r).frame with
  | some m, some f =>
    let x := airAccept s r m f type h body mic
    match x.2 with
    | some f => act (modRg x.1 r fun y => { y with frame := some f })
    | none => x.1
  | _, _ => s

/-! ## Packets of this module (R63, R184, R185, R207) -/

/-- The power of sewing, −20 dBm, of service, MARGIN_DB above it, and of direct reach (R213, R215, R219; log entries 26, 30). -/
def sewDbm : Option Byte := some (BitVec.ofInt 8 (-20))
def serviceDbm (x : RegionSt) : Option Byte := some (BitVec.ofInt 8 (bitsOf x.txPwr 7 0 - 20))
def reachDbm (x : RegionSt) : Option Byte := some (BitVec.ofNat 8 (bitsOf x.txPwr 15 8))

/-- A packet leaves `wait` ns from now under a map, a sweep number and a frame epoch: SENDER 0, the side of this module, the
next FC, stamped when it leaves. A body holds at most 246 bytes. -/
def airPut (s : State) (r : Region) (m : RegionMap) (sweep : Word) (fe : Half) (type wait : Nat) (dbm : Option Byte) (body : List Byte) :
    State :=
  if radioOut s r then s
  else
    let fc := (rgOf s r).fc
    let b := body.take 246
    let mic := airMicOf r m.key m.mapId type (airByte1 s.twin.sideB 0) fc sweep fe b
    let p : AirPdu := ⟨r, type, s.twin.sideB, fc, b, mic, dbm, toNet s (netNs s + wait + 500)⟩
    let s := modRg s r fun x => { x with fc := fc + 1 }
    { s with air := s.air ++ [p] }

/-- A packet leaves in the frame in progress, under that frame's epoch, `wait` ns from now. -/
def airSendIn (s : State) (r : Region) (type wait : Nat) (dbm : Option Byte) (body : List Byte) : State :=
  match (rgOf s r).map, (rgOf s r).frame with
  | some m, some f => airPut s r m f.sweep f.fe type wait dbm body
  | _, _ => s

/-- A packet of the service leaves now in the frame in progress. -/
def airSend (s : State) (r : Region) (type : Nat) (body : List Byte) : State := airSendIn s r type 0 (serviceDbm (rgOf s r)) body

/-- An alarm packet leaves: no header, ORIGIN 0, its count in the nonce (R203, R262, R263). -/
def airAlarm (s : State) (r : Region) (code count : Nat) : State :=
  match (rgOf s r).map with
  | some m =>
    if radioOut s r then s
    else
      let b := [alarmByte 0 code]
      let mic := Config.airMic m.key (airNonce r (airByte1 s.twin.sideB 0) 0xF0 count (rgOf s r).watchSweep s.sweep.fe m.mapId) b
      { s with air := s.air ++ [⟨r, 15, s.twin.sideB, count, b, mic, serviceDbm (rgOf s r), toNet s (netNs s + 500)⟩] }
  | none => s

/-- Air time of a packet with a body of b bytes, ns (R184). -/
def packetAir (b : Nat) : Nat := (18 + b) * 4000

/-! ## Spans of the frame (R186-R190) -/

/-- Length of a micro-slot, ns. -/
def microLen (h : Nat) : Nat := 64000 * h

/-- A hop slot of 200 µs that would begin at `t` from F: it begins at the end of a micro-slot that it would overlap. -/
def deferSlot (h t : Nat) : Nat :=
  if t + 200000 ≤ 2500000 then t
  else
    let g := 2500000 + (t + 200000 - 1 - 2500000) / 5000000 * 5000000
    if t < g + microLen h then g + microLen h else t

/-- The end of the n-th hop slot, from F. -/
def slotsEnd (h : Nat) : Nat → Nat
  | 0 => 0
  | n + 1 => deferSlot h (slotsEnd h n) + 200000

/-- Where the n-th hop slot begins, from F; slots 1 to H are the beacon phase, the next H the command window (R187). -/
def slotAt (h n : Nat) : Nat := deferSlot h (slotsEnd h (n - 1))

/-- The spans of a frame that do not overlap (R187). -/
inductive Span where
  | beacon | command | idle | quiet | collection | spare
deriving DecidableEq, Repr

/-- The span at `t` from F, for T_LEAD `lead` and the close of the collection (R187). -/
def spanAt (h lead : Nat) (close : Option Nat) (t : Nat) : Span :=
  if t < slotsEnd h h then .beacon
  else if t < slotsEnd h (2 * h) then .command
  else if t + 20000 < lead then .idle
  else if t < lead + 200000 then .quiet
  else match close with
    | some z => if z ≤ t then .spare else .collection
    | none => .collection

/-- T_LEAD of a frame: as sampled, or as it is to be. -/
def leadOf (s : State) (r : Region) (f : Frame) : Nat := if f.sampled then f.sAt - f.origin else tLead s r

/-- The close of a frame's collection, from F. -/
def closeOf (f : Frame) : Option Nat := if f.closed then some (f.closeAt - f.origin) else none

/-- Now, from F. -/
def sinceF (s : State) (f : Frame) : Nat := nowNs s - f.origin

/-- The span in which the region's frame is. -/
def spanNow (s : State) (r : Region) (f : Frame) : Span := spanAt (mapHops (rgOf s r)) (leadOf s r f) (closeOf f) (sinceF s f)

/-- The hush window is open: from S − HUSH to S + 250 ns (R187, R230). -/
def hushNow (s : State) (r : Region) (f : Frame) : Bool :=
  decide (leadOf s r f ≤ sinceF s f + s.sweep.hush * 1000 ∧ sinceF s f < leadOf s r f + 250)

/-! ### Micro-slots (R188, R189) -/

/-- The first grid point at or after `t` from F. -/
def gridFrom (t : Nat) : Nat := if t ≤ 2500000 then 2500000 else 2500000 + (t - 2500000 + 4999999) / 5000000 * 5000000

/-- The micro-slot after the one that begins at `last`, or the first, from F (R189): `c` is the collection start, `z` the
close. One on the grid that would meet the quiet span begins at its end, `c` (log entry 26). -/
def nextMicro (h c : Nat) (z : Option Nat) (last : Option Nat) : Nat :=
  let len := microLen h
  let before (g : Nat) : Nat := if g + len + 220000 ≤ c then g else c
  let beyond (t : Nat) : Bool := match z with
    | some y => decide (y ≤ t)
    | none => false
  let after (from' : Nat) : Nat := match z with
    | some y => max (gridFrom y) from'
    | none => from'
  match last with
  | none => if 2500000 < c then before 2500000 else 2500000
  | some t =>
    let e := t + len
    if beyond t then gridFrom (t + 1)
    else if t < c ∧ gridFrom (t + 1) < c then before (gridFrom (t + 1))
    else if beyond (e + 7800000) then after e
    else e + 7800000

/-- The last micro-slot that has begun at `t` from F, with its index in the frame. The fuel bounds the slots of a frame. -/
def microRun (h c : Nat) (z : Option Nat) (t : Nat) : Nat → Option (Nat × Nat) → Option (Nat × Nat)
  | 0, l => l
  | n + 1, l =>
    let g := nextMicro h c z (l.map fun x => x.2)
    if g ≤ t then microRun h c z t n (some (match l with
      | some x => x.1 + 1
      | none => 0, g)) else l

def microAt (h c : Nat) (z : Option Nat) (t : Nat) : Option (Nat × Nat) := microRun h c z t (t / 2500000 + 4) none

/-- The last micro-slot begun in the region's frame. -/
def microNow (s : State) (r : Region) (f : Frame) : Option (Nat × Nat) :=
  microAt (mapHops (rgOf s r)) (leadOf s r f + 200000) (closeOf f) (sinceF s f)

/-- The index of the micro-slot in progress, its end included (R203, R207). -/
def alarmSlot (s : State) (r : Region) (f : Frame) : Option Nat :=
  match microNow s r f with
  | some (i, t) => if sinceF s f ≤ t + microLen (mapHops (rgOf s r)) then some i else none
  | none => none

/-- The first moment from `t` on, from F, at which a packet or a slot of `ns` runs clear of micro-slots: one that would not end
before the next begins after it (R188). -/
def clearFrom (h c : Nat) (z : Option Nat) (t ns : Nat) : Nat :=
  let m := microAt h c z t
  let t := match m with
    | some x => max t (x.2 + microLen h)
    | none => t
  let g := nextMicro h c z (m.map fun x => x.2)
  if t + ns ≤ g then t else g + microLen h

/-- The part of the span from `a` to `b` that lies in micro-slots after `last`. The fuel bounds the slots of a frame. -/
def microSum (h c : Nat) (z : Option Nat) (a b : Nat) : Nat → Option Nat → Nat
  | 0, _ => 0
  | n + 1, last =>
    let g := nextMicro h c z last
    if b ≤ g then 0 else (min b (g + microLen h) - max a g) + microSum h c z a b n (some g)

/-- Time in micro-slots between two moments of the region's frame (R206). -/
def microTime (s : State) (r : Region) (f : Frame) (a b : Nat) : Nat :=
  microSum (mapHops (rgOf s r)) (leadOf s r f + 200000) (closeOf f) (a - f.origin) (b - f.origin) ((b - f.origin) / 2500000 + 4) none

/-- How long a packet of `b` body bytes waits from now, at least `ns`, to run clear of micro-slots (R188). -/
def airWait (s : State) (r : Region) (f : Frame) (ns b : Nat) : Nat :=
  clearFrom (mapHops (rgOf s r)) (leadOf s r f + 200000) (closeOf f) (sinceF s f + ns) (packetAir b) - sinceF s f

/-- The next frame origin of the region. -/
def nextOrigin (s : State) (r : Region) : Nat := stampTime s (nextStamp s) - tLead s r

/-- A packet of `ns` air time may begin now: no micro-slot runs, it ends before the next one, and 200 µs before the next F
(R188, R206). -/
def airClear (s : State) (r : Region) (f : Frame) (ns : Nat) : Bool :=
  let h := mapHops (rgOf s r)
  let m := microNow s r f
  let t := sinceF s f
  let free := match m with
    | some x => decide (x.2 + microLen h ≤ t)
    | none => true
  free && decide (t + ns ≤ nextMicro h (leadOf s r f + 200000) (closeOf f) (m.map fun x => x.2))
    && decide (nowNs s + ns + 200000 ≤ nextOrigin s r)

/-- The collection limit, from F (R190). -/
def limitNs (s : State) : Nat := frameNs s * 95 / 100 - 2000000

/-! ## The air a region needs (R200, R224, R225) -/

/-- Bytes of a block node record. -/
def nodeBytesLen (c t : Nat) : Nat := 3 + 2 * c + (3 * c + 7) / 8 + 2 * t

/-- Packets of a transfer: whole records, bodies of at most 246 bytes, the first with the 2-byte transfer header. -/
def packPackets (body packets : Nat) : List Nat → Nat
  | [] => packets
  | n :: t => if body + n ≤ 246 then packPackets (body + n) packets t else packPackets n (packets + 1) t

/-- Air time of a transfer with its gaps and its turnaround, ns. -/
def transferAir (sizes : List Nat) : Nat :=
  let n := packPackets 2 1 sizes
  (18 * n + 2 + sizes.foldl (· + ·) 0) * 4000 + 10000 * (n - 1) + 20000

/-- Sizes of the records in descending hop order. -/
def recordSizes (m : RegionMap) : List Nat :=
  ((m.hops.drop 1).map fun h => nodeBytesLen h.cells h.sensors).reverse ++ [16]

/-- A of R224, ns. -/
def airTime (m : RegionMap) : Nat :=
  let l := recordSizes m
  (List.range l.length).foldl (fun a i => a + transferAir (l.take (i + 1))) 120000

/-- The first micro-slot of a collection that starts at `c` from F (R189): the last grid slot before `c` is deferred to
`c` when it would meet the quiet span (log entry 26). -/
def firstMicro (h c : Nat) : Nat :=
  if c ≤ 2500000 then 2500000
  else
    let g := 2500000 + (c - 1 - 2500000) / 5000000 * 5000000
    if g + microLen h ≤ c - 220000 then g + microLen h + 7800000
    else c

/-- Extend an end by each micro-slot that begins before it. -/
def addMicros (h next stop' : Nat) : Nat → Nat
  | 0 => stop'
  | n + 1 => if next < stop' then addMicros h (next + microLen h + 7800000) (stop' + microLen h) n else stop'

/-- E of R224, ns from F. -/
def fitEnd (s : State) (m : RegionMap) : Nat :=
  let h := m.hops.length
  let c := 528000 * h + 500000 + s.sweep.hush * 1000 + 200000
  addMicros h (firstMicro h c) (c + airTime m * 12 / 10) 400

/-- The latest start of hop k, from F (R202): 1.25 times the air of all deeper transfers after the collection start, and the
micro-slots in that span. -/
def latestStart (s : State) (m : RegionMap) (k : Nat) : Nat :=
  let h := m.hops.length
  let c := 528000 * h + 500000 + s.sweep.hush * 1000 + 200000
  let l := recordSizes m
  let air := (List.range (h - k)).foldl (fun a i => a + transferAir (l.take (i + 1))) 0
  addMicros h (firstMicro h c) (c + air * 5 / 4) 400

/-- The region fits a frame of n nominal cycles. -/
def fits (s : State) (m : RegionMap) (n : Nat) : Bool := decide (fitEnd s m + 2000000 ≤ n * nominalLen s * 95 / 100)

/-- The region fits the frame in force; a region without a map always does. -/
def regionFits (s : State) (r : Region) (n : Nat) : Bool :=
  match (rgOf s r).map with
  | some m => fits s m n
  | none => true

/-- MIN_N: the smallest number of cycles that fits every mapped region, at most 255 shown. -/
def minCycles (s : State) : Nat :=
  match (List.range 255).find? fun n => (List.finRange 16).all fun r => regionFits s r (n + 1) with
  | some n => n + 1
  | none => 255

/-- MIN_N, RS_FIT in µs to the nearest (log entry 26) and PERIOD_SHORT follow the maps and HUSH (R225). -/
def refit (s : State) : State :=
  let s := { s with sweep := { s.sweep with minN := minCycles s } }
  forRegions s fun r s => modRg s r fun x =>
    match x.map with
    | some m => { x with fitE := word ((fitEnd s m + 500) / 1000), fitA := word ((airTime m + 500) / 1000), periodShort := !(fits s m s.sweep.n) }
    | none => { x with fitE := 0, fitA := 0, periodShort := false }

end Sys2Proof.Machine
end

