-- ==== Sys2Proof/Machine/Transfer.lean ====
section
/-! DEFINITION. What a capping and a state transfer carry: the estimator sections, the live part and the recorder tail
(R312, R316, R379, R380). -/
namespace Sys2Proof.Machine

/-! ## Sections (R312) -/

/-- A section: its header and its data. -/
def sectionBytes (kind elem first count : Nat) (data : List Byte) : List Byte :=
  [BitVec.ofNat 8 kind, BitVec.ofNat 8 elem] ++ bytesLE 2 first ++ bytesLE 2 count ++ [0, 0] ++ bytesLE 4 data.length
    ++ bytesLE 4 (crc32c data).toNat ++ data

/-- The data of a directory entry's table. -/
def dirData (s : State) (e : DirEntry) : List Byte := readPlace s 0 (dirPlace e 0) (dirElem e * dirCount e)

/-- The section of a directory entry. -/
def entrySection (s : State) (e : DirEntry) : List Byte :=
  sectionBytes (dirKind e) (if dirKind e = 5 then dirElem e else 0) (dirFirst e) (dirCount e) (dirData s e)

/-- The entries that cappings take, in directory order. -/
def cappedEntries (s : State) : List DirEntry := s.est.dir.toList.filter dirCapped

/-- The estimator sections of a transfer. -/
def transferSections (s : State) : List Byte := ((cappedEntries s).map (entrySection s)).flatten

/-- A section as read back: KIND, ELEM, FIRST, COUNT, whether its CRC holds, and the data. -/
structure Section where
  kind : Nat
  elem : Nat
  first : Nat
  count : Nat
  good : Bool
  data : List Byte

/-- Sections one after another, `n` of them at most. -/
def sectionsOf (b : List Byte) : Nat → List Section
  | 0 => []
  | n + 1 =>
    if b.length < 16 then []
    else
      let len := natAt b 8 4
      let d := (b.drop 16).take len
      ⟨byteAt b 0, byteAt b 1, natAt b 2 2, natAt b 4 2, d.length == len && (crc32c d).toNat == natAt b 12 4, d⟩
        :: sectionsOf (b.drop (16 + len)) n

/-- The directory entry that takes a section: of its KIND, element and covering its range (R315). -/
def sectionEntry (s : State) (x : Section) : Option DirEntry :=
  (cappedEntries s).find? fun e => dirKind e == x.kind && decide (0 < x.count) && (x.kind != 5 || dirElem e == x.elem)
    && decide (dirFirst e ≤ x.first ∧ x.first + x.count ≤ dirFirst e + dirCount e)

/-- Write bytes of a directory table: whole lines of DRAM lose their poison (R460). -/
def dirWrite (s : State) (e : DirEntry) (x : Nat) (b : List Byte) : State :=
  match dirPlace e x with
  | .dram off => if off + b.length ≤ 0xE0000000 then
      (let whole (l : Nat) : Bool := decide (off ≤ 64 * l ∧ 64 * l + 64 ≤ off + b.length)
       modMem s fun m => { m with dram := memWrite m.dram off b, poison := m.poison.filter fun l => !(whole l) }) else s
  | .table off => if off + b.length ≤ 0x400000 then modMem s fun m => { m with tables := memWrite m.tables off b } else s
  | .scratch _ => s

/-- A section written as it stands, to the entry that takes it (R380). -/
def putSection (s : State) (x : Section) : State :=
  match sectionEntry s x with
  | some e => dirWrite s e (dirElem e * (x.first - dirFirst e)) (x.data.take (dirElem e * x.count))
  | none => s

/-! ## The live part (R379, R380) -/

/-- A stepless time as 2^62 ns and what remains of it, and back where `age` ns have passed since the copy (R380). -/
def sendAt (s : State) (t : Nat) : Nat := t + 2 ^ 62 - nowNs s
def takeAt (s : State) (age t : Nat) : Nat := t + nowNs s - age - 2 ^ 62

/-- Every time of a pre-charge, a weld check and a capture through a function. -/
def preTimes (f : Nat → Nat) (p : PreSt) : PreSt := { p with
  relayAt := p.relayAt.map f, limit := p.limit.map f
  t1 := p.t1.map fun x => (f x.1, x.2), t2 := p.t2.map fun x => (f x.1, x.2), early := p.early.map fun x => (f x.1, x.2) }

def weldTimes (f : Nat → Nat) (w : WeldSt) : WeldSt := { w with startAt := f w.startAt, endAt := f w.endAt }

def capTimes (f : Nat → Nat) (c : Capture) : Capture := { c with step := c.step.map fun x => (x.1, f x.2), startAt := f c.startAt }

/-- The live part of one region as it leaves. -/
def liveOf (s : State) (r : Region) : LiveRegion :=
  let x := rgOf s r
  let e := x.re
  let f := sendAt s
  ⟨r, BitVec.ofNat 4 (reNum e.state), BitVec.ofNat 8 (causeNum e.cause), e.welded, e.weldUnconf, e.live, e.persist, e.raised, e.e, x.incRun,
    e.nextTicket, e.step, e.confirm, e.dv0, e.tau, e.pre.map (preTimes f), e.weld.map (weldTimes f), f e.openLimit,
    e.negOffAt.map f, e.circEnd.map f, e.autoOffAt.map f, e.auxNegAt.map f, e.auxPosAt.map f, e.graceEnd.map f,
    x.streaming, f x.streamStart, f x.streamEnd, x.orders, x.captures.map (capTimes f)⟩

/-- The live part of a channel. -/
def liveChanOf (s : State) (c : Chan) : LiveChan := ⟨(chOf s c).cmd, (chOf s c).duty, (chOf s c).attempts, (chOf s c).latched⟩

/-- The state of a region engine that a number names (RE_STATE, R344). -/
def reStateOf (n : Nat) : ReState :=
  match [ReState.opened, .negClosed, .precharging, .precharged, .closedPre, .closed, .opening, .weldCheck, .isolated].find?
      fun x => reNum x == n with
  | some x => x
  | none => .opened

/-- The live part of one region, taken on arrival `age` ns after its copy. -/
def takeLive (s : State) (age : Nat) (v : LiveRegion) : State :=
  let f := takeAt s age
  modRg s v.region fun x => { x with
    incRun := v.incRun, streaming := v.streaming, streamStart := f v.streamStart, streamEnd := f v.streamEnd
    orders := v.orders, captures := v.captures.map (capTimes f)
    re := { x.re with
      state := reStateOf v.state.toNat, cause := causeHeld v.cause.toNat, welded := v.welded, weldUnconf := v.weldUnconf, live := v.live
      persist := v.persist, raised := v.raised, e := v.e, nextTicket := v.ticket, step := v.step, confirm := v.confirm, dv0 := v.dv0, tau := v.tau
      pre := v.pre.map (preTimes f), weld := v.weld.map (weldTimes f), openLimit := f v.openLimit
      negOffAt := v.negOffAt.map f, circEnd := v.circEnd.map f, autoOffAt := v.autoOffAt.map f
      auxNegAt := v.auxNegAt.map f, auxPosAt := v.auxPosAt.map f, graceEnd := v.graceEnd.map f
      coilN := [1, 2, 3, 4, 5, 6].contains v.state.toNat || v.negOffAt.isSome
      coilP := [3, 4].contains v.state.toNat || (v.state == 2 && v.pre.any PreSt.relayOn)
      coilS := [4, 5, 6].contains v.state.toNat } }

/-- The live part of a channel, taken on arrival; a latch that changes is an event (R362). -/
def takeLiveChan (s : State) (c : Chan) (v : LiveChan) : State :=
  setFlags s c fun x => { x with cmd := v.cmd, duty := v.duty, attempts := v.attempts, latched := v.latched }

/-! ## The tail (R379) -/

/-- The last 16,384 recorder records. -/
def tailRecs (s : State) : List FwdRecord :=
  let l := s.recd.ring ++ s.recd.queue
  (l.drop (l.length - 16384)).map fun r => ⟨r.code, r.scope, r.args, r.seq⟩

/-- The live part, copied at a close of every mapped region's sweep, and the tail copied at the request leave (R379). -/
def sendLive (s : State) : State :=
  if s.twin.xferStep = 2 then
    let s := twinSend s (.xfer (.live 0 ((List.finRange 16).filter (fun r => hasRegion s r) |>.map (liveOf s))
      ((List.finRange 64).map (liveChanOf s))))
    modTwin (twinSend s (.xfer (.tail s.twin.xferTail true))) fun t => { t with xferStep := 0, xferTail := [] }
  else s

/-- The length of a region map in bytes with its signature, of a settings field, of a recorder record (R171, R214, R435). -/
def mapLen (m : RegionMap) : Nat := 50 + m.sig.length + (m.hops.map fun h => 13 + h.pub.length).sum

/-- The bytes of a part: those of the live part are left open (log entry 33). -/
def partLen : Xfer → Nat
  | .header _ _ _ _ => 0
  | .maps l => (l.map fun x => mapLen x.2).sum
  | .settings l => 8 * l.length
  | .estimator b => b.length
  | .live _ l _ => Config.liveLen l.length
  | .tail l _ => 32 * l.length

end Sys2Proof.Machine
end

