-- ==== Sys2Proof/Machine/Sweep.lean ====
section
/-! DEFINITION. Sweeps: the frame, the sample instant, collection and its close, the region sweep record, the pack record
and the archive (R183-R202, R216, R220-R247), with the readings of log entry 26. -/
namespace Sys2Proof.Machine

/-! ## Records as bytes (R232-R235) -/

def blockBytes (b : Block) : List Byte :=
  bytesLE 2 b.status.toNat
    ++ [BitVec.ofNat 8 b.c, BitVec.ofNat 8 (bitMask [b.absent, b.identity, b.rejoined, b.untrusted])]
    ++ bytes2 b.volts ++ packCodes b.codes ++ [BitVec.ofNat 8 b.t, 0, 0] ++ bytes2 b.temps

/-- The 1,344 bytes of a region sweep record. -/
def sweepBytes (r : Region) (v : SweepRec) : List Byte :=
  withCrc (bytesLE 4 v.sweep.toNat
    ++ [BitVec.ofNat 8 r.val, BitVec.ofNat 8 (bitMask [v.complete, v.isolated, v.lateFill, v.bypass, v.periodShort]),
        BitVec.ofNat 8 (v.wheel.toNat + 4 * v.timeSt.toNat), BitVec.ofNat 8 v.absentCount]
    ++ bytesLE 8 v.phase.toNat ++ netBytes v.time ++ [BitVec.ofNat 8 (min 255 v.incRun), BitVec.ofNat 8 v.hushCount]
    ++ bytesLE 2 v.clkBad.toNat ++ bytes4 [v.cur, v.vStr, v.vBus] ++ bytesLE 2 v.headStatus.toNat
    ++ [BitVec.ofNat 8 (ofBool v.headAbsent), 0] ++ (v.blocks.map blockBytes).flatten ++ List.replicate 12 0)

/-- The 64 bytes of a pack record, with its archive entry number. -/
def packBytes (p : PackRec) (entry : Word) : List Byte :=
  withCrc (bytesLE 4 p.sweep.toNat ++ [BitVec.ofNat 8 p.valid.toNat, 0] ++ bytesLE 2 p.mask.toNat ++ bytesLE 8 p.phase.toNat
    ++ netBytes p.time ++ bytesLE 4 entry.toNat ++ bytes4 p.dsm.toList ++ List.replicate 12 0)

/-! ## The archive (R241-R243) -/

/-- Regions with a map, in ascending order. -/
def mappedRegions (s : State) : List Region := (List.finRange 16).filter fun r => hasMap s r

/-- The size of an entry: of the mapped regions, as the archive counts them (R241, R246). -/
def entrySize (s : State) : Nat := 64 + 1344 * ((List.range 16).filter fun r => s.sweep.archMap.getLsbD r).length
def archCap (s : State) : Nat := s.mem.archive * mib / entrySize s
def entryAt (s : State) (e : Nat) : Nat := archBase s + e % archCap s * entrySize s
def archDecim (s : State) : Nat := cfgNat s 0x6003

/-- Entries held that are not acknowledged. -/
def archUnacked (s : State) : Nat := min (archCap s) (s.sweep.newest - s.sweep.ack.toNat)

/-- FILL: unacknowledged entries in percent of the capacity. -/
def archFill (s : State) : Nat := archUnacked s * 100 / archCap s

/-- ADAPT (R243): the decimation doubles when the unacknowledged entries, `before` until now, pass 75 % of the capacity, and
returns below 25 %. -/
def adapt (s : State) (before : Nat) : State :=
  let w := s.sweep
  let n := archUnacked s
  let cap := archCap s
  if !w.adapt then s
  else if 100 * before ≤ 75 * cap ∧ 75 * cap < 100 * n then { s with sweep := { w with effDecim := min 100 (2 * w.effDecim) } }
  else if 100 * n < 25 * cap then { s with sweep := { w with effDecim := archDecim s } }
  else s

/-- The record that a region closed for a sweep, while it is held. -/
def heldOf (x : RegionSt) (n : Word) : Option SweepRec := x.held.find? fun v => v.sweep == n

/-- The regions that have closed sweep n, of those whose map its pack record names: the entry's regions (R241, R246; log entry
26). -/
def archRegions (s : State) (p : PackRec) : List Region :=
  (List.finRange 16).filter fun r => p.mask.getLsbD r.val && (heldOf (rgOf s r) p.sweep).isSome

/-- A start: the archive counts every mapped region (R241). -/
def archStart (s : State) : State := { s with sweep := { s.sweep with archMap := BitVec.ofNat 16 (regionMask (mappedRegions s)) } }

/-- The regions that the archive counts from the entry of a pack record on: those it counted before that still have a map, and
those that have closed the sweep (R241, R246). -/
def archCounts (s : State) (p : PackRec) : State :=
  let rs := (mappedRegions s).filter fun r => s.sweep.archMap.getLsbD r.val || (archRegions s p).contains r
  { s with sweep := { s.sweep with archMap := BitVec.ofNat 16 (regionMask rs) } }

/-- Write the entry of a sweep closed in every region that had a frame of it. -/
def archiveWrite (s : State) (n : Word) : State :=
  match s.sweep.packs.find? fun p => p.sweep == n with
  | none => s
  | some p =>
    let s := archCounts s p
    if archCap s = 0 ∨ s.sweep.effDecim = 0 ∨ n.toNat % s.sweep.effDecim ≠ 0 then s
    else
      let e := s.sweep.newest + 1
      let before := archUnacked s
      let rs := archRegions s p
      let recs := rs.map fun r => match heldOf (rgOf s r) n with
        | some v => sweepBytes r v
        | none => []
      let p := { p with mask := BitVec.ofNat 16 (regionMask rs) }
      let s' := dramWhole s (entryAt s e) (packBytes p (word e) ++ recs.flatten)
      let w := s'.sweep
      let s' := { s' with sweep := { w with
        newest := e, oldest := if w.oldest = 0 then 1 else if archCap s < e then max w.oldest (e - archCap s + 1) else w.oldest } }
      let s' := if archCap s < e ∧ w.ack.toNat < e - archCap s then
          (let now := nowNs s
           let rec' := decide (w.lost = 0 ∨ w.lostAt + 1000000000 ≤ now)
           let lost := satInc 0xFFFFFFFF w.lost
           let s' := { s' with sweep := { s'.sweep with lost := lost, lostAt := if rec' then now else w.lostAt } }
           emit s' 27 1 0x0D false rec' chipScope (word lost))
        else s'
      adapt s' before

/-- A write of ARCH_ACK (R242): clamped to ARCH_NEWEST, and reported in the twin that was written to. -/
def archAck (s : State) (who : Option Writer) (v : Word) : State :=
  let before := archUnacked s
  let x := word (min v.toNat s.sweep.newest)
  let s := { s with sweep := { s.sweep with ack := x } }
  let s := match who with
    | some k => if x = v then s else clampReg s k 0x1051C v x 0x03
    | none => s
  adapt s before

/-- A write of ARCH_CTRL or ARCH_ACK as this twin applies it. -/
def archPut (s : State) (who : Option Writer) (a : Nat) (v : Word) : State :=
  if a = 0x10500 then { s with sweep := { s.sweep with adapt := v.getLsbD 0 } }
  else if a = 0x1051C then archAck s who v else s

/-- A register write that waited for its sweep takes effect: of the archive, or of a CAN controller (R373, R411). -/
def regPut (s : State) (who : Option Writer) (a : Nat) (v : Word) : State :=
  if 0x50000 ≤ a ∧ a < 0x58000 then canPut s (who.getD (.host 0)) (canPort a) (canOff a) v else archPut s who a v

/-! ## The frame origin (R183, R186, R191, R208-R211) -/

/-- Frames run in the role (R365, R369). -/
def framesRun (s : State) : Bool := s.twin.role != .undecided && s.twin.role != .standby

/-- The next channel in the order primary, alternate 1, alternate 2. -/
def nextChan (c : Fin 3) : Fin 3 := if c = 2 then 0 else if c = 1 then 2 else 1

/-- A re-key is under way with a key that this twin drew or received: each node has still to confirm it (R210). -/
def rekeyWith (key : List Byte) (x : RegionSt) : RegionSt :=
  { x with rekeyDue := false, rekeying := true, newKey := some key, hops := x.hops.map fun h => { h with rekeyDone := false } }

/-- A re-key begins: the new key is drawn, and both twins hold it (R207, R210). -/
def rekeyStart (s : State) (r : Region) : State :=
  let (key, s) := drawBytes s 16
  pairSend (modRg s r (rekeyWith key)) (.forward (.rekey r key))

/-- The copy of the map that the selector names (R452). -/
def mapKept (x : RegionSt) : Option RegionMap := if x.selB then x.copyB else x.copyA

/-- The region is being sewn: its map in MRAM is not in force (R212). -/
def beingSewn (s : State) (r : Region) : Bool := hasRegion s r && (rgOf s r).sew.step != .idle

/-- A new map goes to the other MRAM copy, and the selector flips (R452). -/
def mapStore (x : RegionSt) (m : RegionMap) : RegionSt :=
  if x.selB then { x with copyA := some m, selB := false } else { x with copyB := some m, selB := true }

/-- The bytes of a map that its signature covers (R214; log entry 30). -/
def mapBytes (m : RegionMap) : List Byte :=
  bytesLE 4 m.mapId.toNat ++ [m.primary.setWidth 8, m.alt1.setWidth 8, m.alt2.setWidth 8] ++ bytesLE 4 m.aa.toNat ++ bytesLE 3 m.crcInit.toNat
    ++ m.key ++ (m.hops.map fun h => BitVec.ofNat 8 (ofBool h.head) :: bytesLE 8 h.idHash.toNat ++ h.pub
      ++ [BitVec.ofNat 8 h.cells, BitVec.ofNat 8 h.sensors] ++ bytesLE 2 h.delay.toNat).flatten
    ++ bytesLE 8 m.twinA.toNat ++ bytesLE 8 m.twinB.toNat

/-- The map in force is signed and stored in MRAM (R33, R212, R214). -/
def mapSign (s : State) (r : Region) : State :=
  match (rgOf s r).map with
  | some m =>
    let g := signMsg s identityKey (mapBytes m)
    let m := { m with sig := g.1 }
    modRg g.2 r fun x => { mapStore x m with map := some m }
  | none => s

/-- KEY_SEL flips to the new key: the map carries it from now on, signed again and stored in MRAM (R210, R212, R214). -/
def keyFlip (s : State) (r : Region) : State :=
  match (rgOf s r).newKey, (rgOf s r).map with
  | some key, some m =>
    let s := modRg s r fun x => { x with
      keySel := !x.keySel, newKey := none, rekeying := false, flipDue := false, map := some { m with key := key } }
    rsaDo s (.flipMap r) fun s => mapSign s r
  | _, _ => s

/-- Hops that have not confirmed the new key. -/
def unconfirmed (x : RegionSt) : List Nat := (hopList x).filter fun h => !(hopAt x h).rekeyDone

/-- FE wraps while a re-key has not reached every node of a region: the key flips at the next frame, and the hops left behind
are recorded (R211). A key not drawn yet is drawn now. -/
def feWraps (s : State) (r : Region) : State :=
  let x := rgOf s r
  if (hasMap s r || beingSewn s r) && (x.rekeying || x.rekeyDue) then
    let left := if x.rekeying then unconfirmed x else hopList x
    let s := if x.rekeying then s else rekeyStart s r
    let s := modRg s r fun x => { x with flipDue := true }
    let s := if isLead s then s else pairSend s (.forward (.keyFlip r))
    if left.isEmpty then s else emitRe s r 2 0x0E true true (left.foldl (fun m h => m + 2 ^ (h - 1)) 0)
  else s

/-- A re-key becomes due in a region, one that is being sewn included; only the lead carries it out (R210, R211). -/
def rekeyWanted (s : State) (r : Region) : State :=
  if hasMap s r || beingSewn s r then
    let s := modRg s r fun x => { x with rekeyDue := true }
    if isLead s then s else pairSend s (.forward (.rekeyDue r))
  else s

/-- FE rises (R208, R211): at 0xFF00 every region is to be re-keyed; at the wrap the keys still to flip do so. -/
def raiseFe (s : State) : State :=
  let fe := s.sweep.fe
  let s := if fe = 0xFFFF then forRegions s fun r s => feWraps s r else s
  let s := { s with sweep := { s.sweep with fe := fe + 1 } }
  if fe + 1 = 0xFF00 then forRegions s fun r s => rekeyWanted s r else s

/-- The sweep number in progress, and its mark when the low 16 bits pass through zero, from 0xFFFF_FFFF to 1 too (R135, R223). -/
def setCur (s : State) (n : Word) : State :=
  if s.sweep.cur = n then s
  else
    let w := s.sweep
    let m := if n.toNat % 65536 = 0 ∨ (n = 1 ∧ w.cur = 0xFFFFFFFF) then w.marks.put (n.setWidth 64) else w.marks
    { s with sweep := { w with cur := n, marks := m } }

/-- What an announced channel change does at a frame origin (R183). -/
def originChange (x : RegionSt) : RegionSt :=
  match x.announce with
  | some (c, 0) => { x with chan := c, announce := none, chanSwitches := inc16 x.chanSwitches }
  | some (c, k + 1) => { x with announce := some (c, k) }
  | none => x

/-- The key flips at a frame origin of the lead: every node has confirmed, or FE has wrapped (R210, R211). -/
def originFlip (s : State) (r : Region) : State :=
  let x := rgOf s r
  if isLead s && (x.flipDue || (x.rekeying && (unconfirmed x).isEmpty)) then keyFlip s r else s

/-- The frame origin of region r for the next sweep is due. -/
def originDue (s : State) (r : Region) : Bool :=
  hasMap s r && framesRun s && decide (stampTime s (nextStamp s) ≤ nowNs s + tLead s r)
    && (match (rgOf s r).frame with
        | some f => f.closed && f.sweep != s.sweep.nextNum
        | none => true)

/-- A frame that begins at `origin`, for sweep n, network time `t`, under frame epoch `fe`. -/
def Frame.fresh (n : Word) (origin : Nat) (t : NetTime) (fe : Half) : Frame where
  sweep := n
  origin := origin
  originTime := t
  sAt := 0
  stamp := 0
  wheel := 0
  timeSt := 0
  sTime := t
  sampled := false
  fe := fe
  echo := false
  heard := false
  closed := false
  total := none
  got := 0
  head := none
  nodes := []
  stream := []
  fcs := []
  sent := []
  commanded := false
  otherSide := false
  mute := false
  closeAt := 0
  byTotal := none
  byGot := 0
  neighbour := false
  byAcked := false
  onBus := false

/-- The beacon of the frame in progress (R191, R192): HOP 0, with CORR as the delay from F, 0 in slot 1. -/
def beaconOf (s : State) (r : Region) (f : Frame) (corr : Nat) (bypass : Bool) : Beacon :=
  let x := rgOf s r
  let next := match x.announce with
    | some (c, _) => c.val + 1
    | none => 0
  { sweep := f.sweep, originS := f.originTime.sec.setWidth 32, originNs := f.originTime.ns, corr := word corr
    toS := BitVec.ofNat 24 (tLead s r), flags := BitVec.ofNat 8 (fld (ofBool bypass) 4 + fld next 2 + fld (ofBool x.keySel) 1)
    hopHush := BitVec.ofNat 16 s.sweep.hush, fe := f.fe }

/-- The lead's beacons: slot 1, and over a bypass one directly to hop k, which leaves in the slot after hop m - 1's relay
(R192, R215). -/
def beaconSend (s : State) (r : Region) : State :=
  match (rgOf s r).frame with
  | none => s
  | some f =>
    let s := airSend s r 1 (beaconBytes (beaconOf s r f 0 false))
    if (rgOf s r).bypass.isSome then
      let at' := slotAt (mapHops (rgOf s r)) ((rgOf s r).bypassFrom + 1)
      airSendIn s r 1 at' (reachDbm (rgOf s r)) (beaconBytes (beaconOf s r f (16 * at') true))
    else s

/-! ### Segment slots (R258) -/

/-- The n-th segment slot of 1.1 ms after one that begins at `t` from F, each clear of micro-slots (R188). -/
def segSlot (h c : Nat) (z : Option Nat) (t : Nat) : Nat → Nat
  | 0 => t
  | n + 1 => clearFrom h c z (segSlot h c z t n + 1100000) 1100000

/-- The slot from which segment slots are counted in a frame, from F: that of the segment sent in it, or the first of its spare
airtime; and the n-th after it. -/
def segFrom (s : State) (r : Region) (f : Frame) (n : Nat) : Nat :=
  let h := mapHops (rgOf s r)
  let c := leadOf s r f + 200000
  let at' := (rgOf s r).segAt
  let base := if f.closeAt ≤ at' then at' - f.origin else clearFrom h c (closeOf f) (f.closeAt - f.origin) 1100000
  segSlot h c (closeOf f) base n

/-- The segment slots that still have to pass when a frame that ended at `t` is over. -/
def segRest (s : State) (r : Region) (f : Frame) (t : Nat) : Nat :=
  let k := (rgOf s r).segLeft
  if f.closed then k - ((List.range k).filter fun j => decide (f.origin + segFrom s r f j + 1300000 ≤ t)).length else k

/-- The frame begins (R186); in the lead the beacon leaves (R192). The first after a start or under a new map begins
START_GRACE (R494). -/
def frameBegin (s : State) (r : Region) : State :=
  let n := s.sweep.nextNum
  let origin := stampTime s (nextStamp s) - tLead s r
  let own := isLead s
  let s := setCur s n
  let s := if own then { s with twin := { s.twin with inService := true } } else s
  let s := originFlip s r
  let t := toNet s ((origin : Int) + s.time.off).toNat
  let grace := some (origin + s.power.grace.toNat * 1000000)
  let rest := match (rgOf s r).frame with
    | some f => segRest s r f origin
    | none => 0
  let s := modRg s r fun x =>
    let x := originChange x
    let x := if x.frame.isNone then { x with re := { x.re with graceEnd := grace } } else x
    let fe := match x.frame with
      | some f => if own then s.sweep.fe else f.fe
      | none => s.sweep.fe
    { x with fc := 0, segAt := 0, segLeft := rest, spare := none, spareTried := [], reachDue := none, ranged := false, frame := some (Frame.fresh n origin t fe) }
  if own then beaconSend s r else s

/-! ## The sample instant (R220, R221, R229, R234) -/

/-- The DSM values of the pack record; a channel that is off reads absent (R229). -/
def dsmValues (s : State) (d : Dsm4) : Vector Word 4 :=
  Vector.ofFn fun n : Fin 4 =>
    if cfgNat s (0x4001 + 256 * n.val) = 0 then 0x80000000
    else BitVec.ofInt 32 (dsmScale s n.val (if n = 0 then d.raw0 else if n = 1 then d.raw1 else if n = 2 then d.raw2 else d.raw3))

/-- Fraction changes by two events (R221, R530). -/
def fracEvents (s : State) (a b : BitVec 24) : State := emitTime (emitTime s 1 0x09 false true a.toNat) 1 0x0A false true b.toNat

/-- HUSH takes another value: the fits follow it (R225, R230). -/
def hushTake (s : State) (h : Nat) : State := refit { s with sweep := { s.sweep with hush := h } }

/-- The fraction takes another value: moved earlier, it takes effect at the following sample cycle (R221). -/
def fracTake (s : State) (f : BitVec 24) : State :=
  let w := s.sweep
  if f = w.frac then s
  else
    let q := if f.toNat < w.frac.toNat then w.nextCycle + w.n else w.nextCycle
    fracEvents { s with sweep := { w with frac := f, nextCycle := q } } w.frac f

/-- A frame of the next sweep has begun in some region. -/
def nextBegun (s : State) : Bool :=
  (List.finRange 16).any fun r => match (rgOf s r).frame with
    | some f => f.sweep == s.sweep.nextNum
    | none => false

/-- What waits for a sweep that the next one has reached takes effect, once no frame of that sweep has begun: the last fraction
and the last HUSH, and each register write in turn (R176, R221, R230, R247). -/
def sweepChanges (s : State) : State :=
  if nextBegun s then s
  else
    let w := s.sweep
    let n := w.nextNum
    let s := { s with sweep := { w with
      fracNext := w.fracNext.filter fun x => !(sweepReached n x.1)
      hushNext := w.hushNext.filter fun x => !(sweepReached n x.1)
      regNext := w.regNext.filter fun x => !(sweepReached n x.1) } }
    let s := match (w.hushNext.filter fun x => sweepReached n x.1).getLast? with
      | some x => hushTake s x.2
      | none => s
    let s := match (w.fracNext.filter fun x => sweepReached n x.1).getLast? with
      | some x => fracTake s x.2
      | none => s
    (w.regNext.filter fun x => sweepReached n x.1).foldl (fun s x => regPut s x.2.1 x.2.2.1 x.2.2.2) s

/-- Place the next sample instant: N cycles on, a cycle count that is a multiple of N, with the changes that fall due (R220,
R221, R230). -/
def placeNext (s : State) : State :=
  let n := succSweep s.sweep.nextNum
  let s := if n = 1 then raiseFe s else s
  let w := s.sweep
  sweepChanges { s with sweep := { w with nextNum := n, nextCycle := (w.nextCycle / w.n + 1) * w.n } }

/-- Sample instant S of the next sweep. -/
def sample (s : State) (d : Dsm4) : State :=
  let at' := stampTime s (nextStamp s)
  let stamp := BitVec.ofNat 64 (nextStamp s)
  let t := toNet s ((at' : Int) + s.time.off).toNat
  let n := s.sweep.nextNum
  let wl := BitVec.ofNat 2 (wheelNum s.wheel.state)
  let ts := BitVec.ofNat 2 (timeNum s.time.state)
  let vals := dsmValues s d
  let valid := bitMask ((List.range 4).map fun n => decide (cfgNat s (0x4001 + 256 * n) ≠ 0))
  let p : PackRec := ⟨n, BitVec.ofNat 4 valid, BitVec.ofNat 16 (regionMask (mappedRegions s)), stamp, t, 0, vals⟩
  let now := nowNs s
  let s := setCur s n
  let s := { s with sweep := { s.sweep with pack := some p, packs := (p :: s.sweep.packs).take 9, packAt := now } }
  let s := forRegions s fun r s => modRg s r fun x => { x with frame := x.frame.map fun f =>
    if f.sweep = n then
      { f with sAt := at', stamp := stamp, wheel := wl, timeSt := ts, sTime := t, sampled := true, onBus := fullClosed x.re.state }
    else f }
  placeNext s

/-- The first multiple of N from `q` whose sample instant is not before `t`. -/
def firstFrom (s : State) (t q : Nat) : Nat → Nat
  | 0 => q
  | n + 1 => if stampTime s (q * 16777216 + s.sweep.frac.toNat) < t then firstFrom s t (q + s.sweep.n) n else q

/-- Place the first sample instant when frames start: the first whose earliest origin is still to come and lies at or
after 200 ms from the start's origin (R493). -/
def placeFirst (s : State) : State :=
  let q := (s.wheel.count.toNat + s.sweep.n) / s.sweep.n * s.sweep.n
  let t := max (nowNs s) (s.power.origin + 200000000) + longestLead s
  { s with sweep := { s.sweep with nextCycle := firstFrom s t q 16 } }

/-! ## The command window (R197-R199, R248-R250) -/

/-- Orders that travel in the command window. -/
def isEntry (code : Byte) : Bool := decide (1 ≤ code.toNat ∧ code.toNat ≤ 7)

/-- Two orders have a node in common. -/
def sameNode (a b : Order) : Bool := a.hops == 0x1F || b.hops == 0x1F || a.hops == b.hops

/-- The entries of the next window: first those to be sent once more, then captures, then the others in order. -/
def windowOrders (x : RegionSt) : List Order :=
  let again := x.outstanding
  let fresh := (x.orders.filter fun o => o.code == 3) ++ x.orders.filter fun o => isEntry o.code && o.code != 3
  (again ++ fresh).foldl (fun l o => if l.length < 2 && !(l.any fun y => sameNode y o) then l ++ [o] else l) []

/-- The TAG after another: 1 to 7 in turn. -/
def nextTagOf (t : BitVec 3) : BitVec 3 := if t = 7 then 1 else t + 1

/-- An order gets its TAG when it is first sent. -/
def giveTag (x : RegionSt) (o : Order) : RegionSt × Order :=
  if o.tries ≠ 0 then (x, { o with tries := o.tries + 1 })
  else if o.hops = 0x1F then ({ x with broadcastTag := nextTagOf x.broadcastTag }, { o with tries := 1, tag := x.broadcastTag })
  else
    let h := o.hops.toNat
    (setHop x h fun y => { y with nextTag := nextTagOf y.nextTag }, { o with tries := 1, tag := (hopAt x h).nextTag })

def entryOf (o : Order) : CmdEntry := ⟨o.tag, o.hops, o.code, o.arg0, o.arg1⟩

/-- The sweep in progress at a stepless time (R260): that of the frame, or of a record held, and before those by the nominal
length. -/
def sweepAt (s : State) (r : Region) (f : Frame) (t : Nat) : Word :=
  if f.origin ≤ t then f.sweep
  else match (rgOf s r).held.find? fun v => decide (v.sAt ≤ t + tLead s r) with
    | some v => v.sweep
    | none => f.sweep - word ((f.origin - t + frameNs s - 1) / frameNs s)

/-- A CAPTURE has left: what the head wrote as STEP_OFS, or that it holds no step (R256, R260). -/
def captureSent (s : State) (r : Region) (f : Frame) (ref : Nat) (stepOfs : Word) : State :=
  if stepOfs = 0x80000000 then
    let s := modRg s r fun x => { x with captures := x.captures.filter fun c => c.num.toNat ≠ ref }
    if ref = 0 then s else emitRe s r 1 0x0A false true ref
  else
    let t := toNet s (netToNs f.originTime + stepOfs.toInt).toNat
    let at' := (f.origin + stepOfs.toInt).toNat
    let n := sweepAt s r f at'
    modRg s r fun x => { x with captures := x.captures.map fun c =>
      if c.num.toNat = ref then { c with step := some (t, at'), sweep := n } else c }

/-- One order leaves in the window: a PRE_STREAM begins the stream, a CAPTURE brings the head's STEP_OFS unless the head has
acted on it before, a FW_ACTIVATE begins its 5 s (R249, R256, R329). -/
def orderSent (s : State) (r : Region) (f : Frame) (count : Nat) (stepOfs : Word) (o : Order) : State :=
  let g := giveTag (rgOf s r) o
  let o' := g.2
  let s := setRg s r { g.1 with
    orders := g.1.orders.erase o, outstanding := g.1.outstanding.erase o ++ [o']
    frame := some { f with sent := f.sent ++ [entryOf o'] } }
  let s := pairSend s (.retire (.order r o.code o.hops))
  let h := mapHops (rgOf s r)
  let slot := f.origin + slotAt h (h + 1)
  let actAt := slot + (20 + 10 * count) * 4000
  let now := nowNs s
  let s := if o'.code = 4 then preCarried s r f.sweep o' actAt (slot + 200000) else s
  let s := if o'.code = 6 then modRg s r fun x => { x with hops := x.hops.map fun y => { y with
      slept := f.sweep :: (if o'.tries = 1 then [] else y.slept) } } else s
  let s := if o'.code = 7 then modRg s r fun x => { x with
      nfw := if 3 ≤ x.nfw.step then { x.nfw with step := 4, deadline := now + 5000000000 } else x.nfw } else s
  if o'.code = 3 ∧ (o'.tries = 1 ∨ o'.lack.contains 1 = true) then captureSent s r f o'.ref stepOfs else s

/-- The packet of the window leaves: each order in turn (R197). -/
def ordersSent (s : State) (r : Region) (l : List Order) (stepOfs : Word) : State :=
  let s := l.foldl (fun s o => match (rgOf s r).frame with
    | some f => orderSent s r f l.length stepOfs o
    | none => s) s
  match (rgOf s r).frame with
  | some f =>
    let s := modRg s r fun x => { x with frame := some { f with commanded := true } }
    if f.sent.isEmpty then s else airSend s r 2 (commandBody f.sent)
  | none => s

/-- Slot 1 of the frame's command window runs, and no packet has left in it; a module that has just taken the lead sends
nothing before the next F (R185, R187, R197). -/
def windowOpen (s : State) (r : Region) : Bool :=
  match (rgOf s r).frame with
  | some f =>
    let h := mapHops (rgOf s r)
    let w := slotAt h (h + 1)
    !f.commanded && !f.mute && decide (w ≤ sinceF s f ∧ sinceF s f < w + 200000)
  | none => false

/-! ## Collection (R190, R200-R202, R323) -/

/-- The sender whose transfers reach the module: the head, and the bypass hop. -/
def heardSender (x : RegionSt) (n : Nat) : Bool := n == 1 || x.bypass == some n

/-- A node record belongs to a block hop of the map and has its configured lengths. -/
def recFits (x : RegionSt) (n : NodeRec) : Bool :=
  let z := hopSize x n.hop
  decide (2 ≤ n.hop ∧ n.hop ≤ mapHops x) && n.volts.length == z.1 && n.codes.length == z.1 && n.temps.length == z.2

/-- The records of a packet enter the frame: the first record of a hop stands, and a stream sample that the head sends again
(R202) counts once. -/
def takeRecords (x : RegionSt) (f : Frame) : List UpRec → Frame
  | [] => f
  | .node n :: t =>
    takeRecords x (if recFits x n && !(f.nodes.any fun y => y.hop == n.hop) then { f with nodes := f.nodes ++ [n] } else f) t
  | .head h :: t => takeRecords x (if f.head.isNone then { f with head := some h } else f) t
  | .stream q :: t =>
    let row (i : Nat) (v : Word × Word × Word) : Nat × Word × Word × Word := (x.streamStart + (q.first.toNat + i) * 1000000, v)
    let new := ((indexed q.samples).map fun v => row v.1 v.2).filter fun y => !(f.stream.any fun z => z.1 == y.1)
    takeRecords x { f with stream := f.stream ++ new } t

/-- The kinds that packets judge at once, from the records held: all but I2T (R322, R323). -/
def packetKinds (s : State) (r : Region) (f : Frame) : Nat :=
  (nodeKinds s r f.nodes).1 + (headKinds s r f.head).1 % 32

/-- A complete transfer of the head is held. -/
def transferWhole (f : Frame) : Bool :=
  match f.total with
  | some n => decide (n ≤ f.got)
  | none => false

/-! ## The close (R17, R20, R23, R24, R135, R190, R216, R236, R237) -/

/-- Codes that make a sweep incomplete (R18, R20, R236). -/
def seenCode (c : BitVec 3) : Bool := decide (c.toNat ≤ 3)

/-- A populated block is seen in a frame (R236). -/
def blockSeen (f : Frame) (hop : Nat) (m : MapHop) : Bool :=
  match f.nodes.find? fun n => n.hop == hop with
  | none => false
  | some n => (n.codes.take m.cells).all seenCode
      && (m.sensors == 0 || (List.range m.sensors).any fun i => !(n.status.getLsbD i))

def sweepComplete (s : State) (r : Region) (f : Frame) : Bool :=
  f.head.isSome && (List.range 16).all fun j => match blockHop s r j with
    | some m => blockSeen f (j + 2) m
    | none => true

/-- Pad a list to n elements (R7, R200). -/
def fillTo {α : Type} (n : Nat) (d : α) (l : List α) : List α := (l ++ List.replicate n d).take n

/-- The entry of the block at hop j + 2; the status of a block without a record is left open (log entry 21). -/
def blockEntry (s : State) (r : Region) (f : Frame) (free j : Nat) : Block :=
  let open' := (Config.freeWord (free + j)).setWidth 16
  match blockHop s r j with
  | none => absentBlock open'
  | some m =>
    let h := hopAt (rgOf s r) (j + 2)
    let ident := h.newIdent || h.chalIdent
    let again := ident && !h.identLast && h.identSeen
    match f.nodes.find? fun n => n.hop == j + 2 with
    | none => { absentBlock open' with c := m.cells, t := m.sensors, absent := true, identity := ident, again := again, untrusted := h.untrusted }
    | some n =>
      ⟨n.status, m.cells, false, ident, again, false, h.untrusted || n.status.getLsbD 9, fillTo 24 0xFFFF n.volts,
        fillTo 24 7 n.codes, m.sensors, fillTo 8 0x8000 n.temps⟩

/-- CLK of a status word is not 0b00. -/
def clkBad (st : Half) : Bool := st.getLsbD 15 || st.getLsbD 14

/-- The region sweep record of a closing frame. -/
def closeRecord (s : State) (r : Region) (f : Frame) (complete : Bool) (incRun : Nat) : SweepRec :=
  let x := rgOf s r
  let blocks := (List.range 16).map (blockEntry s r f s.free)
  let nodes := f.nodes
  let bad := (List.range 16).foldl (fun m j => if (nodes.any fun n => n.hop == j + 2 && clkBad n.status) then m + 2 ^ j else m) 0
  let dt := match x.held.head? with
    | some v => f.sAt - v.sAt
    | none => 0
  let h := f.head
  ⟨f.sweep, f.sAt, dt, complete, x.re.state == .isolated, false, x.bypass.isSome, x.periodShort, f.wheel, f.timeSt,
    (blocks.filter Block.absent).length, f.stamp, f.sTime, incRun, (nodes.filter fun n => n.status.getLsbD 11).length,
    BitVec.ofNat 16 bad, (match h with | some h => h.cur | none => 0x80000000), (match h with | some h => h.vStr | none => 0x80000000),
    (match h with | some h => h.vBus | none => 0x80000000),
    (match h with | some h => h.status | none => (Config.freeWord (s.free + 16)).setWidth 16) &&& 0xF300, h.isNone, blocks, blocks, f.onBus⟩

/-- The floor checks at the close: I2T and the counts, then INCOMPLETE (R322, R323, R237), with the verdicts raised. -/
def closeFloor (s : State) (r : Region) (f : Frame) (incRun : Nat) : State × List Cause :=
  let n := f.sweep.toNat
  let s := match f.head with
    | some h => i2tStep s r f.sAt h
    | none => s
  let nk := nodeKinds s r f.nodes
  let hk := headKinds s r f.head
  let x := floorCounts s r n 0 (hk.1 / 32 * 32)
  let limit := reSet x.1 r 0x09
  let s := floorClose x.1 r (nk.1 + hk.1) (nk.2 + hk.2) (decide (limit ≤ incRun))
  let s := if incRun = 0 then modRe s r fun e => { e with raised := e.raised % 64 } else s
  if limit ≤ incRun ∧ incRun ≠ 0 ∧ (reOf s r).raised.testBit 6 = false then
    (verdictNote (raise s r 6) r .incomplete n, x.2 ++ [.incomplete])
  else (s, x.2)

/-- The head samples of a frame, in time order: the record's at S, and the stream's. -/
def headSamples (f : Frame) : List HeadSample :=
  let st := f.stream.map fun x => (x.1, x.2.1.toInt, x.2.2.1.toInt, x.2.2.2.toInt)
  match f.head with
  | some h =>
    let one : HeadSample := (f.sAt, h.cur.toInt, h.vStr.toInt, h.vBus.toInt)
    (st.filter fun x => decide (x.1 ≤ f.sAt)) ++ [one] ++ st.filter fun x => decide (f.sAt < x.1)
  | none => st

/-- A current or voltage is present (R10). -/
def given (v : Int) : Bool := v != missingWord.toInt

/-- The engine's judgements at the close (R329-R334, R337), each on the samples that carry what it reads (R10). -/
def closeEngine (s : State) (r : Region) (f : Frame) : State :=
  let xs := (headSamples f).filter fun x => given x.2.1
  let st : List StreamSample := (f.stream.map fun x => (x.1, x.2.1.toInt, x.2.2.1.toInt, x.2.2.2.toInt)).filter fun x =>
    given x.2.2.1 && given x.2.2.2
  let s := match st.getLast? with
    | some x => modRe s r fun e => { e with dv := BitVec.ofInt 32 (sampleDv x) }
    | none => s
  let first := match (reOf s r).pre with
    | some p => p.frame == some f.sweep
    | none => false
  let tagged := match f.head with
    | some h => f.sent.any fun e => e.order == 4 && e.tag == h.tag
    | none => false
  let waits := match (reOf s r).pre with
    | some p => p.closeTicket.isSome
    | none => false
  let s := preClose s r first tagged st
  let s := if waits then posClose s r st else s
  weldFeed (currentClose s r xs) r f.origin (xs.filter fun x => given x.2.2.1 && given x.2.2.2)

/-! ### Orders at the close (R199, R249) -/

/-- The hops whose record must carry the TAG of an order. -/
def tagHops (x : RegionSt) (o : Order) : List Nat :=
  let blocks := (List.range (mapHops x - 1)).map fun i => i + 2
  let all := (List.range (mapHops x)).map fun i => i + 1
  if o.code = 7 then []
  else if o.hops ≠ 0x1F then [o.hops.toNat]
  else if o.code = 1 then blocks.filter fun h => o.arg0.getLsbD (h - 2)
  else if o.code = 2 then blocks
  else all

/-- The TAG that a hop's record brought in this frame. -/
def tagOfHop (f : Frame) (h : Nat) : Option (BitVec 3) :=
  if h = 1 then f.head.map HeadRec.tag else (f.nodes.find? fun n => n.hop == h).map NodeRec.tag

/-- What a hop's TAG tells the module (R252, R253, R262). -/
def ackHop (o : Order) (sweep : Word) (x : RegionSt) (h : Nat) : RegionSt :=
  if o.code = 1 then setHop x h fun y =>
    { y with
      planLeft := if o.arg0.extractLsb' 16 8 = y.stagedGen then y.stagedLife else 0
      tallyDue := y.tallyDue || decide (y.planLeft ≠ 0) }
  else if o.code = 2 then setHop x h fun y => { y with planLeft := 0, tallyDue := y.tallyDue || decide (y.planLeft ≠ 0) }
  else if o.code = 6 then { setHop x h fun y => { y with watching := true, watchSweep := sweep } with watchSweep := sweep }
  else if o.code = 5 then { x with streaming := false }
  else x

/-- ORDER_LOST (R528): one for each node that lacks the TAG. -/
def orderLost (s : State) (r : Region) (o : Order) (hops : List Nat) : State :=
  let s := hops.foldl (fun s _ =>
    emitRe s r 2 0x07 false true (fld o.code.toNat 24 + fld o.hops.toNat 16 + o.tag.toNat)) s
  modRg s r fun x => { x with
    lost := hops.foldl (fun n _ => inc16 n) x.lost, lastOrder := o.code, ordResult := 1
    captures := if o.code = 3 then x.captures.map fun c => if c.num.toNat = o.ref then { c with skip := hops } else c else x.captures }

/-- An order ends DONE. -/
def orderDone (s : State) (r : Region) (o : Order) : State := modRg s r fun x => { x with lastOrder := o.code, ordResult := 0 }

/-- One order sent in this frame is judged. -/
def judgeOrder (s : State) (r : Region) (f : Frame) (o : Order) : State :=
  if !(f.sent.any fun e => e == entryOf o) then s
  else
    let x := rgOf s r
    let asked := if o.tries ≤ 1 then tagHops x o else o.lack
    let lack := asked.filter fun h => tagOfHop f h != some o.tag
    let acked := asked.filter fun h => tagOfHop f h == some o.tag
    let s := setRg s r (acked.foldl (ackHop o f.sweep) x)
    if lack.isEmpty then orderDone (modRg s r fun x => { x with outstanding := x.outstanding.erase o }) r o
    else if o.tries ≤ 1 then
      modRg s r fun x => { x with outstanding := x.outstanding.map fun y => if y == o then { y with lack := lack } else y }
    else orderLost (modRg s r fun x => { x with outstanding := x.outstanding.erase o }) r o lack

def closeOrders (s : State) (r : Region) (f : Frame) : State :=
  (rgOf s r).outstanding.foldl (fun s o => judgeOrder s r f o) s

/-! ### Hops at the close (R24, R215, R216, R251, R253, R254, R264, R474) -/

/-- Keep the first n elements that differ. -/
def addOnce (l : List Nat) (h : Nat) : List Nat := if l.contains h then l else l ++ [h]

/-- The kept records of a hop are still to be fetched (R217). -/
def keptOpen (now : Nat) (y : HopSt) : Bool := match y.keptUntil with
  | some t => decide (now ≤ t)
  | none => false

/-- A hop delivered: what its absence leaves to fetch, its trust after a restart, its plan and its tallies. -/
def hopReturns (now : Nat) (f : Frame) (st : Half) (y : HopSt) : HopSt :=
  let reset := st.getLsbD 9
  let until' := match y.absentAt with
    | some t => if now ≤ t + 2000000000 then some (t + 2000000000) else none
    | none => y.keptUntil
  let kept := !reset && !y.missed.isEmpty && keptOpen now { y with keptUntil := until' }
  let left := if reset || (st.getLsbD 15 && st.getLsbD 14) then 0 else y.planLeft - 1
  { y with
    absentAt := none, reachTries := 0, watching := y.watching && y.watchSweep == f.sweep
    slept := if y.watching && y.watchSweep == f.sweep then y.slept else []
    keptUntil := if kept then until' else none, missed := if kept then y.missed else []
    untrusted := y.untrusted || reset, limitsDue := y.limitsDue || reset
    planLeft := left, tallyDue := y.tallyDue || (decide (y.planLeft ≠ 0) && decide (left = 0))
    tally := if reset then List.replicate 24 0 else y.tally
    resetSweep := if reset then f.sweep else y.resetSweep
    identFrom := if y.newIdent && y.identFrom == 0 then f.sweep else y.identFrom
    identLast := y.newIdent || y.chalIdent, identSeen := y.identSeen || y.newIdent || y.chalIdent }

/-- A hop delivered. A node that returns from an activation with NODE_RESET carries the new version or not: its record does
not say which (`isNew`, R264; log entry 29). -/
def hopHere (now : Nat) (isNew : Nat → Bool) (f : Frame) (st : Half) (x : RegionSt) (h : Nat) : RegionSt :=
  let x := setHop x h (hopReturns now f st)
  if st.getLsbD 9 then
    { x with
      chalDue := addOnce x.chalDue h
      nfw := if x.nfw.step = 4 && x.nfw.ready.contains h && isNew h then { x.nfw with back := addOnce x.nfw.back h } else x.nfw }
  else x

/-- A populated hop is absent. -/
def hopGone (now : Nat) (f : Frame) (x : RegionSt) (h : Nat) : RegionSt :=
  setHop { x with absents := inc16 x.absents } h fun y => { y with
    absentAt := some (y.absentAt.getD now), keptUntil := none, missed := (f.sweep :: y.missed).take 8
    planLeft := y.planLeft - 1, tallyDue := y.tallyDue || decide (y.planLeft = 1)
    identFrom := if y.newIdent && y.identFrom == 0 then f.sweep else y.identFrom
    identLast := y.newIdent || y.chalIdent, identSeen := y.identSeen || y.newIdent || y.chalIdent }

/-- The status that a hop's record shows in this frame. -/
def statusOf (f : Frame) (h : Nat) : Option Half :=
  if h = 1 then f.head.map HeadRec.status else (f.nodes.find? fun n => n.hop == h).map NodeRec.status

/-- The hop to reach directly in this frame's spare airtime (R215): the first absent one behind one that delivered. -/
def reachHop (x : RegionSt) (f : Frame) : Option Nat :=
  if x.bypass.isSome then none
  else match ((List.range (mapHops x)).map fun i => i + 1).find? fun h => (statusOf f h).isNone with
    | some h => if 2 ≤ h ∧ (hopAt x h).reachTries < 3 then some h else none
    | none => none

def closeHops (s : State) (r : Region) (f : Frame) : State :=
  let now := nowNs s
  let isNew (h : Nat) : Bool := Config.freeBool (s.free + h)
  let s := { s with free := s.free + 18 }
  modRg s r fun x =>
    let x := (hopList x).foldl (fun x h =>
      match statusOf f h with
      | some st => hopHere now isNew f st x h
      | none => if h = 1 then x else hopGone now f x h) x
    let retried := (f.nodes.filter fun n => n.status.getLsbD 13).length + (match f.head with
      | some h => ofBool (h.status.getLsbD 13)
      | none => 0)
    { x with reachDue := reachHop x f, retries := (List.range retried).foldl (fun n _ => inc16 n) x.retries }

/-- A bypass ends when hop k has reported 16 consecutive beacons of its own upstream neighbour (R215). -/
def bypassStep (f : Frame) (x : RegionSt) : RegionSt :=
  let run := if f.neighbour then x.bypassRun + 1 else 0
  if x.bypass.isNone then x
  else if 16 ≤ run then { x with bypass := none, bypassRun := 0 }
  else { x with bypassRun := run }

/-- Bad frames and the channel change they lead to (R183), and the other SIDE heard (R384). -/
def closeAir (s : State) (r : Region) (f : Frame) : State :=
  let bad := (!f.echo && decide (2 ≤ mapHops (rgOf s r))) || !f.heard
  let lead := isLead s
  let dual := if f.otherSide && lead then (rgOf s r).dualRun + 1 else 0
  let s := if dual = 2 then
      emit (modTwin s fun t => { t with dualLead := true }) 24 3 0x08 true true pairScope (word (fld (ofBool s.twin.sideB) 8 + r.val)) else s
  modRg s r fun x =>
    let run := if bad then x.badRun + 1 else 0
    let go := lead && decide (4 ≤ run) && x.announce.isNone
    { x with
      badFrames := if bad then inc16 x.badFrames else x.badFrames
      badRun := if go then 0 else run
      announce := if go then some (nextChan x.chan, 2) else x.announce
      dualRun := dual }

/-- A frame of sweep n is still open in some mapped region. -/
def sweepOpen (s : State) (n : Word) : Bool :=
  (List.finRange 16).any fun r => hasMap s r && (match (rgOf s r).frame with
    | some f => f.sweep == n && !f.closed
    | none => false)

/-- Some region has closed sweep n. -/
def sweepSome (s : State) (n : Word) : Bool := (List.finRange 16).any fun r => (heldOf (rgOf s r) n).isSome

/-- The pack record of sweep n has been built: its sample instant is past. -/
def sweepSampled (s : State) (n : Word) : Bool := s.sweep.packs.any fun p => p.sweep == n

/-- Once every region with a frame of sweep n has closed it, or at its sample instant where no region has one: the archive, the
live part of a transfer, the notice (R241, R379, R428). -/
def sweepWhole (s : State) (n : Word) : State :=
  if sweepOpen s n || s.sweep.archDone == n || !(sweepSampled s n) then s
  else
    let s := { s with sweep := { s.sweep with archDone := n } }
    let some' := sweepSome s n
    let s := sendLive (archiveWrite s n)
    if some' then notify s 2 2 n else s

/-- The sample instant, after which a sweep that no region closes is whole (R241). -/
def sampleAll (s : State) (d : Dsm4) : State :=
  let n := s.sweep.nextNum
  sweepWhole (sample s d) n

/-- A region leaves its map in the middle of a sweep: the others may have closed it already. -/
def sweepLeft (s : State) : State := match s.sweep.pack with
  | some p => sweepWhole s p.sweep
  | none => s

/-- A sweep closed complete joins the last run, or begins one (R136). -/
def addRun (l : List (Word × Word)) (n : Word) : List (Word × Word) :=
  match l with
  | (a, b) :: t => if succSweep b = n then (a, n) :: t else (n, n) :: (a, b) :: t
  | [] => [(n, n)]

/-- After the close of one region: workers, and the whole sweep. -/
def closeAll (s : State) (n : Word) : State := sweepWhole (swpRelease s) n

/-- The region closes its sweep (R24, R135, R190). Among the events of this clock a floor verdict comes first, then the closed
sweep, then what the verdict overtakes (R28). -/
def closeSweep (s : State) (r : Region) : State :=
  match (rgOf s r).frame with
  | none => s
  | some f =>
    if f.closed ∨ f.sampled = false then s
    else
      let now := nowNs s
      let complete := sweepComplete s r f
      let incRun := if complete || (reOf s r).graceEnd.isSome then 0 else min 255 ((rgOf s r).incRun + 1)
      let s := modRg s r fun x => { x with frame := some { f with closed := true, closeAt := now }, incRun := incRun }
      let s := if complete then modRe s r fun e => { e with graceEnd := none } else s
      let x := closeFloor s r f incRun
      let s := emitRe x.1 r 1 0x01 false (!complete) f.sweep.toNat
      let s := verdictAct s r x.2
      let v := closeRecord s r f complete incRun
      let s := { s with free := s.free + 17 }
      let s := modRg s r fun x => { x with
        held := (v :: x.held).take 8, complete := if complete then addRun x.complete f.sweep else x.complete, closedAt := now, closeUs := word ((now - f.sAt) / 1000), lastSweep := f.sweep
        incomplete := if complete then x.incomplete else inc16 x.incomplete
        hushViol := (List.range v.hushCount).foldl (fun n _ => inc16 n) x.hushViol
        streaming := streamRuns s r, streamSamples := min 65535 f.stream.length }
      let s := closeEngine s r f
      let s := closeOrders s r f
      let s := modRg (closeAir (closeHops s r f) r f) r (bypassStep f)
      closeAll s f.sweep

/-- The lead acknowledges a complete transfer 20 µs after its last packet, or after a micro-slot that the ACK would meet, with the
records received; a bypass hop hears it at the power of direct reach (R188, R202, R215). -/
def ackSend (s : State) (r : Region) (f : Frame) (dbm : Option Byte) (got : Nat) : State :=
  if transmits s && !f.mute then airSendIn s r 4 (airWait s r f 20000 2) dbm (leadBytes (.ack (BitVec.ofNat 8 got))).2 else s

/-- The transfer of the bypass hop as far as it has come (R215). -/
def takeBypass (p : UpPacket) (f : Frame) : Frame := { f with
  byTotal := match p.counts with
    | some c => some c.2.toNat
    | none => f.byTotal
  byGot := (if p.counts.isSome then 0 else f.byGot) + p.recs.length
  byAcked := f.byAcked && p.counts.isNone
  neighbour := f.neighbour || p.neighbour }

/-- The transfer of the head as far as it has come (R200, R202). -/
def takeHead (sideB : Bool) (p : UpPacket) (f : Frame) : Frame := { f with
  heard := true
  total := match p.counts with
    | some c => some c.2.toNat
    | none => f.total
  got := (if p.counts.isSome then 0 else f.got) + p.recs.length
  otherSide := f.otherSide || p.hdr.sideB != sideB }

/-- A complete transfer of the bypass hop is held. -/
def bypassWhole (f : Frame) : Bool := match f.byTotal with
  | some n => decide (n ≤ f.byGot)
  | none => false

/-- The records of a transfer packet that this module takes: the head's, or the bypass hop's. -/
def takeTransfer (s : State) (r : Region) (f : Frame) (p : UpPacket) : State :=
  let x := rgOf s r
  let before := packetKinds s r f
  let head := p.hdr.sender == 1
  let f := takeRecords x (if head then takeHead s.twin.sideB p f else takeBypass p f) p.recs
  let s := modRg s r fun x => { x with frame := some f }
  let s := floorPacket s r f.sweep.toNat before (packetKinds s r f)
  if head && transferWhole f then closeSweep (ackSend s r { f with closed := true, closeAt := nowNs s } (serviceDbm x) f.got) r
  else if !head && bypassWhole f then
    modRg (ackSend s r f (reachDbm x) f.byGot) r fun x => { x with frame := x.frame.map fun f => { f with byAcked := f.byAcked || transmits s } }
  else s

/-- A transfer packet (R187, R190, R200, R202, R209): judged like every packet, and taken from the collection start, 200 µs after
S, to the close. -/
def upstream (s : State) (r : Region) (p : UpPacket) : State :=
  airTake s r 3 p.hdr (upBody p) p.mic fun s => match (rgOf s r).frame with
    | some f =>
      if spanNow s r f = .collection ∧ f.sampled = true ∧ heardSender (rgOf s r) p.hdr.sender.toNat = true then takeTransfer s r f p else s
    | none => s

/-- The collection limit has come (R190). -/
def limitReached (s : State) (r : Region) : Bool :=
  match (rgOf s r).frame with
  | some f => decide (f.origin + limitNs s ≤ nowNs s)
  | none => false

/-! ## Late fill (R140, R216, R238) -/

/-- Fill a kept record into a held sweep record: the counts of its header follow (R232, R238). -/
def fillRec (hop : Nat) (n : NodeRec) (v : SweepRec) : SweepRec :=
  let set (b : Block) : Block := { b with
    status := n.status, absent := false, rejoined := true
    volts := fillTo 24 0xFFFF n.volts, codes := fillTo 24 7 n.codes, temps := fillTo 8 0x8000 n.temps }
  let blocks := (indexed v.blocks).map fun b => if b.1 + 2 = hop then set b.2 else b.2
  { v with
    lateFill := true, blocks := blocks, absentCount := (blocks.filter Block.absent).length
    hushCount := v.hushCount + ofBool (n.status.getLsbD 11)
    clkBad := if clkBad n.status then v.clkBad ||| BitVec.ofNat 16 (2 ^ (hop - 2)) else v.clkBad }

/-- A record in the archive with a kept record filled into the entry of its hop: FLAGS, the counts of its header and the CRC
follow (R232, R233, R238). -/
def fillBytes (hop : Nat) (n : NodeRec) (b : List Byte) : List Byte :=
  let at' := 48 + 80 * (hop - 2)
  let put (b : List Byte) (i : Nat) (l : List Byte) : List Byte := b.take i ++ l ++ b.drop (i + l.length)
  let flags := BitVec.ofNat 8 (byteAt b (at' + 3)) &&& 0xFE ||| 4
  let bad := natAt b 30 2
  let b := put b at' (bytesLE 2 n.status.toNat)
  let b := put b (at' + 3) (flags :: (bytes2 (fillTo 24 0xFFFF n.volts) ++ packCodes (fillTo 24 7 n.codes)))
  let b := put b (at' + 64) (bytes2 (fillTo 8 0x8000 n.temps))
  let b := put b 5 [BitVec.ofNat 8 (byteAt b 5) ||| 4]
  let b := put b 7 [BitVec.ofNat 8 (byteAt b 7 - 1)]
  let b := put b 29 [BitVec.ofNat 8 (byteAt b 29 + ofBool (n.status.getLsbD 11))]
  let b := put b 30 (bytesLE 2 (if clkBad n.status then bad ||| 2 ^ (hop - 2) else bad))
  withCrc (b.take 1340)

/-- The place of a sweep's region record in the archive, while an entry that holds it is kept. The sweeps that a node missed
within 2 s lie in the last 64 entries. -/
def archPlace (s : State) (r : Region) (n : Word) : Option Nat :=
  let mask (a : Nat) : Nat := memNat s.mem.dram (a + 6) 2
  let holds (e : Nat) : Bool := decide (0 < e ∧ s.sweep.oldest ≤ e) && memNat s.mem.dram (entryAt s e) 4 == n.toNat
    && (mask (entryAt s e)).testBit r.val
  let below (a : Nat) : Nat := ((List.range r.val).filter fun i => (mask a).testBit i).length
  (((List.range 64).map fun i => s.sweep.newest - i).find? holds).map fun e => entryAt s e + 64 + 1344 * below (entryAt s e)

/-- Fill a kept record into the archive, where the block is shown absent there (R238). -/
def fillArchive (s : State) (r : Region) (k : KeptRec) : State :=
  match archPlace s r k.sweep with
  | none => s
  | some a =>
    let b := memRead s.mem.dram a 1344
    if (BitVec.ofNat 8 (byteAt b (51 + 80 * (k.record.hop - 2)))).getLsbD 0 then dramWhole s a (fillBytes k.record.hop k.record b) else s

/-- The block at a hop is shown absent in a record. -/
def blockAbsent (v : SweepRec) (hop : Nat) : Bool := match v.blocks[hop - 2]? with
  | some b => b.absent
  | none => false

/-- One kept record: the held sweep, the result window where it is the newest, and the archive copy (R140, R238). -/
def fillKept (s : State) (r : Region) (hop : Nat) (k : KeptRec) : State :=
  let x := rgOf s r
  if k.record.hop ≠ hop ∨ recFits x k.record = false then s
  else
    let s := match heldOf x k.sweep with
      | none => s
      | some v =>
        if blockAbsent v hop then
          let newest := (x.held.head?.map SweepRec.sweep) == some k.sweep
          let now := nowNs s
          let s := modRg s r fun x => { x with
            held := x.held.map fun u => if u.sweep = k.sweep then fillRec hop k.record u else u
            closedAt := if newest then now else x.closedAt }
          if newest then
            { s with sweep := { s.sweep with shown := s.sweep.shown.filter fun y => y.2.1 != 0x100000 + 0x800 * r.val } }
          else s
        else s
    fillArchive s r k

/-! ## The commands -/

/-- The head's relay of the beacon as it should come: CORR and HOP rewritten, every other field kept (R192). -/
def echoFits (s : State) (r : Region) (f : Frame) (b : Beacon) : Bool :=
  b.sweep == f.sweep && b.fe == f.fe && b.toS == BitVec.ofNat 24 (leadOf s r f) && b.hopHush.toNat / 2048 == 1

/-- A relay of the beacon that is heard now is the head's in slot 2: its access address, 1.25 µs back, lies within 2 µs of the slot's
boundary (R63, R217). A region of the head alone has no relay (R192; log entry 26). -/
def echoNow (s : State) (r : Region) (f : Frame) (b : BeaconRx) : Bool :=
  let h := mapHops (rgOf s r)
  let t := slotAt h 2 + 1250
  decide (2 ≤ h) && !f.closed && b.hdr.sender == 1 && decide (t ≤ sinceF s f + 2000 ∧ sinceF s f ≤ t + 2000) && echoFits s r f b.beacon

/-- A relay of the beacon is heard, or the head's is missing at the end of its time (R192, R209, R217). -/
def beaconEcho (s : State) (r : Region) (e : Option BeaconRx) : State :=
  match e with
  | some b => airTake s r 1 b.hdr (beaconBytes b.beacon) b.mic fun s =>
      modRg s r fun x => { x with frame := x.frame.map fun f => if echoNow s r f b then { f with echo := true } else f }
  | none => match (rgOf s r).frame with
    | some f =>
      let h := mapHops (rgOf s r)
      if f.closed = false ∧ 2 ≤ h ∧ f.echo = false ∧ slotAt h 2 + 3250 < sinceF s f then
        modRg s r fun x => { x with noEcho := inc16 x.noEcho }
      else s
    | none => s

def execBeaconEchoRx (r : Region) (echo : Option BeaconRx) (s : State) : Out := run s fun s => beaconEcho s r echo

def execCommandWindowTx (r : Region) (stepOfs : Word) (s : State) : Out :=
  run s fun s => if windowOpen s r && transmits s then ordersSent s r (windowOrders (rgOf s r)) stepOfs else s

def execUpstreamPacketRx (r : Region) (p : UpPacket) (s : State) : Out := run s fun s => upstream s r p

def execCollectionLimitReached (r : Region) (s : State) : Out := run s fun s => if limitReached s r then closeSweep s r else s

/-- Re-key: due after a node has left the map, or before FE wraps (R210, R211). -/
def execRekeyStart (r : Region) (s : State) : Out :=
  run s fun s => if transmits s && hasMap s r && (rgOf s r).rekeyDue then rekeyStart s r else s

end Sys2Proof.Machine
end

