-- ==== Sys2Proof/Machine/Publish.lean ====
section
/-! DEFINITION. The estimator directory, publishes, the cell and summary windows, cappings and restores (R303-R318, R474,
R475), with the readings of log entry 27. -/
namespace Sys2Proof.Machine

def modEst (s : State) (f : EstSt → EstSt) : State := { s with est := f s.est }

/-! ## The directory (R304) -/

/-- One word of an entry. -/
def dirPut (e : DirEntry) (word : Fin 3) (v : Word) : DirEntry :=
  if word = 0 then { e with ctrl := v &&& 0xFF00010F } else if word = 1 then { e with range := v &&& 0xFFFF1FFF } else { e with addr := v }

/-- The directory with words written into it. -/
def dirWith (d : Vector DirEntry 8) (l : List (Fin 8 × Fin 3 × Word)) : Vector DirEntry 8 :=
  l.foldl (fun d x => d.set x.1 (dirPut d[x.1] x.2.1 x.2.2)) d

/-- The directory as written, the words of the next publish among it. -/
def dirView (s : State) : Vector DirEntry 8 := dirWith s.est.dir s.est.dirNext

/-- An entry that the module turns into KIND 0. -/
def dirBad (s : State) (d : Vector DirEntry 8) (n : Fin 8) : Bool :=
  let e := d[n]
  let k := dirKind e
  k != 0 && (decide (5 < k) || decide (384 * s.nReg < dirFirst e + dirCount e) || e.addr.toNat % 8 != 0
    || (List.finRange 8).any fun m => m != n && dirKind d[m] == k && meets (dirFirst e) (dirCount e) (dirFirst d[m]) (dirCount d[m]))

/-- A word of the directory is taken; both twins apply it at the next publish. -/
def dirTake (s : State) (who : Option Writer) (n : Fin 8) (word : Fin 3) (v : Word) : State :=
  let s := modEst s fun e => { e with dirNext := e.dirNext ++ [(n, word, v)] }
  let d := dirView s
  if dirBad s d n then
    let c := d[n].ctrl
    let c' := c &&& 0xFFFFFFF0
    let s := modEst s fun e => { e with dirNext := e.dirNext ++ [(n, 0, c')] }
    match who with
    | some w => clampReg s w (0xB8000 + 16 * n.val) c c' 0x05
    | none => s
  else s

/-! ## Windows (R306-R310) -/

/-- The bytes of a cell's KIND 1 record. -/
def cellRec (s : State) (c : Nat) : Option (List Byte) :=
  if populated s c then (dirFor s 1 c).map fun e => readPlace s 0 (dirPlace e (128 * (c - dirFirst e))) 128 else none

/-- The chemistry table of a cell. -/
def cellChem (s : State) (c : Nat) : Option Chem :=
  match dirFor s 4 c with
  | some e =>
    let h := readPlace s 0 (dirPlace e 0) 64
    chemOf (readPlace s 0 (dirPlace e 0) (chemLen (byteAt h 4) (byteAt h 5)))
  | none => none

/-- The limits of a cell: charge and discharge, mA. -/
def cellLimits (s : State) (c : Nat) : Nat × Nat :=
  match dirFor s 3 c with
  | some e =>
    let b := readPlace s 0 (dirPlace e (8 * (c - dirFirst e))) 8
    (natAt b 0 4, natAt b 4 4)
  | none => (0, 0)

/-- State of health, 0.01 %; of an absent capacity there is none (R10). -/
def sohOf (cap : Nat) (c : Option Chem) : Nat :=
  if cap = 0 then 0xFFFF
  else match c with
  | some c => min 10000 (roundDiv ((cap * 10000 : Nat) : Int) c.capNom).toNat
  | none => 0xFFFF

/-- The 40 bytes of an absent cell. -/
def absentCell : List Byte :=
  bytesLE 2 0xFFFF ++ bytesLE 2 0xFFFF ++ bytesLE 2 0xFFFF ++ bytesLE 2 0 ++ bytesLE 2 0xFFFF ++ bytesLE 2 0x8000
    ++ bytesLE 2 0xFFFF ++ bytesLE 6 0 ++ bytesLE 4 0xFFFFFFFF ++ bytesLE 4 0xFFFFFFFF ++ bytesLE 4 0xFFFFFFFF ++ bytesLE 8 0

/-- AGE_U. -/
def ageU (b : List Byte) (n : Word) : Nat := min 0xFFFF (sweepDist (cSweepU b) n)

/-- The 40 bytes of a cell. -/
def cellBytes (s : State) (n : Word) (c : Nat) : List Byte :=
  match cellRec s c with
  | none => absentCell
  | some b =>
    let l := cellLimits s c
    bytesLE 2 (cSocR b) ++ bytesLE 2 (cSocF b) ++ bytesLE 2 (sohOf (cCap b) (cellChem s c)) ++ bytesLE 2 (cFlags b)
      ++ bytesLE 2 (cVComp b) ++ bytesLE 2 (natAt b 34 2) ++ bytesLE 2 (ageU b n) ++ [BitVec.ofNat 8 (byteAt b 62), BitVec.ofNat 8 (byteAt b 63)]
      ++ bytesLE 4 (cCap b) ++ bytesLE 4 (natAt b 64 4) ++ bytesLE 4 (natAt b 68 4) ++ bytesLE 4 (natAt b 72 4)
      ++ bytesLE 4 l.1 ++ bytesLE 4 l.2

/-- A KIND 1 entry covers cells of the region. -/
def regionCovered (s : State) (r : Region) : Bool :=
  hasRegion s r && s.est.dir.toList.any fun e => dirKind e == 1 && dirInside e && meets (dirFirst e) (dirCount e) (384 * r.val) 384

/-- The cell window of a region between SEQ and TAIL. -/
def cellWindow (s : State) (n : Word) (r : Region) : Option Window :=
  if regionCovered s r then
    some ⟨n, memWrite [] 8 (bytesLE 4 (384 * r.val) ++ bytesLE 4 384 ++ ((List.range 384).map fun k => cellBytes s n (384 * r.val + k)).flatten)⟩
  else none

/-- The populated cells of a region: index, record. -/
def regionCells (s : State) (r : Region) : List (Nat × List Byte) :=
  ((List.range 384).map fun k => 384 * r.val + k).filterMap fun c => (cellRec s c).map fun b => (c, b)

def minOf (l : List Nat) : Nat := match l with
  | [] => 0
  | x :: t => t.foldl min x
def maxOf (l : List Nat) : Nat := l.foldl max 0
def countOf (l : List (List Byte)) (p : List Byte → Bool) : Nat := (l.filter p).length

/-- A sum of voltages along the way, in 100 µV: each cell's curve at SOC_R shifted by a part of its own charge (R308). -/
def energyVolts (charge : Bool) (q : Frac) (l : List (Chem × List Byte)) : Frac :=
  l.foldl (fun a x =>
    let b := x.2
    let half := Frac.div (Frac.mul q (Frac.ofNat 5000)) (Frac.ofNat (max 1 (cCap b)))
    let at' := if charge then Frac.add (Frac.ofNat (cSocR b)) half else Frac.sub (Frac.ofNat (cSocR b)) half
    (Frac.add a (Frac.fix (interp (curveAt x.1 charge (cTemp b)) at'))).fix) (Frac.ofNat 0)

/-- The lowest of some fractions. -/
def minFrac (l : List Frac) : Frac := match l with
  | [] => Frac.ofNat 0
  | x :: t => t.foldl Frac.min x

/-- E_DIS and E_CHG, Wh. -/
def energyOf (charge : Bool) (l : List (Chem × List Byte)) : Nat :=
  let q := minFrac (l.map fun x =>
    Frac.div (Frac.mul (Frac.ofNat (if charge then 10000 - cSocR x.2 else cSocR x.2)) (Frac.ofNat (cCap x.2))) (Frac.ofNat 10000))
  (Frac.div (Frac.mul q (energyVolts charge q l)) (Frac.ofNat 10000000)).round.toNat

/-- R_S, µΩ (R309). -/
def stringOhms (l : List (Chem × List Byte)) : Frac := l.foldl (fun a x => Frac.fix (Frac.add a (zAt x.1 x.2 64))) (Frac.ofNat 0)

/-- A power limit in W: the voltage rises on charge and falls on discharge. -/
def powerOf (charge : Bool) (v : Int) (i : Nat) (rs : Frac) : Nat :=
  let drop := Frac.div (Frac.mul (Frac.ofNat i) rs) (Frac.ofNat 1000000)
  let u := if charge then Frac.add (Frac.ofInt v) drop else Frac.max (Frac.ofNat 0) (Frac.sub (Frac.ofInt v) drop)
  (Frac.div (Frac.mul (Frac.ofNat i) u) (Frac.ofNat 1000000)).round.toNat

/-- What the summary of a region holds. -/
structure RegionSum where
  socR : Nat
  soh : Nat
  capR : Nat
  vals : List Nat
  cells : Nat
  stale : Nat
  suspect : Nat
  conflict : Nat
  valid : Bool
  connected : Bool
  vAbsent : Bool
  limitZero : Bool
  ageMax : Nat

/-- The record of the published sweep, while it is held. -/
def heldAt (s : State) (r : Region) (n : Word) : Option SweepRec := (rgOf s r).held.find? fun v => v.sweep == n

/-- The summary of a region (R307-R309). The values that need a chemistry table which the directory does not name are
free values (log entry 27). -/
def regionSum (s : State) (n : Word) (r : Region) : RegionSum :=
  let cs := regionCells s r
  let bs := cs.map fun x => x.2
  let cells := if hasRegion s r then ((List.range 384).filter fun k => populated s (384 * r.val + k)).length else 0
  let valid := !bs.isEmpty && cs.length == cells && bs.all fun b => cSocR b != 0xFFFF
  let held := heldAt s r n
  let lims := cs.map fun x => cellLimits s x.1
  let chg := minOf (lims.map fun x => x.1)
  let dis := minOf (lims.map fun x => x.2)
  let chems := cs.filterMap fun x => (cellChem s x.1).map fun c => (c, x.2)
  let whole := chems.length == cs.length
  let free (i : Nat) : Nat := (Config.freeWord (s.free + 8 * r.val + i)).toNat
  let v := match held with
    | some h => h.vStr
    | none => 0x80000000
  let va := v == 0x80000000
  let capR := minOf (bs.map cCap)
  let lo := minOf (bs.map cSocR)
  let hi := maxOf (bs.map cSocR)
  let soc := if lo = 0 then 0 else (roundDiv ((lo * 10000 : Nat) : Int) (lo + 10000 - hi)).toNat
  let rs := stringOhms chems
  let vals := [if whole then energyOf false chems else free 0, if whole then energyOf true chems else free 1, chg, dis,
    if va then 0 else if whole then powerOf true v.toInt chg rs else free 2,
    if va then 0 else if whole then powerOf false v.toInt dis rs else free 3]
  let count (f : Nat) : Nat := countOf bs fun b => cFlag b f
  { socR := if valid then soc else 0xFFFF
    soh := if valid then (match chems.head? with
      | some c => sohOf capR (some c.1)
      | none => free 4 % 65536) else 0xFFFF
    capR := if valid then capR else 0
    vals := if valid then vals else List.replicate 6 0
    cells := cells
    stale := count fStale, suspect := count fCapSuspect
    conflict := countOf bs fun b => cFlag b fEmptyConflict || cFlag b fFullConflict
    valid := valid, connected := (match held with
      | some h => h.onBus
      | none => false), vAbsent := va
    limitZero := cs.length != cells || lims.any fun x => x.1 == 0 || x.2 == 0
    ageMax := if cs.length = cells then maxOf (bs.map fun b => ageU b n) else 0xFFFF }

def sumBytes (x : RegionSum) : List Byte :=
  bytesLE 2 x.socR ++ bytesLE 2 x.soh ++ bytesLE 4 x.capR ++ (x.vals.map (bytesLE 4)).flatten
    ++ bytesLE 2 x.cells ++ bytesLE 2 x.stale ++ bytesLE 2 x.suspect ++ bytesLE 2 x.conflict
    ++ bytesLE 2 (bitMask [x.valid, x.connected, x.vAbsent, x.limitZero]) ++ bytesLE 2 x.ageMax ++ bytesLE 4 0

/-- The string current of the published sweep is within ±REST_I (R310). -/
def sumRests (s : State) (n : Word) (r : Region) : Bool :=
  match heldAt s r n with
  | some h => h.cur != 0x80000000 && decide (h.cur.toInt.natAbs ≤ cfgNat s 0x1005)
  | none => false

/-- The capacity weights: they change only when every VALID region rests; a region's first one is its CAP_R. -/
def nextWeights (s : State) (n : Word) (l : List (Region × RegionSum)) : Vector Word 16 :=
  let rest' := (l.filter fun x => x.2.valid).all fun x => sumRests s n x.1
  l.foldl (fun w x => if x.2.valid && (rest' || w[x.1] == 0) then w.set x.1 (word x.2.capR) else w) s.est.weights

def sumOf (l : List Nat) : Nat := l.foldl (· + ·) 0
def valAt (x : RegionSum) (i : Nat) : Nat := match x.vals[i]? with
  | some v => v
  | none => 0

/-- The pack summary (R310): with no weight at all its SOC_R is a free value. -/
def packSum (s : State) (w : Vector Word 16) (l : List (Region × RegionSum)) : List Byte :=
  let va := l.filter fun x => x.2.valid
  let co := va.filter fun x => x.2.connected
  let tot := sumOf (va.map fun x => w[x.1].toNat)
  let soc := if tot = 0 then (Config.freeWord (s.free + 128)).toNat % 65536
    else (roundDiv ((sumOf (va.map fun x => x.2.socR * w[x.1].toNat) : Nat) : Int) tot).toNat
  let sum (l : List (Region × RegionSum)) (i : Nat) : List Byte := bytesLE 4 (sumOf (l.map fun x => valAt x.2 i))
  bytesLE 2 soc ++ bytesLE 2 0 ++ bytesLE 4 (sumOf (va.map fun x => x.2.capR)) ++ sum va 0 ++ sum va 1
    ++ sum co 2 ++ sum co 3 ++ sum co 4 ++ sum co 5
    ++ bytesLE 2 (regionMask ((l.filter fun x => x.2.connected).map fun x => x.1)) ++ bytesLE 2 (regionMask (va.map fun x => x.1)) ++ bytesLE 12 0

/-- The windows become the newest result. -/
def putWindows (s : State) (n : Word) : State :=
  let l := (List.finRange 16).map fun r => (r, regionSum s n r)
  let w := nextWeights s n l
  let row (x : Region × RegionSum) : List Byte := if hasRegion s x.1 then sumBytes x.2 else bytesLE 48 0
  let sum : Window := ⟨n, memWrite [] 8 ((l.map row).flatten ++ packSum s w l)⟩
  let cells := (Vector.ofFn fun r : Fin 16 => cellWindow s n r)
  let now := nowNs s
  { s with
    free := s.free + 129
    est := { s.est with
      cell := cells, summary := some sum, weights := w, pubLast := n, published := true, pubAt := now, pubResult := 0
      building := none } }

/-! ## Publishing (R305, R475) -/

/-- The directory names a cell state table. -/
def hasCells (s : State) : Bool := s.est.dir.toList.any fun e => dirKind e == 1 && dirInside e

/-- A publish starts: the directory words written since the last one are applied (R304). -/
def publishStart (s : State) (n : Word) : State :=
  let s := modEst s fun e => { e with dir := dirWith e.dir e.dirNext, dirNext := [] }
  let reject (s : State) (k : Byte) : State := modEst s fun e => { e with rejects := inc16 e.rejects, pubResult := k }
  if s.est.published && !(sweepAfterOf n s.est.pubLast) then reject s 0x01
  else if hasCells s then modEst s fun e => { e with building := some n, pubResult := 0 }
  else reject s 0x02

/-- A store to EST_PUBLISH. -/
def publish (s : State) (n : Word) : State :=
  if s.est.building.isSome then modEst s fun e => { e with
    heldPub := some n, pubResult := 0x03, rejects := if e.heldPub.isSome then inc16 e.rejects else e.rejects }
  else publishStart s n

/-- IDENTITY of a new identity is cleared at the first publish of a sweep later than the one that first showed it. -/
def settleIdent (n : Word) (h : HopSt) : HopSt :=
  if h.newIdent && h.identFrom != 0 && sweepAfterOf n h.identFrom then { h with newIdent := false, identFrom := 0 } else h

/-! ## Restore (R315, R316) -/

/-- The identity hash that BIND gives for the hop of block j. -/
def bindHash (bind : List Byte) (r : Region) (j : Nat) : Nat := natAt bind (132 * r.val + 4 + 8 * j) 8

/-- Why a block is not restored: 1 BIND differs, 2 IDENTITY, 3 UNTRUSTED; 0 restored. -/
def blockKept (s : State) (bind : List Byte) (r : Region) (j : Nat) : Nat :=
  let same := match blockHop s r j with
    | some m => bindHash bind r j == m.idHash.toNat
    | none => false
  let h := hopAt (rgOf s r) (j + 2)
  let shown := (rgOf s r).held.head?.bind fun v => v.blocks[j]?
  if !same then 1
  else if h.newIdent || h.chalIdent || shown.any Block.identity then 2
  else if h.untrusted || shown.any Block.untrusted then 3
  else 0

/-- The changes of R316 to a restored record of the cell state table and of the SOCF state table. -/
def restoreCell (n : Word) (b : List Byte) : List Byte :=
  let b := putAt (putAt (putAt b 44 (bytesLE 4 n.toNat)) 40 (bytesLE 4 0x80000000)) 116 (bytesLE 2 0xFFFF)
  setFlag (setFlag (setFlag b fRpTaken false) fStale true) fRestored true

def restoreSocf (n : Word) (q : Nat) (b : List Byte) : List Byte := putAt (putAt (putAt b 0 (bytesLE 8 q)) 16 (bytesLE 4 n.toNat)) 20 [0]

/-- Q_NET of a cell in the capping: of its own KIND 1 section when there is one, else as the module holds it. -/
def cappedQ (s : State) (l : List Section) (c : Nat) : Nat :=
  match l.find? fun x => x.kind == 1 && decide (x.first ≤ c ∧ c < x.first + x.count) with
  | some x => natAt x.data (128 * (c - x.first)) 8
  | none => match cellRec s c with
    | some b => natAt b 0 8
    | none => 0

/-- Blocks of a section, as region and block. -/
def sectionBlocks (x : Section) : List (Region × Nat) := (touchedBlocks x.first x.count).map fun b => (cellRegion (24 * b), b % 16)

/-- One section goes to its directory entry, cell by cell. -/
def restoreSection (s : State) (n : Word) (bind : List Byte) (l : List Section) (x : Section) : State :=
  match sectionEntry s x with
  | none => modEst s fun e => { e with skipped := satInc 255 e.skipped }
  | some e =>
    let size := dirElem e
    let s := (List.range x.count).foldl (fun s i =>
      let c := x.first + i
      if blockKept s bind (cellRegion c) (cellBlock c) == 0 then
        let b := (x.data.drop (size * i)).take size
        let b := if x.kind = 1 then restoreCell n b else if x.kind = 2 then restoreSocf n (cappedQ s l c) b else b
        dirWrite s e (size * (c - dirFirst e)) b
      else s) s
    modEst s fun e => { e with sections := satInc 255 e.sections }

/-- The blocks that keep their records: counted and recorded. -/
def keepBlocks (s : State) (bind : List Byte) (l : List Section) : State :=
  let bs := ((l.filter fun x => (sectionEntry s x).isSome).map sectionBlocks).flatten.eraseDups
  bs.foldl (fun s b =>
    let k := blockKept s bind b.1 b.2
    if k = 0 ∨ (blockHop s b.1 b.2).isNone then s
    else emitRe (modEst s fun e => { e with kept := inc16 e.kept }) b.1 1 0x10 false true (fld (b.2 + 2) 16 + k)) s

/-- Apply a checked restore at the publish of sweep n. -/
def restoreApply (s : State) (n : Word) (b : List Byte) : State :=
  let all := sectionsOf (b.drop 128) (natAt b 44 2)
  let bind := match all.find? fun x => x.kind == 0x10 with
    | some x => x.data
    | none => []
  let l := all.filter fun x => x.kind != 0x10
  let s := modEst s fun e => { e with kept := 0, skipped := 0, sections := 0, restore := none, capResult := 0 }
  let s := keepBlocks s bind l
  recheckTrust (l.foldl (fun s x => restoreSection s n bind l x) s)

/-- The check of a staged capping (R315): 0, or the result that ends it, and whether slot 0x21 accepted the seal. -/
def restoreCheck (s : State) (b : List Byte) : Byte × Bool :=
  let len := b.length
  let seal' := b.drop (len - 400)
  let body := b.take (len - 400)
  let sig := seal'.drop 16
  let bySlot (k : Option (List Byte)) : Bool := match k with
    | some pub => sigHolds pub body sig
    | none => false
  let own := sigHolds (publicOf cappingKey) body sig || bySlot s.twin.capKey
  let adopted := bySlot s.ident.adopted
  let secs := sectionsOf (body.drop 128) (natAt b 44 2)
  if len < 528 ∨ natAt seal' 0 4 ≠ 0x4C414553 then (0x02, false)
  else if own = false ∧ adopted = false then (0x01, false)
  else if natAt b 0 4 ≠ 0x474E5043 ∨ natAt b 4 2 ≠ 1 ∨ byteAt b 6 ≠ s.nReg ∨ natAt b 40 4 ≠ len
      ∨ secs.length ≠ natAt b 44 2 ∨ secs.all Section.good = false then (0x03, false)
  else (0, !own)

/-- A restore is under way: its check waits for the RSA unit, or its publish is still to come. -/
def restoring (s : State) : Bool := s.est.restore.isSome || rsaAsked s .restore

/-- The staged capping is checked (R315): one that passes is carried to the twin, with the time of the check, to be applied at the same
publish. -/
def restoreJudge (s : State) : State :=
  let len := s.est.restoreLen.toNat
  let b := memRead s.mem.dram 0 len
  let c := restoreCheck s b
  if poisoned s 0 len && decide (0 < len) then modEst s fun e => { e with capResult := 0x01 }
  else if c.1 ≠ 0 then modEst s fun e => { e with capResult := c.1 }
  else
    let n := nowNs s
    let t := netNs s
    let s := modEst s fun e => { e with restore := some (b, n, c.2), capResult := 0 }
    pairSend s (.forward (.restore (word len) b t))

/-- RESTORE of a staged capping (R315, R317, R472). -/
def restoreStart (s : State) : State :=
  let s := modEst s fun e => { e with lastCmd := 2 }
  if s.est.step != .idle || restoring s || s.folio.busy != .none then modEst s fun e => { e with capResult := 0x04 }
  else rsaDo s .restore restoreJudge

/-! ## Export (R312-R314) -/

/-- The BIND sect's data. -/
def bindData (s : State) : List Byte :=
  ((List.finRange 16).map fun r =>
    bytesLE 4 (match (rgOf s r).map with
      | some m => m.mapId.toNat
      | none => 0)
      ++ ((List.range 16).map fun j => bytesLE 8 (match blockHop s r j with
        | some m => m.idHash.toNat
        | none => 0)).flatten).flatten

/-- The sections of an export, each that still fits 4 MiB. -/
def exportSections (s : State) : List (List Byte) :=
  ((cappedEntries s).map (entrySection s)).foldl
    (fun l b => if sumOf (l.map List.length) + b.length + 528 ≤ 4 * mib then l ++ [b] else l) [sectionBytes 0x10 0 0 0 (bindData s)]

/-- The image without its seal, copied at the publish of sweep n. -/
def exportImage (s : State) (n : Word) : List Byte :=
  let l := exportSections s
  let len := 528 + sumOf (l.map List.length)
  bytesLE 4 0x474E5043 ++ bytesLE 2 1 ++ [BitVec.ofNat 8 s.nReg, BitVec.ofNat 8 (ofBool s.twin.sideB)]
    ++ bytesLE 4 (s.est.serial.toNat + 1) ++ bytesLE 4 n.toNat ++ netBytes (netNow s) ++ bytesLE 8 moduleHash.toNat
    ++ bytesLE 4 s.folio.runVer.toNat ++ bytesLE 4 len ++ bytesLE 2 l.length ++ bytesLE 82 0 ++ l.flatten

/-- An export is due at this publish. -/
def exportDue (s : State) : Bool :=
  s.est.step == .idle && (s.est.exportAsked || (s.est.auto && decide (s.est.lastCopy + cfgNat s 0x100B * 1000000000 ≤ nowNs s)))

/-- The copy begins: the sessions that have asked for cappings take this one. -/
def exportBegin (s : State) (n : Word) : State :=
  if (cappedEntries s).isEmpty then
    (if s.est.exportAsked then modEst s fun e => { e with exportAsked := false, capResult := 0x05 } else s)
  else
    let b := exportImage s n
    let now := nowNs s
    let s := modEst s fun e => { e with step := .copying b now (s.est.dir.toList.filter dirCapped), exportAsked := false, lastCopy := now, capResult := 0 }
    sessions.foldl (fun s k => modSess s k fun x => { x with takes := x.state == .opened && x.mask.getLsbD 0 }) s

/-- The place of an export buffer in the estimator tables area, which the spec leaves open (log entry 28). -/
def bufPlace (second : Bool) : Nat :=
  if second then estBase + 0x2000000 + 64 * ((Config.freeWord 1).toNat % 458752) else estBase + 64 * ((Config.freeWord 0).toNat % 458752)

/-- The copy ends: held launches proceed, the image without its seal stands in the next buffer and goes out to each session that takes
it, behind what that session has still to be sent, and hashing begins (R313, R314). -/
def copyEnd (s : State) : State :=
  match s.est.step with
  | .copying b _ _ =>
    let serial := s.est.serial + 1
    let s := rsaAsk (modEst (dramWhole s (bufPlace s.est.bufNext) b) fun e => { e with step := .sealing b }) .seal [] []
    sessions.foldl (fun s k => modSess s k fun x =>
      if x.takes then { x with sending := x.sending ++ [(serial, 0, b, false)] } else x) s
  | _ => s

/-- The seal joins a capping that a session is being sent, which ends with it. -/
def sealTo (serial : Word) (seal' : List Byte) (x : Word × Nat × List Byte × Bool) : Word × Nat × List Byte × Bool :=
  if x.1 = serial ∧ x.2.2.2 = false then (x.1, x.2.1, x.2.2.1 ++ seal', true) else x

/-- The seal is written, when the RSA unit has been granted to it and has signed (R33, R313). -/
def sealWrite (s : State) : State :=
  match s.est.step with
  | .sealing b =>
    if rsaServes s .seal = false then s
    else
    let s := rsaNext s
    let serial := s.est.serial + 1
    let r := signMsg s cappingKey b
    let seal' := bytesLE 4 0x4C414553 ++ bytesLE 4 serial.toNat ++ bytesLE 8 0 ++ r.1
    let at' := bufPlace s.est.bufNext
    let s := dramWhole r.2 (at' + b.length) seal'
    let s := modEst s fun e => { e with
      step := .idle, serial := serial, buf := word at', len := word (b.length + 400), bufNext := !e.bufNext, capResult := 0 }
    sessions.foldl (fun s k => modSess s k fun x => { x with sending := x.sending.map (sealTo serial seal'), takes := false }) s
  | _ => s

/-- EXPORT. -/
def exportAsk (s : State) : State :=
  modEst s fun e => if e.step = .idle then { e with lastCmd := 1, exportAsked := true, capResult := 0 } else { e with lastCmd := 1, capResult := 0x04 }

/-! ## Completion -/

/-- The built windows become the newest result, and what waits for a publish is applied (R305, R313-R316, R379, R380). -/
def publishEnd (s : State) : State :=
  match s.est.building with
  | none => s
  | some n =>
    let s := notify (putWindows s n) 1 1 n
    let s := forRegions s fun r s => modRg s r fun x => { x with hops := x.hops.map (settleIdent n) }
    let s := (sectionsOf s.twin.estWait 64).foldl putSection s
    let s := modTwin s fun t => { t with estWait := [] }
    let s := match s.est.restore with
      | some (b, t, adopted) => if t + 10000000 ≤ nowNs s then
          (let s := restoreApply s n b
           if adopted then { s with ident := { s.ident with adopted := none } } else s) else s
      | none => s
    let s := if s.twin.xferStep = 1 then
        modTwin (twinSend s (.xfer (.estimator (transferSections s)))) fun t => { t with xferStep := 2 } else s
    let s := if exportDue s then exportBegin s n else s
    match s.est.heldPub with
    | some m => publishStart (modEst s fun e => { e with heldPub := none }) m
    | none => s

/-! ## Registers (R318) -/

/-- CAPPING_STATUS.STEP. -/
def capStepNum (s : State) : Nat :=
  match s.est.step with
  | .copying _ _ _ => 1
  | .sealing _ => 2
  | .idle => if restoring s then 3 else 0

/-- The live word at an offset from 0x000B_8000. -/
def estRead (s : State) (off : Nat) : Word :=
  let e := s.est
  if off < 0x80 then
    let d := (dirView s)[Fin.ofNat 8 (off / 16)]
    if off % 16 = 0 then d.ctrl else if off % 16 = 4 then d.range else if off % 16 = 8 then d.addr else 0
  else
    match off with
    | 0x84 => word (fld e.rejects 16 + e.pubResult.toNat)
    | 0x88 => e.pubLast
    | 0x100 => word (ofBool e.auto)
    | 0x108 => word (fld e.capResult.toNat 24 + fld e.lastCmd.toNat 16 + capStepNum s)
    | 0x10C => e.serial
    | 0x110 => e.buf
    | 0x114 => e.len
    | 0x118 => e.restoreLen
    | 0x11C => word (fld e.kept 16 + fld e.skipped 8 + e.sections)
    | _ => 0

/-- A directory word by register offset. -/
def dirStore (s : State) (who : Writer) (n : Fin 8) (word : Fin 3) (v : Word) : State :=
  pairSend (dirTake s (some who) n word v) (.forward (.directory n word v))

/-- A write at an offset from 0x000B_8000 by a chip or pair writer. -/
def estWrite (s : State) (who : Writer) (off : Nat) (v : Word) : State :=
  if !(chipWriter s who) then s
  else if off < 0x80 then
    (if off % 16 = 12 ∨ off % 4 ≠ 0 then s else dirStore s who (Fin.ofNat 8 (off / 16)) (Fin.ofNat 3 (off % 16 / 4)) v)
  else
    match off with
    | 0x80 => publish s v
    | 0x100 => modEst s fun e => { e with auto := v.getLsbD 0 }
    | 0x104 =>
      if v.toNat % 16 = 1 then exportAsk s
      else if v.toNat % 16 = 2 then (match who with
        | .host _ => restoreStart s
        | .worker _ => s)
      else s
    | 0x118 =>
      let x := word (min v.toNat (4 * mib))
      let s := modEst s fun e => { e with restoreLen := x }
      if x = v then s else clampReg s who 0xB8118 v x 0x03
    | _ => s

/-! ## The commands -/

def execPublishComplete (s : State) : Out := run s publishEnd
def execCappingCopyEnd (s : State) : Out := run s copyEnd
def execCappingSealed (s : State) : Out := run s sealWrite
def execCappingRestore (sess : Session) (s : State) : Out := run s fun s => estWrite s (.host sess) 0x104 2

end Sys2Proof.Machine
end

