-- ==== Sys2Proof/Machine/Orders.lean ====
section
/-! DEFINITION. Node orders, spare exchanges, alarms, step captures, node firmware and node challenges (R194, R203-R206,
R210, R215, R216, R248-R267, R473, R474), with the readings of log entry 29. -/
namespace Sys2Proof.Machine

/-! ## Submission (R248-R250, R256, R262) -/

/-- A contactor of the region is closed. -/
def anyCoil (e : Engine) : Bool := e.coilN || e.coilP || e.coilS

/-- The codes of R249. -/
def knownOrder (code : Nat) : Bool := decide (1 ≤ code ∧ code ≤ 7) || decide (0x10 ≤ code ∧ code ≤ 0x15)

/-- The HOPS values that an order's target allows. -/
def hopsOk (code hops : Nat) : Bool :=
  match code with
  | 0x01 | 0x03 | 0x06 | 0x07 | 0x14 => hops == 0x1F
  | 0x02 => hops == 0x1F || decide (2 ≤ hops ∧ hops ≤ 17)
  | 0x04 | 0x05 => hops == 1
  | 0x10 | 0x11 => decide (2 ≤ hops ∧ hops ≤ 17)
  | _ => decide (1 ≤ hops ∧ hops ≤ 17)

/-- An order ends with a result. -/
def orderEnds (s : State) (r : Region) (code result : Byte) : State := modRg s r fun x => { x with lastOrder := code, ordResult := result }

/-- A CAPTURE order takes the next number; it is dropped when four are queued, and refused by a full queue (R248, R256). -/
def captureOrder (s : State) (r : Region) : State :=
  let x := rgOf s r
  if 4 ≤ x.captures.length then
    let d := inc16 x.capDropped
    emitRe (modRg s r fun x => { x with capDropped := d }) r 1 0x09 false true d
  else if ordersFull s r then orderRefused s r 0x03
  else
    let n := x.capNum + 1
    let s := modRg s r fun x => { x with capNum := n, captures := x.captures ++ [⟨n, none, s.sweep.cur, [], false, 0, []⟩] }
    pushOwnOrder s r ⟨0x03, 0x1F, 0, word (n.toNat % 256), [], 0, 0, n.toNat, []⟩ true

/-- The 64-byte image of a spare order, copied from the shared tables. -/
def orderImage (s : State) (a : Word) : Option (List Byte) :=
  if 0x50000000 ≤ a.toNat ∧ a.toNat + 64 ≤ 0x50400000 then some (memRead s.mem.tables (a.toNat - 0x50000000) 64) else none

/-- The duration of a PRE_STREAM lies from 100 ms to PRE_TIMEOUT (R261); another takes the nearer bound (log entry 29). -/
def streamArg (s : State) (r : Region) (arg0 : Word) : Word :=
  word (arg0.toNat / 65536 * 65536 + min (max 100 (arg0.toNat % 65536)) (max 100 (reSet s r 0x0E)))

/-- A submission. -/
def orderSubmit (s : State) (r : Region) (code hops : Nat) (arg0 arg1 : Word) : State :=
  let c := BitVec.ofNat 8 code
  let x := rgOf s r
  let img := if code < 0x10 then some [] else orderImage s arg0
  if x.map.isNone then orderEnds s r c 0x03
  else if knownOrder code = false ∨ img = none then orderEnds s r c 0x04
  else if hopsOk code hops = false then orderEnds s r c 0x05
  else if code = 6 ∧ anyCoil x.re = true then orderEnds s r c 0x06
  else if ordersFull s r then orderRefused s r c
  else if code = 3 then captureOrder s r
  else
    let a0 := if code = 6 then x.watchInt else if code = 4 then streamArg s r arg0 else arg0
    modRg s r fun x => { x with orders := x.orders ++ [⟨c, BitVec.ofNat 5 hops, a0, arg1, img.getD [], 0, 0, 0, []⟩] }

/-- A submission by a writer that may order for the region. -/
def orderPut (s : State) (r : Region) (code : Nat) (hops : BitVec 5) (arg0 arg1 : Word) : State :=
  if hasRegion s r then orderSubmit s r code hops.toNat arg0 arg1 else s

/-! ## Alarms (R203-R205, R256, R262) -/

/-- The MIC of an alarm under one sender, sweep and FE (R207): the SIDE is that of the lead, whose beacons the nodes follow. -/
def alarmMic (s : State) (r : Region) (m : RegionMap) (p : AlarmPacket) (sender : Nat) (sweep : Word) (fe : Half) : Bool :=
  let side := if isLead s then s.twin.sideB else !s.twin.sideB
  Config.airMic m.key (airNonce r (airByte1 side sender) 0xF0 p.slot.toNat sweep fe m.mapId) (alarmBody p) == p.mic

/-- An alarm reaches the module from hop 1 or over the bypass, in the micro-slot in progress, whose index its nonce carries
(R203, R207, R218). -/
def alarmHolds (s : State) (r : Region) (m : RegionMap) (p : AlarmPacket) : Bool :=
  let x := rgOf s r
  match x.frame with
  | some f => alarmSlot s r f == some p.slot.toNat && (hopList x).any fun h => heardSender x h && alarmMic s r m p h f.sweep f.fe
  | none => false

/-- The sweep numbers of the SLEEP orders under which a hop may be in watch: of the one that its TAG named, or of those sent to it
since its last record (R262). -/
def sleptIn (y : HopSt) : List Word := if y.watching then [y.watchSweep] else y.slept

/-- A WAKE burst from a hop that may be in watch: its nonce carries the sweep of the SLEEP order and the sender's count of bursts, and
any node in watch may have sent the packet on (R262). -/
def wakeHolds (s : State) (r : Region) (m : RegionMap) (p : AlarmPacket) : Bool :=
  let x := rgOf s r
  let fe := match x.frame with
    | some f => f.fe
    | none => s.sweep.fe
  p.code == 6 && sleptIn (hopAt x p.origin.toNat) != []
    && (hopList x).any fun h => (sleptIn (hopAt x h)).any fun n => alarmMic s r m p h n fe

/-- An alarm packet arrives. -/
def alarmRx (s : State) (r : Region) (p : AlarmPacket) : State :=
  let x := rgOf s r
  match x.map with
  | none => s
  | some m =>
    let o := p.origin.toNat
    let watch := wakeHolds s r m p
    if radioOut s r = true ∨ p.code = 0 ∨ o = 0 ∨ mapHops x < o then s
    else if (watch || alarmHolds s r m p) = false then modRg (airHeard s r) r fun x => { x with micFail := inc16 x.micFail }
    else if watch && decide (p.slot.toNat ≤ (hopAt x o).burst) then modRg (airHeard s r) r fun x => { x with replay := inc16 x.replay }
    else
      let args := fld o 11 + fld p.code.toNat 8 + p.slot.toNat % 256
      let s := modRg (airHeard s r) r fun x =>
        let x := { x with alarms := inc16 x.alarms, alarmLast := word args }
        if watch then setHop x o fun y => { y with burst := p.slot.toNat } else x
      let s := emitRe s r 1 0x04 false true args
      if p.code = 1 ∧ o = 1 then captureOrder s r else s

/-! ## Spare exchanges (R206) -/

/-- The hop is present: it delivered at the last close and is not in watch. -/
def hopPresent (x : RegionSt) (h : Nat) : Bool := (hopAt x h).absentAt.isNone && !(hopAt x h).watching

/-- The bytes of a capture section of a hop, and its segments. -/
def sectionLen (x : RegionSt) (h : Nat) : Nat := if h = 1 then 2672 else 32 + 440 * (hopSize x h).1
def segsOf (n : Nat) : Nat := (n + 241) / 242

/-- The section of a hop as far as it has arrived: a node that restarted answers with its header alone (R266). -/
def sectionDone (x : RegionSt) (c : Capture) (h : Nat) : Bool :=
  match c.segs.find? fun g => g.1 == h && g.2.1 == 0 with
  | none => false
  | some g => (byteAt g.2.2 2).testBit 2
      || (List.range (segsOf (sectionLen x h))).all fun i => c.segs.any fun y => y.1 == h && y.2.1 == i

/-- The hops whose section is still to come: the deepest first, the head last. -/
def sectionsLeft (x : RegionSt) (c : Capture) : List Nat :=
  ((hopList x).reverse.filter fun h => !(c.skip.contains h)).filter fun h => !(sectionDone x c h)

/-- A hop is to be challenged: listed, or failed 60 s ago (R474). -/
def chalWanted (s : State) (r : Region) (h : Nat) : Bool :=
  let x := rgOf s r
  decide (1 ≤ h ∧ h ≤ mapHops x) && hopPresent x h && (x.chalDue.contains h || (match (hopAt x h).failAt with
    | some t => decide (t + 60000000000 ≤ nowNs s)
    | none => false))

/-- Challenges (R473): the one whose signature is to be collected, the one to be sent again, or the next hop's. -/
def chalList (s : State) (r : Region) : List Spare :=
  let x := rgOf s r
  let fresh := ((hopList x).filter (chalWanted s r)).map .challenge
  match x.chal with
  | some (h, b, _, _) => if b ≠ [] then [.collect h] else if hopPresent x h then [.challenge h] else fresh
  | none => fresh

/-- The hops from `h` on, then those before it. -/
def hopsFrom (x : RegionSt) (h : Nat) : List Nat :=
  ((hopList x).filter fun k => decide (h ≤ k)) ++ (hopList x).filter fun k => decide (k < h)

/-- The next hop, from 2 on, that ranges its link: one in a frame, present hops taking turns (R194). -/
def rangeList (x : RegionSt) : List Spare :=
  if x.ranged then []
  else match (hopsFrom x x.rangeNext).find? fun h => decide (2 ≤ h) && hopPresent x h with
    | some h => [.ranging h]
    | none => []

/-- The hops that have not confirmed the new key: every one is sent it in each frame (R211). -/
def rekeyList (x : RegionSt) : List Spare := if x.rekeying then (unconfirmed x).map .rekey else []

/-- The hops that are present and for which something is due. -/
def hopsDue (x : RegionSt) (due : HopSt → Bool) : List Nat := (hopList x).filter fun h => due (hopAt x h) && hopPresent x h

/-- The queued orders of a kind, in submission order. -/
def ordersOf (x : RegionSt) (kind : Byte → Bool) : List Spare := (x.orders.filter fun o => kind o.code).map .order

/-- The hop to be reached, then the next one (R215). -/
def reachList (x : RegionSt) : List Spare := match x.reachDue with
  | some m => .reach m :: (if m + 1 ≤ mapHops x then [.reach (m + 1)] else [])
  | none => []

/-- The sections of the capture in upload: of hops that are present first, an absent one asked again each frame (R266). -/
def captureList (x : RegionSt) : List Spare := match x.captures.find? Capture.uploading with
  | some c => (((sectionsLeft x c).filter (hopPresent x)) ++ (sectionsLeft x c).filter fun h => !(hopPresent x h)).map .capture
  | none => []

/-- The exchanges that wait, in the priority of R206; within orders those of the queue go first (log entry 29). -/
def spareList (s : State) (r : Region) : List Spare :=
  let x := rgOf s r
  let now := nowNs s
  reachList x
  ++ (hopsDue x (keptOpen now)).map .kept
  ++ chalList s r
  ++ rekeyList x
  ++ rangeList x
  ++ ordersOf x (fun c => decide (0x10 ≤ c.toNat ∧ c.toNat ≤ 0x12) || c == 0x15)
  ++ (hopsDue x HopSt.limitsDue).map .limits
  ++ (hopsDue x HopSt.tallyDue).map .tally
  ++ x.nfw.toQuery.map .fwQuery
  ++ ordersOf x (fun c => c == 0x13)
  ++ captureList x
  ++ ordersOf x (fun c => c == 0x14)
  ++ (if x.nfw.toSend.isEmpty then [] else [.fwSeg])

/-- The next exchange of this frame: none of those that went unanswered in it. -/
def sparePick (s : State) (r : Region) : Option Spare := (spareList s r).find? fun p => !((rgOf s r).spareTried.contains p)

/-- A firmware segment leaves only in every third segment slot (R258). -/
def strideClear (s : State) (r : Region) (p : Spare) : Bool :=
  let seg := match p with
    | .fwSeg => true
    | .order o => o.code == 0x14
    | _ => false
  !seg || (match (rgOf s r).frame with
    | some f => decide (f.origin + segFrom s r f (rgOf s r).segLeft ≤ nowNs s)
    | none => false)

/-- The region's limits now, as LIMITS carries them (R251). -/
def limitsNow (s : State) (r : Region) : List Half :=
  [BitVec.ofNat 16 (reSet s r 1), BitVec.ofNat 16 (reSet s r 2), BitVec.ofInt 16 (reSetI s r 3), BitVec.ofInt 16 (reSetI s r 4)]

/-- The segments of a hop's section that have not arrived, at most 121. -/
def missingSegs (x : RegionSt) (c : Capture) (h : Nat) : List Half :=
  (((List.range (segsOf (sectionLen x h))).filter fun i => !(c.segs.any fun y => y.1 == h && y.2.1 == i)).take 121).map fun i =>
    BitVec.ofNat 16 i

/-- The request for a hop's section (R259). -/
def captureAsk (x : RegionSt) (h : Nat) : List Byte := match x.captures.find? Capture.uploading with
  | some c => [0x13, BitVec.ofNat 8 c.num.toNat] ++ bytes2 (missingSegs x c h)
  | none => [0x13, 0]

/-- A segment of the node image in the staging area (R258, R264). -/
def imageSeg (s : State) (i : Nat) : List Byte := bytesLE 2 i ++ memRead s.mem.dram (242 * i) 242

/-- What the packet that starts an exchange carries after its HOPS byte; `rnd` is its challenge, or its part of the wrapped key
(R206, R249; log entry 29 for the codes). -/
def spareRest (s : State) (r : Region) (rnd : List Byte) : Spare → List Byte
  | .reach _ => []
  | .kept h => 0x22 :: bytes4 (hopAt (rgOf s r) h).missed
  | .challenge _ => 0x23 :: rnd
  | .collect _ => [0x24]
  | .rekey _ => 0x21 :: rnd
  | .ranging _ => [0x20]
  | .order o => o.image.drop 1
  | .limits _ => 0x12 :: bytes2 (limitsNow s r)
  | .tally _ => [0x11]
  | .capture h => captureAsk (rgOf s r) h
  | .fwSeg => 0x14 :: imageSeg s ((rgOf s r).nfw.toSend.headD 0)
  | .fwQuery _ => [0x15]

/-- The HOPS byte of an exchange: an order's stands in its image. -/
def spareHop : Spare → Byte
  | .reach h | .kept h | .challenge h | .collect h | .rekey h | .ranging h | .limits h | .tally h | .capture h | .fwQuery h =>
    BitVec.ofNat 8 h
  | .order o => o.image.headD 0
  | .fwSeg => 0x1F

/-- The random part of an exchange's packet, in bytes: a challenge, or a part number and half of a wrapped key. -/
def spareRnd : Spare → Nat
  | .challenge _ => 32
  | .rekey _ => 193
  | _ => 0

/-- The packet that starts an exchange leaves `wait` ns from now: REACH directly, at REACH_DBM (R206, R215). -/
def spareSend (s : State) (r : Region) (p : Spare) (rnd : List Byte) (wait : Nat) : State :=
  let body := spareHop p :: spareRest s r rnd p
  match p with
  | .reach _ => airSendIn s r 0xB wait (reachDbm (rgOf s r)) body
  | _ => airSendIn s r 5 wait (serviceDbm (rgOf s r)) body

/-- Air time of what starts an exchange, ns: the new key goes in two packets 10 µs apart (R184, R201; log entry 29). -/
def spareAir (s : State) (r : Region) (p : Spare) : Nat :=
  let one := packetAir (spareRnd p + 1 + (spareRest s r [] p).length)
  match p with
  | .rekey _ => 2 * one + 10000
  | _ => one

/-- The frame's sweep is closed, no exchange is in progress, and a module that has just taken the lead waits for the next F (R185,
R187); under a test of the region's baseband exchanges wait (R500). -/
def spareFree (s : State) (r : Region) : Bool :=
  let x := rgOf s r
  transmits s && hasMap s r && x.spare.isNone && !(underTest s (16 + r.val)) && (match x.frame with
    | some f => f.closed && !f.mute
    | none => false)

/-- What an exchange needs of the RSA unit: a new key can be wrapped (R33, R210). -/
def spareWrapped (s : State) : Spare → Bool
  | .rekey _ => rsaFree s
  | _ => true

/-- The exchange that may start now: its packets keep clear of micro-slots and of the next F (R188, R206). -/
def spareReady (s : State) (r : Region) : Option Spare :=
  match sparePick s r, (rgOf s r).frame with
  | some p, some f =>
    if spareFree s r && strideClear s r p && spareWrapped s p && airClear s r f (spareAir s r p) then some p else none
  | _, _ => none

/-- An order leaves the queue, DONE. -/
def orderFinished (s : State) (r : Region) (o : Order) : State := orderDone (modRg s r fun x => { x with orders := x.orders.erase o }) r o

/-- A pass of the update ends: when the segments have gone the hops that lack some are queried, and when every hop of the image's
kind holds it the update is READY (R264). -/
def nfwSettle (n : NfwSt) : NfwSt :=
  if n.toSend.isEmpty = false ∨ n.step = 0 ∨ 3 ≤ n.step then n
  else if n.waiting ≠ [] then { n with step := 2, toQuery := n.toQuery ++ n.waiting, waiting := [] }
  else if n.toQuery.isEmpty then { n with step := 3 }
  else n

/-- A challenge leaves, and a hop that has waited for its own in vain is listed again. -/
def chalSend (s : State) (r : Region) (h : Nat) : State :=
  let d := drawBytes s 32
  let now := nowNs s
  let s := spareSend d.2 r (.challenge h) d.1 0
  modRg s r fun x =>
    let due := match x.chal with
      | some (k, _, _, _) => if k = h then x.chalDue else addOnce x.chalDue k
      | none => x.chalDue
    let tries := match x.chal with
      | some (k, _, _, n) => if k = h then n + 1 else 1
      | none => 1
    { x with chal := some (h, d.1, now, tries), chalDue := due.erase h }

/-- The new key leaves for a hop, wrapped for its public key, in two packets (R210; log entry 29). -/
def rekeySend (s : State) (r : Region) (h : Nat) : State :=
  match (rgOf s r).newKey, (rgOf s r).map.bind fun m => m.hops[h - 1]? with
  | some key, some v =>
    let i := drawFree s
    let b := oaepWrap v.pub key i.1
    spareSend (spareSend i.2 r (.rekey h) (0 :: b.take 192) 0) r (.rekey h) (1 :: b.drop 192) (packetAir 195 + 10000)
  | _, _ => s

/-- The lead starts an exchange. -/
def spareStart (s : State) (r : Region) (p : Spare) : State :=
  let now := nowNs s
  let go (s : State) (p : Spare) : State := modRg s r fun x => { x with spare := some p, spareAt := now }
  match p with
  | .challenge h => chalSend s r h
  | .fwSeg => modRg (spareSend s r p [] 0) r fun x => { x with segAt := now, segLeft := 3, nfw := nfwSettle { x.nfw with toSend := x.nfw.toSend.drop 1 } }
  | .rekey h => go (rekeySend s r h) p
  | .ranging _ => modRg (go (spareSend s r p [] 0) p) r fun x => { x with ranged := true }
  | .order o =>
    let s := spareSend s r p [] 0
    if o.code = 0x14 then orderFinished (modRg s r fun x => { x with segAt := now, segLeft := 3 }) r o
    else
      let o' := { o with tries := o.tries + 1 }
      go (modRg s r fun x => { x with orders := x.orders.map fun y => if y == o then o' else y }) (.order o')
  | p => go (spareSend s r p [] 0) p

/-- The exchange in progress ends; unanswered, it is not begun again in this frame. -/
def spareEnd (s : State) (r : Region) (tried : Bool) : State :=
  modRg s r fun x => { x with spare := none, spareTried := match x.spare with
    | some p => if tried then p :: x.spareTried else x.spareTried
    | none => x.spareTried }

/-- The next hop to range after h. -/
def rangeAfter (x : RegionSt) (h : Nat) : Nat := if mapHops x ≤ h then 2 else h + 1

/-- A hop reports its tallies; a BAL_TALLY that is due is sent all the same (R254). -/
def putTally (s : State) (r : Region) (h : Nat) (t : List Word) : State := modRg s r fun x => setHop x h fun y => { y with tally := t }

/-- The BAL_TALLY that was due to a hop is over (R254). -/
def tallyOver (s : State) (r : Region) (h : Nat) : State := modRg s r fun x => setHop x h fun y => { y with tallyDue := false }

/-- An order's exchange has brought no answer that ends it: it stands for the next frame (R249). -/
def orderTried (s : State) (r : Region) (o : Order) : State :=
  let s := spareEnd s r true
  if o.code = 0x10 ∧ 3 ≤ o.tries then orderLost (modRg s r fun x => { x with orders := x.orders.erase o }) r o [o.hops.toNat]
  else if o.code = 0x11 then orderFinished s r o
  else s

/-- The answer to a plan: GEN echoed stages it; GEN 0 leaves the staged plan (R249, R252). -/
def planAnswer (s : State) (r : Region) (o : Order) (gen : Byte) (t : List Word) : State :=
  let h := o.hops.toNat
  let s := putTally s r h t
  if gen ≠ 0 ∧ gen.toNat = byteAt o.image 2 then
    let s := modRg s r fun x => setHop x h fun y => { y with stagedGen := gen, stagedLife := natAt o.image 4 2 }
    orderFinished (spareEnd s r false) r o
  else orderTried s r o

/-- The answer to a firmware query (R264): the missing segments go out again, and the hop is queried after them. -/
def fwAnswer (h : Nat) (missing : Nat) (first : List Half) (ok : Bool) (n : NfwSt) : NfwSt :=
  let n := { n with toQuery := n.toQuery.erase h }
  nfwSettle (if missing = 0 ∧ ok = true then { n with ready := addOnce n.ready h }
    else { n with toSend := (first.map BitVec.toNat).foldl addOnce n.toSend, waiting := addOnce n.waiting h })

/-- The answer to a queued order. -/
def orderAnswer (s : State) (r : Region) (o : Order) (b : SpareBody) : State :=
  let done (s : State) : State := orderFinished (spareEnd s r false) r o
  match b with
  | .plan gen t => if o.code = 0x10 then planAnswer s r o gen t else s
  | .tally t => if o.code = 0x11 then done (putTally s r o.hops.toNat t) else s
  | .limits a b c d => if o.code = 0x12 then (if bytes2 [a, b, c, d] = (o.image.drop 2).take 8 then done s else orderTried s r o) else s
  | .fwQuery _ _ _ => if o.code = 0x15 then done s else s
  | _ => s

/-- A hop reports the median of its link delay, in the frame of its grant (R194, R217). -/
def rangeAnswer (s : State) (r : Region) (h : Nat) (d : Half) : State :=
  let x := rgOf s r
  let s := if x.spare = some (.ranging h) then spareEnd s r true else s
  if x.spare = some (.ranging h) ∨ x.spareTried.contains (.ranging h) = true then
    modRg s r fun x => { setHop x h fun y => { y with delay := some d } with rangeNext := rangeAfter x h }
  else s

/-- A hop confirms the new key (R210). -/
def keyConfirmed (s : State) (r : Region) (h : Nat) : State :=
  let x := rgOf s r
  let s := if x.spare = some (.rekey h) then spareEnd s r false else s
  if x.rekeying then modRg s r fun x => setHop x h fun y => { y with rekeyDone := true } else s

/-- A SPARE_UP body from a hop: the answer to the exchange in progress, or a late result that names its own exchange. -/
def spareBodyRx (s : State) (r : Region) (h : Nat) (b : SpareBody) : State :=
  match b with
  | .ranging d => rangeAnswer s r h d
  | .keyConfirm => keyConfirmed s r h
  | _ => match (rgOf s r).spare with
    | some (.order o) => if o.hops.toNat = h then orderAnswer s r o b else s
    | some (.tally k) => match b with
      | .tally t => if k = h then spareEnd (tallyOver (putTally s r h t) r h) r false else s
      | _ => s
    | some (.limits k) => match b with
      | .limits a b c d =>
        if k = h then
          (let same := [a, b, c, d] == limitsNow s r
           let s := spareEnd s r (!same)
           if same then modRg s r fun x => setHop x h fun y => { y with limitsDue := false } else s)
        else s
      | _ => s
    | some (.fwQuery k) => match b with
      | .fwQuery n l ok => if k = h then modRg (spareEnd s r false) r fun x => { x with nfw := fwAnswer h n.toNat l ok x.nfw } else s
      | _ => s
    | _ => s

/-- A SPARE_UP packet. -/
def spareUp (s : State) (r : Region) (a : SpareUp) : State :=
  airTake s r 6 a.hdr (spareBody a) a.mic fun s => if 1 ≤ a.hop ∧ a.hop ≤ mapHops (rgOf s r) then spareBodyRx s r a.hop a.body else s

/-- How long an exchange waits for its answer, ns: 2 ms where R215 and R249 say so; the others, which may bring several packets
over the hops, the segment slots that those take (R258; log entry 29). -/
def spareWait : Spare → Nat
  | .kept h | .collect h | .rekey h | .ranging h | .capture h => (h + 3) * 1100000
  | .order o => if o.code = 0x13 then (o.hops.toNat + 3) * 1100000 else 2000000
  | _ => 2000000

/-- The exchange in progress has waited for its answer too long; the wait pauses for micro-slots (R206). -/
def spareLate (s : State) (r : Region) : Bool := match (rgOf s r).spare, (rgOf s r).frame with
  | some p, some f =>
    let t := (rgOf s r).spareAt
    decide (t + spareWait p + microTime s r f t (nowNs s) ≤ nowNs s)
  | _, _ => false

/-- A capture that the order names is in upload. -/
def uploadOf (x : RegionSt) (o : Order) : Option Capture :=
  x.captures.find? fun c => c.uploading && c.num.toNat % 256 == byteAt o.image 2

/-- No answer in time (R249, R259): a CAP_UPLOAD whose capture is not in upload has nothing more to ask for. -/
def spareTimeout (s : State) (r : Region) : State :=
  match (rgOf s r).spare with
  | some (.reach _) => s
  | some (.order o) => if o.code = 0x13 ∧ (uploadOf (rgOf s r) o).isNone then orderFinished (spareEnd s r false) r o else orderTried s r o
  | some (.tally h) => tallyOver (spareEnd s r true) r h
  | some (.ranging h) => modRg (spareEnd s r true) r fun x => { x with rangeNext := rangeAfter x h }
  | some _ => spareEnd s r true
  | none => s

/-! ## Direct reach and kept records (R215, R216) -/

/-- A REACH_ANSWER: the bypass to hop k runs from the next frame, in place of the link to the absent hop (R215). -/
def reachAnswer (s : State) (r : Region) (hop : Nat) (a : ReachAnswer) : State :=
  airTake s r 0xC a.hdr (reachBody hop a) a.mic fun s =>
    if (rgOf s r).spare = some (.reach hop) then modRg s r fun x =>
      { setHop x hop fun y => { y with delay := some a.delay, reachTries := 0 } with
        spare := none, reachDue := none, bypass := some hop, bypassFrom := x.reachDue.getD hop, bypassRun := 0 }
    else s

/-- No answer to REACH: the next hop is tried, then the next frame (R215). -/
def reachTimeout (s : State) (r : Region) : State :=
  let x := rgOf s r
  match x.spare, x.reachDue with
  | some (.reach k), some m =>
    let s := spareEnd s r true
    if k = m ∧ m + 1 ≤ mapHops x then s
    else modRg s r fun x => { setHop x m fun y => { y with reachTries := y.reachTries + 1 } with reachDue := none }
  | some (.reach _), none => spareEnd s r true
  | _, _ => s

/-- Kept records of a hop: those of its missed sweeps are filled in, and the exchange ends when none is left (R140, R216). -/
def keptRx (s : State) (r : Region) (hop : Nat) (k : KeptPacket) : State :=
  airTake s r 6 k.hdr (keptBody hop k) k.mic fun s =>
    if (rgOf s r).spare = some (.kept hop) then
      let missed := (hopAt (rgOf s r) hop).missed
      let s := k.recs.foldl (fun s v => if missed.contains v.sweep then fillKept s r hop v else s) s
      let left := missed.filter fun n => !(k.recs.any fun v => v.sweep == n)
      let now := nowNs s
      let s := modRg s r fun x => { setHop x hop fun y => { y with
        missed := left, keptUntil := if left.isEmpty then none else y.keptUntil } with spareAt := now }
      if left.isEmpty then spareEnd s r false else s
    else s

/-! ## Step captures (R255-R260) -/

/-- The bytes of a section as they arrived, cut to its length. -/
def sectionData (x : RegionSt) (c : Capture) (h : Nat) : List Byte :=
  let n := segsOf (sectionLen x h)
  let part (i : Nat) : List Byte := match c.segs.find? fun y => y.1 == h && y.2.1 == i with
    | some y => y.2.2
    | none => []
  let b := ((List.range n).map part).flatten
  if (byteAt b 2).testBit 2 then b.take 32 else b.take (sectionLen x h)

/-- DELTA_I at the step, from the head's samples; without the head's section it is a free value. -/
def deltaI (s : State) (x : RegionSt) (c : Capture) : Nat :=
  let b := sectionData x c 1
  let i := (roundDiv (-(intAt b 12 4)) 1000000).toNat
  if sectionDone x c 1 && decide (0 < i ∧ i < 220 ∧ b.length = 2672) then
    ((intAt b (32 + 12 * i) 4 - intAt b (20 + 12 * i) 4) % 4294967296).toNat
  else (Config.freeWord s.free).toNat

/-- The capture record (R260). -/
def captureRecord (s : State) (r : Region) (c : Capture) (partial' : Bool) : List Byte :=
  let x := rgOf s r
  let done := (hopList x).filter fun h => sectionDone x c h
  let nodes := done.filter fun h => decide (2 ≤ h)
  let whole := done.length == mapHops x
  let t := match c.step with
    | some v => v.1
    | none => NetTime0
  let head := bytesLE 4 c.num.toNat ++ [BitVec.ofNat 8 r.val, BitVec.ofNat 8 (bitMask [whole, partial', nodes.isEmpty])]
    ++ bytesLE 2 (nodes.foldl (fun m h => m + 2 ^ (h - 2)) 0) ++ netBytes t ++ bytesLE 4 (deltaI s x c) ++ bytesLE 4 c.sweep.toNat
  let secs := (done.map (sectionData x c)).flatten
  head ++ bytesLE 4 (crc32c (head ++ bytesLE 4 0 ++ secs)).toNat ++ secs

/-- The capture closes: written to the next slot, CAPTURE_DONE. -/
def captureDone (s : State) (r : Region) (c : Capture) (partial' : Bool) : State :=
  let slot := s.sweep.capNext
  let s := dramWhole s (capBase + slot * 262144) (captureRecord s r c partial')
  let s := { s with free := s.free + 1, sweep := { s.sweep with capNext := (slot + 1) % 1024 } }
  let s := modRg s r fun x => { x with
    captures := x.captures.filter fun y => y.num != c.num, capLast := c.num, capSlot := slot
    spare := match x.spare with
      | some (.capture _) => none
      | p => p }
  emitRe s r 0 0x08 false true c.num.toNat

/-- The first capture of the queue may be uploaded. -/
def uploadDue (s : State) (r : Region) : Option Capture :=
  match (rgOf s r).captures.head? with
  | some c => match c.step with
    | some (_, t) => if c.uploading = false ∧ t + 250000000 ≤ nowNs s then some c else none
    | none => none
  | none => none

def putCapture (s : State) (r : Region) (c : Capture) : State :=
  modRg s r fun x => { x with captures := x.captures.map fun y => if y.num = c.num then c else y }

/-- A segment enters the capture in upload; the exchange that asked for its section waits for the next one, or ends. -/
def segmentTake (s : State) (r : Region) (g : CapSegment) : State :=
  let x := rgOf s r
  match x.captures.find? Capture.uploading with
  | none => s
  | some c =>
    if g.cap.toNat ≠ c.num.toNat % 256 ∨ g.hop = 0 ∨ mapHops x < g.hop ∨ segsOf (sectionLen x g.hop) ≤ g.index
        ∨ (c.segs.any fun y => y.1 == g.hop && y.2.1 == g.index) = true then s
    else
      let c := { c with segs := c.segs ++ [(g.hop, g.index, g.data)] }
      let now := nowNs s
      let s := putCapture s r c
      let asked : Bool := match x.spare with
        | some (.capture h) => h == g.hop
        | some (.order o) => o.code == 0x13 && o.hops.toNat == g.hop
        | _ => false
      let s := if asked then modRg s r fun x => { x with spareAt := now } else s
      let s := if asked && sectionDone x c g.hop then (match x.spare with
        | some (.order o) => orderFinished (spareEnd s r false) r o
        | _ => spareEnd s r false) else s
      if (sectionsLeft x c).isEmpty then captureDone s r c (!c.skip.isEmpty) else s

/-- A capture segment (R258, R259). -/
def segmentRx (s : State) (r : Region) (g : CapSegment) : State :=
  airTake s r 6 g.hdr (segBody g) g.mic fun s => segmentTake s r g

def uploadTimeout (s : State) (r : Region) : State :=
  match (rgOf s r).captures.find? Capture.uploading with
  | some c => if c.startAt + 20000000000 ≤ nowNs s then captureDone s r c true else s
  | none => s

/-! ## Node firmware (R264, R265) -/

def modNfw (s : State) (r : Region) (f : NfwSt → NfwSt) : State := modRg s r fun x => { x with nfw := f x.nfw }

/-- The hops of the image's kind. -/
def kindHops (x : RegionSt) (head : Bool) : List Nat := (hopList x).filter fun h => decide (h = 1) == head

def nfwLoad (s : State) (r : Region) : State :=
  let x := rgOf s r
  let len := s.folio.stageLen.toNat
  let img := if poisoned s 0 len && decide (0 < len) then none else Config.nodeImage (memRead s.mem.dram 0 len)
  if x.nfw.step ≠ 0 then modNfw s r fun n => { n with result := 0x03 }
  else match img with
    | none => modNfw s r fun n => { n with result := 0x01 }
    | some (head, v) =>
      let hs := kindHops x head
      modNfw s r fun _ => ⟨1, 0, [], hs.length, v, head, len, List.range (segsOf len), [], hs, [], [], 0⟩

def nfwActivate (s : State) (r : Region) : State :=
  let x := rgOf s r
  if x.nfw.step ≠ 3 then modNfw s r fun n => { n with result := 0x03 }
  else if anyCoil x.re then modNfw s r fun n => { n with result := 0x02 }
  else if ordersFull s r then modNfw (orderRefused s r 0x07) r fun n => { n with result := 0x03 }
  else
    let stop' := nowNs s + 5000000000
    let s := pushOwnOrder s r ⟨0x07, 0x1F, 0, 0, [], 0, 0, 0, []⟩ false
    modNfw s r fun n => { n with step := 4, result := 0, deadline := stop', back := [], failed := [] }

def nfwAbort (s : State) (r : Region) : State :=
  let n := (rgOf s r).nfw
  if n.step = 0 then s
  else if n.step = 4 then modNfw s r fun n => { n with result := 0x03 }
  else
    let s := modRg s r fun x => { x with
      orders := x.orders.filter fun o => o.code != 0x14 && o.code != 0x15 && o.code != 0x07
      spare := match x.spare with
        | some (.fwQuery _) => none
        | some (.order o) => if o.code = 0x15 then none else x.spare
        | p => p }
    modNfw s r fun n => { n with step := 0, result := 0, ready := [], total := 0, toSend := [], toQuery := [], waiting := [] }

/-- The nodes that have not come back are shown FW_FAILED. -/
def nfwTimeout (s : State) (r : Region) : State :=
  let n := (rgOf s r).nfw
  if n.step = 4 ∧ n.deadline ≤ nowNs s then
    let bad := n.ready.filter fun h => !(n.back.contains h)
    modNfw s r fun n => { n with step := 0, failed := bad, result := if bad.isEmpty then 0 else 0x04 }
  else s

def nfwCmd (s : State) (r : Region) (cmd : Nat) : State :=
  if cmd = 1 then nfwLoad s r else if cmd = 2 then nfwActivate s r else if cmd = 3 then nfwAbort s r else s

/-- A firmware command is taken from host writes of an OPERATOR session. -/
def nfwRow (sess : Session) (r : Region) (cmd : Nat) (s : State) : Out :=
  run s fun s => if isOperator s sess && hasRegion s r then nfwCmd s r cmd else s

/-! ## Node challenges (R473, R474) -/

/-- The challenge in progress, unless it is the hop's own. -/
def otherChal (x : RegionSt) (h : Nat) : Option (Nat × List Byte × Nat × Nat) := x.chal.filter fun c => c.1 != h

/-- FAIL, with its cause. -/
def chalFail (s : State) (r : Region) (h cause : Nat) : State :=
  let now := nowNs s
  let s := modRg s r fun x => { setHop x h fun y => { y with chalIdent := true, failAt := some now } with chal := otherChal x h }
  let s := { s with ident := { s.ident with failed := inc16 s.ident.failed } }
  emitRe s r 2 0x06 true true (fld h 16 + cause)

def chalPass (s : State) (r : Region) (h : Nat) : State :=
  let s := modRg s r fun x => { setHop x h fun y => { y with chalIdent := false, untrusted := false, failAt := none } with chal := otherChal x h }
  let s := { s with ident := { s.ident with passed := inc16 s.ident.passed } }
  emitRe s r 0 0x05 false false (fld h 16)

/-- The identity hash of the lead of the pair. -/
def leadHash (s : State) : DWord := if isLead s then moduleHash else s.twin.peerHash

/-- The packets of an answer, each judged under its MIC and FC: the bytes that those accepted bring, and none when one is discarded
(R209). -/
def takeParts (s : State) (r : Region) (hop : Nat) : List AirPart → Option (List Byte) → State × Option (List Byte)
  | [], b => (s, b)
  | p :: t, b => match (rgOf s r).map, (rgOf s r).frame with
    | some m, some f =>
      let g := airAccept s r m f 6 p.hdr (sigBody hop p.data) p.mic
      match g.2 with
      | some f => takeParts (modRg g.1 r fun x => { x with frame := some f }) r hop t (b.map fun l => l ++ p.data)
      | none => takeParts g.1 r hop t none
    | _, _ => (s, none)

/-- A hop's signature, collected in two SPARE_UP packets, goes to the RSA unit, which judges it under the key of the map (R33,
R473). -/
def chalAnswer (s : State) (r : Region) (hop : Nat) (parts : List AirPart) : State :=
  let g := takeParts s r hop parts (some [])
  let x := rgOf g.1 r
  match x.chal, x.map.bind fun m => m.hops[hop - 1]?.map fun v => (m, v), g.2 with
  | some (k, c, _, _), some (m, v), some sig =>
    if k ≠ hop ∨ x.spare ≠ some (.collect hop) ∨ parts.length ≠ 2 then g.1
    else
      let s := spareEnd g.1 r false
      let msg := c ++ bytesLE 8 (leadHash s).toNat ++ bytesLE 4 m.mapId.toNat ++ [BitVec.ofNat 8 hop]
      rsaAsk (modRg s r fun x => { x with chal := none }) (.chal r hop v.pub) msg sig
  | _, _, _ => g.1

/-- A challenge unanswered for 2 s is sent again in the next frame; the third gives FAIL. A hop that is absent by then is
challenged after its return (R473, R474). -/
def chalTimeout (s : State) (r : Region) : State :=
  match (rgOf s r).chal with
  | some (h, b, t, n) =>
    if b = [] ∨ nowNs s < t + 2000000000 then s
    else
      let s := if (rgOf s r).spare = some (.collect h) then spareEnd s r false else s
      if 3 ≤ n then chalFail s r h 0x02
      else if hopPresent (rgOf s r) h then modRg s r fun x => { x with chal := some (h, [], t, n), spareTried := .challenge h :: x.spareTried }
      else modRg s r fun x => { x with chal := none, chalDue := addOnce x.chalDue h }
  | none => s

/-- The spacing of the routine challenges, ns: ID_CHAL_INT over the hops. -/
def chalSpacing (s : State) (r : Region) : Nat := s.ident.chalInt.toNat * 3600000000000 / max 1 (mapHops (rgOf s r))

def chalRoutine (s : State) (r : Region) : State :=
  let x := rgOf s r
  let now := nowNs s
  if transmits s && hasMap s r && decide (x.chalAt + chalSpacing s r ≤ now) then
    modRg s r fun x =>
      let h := if mapHops x < x.chalNext then 1 else x.chalNext
      { x with chalAt := now, chalNext := h + 1, chalDue := addOnce x.chalDue h }
  else s

/-! ## What the mirror hears (R185, R202, R248, R473) -/

/-- An order of the shadow queue, or already sent once, that an entry carries. -/
def shadowOf (x : RegionSt) (e : CmdEntry) : Option Order :=
  let fits (o : Order) : Bool := o.code == e.order && o.hops == e.hops && o.arg1 == e.arg1 && (o.code == 3 || o.arg0 == e.arg0)
  match x.outstanding.find? fun o => fits o && o.tag == e.tag with
  | some o => some o
  | none => x.orders.find? fits

/-- The TAG that a hop, or the broadcast, takes next. -/
def trackTag (x : RegionSt) (e : CmdEntry) : RegionSt :=
  if e.hops = 0x1F then { x with broadcastTag := e.tag } else setHop x e.hops.toNat fun y => { y with nextTag := e.tag }

/-- One entry of the lead's command packet. -/
def heardEntry (s : State) (r : Region) (count : Nat) (stepOfs : Word) (e : CmdEntry) : State :=
  match shadowOf (rgOf s r) e, (rgOf s r).frame with
  | some o, some f => orderSent (if o.tries = 0 then modRg s r fun x => trackTag x e else s) r f count stepOfs o
  | _, _ => modRg s r fun x => trackTag x { e with tag := nextTagOf e.tag }

/-- The beacon of the lead: FE, the announced channel, the key in use (R183, R191, R210). -/
def heardBeacon (s : State) (r : Region) (b : Beacon) : State :=
  let next := bitsOf (b.flags.setWidth 32) 3 2
  let s := modRg s r fun x => { x with
    frame := x.frame.map fun f => if f.sweep = b.sweep then { f with fe := b.fe } else f
    announce := if decide (next ≠ 0) && x.announce.isNone then some (Fin.ofNat 3 (next - 1), 1) else x.announce }
  if b.flags.getLsbD 1 ≠ (rgOf s r).keySel then keyFlip s r else s

/-- The exchange that a SPARE_DOWN of the lead starts, and the shadow order that it carries, which is retired (R248). -/
def heardSpare (x : RegionSt) (h : Nat) (code : Byte) (rest : List Byte) : Option Spare × Option Order :=
  let img := [BitVec.ofNat 8 h, code] ++ rest
  match x.orders.find? fun o => decide (0x10 ≤ o.code.toNat) && o.image == img with
  | some o => (if o.code = 0x14 then none else some (.order { o with tries := o.tries + 1 }), some o)
  | none => (match code.toNat with
    | 0x10 => some (.order ⟨code, BitVec.ofNat 5 h, 0, 0, img, 1, 0, 0, []⟩)
    | 0x11 => some (.tally h)
    | 0x12 => some (.limits h)
    | 0x13 => some (.capture h)
    | 0x15 => some (.fwQuery h)
    | 0x20 => some (.ranging h)
    | 0x21 => some (.rekey h)
    | 0x22 => some (.kept h)
    | 0x24 => some (.collect h)
    | _ => none, none)

/-- A challenge that the lead sends (R473). -/
def heardChallenge (s : State) (r : Region) (h : Nat) (b : List Byte) : State :=
  let now := nowNs s
  modRg s r fun x => { x with
    chal := some (h, b, now, match x.chal with
      | some (k, _, _, n) => if k = h then n + 1 else 1
      | none => 1)
    chalDue := x.chalDue.erase h }

/-- A SPARE_DOWN of the lead: the mirror takes its answers as the lead does (R185). -/
def heardDown (s : State) (r : Region) (h : Nat) (code : Byte) (rest : List Byte) : State :=
  if code = 0x23 then heardChallenge s r h rest
  else
    let now := nowNs s
    let g := heardSpare (rgOf s r) h code rest
    modRg s r fun x => { x with
      spare := g.1, spareAt := now, ranged := x.ranged || code == 0x20
      orders := match g.2 with
        | some o => x.orders.erase o
        | none => x.orders
      nfw := if code = 0x14 then { x.nfw with toSend := x.nfw.toSend.erase (natAt rest 0 2) } else x.nfw }

/-- The lead's ACK: over a bypass the first one of a frame, before any packet of the head's transfer, is that of the bypass hop's
transfer; the head's closes the mirror's sweep (R202, R215; log entry 26). -/
def heardAck (s : State) (r : Region) : State :=
  let x := rgOf s r
  let by' := x.bypass.isSome && (match x.frame with
    | some f => !f.heard && !f.byAcked
    | none => false)
  if by' then modRg s r fun x => { x with frame := x.frame.map fun f => { f with byAcked := true } } else closeSweep s r

/-- What a packet of the lead tells the mirror (R185, R202, R206, R215, R248). -/
def leadMeans (s : State) (r : Region) : LeadBody → State
  | .ack _ => heardAck s r
  | .command l ofs => modRg (l.foldl (fun s e => heardEntry s r l.length ofs e) s) r fun x =>
      { x with frame := x.frame.map fun f => { f with commanded := true } }
  | .beacon b => heardBeacon s r b
  | .spareDown h c l => heardDown s r h.toNat c l
  | .reach h =>
    let now := nowNs s
    modRg s r fun x => { x with spare := some (.reach h), spareAt := now }

/-- The mirror hears a packet of the lead: it counts only under its MIC and FC, a beacon's under the key and the frame epoch
that it names (R191, R207-R209). -/
def leadHeard (s : State) (r : Region) (p : LeadPacket) : State :=
  let x := rgOf s r
  match x.map, x.frame with
  | some m, some f =>
    if p.hdr.sender ≠ 0 then s
    else
      let y := leadBytes p.body
      let g := match p.body with
        | .beacon b =>
          let key := if b.flags.getLsbD 1 ≠ x.keySel then x.newKey.getD m.key else m.key
          airAcceptKey s r key m.mapId f b.fe y.1 p.hdr y.2 p.mic
        | _ => airAccept s r m f y.1 p.hdr y.2 p.mic
      match g.2 with
      | some f => leadMeans (modRg g.1 r fun x => { x with frame := some f }) r p.body
      | none => g.1
  | _, _ => s

/-! ## Registers of the order block (R267) -/

/-- The live word at an offset 0x200-0x2FF of a region page. -/
def ordRead (s : State) (r : Region) (off : Nat) : Word :=
  let x := rgOf s r
  match off with
  | 0x20C => word (fld (min 16 x.orders.length) 24 + fld x.lastOrder.toNat 16 + x.ordResult.toNat)
  | 0x210 => word (fld x.lost 16 + x.queueFull)
  | 0x220 => word (fld x.captures.length 24 + x.capDropped)
  | 0x224 => x.capLast
  | 0x228 => word x.capSlot
  | 0x230 => word (fld (ofBool (streamRuns s r)) 31 + x.streamSamples)
  | 0x244 => word (fld x.nfw.result.toNat 24 + fld x.nfw.ready.length 16 + fld x.nfw.total 8 + x.nfw.step)
  | 0x248 => x.nfw.version
  | 0x250 => x.watchInt
  | _ => 0

/-- A write at an offset 0x200-0x2FF by a writer of the region. -/
def ordWrite (s : State) (who : Writer) (r : Region) (off : Nat) (v : Word) : State :=
  if !(regionWriter s r.val who) then s
  else
    match off with
    | 0x200 => modRg s r fun x => { x with ordHead := v }
    | 0x204 => modRg s r fun x => { x with ordArg0 := v }
    | 0x208 => orderSubmit s r (bitsOf (rgOf s r).ordHead 31 24) (bitsOf (rgOf s r).ordHead 20 16) (rgOf s r).ordArg0 v
    | 0x240 => (match who with
      | .host _ => nfwCmd s r (v.toNat % 16)
      | .worker _ => s)
    | 0x250 =>
      let x := v.toNat % 4096
      let a := clampNat 10 3600 x
      let s := modRg s r fun x => { x with watchInt := word a }
      if a = v.toNat then s else clampReg s who (0x30250 + 0x1000 * r.val) v (word a) (if a < x then 0x03 else 0x02)
    | _ => s

/-! ## The commands -/


/-- Every 10 s each node with a committed plan is asked for its tally (R254). -/
def execBalTallyTimer (r : Region) (s : State) : Out :=
  run s fun s =>
    let now := nowNs s
    if (rgOf s r).tallyAt + 10000000000 ≤ now then
      modRg s r fun x => { x with tallyAt := now, hops := x.hops.map fun h => if h.planLeft = 0 then h else { h with tallyDue := true } }
    else s

def execAlarmPacketRx (r : Region) (p : AlarmPacket) (s : State) : Out := run s fun s => alarmRx s r p
def execSpareExchangeStart (r : Region) (s : State) : Out :=
  run s fun s => match spareReady s r with
    | some p => spareStart s r p
    | none => s

def execSpareUpRx (r : Region) (a : SpareUp) (s : State) : Out := run s fun s => spareUp s r a
def execSpareAnswerTimeout (r : Region) (s : State) : Out := run s fun s => if spareLate s r then spareTimeout s r else s
def execReachAnswerRx (r : Region) (hop : Nat) (a : ReachAnswer) (s : State) : Out :=
  run s fun s => reachAnswer s r hop a
def execReachTimeout (r : Region) (s : State) : Out := run s fun s => if spareLate s r then reachTimeout s r else s
def execKeptRecordsRx (r : Region) (hop : Nat) (k : KeptPacket) (s : State) : Out := run s fun s => keptRx s r hop k

def execCaptureUploadStart (r : Region) (s : State) : Out :=
  run s fun s => match uploadDue s r with
    | some c => putCapture s r { c with uploading := true, startAt := nowNs s }
    | none => s

def execCaptureSegmentRx (r : Region) (seg : CapSegment) (s : State) : Out := run s fun s => segmentRx s r seg
def execCaptureUploadTimeout (r : Region) (s : State) : Out := run s fun s => uploadTimeout s r
def execFwActivateTimeout (r : Region) (s : State) : Out := run s fun s => nfwTimeout s r
def execNfwLoad (sess : Session) (r : Region) (s : State) : Out := nfwRow sess r 1 s
def execNfwActivate (sess : Session) (r : Region) (s : State) : Out := nfwRow sess r 2 s
def execNfwAbort (sess : Session) (r : Region) (s : State) : Out := nfwRow sess r 3 s

/-- NODE_CHALLENGE_START: the exchange that may start is the hop's challenge (R206, R473). -/
def execNodeChallengeStart (r : Region) (hop : Nat) (s : State) : Out :=
  run s fun s => if spareReady s r = some (.challenge hop) then spareStart s r (.challenge hop) else s

def execNodeChallengeAnswerRx (r : Region) (hop : Nat) (parts : List AirPart) (s : State) : Out :=
  run s fun s => chalAnswer s r hop parts
def execNodeChallengeTimeout (r : Region) (s : State) : Out := run s fun s => chalTimeout s r
def execNodeChallengeRoutine (r : Region) (s : State) : Out := run s fun s => chalRoutine s r
def execLeadPacketHeard (r : Region) (p : LeadPacket) (s : State) : Out := run s fun s => if transmits s then s else leadHeard s r p

end Sys2Proof.Machine
end

