-- ==== Sys2Proof/Machine/Sew.lean ====
section
/-! DEFINITION. Sewing and region maps (R182, R210-R214, R251, R473-R475), and the registers of the region radio (R219),
with the readings of log entry 30. -/
namespace Sys2Proof.Machine

/-! ## Region maps (R214) -/

/-- The signature of a map holds under this module's identity key or its twin's. -/
def mapHolds (s : State) (m : RegionMap) : Bool :=
  sigHolds (publicOf identityKey) (mapBytes m) m.sig || (s.twin.peerPub != [] && sigHolds s.twin.peerPub (mapBytes m) m.sig)

/-- A map whose signature fails is not used: the region has none, and the failure is recorded (R214). -/
def mapRefused (s : State) (r : Region) (m : RegionMap) : State :=
  emitRe (modRg s r fun x => { x with map := none }) r 3 0x0F true true (m.mapId.toNat % 4294967296)

/-- The identity at a hop of a map. -/
def hashAt (m : Option RegionMap) (h : Nat) : Option DWord := (m.bind fun m => m.hops[h - 1]?).map MapHop.idHash

/-- A map comes into force (R210, R251, R474, R475): new identities, challenges, limits, and a re-key when an identity
left. -/
def mapEnter (s : State) (r : Region) (m : RegionMap) : State :=
  let old := mapKept (rgOf s r)
  let now := nowNs s
  let changed (h : Nat) : Bool := hashAt (some m) h != hashAt old h
  let left := match old with
    | some o => o.hops.any fun h => !(m.hops.any fun k => k.idHash == h.idHash)
    | none => false
  let hops := (List.range m.hops.length).map fun i => i + 1
  let s := modRg s r fun x =>
    let x := mapStore x m
    let x := hops.foldl (fun x h => setHop x h fun y =>
      let y := if changed h then { HopSt.init with newIdent := decide (2 ≤ h), identSeen := y.identSeen } else y
      { y with
        limitsDue := true, absentAt := none, missed := [], keptUntil := none, reachTries := 0, watching := false, slept := []
        delay := if changed (h - 1) && decide (2 ≤ h) then none else y.delay }) x
    { x with
      map := some m, frame := none, bypass := none, chan := 0, announce := none, badRun := 0, chal := none, chalDue := hops
      chalNext := 1, chalAt := now, rangeNext := 2, rekeyDue := x.rekeyDue || left, spare := none
      re := { x.re with lastHead := none } }
  refit s

/-! ## Steps (R212, R213) -/

def modSew (s : State) (r : Region) (f : SewSt → SewSt) : State := modRg s r fun x => { x with sew := f x.sew }
def sewOf (s : State) (r : Region) : SewSt := (rgOf s r).sew

/-- STEP as RR_SEW_STATUS shows it. -/
def sewNum : SewStep → Nat
  | .idle => 0
  | .survey => 1
  | .call => 2
  | .challenge => 3
  | .prompt => 4
  | .keySent => 5
  | .ranging => 6
  | .search => 7
  | .between => 0
  | .finishing => 8

/-- SEW_RESULT at the end of a sewing step (R528). -/
def sewEvent (s : State) (r : Region) : State :=
  let w := sewOf s r
  emitRe s r 1 0x11 false true (fld w.result.toNat 24 + fld w.candHop.toNat 16 + sewNum w.step)

/-! ### Packets of sewing (R207, R213; log entry 30) -/

/-- A packet of sewing leaves under the draft's key, outside any frame, at the power of sewing. -/
def sewSend (s : State) (r : Region) (type wait : Nat) (body : List Byte) : State :=
  match (sewOf s r).draft with
  | some m => airPut s r m 0 s.sweep.fe type wait sewDbm body
  | none => s

/-- A hop's link parameters: its hop, the channels, the access address and CRC value, and its latest start (R202, R213). -/
def linkParams (s : State) (m : RegionMap) (h : Nat) : List Byte :=
  [BitVec.ofNat 8 h, m.primary.setWidth 8, m.alt1.setWidth 8, m.alt2.setWidth 8] ++ bytesLE 4 m.aa.toNat ++ bytesLE 3 m.crcInit.toNat
    ++ bytesLE 4 (latestStart s m h)

/-- The link key and link parameters go to the candidate under RSA-OAEP, in two packets; its second for KEY_ACK begins
(R213 step 5). -/
def keySend (s : State) (r : Region) : State :=
  let now := nowNs s
  let s := modSew s r fun w => { w with deadline := now + 1000000000 }
  match (sewOf s r).draft with
  | some m =>
    let w := sewOf s r
    let h := w.candHop.toNat
    let i := drawFree s
    let b := oaepWrap w.candPub (m.key ++ linkParams s m h) i.1
    sewSend (sewSend i.2 r 5 0 ([BitVec.ofNat 8 h, 0x21, 0] ++ b.take 192)) r 5 (packetAir 195 + 10000) ([BitVec.ofNat 8 h, 0x21, 1] ++ b.drop 192)
  | none => s

/-- Link parameters go to every node of a new map (R202, R213 step 8). -/
def paramsSend (s : State) (r : Region) (m : RegionMap) : State :=
  (hopList (rgOf s r)).foldl (fun s h =>
    airPut s r m 0 s.sweep.fe 5 ((h - 1) * 1100000) (serviceDbm (rgOf s r)) ([BitVec.ofNat 8 h, 0x25] ++ linkParams s m h)) s

/-! ### Steps and results -/

/-- A step ends with a result, and the next begins. -/
def sewGo (s : State) (r : Region) (result : Byte) (next : SewStep) (ns : Nat) : State :=
  let s := sewEvent (modSew s r fun w => { w with result := result }) r
  let now := nowNs s
  modSew s r fun w => { w with step := next, deadline := now + ns }

/-- Calling at hop 1, searching beyond it. -/
def sewCalls (hop : Nat) : SewStep := if hop = 1 then .call else .search
def sewSpan (hop : Nat) : Nat := if hop = 1 then 5000000000 else 8000000000

/-- The calls for hop k begin. -/
def sewCall (s : State) (r : Region) (k : Nat) (result : Byte) : State :=
  let s := sewGo s r result (sewCalls k) (sewSpan k)
  let now := nowNs s
  modSew s r fun w => { w with candHop := BitVec.ofNat 5 k, answers := [], cand := none, callAt := now }

/-- The strongest of the answers left. -/
def strongest (l : List EnrolAnswer) : Option EnrolAnswer :=
  l.foldl (fun b a => match b with
    | some x => if x.rssi.toInt < a.rssi.toInt then some a else b
    | none => some a) none

/-- The strongest answer becomes the candidate and is challenged; with none left the calls go on. -/
def sewTake (s : State) (r : Region) (result : Byte) : State :=
  match strongest (sewOf s r).answers with
  | none => sewCall s r (sewOf s r).candHop.toNat result
  | some a =>
    let d := drawBytes (sewGo s r result .challenge 3000000000) 32
    let s := modSew d.2 r fun w => { w with cand := some a, candRssi := a.rssi, chal := d.1, answers := w.answers.erase a }
    sewSend s r 5 0 ([BitVec.ofNat 8 (sewOf s r).candHop.toNat, 0x23] ++ d.1)

/-- The candidate is excluded and the next-strongest answer taken. -/
def sewExclude (s : State) (r : Region) (result : Byte) : State :=
  let s := modSew s r fun w => match w.cand with
    | some a => { w with excluded := a.idHash :: w.excluded, cand := none }
    | none => w
  sewTake s r result

/-- The hops behind a restitched one: the delay of the first one's link is new (R194, R214). -/
def relink (l : List MapHop) (d : Half) : List MapHop := match l with
  | h :: t => { h with delay := d } :: t
  | [] => []

/-- The hop stitched in, with the delays of its incoming link and of the link of the hop behind it: it ends the chain at 17, or when a
restitched chain is whole; else the search goes on. -/
def sewJoin (s : State) (r : Region) (delay next : Half) : State :=
  let w := sewOf s r
  match w.cand, w.draft with
  | some a, some m =>
    let k := w.candHop.toNat
    let h : MapHop := ⟨k == 1, a.idHash, w.candPub, a.cells, a.sensors, delay⟩
    let s := modSew s r fun w => { w with draft := some { m with hops := m.hops ++ [h] ++ relink w.tail next }, cand := none, tail := [], ranged := none }
    if w.tail ≠ [] then sewGo s r 0 .between 0
    else if 17 ≤ k then sewGo s r 0x06 .between 0
    else sewCall s r (k + 1) 0
  | _, _ => s

/-! ## Commands of RR_SEW_CMD (R212-R214) -/

/-- Sewing of the region is under way. -/
def sewing (s : State) (r : Region) : Bool := (sewOf s r).step != .idle

/-- The region leaves its map for sewing; the other regions may have closed the sweep in progress (R135, R212, R241). -/
def sewOut (s : State) (r : Region) : State :=
  sweepLeft (refit (modRg s r fun x => { x with
    map := none, frame := none, bypass := none, spare := none, chal := none, re := { x.re with lastHead := none } }))

/-- START: the survey, with a new address, CRC value and key drawn. -/
def sewStart (s : State) (r : Region) : State :=
  let k := drawBytes s 16
  let d := drawFree k.2
  let e := drawFree d.2
  let aa := (Config.draw d.1).setWidth 32
  let crc := (Config.draw d.1 >>> 32).setWidth 24
  let id := Config.freeWord e.1
  let stop' := nowNs s + 2000000000
  modSew (sewOut e.2 r) r fun _ => ⟨.survey, 0, 1, 0, none, [], [], [], [], some ⟨id, 0, 0, 0, aa, crc, k.1, [], 0, 0, []⟩, [], stop', 0, 0, none⟩

/-- A sewing command of the lead that cannot begin now. -/
def sewBusy (s : State) (r : Region) : State := modSew s r fun w => { w with result := 0x0B }

/-- RESTITCH and RESEW_FROM: the chain up to hop h, with the deeper hops kept or dropped. After a stitch that failed, the hop that
is missing may be stitched again, its tail being kept (log entry 30). -/
def sewFrom (s : State) (r : Region) (h : Nat) (keep : Bool) : State :=
  let x := rgOf s r
  let base := match x.sew.draft with
    | some m => some m
    | none => x.map
  match base with
  | none => s
  | some m =>
    let n := m.hops.length
    if h = 0 ∨ n + 1 < h ∨ (h = n + 1 ∧ x.sew.draft = none) then s
    else if keep && decide (h ≤ n) && x.sew.tail != [] then sewBusy s r
    else
      let s := modRg (sewOut s r) r fun x => { x with rekeyDue := true }
      let s := modSew s r fun w => { w with
        draft := some { m with hops := m.hops.take (h - 1) }
        tail := if keep then (if h ≤ n then m.hops.drop h else w.tail) else [], excluded := [], ranged := none, result := 0 }
      let now := nowNs s
      modSew s r fun w => { w with
        step := sewCalls h, deadline := now + sewSpan h, candHop := BitVec.ofNat 5 h, answers := [], cand := none, callAt := now }

/-- The map is built, signed, stored, put in force and passed to the twin. -/
def sewSigned (s : State) (r : Region) : State :=
  let w := sewOf s r
  match w.draft with
  | none => s
  | some m =>
    if w.step ≠ .finishing then s
    else
      let own := moduleHash
      let m := if s.twin.sideB then { m with twinA := s.twin.peerHash, twinB := own } else { m with twinA := own, twinB := s.twin.peerHash }
      let g := signMsg s identityKey (mapBytes m)
      let m := { m with sig := g.1 }
      let s := modSew g.2 r fun w => { w with step := .idle, draft := none, tail := [], cand := none, result := 0 }
      let fresh := match mapKept (rgOf s r) with
        | some o => o.mapId != m.mapId
        | none => true
      let s := mapEnter s r m
      let s := if fresh then modRg s r fun x => { x with keySel := false, newKey := none, rekeying := false, flipDue := false } else s
      sewEvent (modTwin (pairSend (paramsSend s r m) (.maps [(r, m)])) fun t => { t with
        peerMaps := if t.session then (r, m.mapId) :: t.peerMaps.filter fun y => y.1 != r else t.peerMaps }) r

/-- FINISH: the map's signature is asked of the RSA unit (R33, R213 step 8). -/
def sewFinish (s : State) (r : Region) : State :=
  let w := sewOf s r
  match w.draft with
  | none => s
  | some m =>
    if w.step ≠ .between ∨ m.hops = [] then sewBusy s r
    else rsaDo (modSew s r fun w => { w with step := .finishing }) (.sewMap r) fun s => sewSigned s r

/-- ABANDON: the previous map is in force again, unless its signature fails, which is recorded as at a start (R212, R214). -/
def sewAbandon (s : State) (r : Region) : State :=
  if sewing s r then
    let s := modSew s r fun _ => SewSt.init
    match mapKept (rgOf s r) with
    | some m =>
      if mapHolds s m then
        refit (modRg s r fun x => { x with map := some m, frame := none, hops := x.hops.map fun h => { h with limitsDue := true } })
      else mapRefused s r m
    | none => s
  else s

/-- A command of RR_SEW_CMD written by the host. -/
def sewCmd (s : State) (r : Region) (cmd hop : Nat) : State :=
  if cmd = 0 ∨ 7 < cmd then s
  else if !(isLead s) then modSew s r fun w => { w with result := 0x0A }
  else if anyCoil (reOf s r) then modSew s r fun w => { w with result := 0x09 }
  else
    let w := sewOf s r
    match cmd with
    | 1 => sewStart s r
    | 2 => if w.step = .prompt then rsaDo (sewGo s r 0 .keySent 1000000000) (.sewKey r) (fun s => keySend s r) else s
    | 3 => if w.step = .prompt then sewExclude s r 0 else s
    | 4 => sewFinish s r
    | 5 => sewAbandon s r
    | 6 => if w.step = .idle ∨ w.step = .between then sewFrom s r hop true else sewBusy s r
    | _ => if w.step = .idle ∨ w.step = .between then sewFrom s r hop false else sewBusy s r

def sewRow (sess : Session) (r : Region) (cmd hop : Nat) (s : State) : Out :=
  run s fun s => if isOperator s sess && hasRegion s r then sewCmd s r cmd hop else s

/-! ## What happens meanwhile (R182, R213, R214) -/

/-- Channels by rising energy, the lower index first. -/
def quietChans (energies : List Nat) : List Nat :=
  ((indexed energies).take 37).foldl (fun l x =>
    let before := l.filter fun y : Nat => decide ((match energies[y]? with | some v => v | none => 0) ≤ x.2)
    before ++ [x.1] ++ l.filter fun y : Nat => !(decide ((match energies[y]? with | some v => v | none => 0) ≤ x.2))) []

def farFrom (a b : Nat) : Bool := decide (a + 4 ≤ b ∨ b + 4 ≤ a)

/-- The maps of a region: in force, or kept and in the making while it is sewn; one whose survey still runs names no channel yet. -/
def heldMaps (x : RegionSt) : List RegionMap :=
  x.map.toList ++ (if x.sew.step = .idle then [] else (mapKept x).toList ++ (if x.sew.step = .survey then [] else x.sew.draft.toList))

/-- The primary that no other region of this module uses, and two alternates apart from it and from each other. -/
def pickChans (s : State) (r : Region) (energies : List Nat) : Nat × Nat × Nat :=
  let q := quietChans energies
  let used (c : Nat) : Bool := (List.finRange 16).any fun k => k != r && (heldMaps (rgOf s k)).any fun m => m.primary.toNat == c
  let p := ((q.find? fun c => !(used c)).getD 0)
  let a := ((q.find? fun c => farFrom c p).getD 0)
  let b := ((q.find? fun c => farFrom c p && farFrom c a).getD 0)
  (p, a, b)

/-- The survey ends: the channels are taken and the calls begin. -/
def surveyEnd (s : State) (r : Region) (energies : List Nat) : State :=
  let w := sewOf s r
  if w.step = .survey ∧ w.deadline ≤ nowNs s then
    let c := pickChans s r energies
    let s := modSew s r fun w => { w with draft := w.draft.map fun m => { m with
      primary := BitVec.ofNat 6 c.1, alt1 := BitVec.ofNat 6 c.2.1, alt2 := BitVec.ofNat 6 c.2.2 } }
    sewCall s r 1 0
  else s

/-- Another region's map of this module holds the identity. -/
def heldElsewhere (s : State) (r : Region) (id : DWord) : Bool :=
  (List.finRange 16).any fun k => k != r && (heldMaps (rgOf s k)).any fun m => (m.hops ++ (rgOf s k).sew.tail).any fun h => h.idHash == id

/-- A packet of sewing is heard: stamped, and its meaning follows (R63, R504). -/
def sewHeard (s : State) (r : Region) (act : State → State) : State := if radioOut s r then s else act (airHeard s r)

/-- An enrolment answer. -/
def enrolAnswer (s : State) (r : Region) (a : EnrolAnswer) : State :=
  let w := sewOf s r
  if w.step ≠ .call ∧ w.step ≠ .search then s
  else if a.elsewhere || a.head != (w.step == .call) || w.excluded.contains a.idHash || (w.answers.any fun b => b.idHash == a.idHash)
      || (match w.draft with
         | some m => (m.hops ++ w.tail).any fun h => h.idHash == a.idHash
         | none => false) then s
  else if heldElsewhere s r a.idHash then modSew s r fun w => { w with result := 0x07 }
  else
    let now := nowNs s
    modSew s r fun w => { w with answers := w.answers ++ [a], firstAt := if w.answers = [] then now else w.firstAt }

/-- The end of the 1 s of calls, or of the power step, in which the first answer came (R213). -/
def windowStop (w : SewSt) : Nat :=
  let start := w.deadline - sewSpan w.candHop.toNat
  start + ((w.firstAt - start) / 1000000000 + 1) * 1000000000

/-- The window that brought the first answer ends. -/
def windowEnd (s : State) (r : Region) : State :=
  let w := sewOf s r
  if (w.step = .call ∨ w.step = .search) ∧ w.answers ≠ [] ∧ windowStop w ≤ nowNs s then sewTake s r 0 else s

/-- The candidate's key, certificate and signature are judged: the challenge is still the one that they answer. -/
def sewProve (s : State) (r : Region) (chal : List Byte) (a : ChallengeAnswer) : State :=
  let w := sewOf s r
  match w.step, w.cand with
  | .challenge, some c =>
    let ok := hashOf a.pub == c.idHash && sigHolds nodeCa a.cert a.certSig && Config.certKey a.cert == some a.pub
      && sigHolds a.pub (w.chal ++ bytesLE 8 moduleHash.toNat) a.sig
    if w.chal ≠ chal then s
    else if ok then sewGo (modSew s r fun w => { w with candPub := a.pub }) r 0 .prompt 120000000000 else sewExclude s r 0x02
  | _, _ => s

/-- The candidate's answer comes within its 3 s, and goes to the RSA unit (R33, R213 step 3). -/
def sewChallengeRx (s : State) (r : Region) (a : ChallengeAnswer) : State :=
  let w := sewOf s r
  if w.step = .challenge then rsaDo s (.sewProof r w.chal a) fun s => sewProve s r w.chal a else s

/-- An operation of the RSA unit for the sewing of the region is still to end: the time of its step does not run out. -/
def sewAsks (s : State) (r : Region) : Bool := s.crypto.any fun q => match q.job with
  | .sewProof k _ _ | .sewKey k => k == r
  | _ => false

/-- KEY_ACK under the new link key: a node ranges its incoming link, and the head with hop 2 where that is kept (R213, R214). -/
def keyAck (s : State) (r : Region) (mic : Word) : State :=
  let w := sewOf s r
  match w.step, w.draft with
  | .keySent, some m =>
    if Config.airMic m.key (airNonce r (airByte1 s.twin.sideB w.candHop.toNat) 0 0 0 0 m.mapId) [] == mic then
      (if w.candHop = 1 ∧ w.tail = [] then sewJoin s r ((rgOf s r).antDelay.setWidth 16) 0 else sewGo s r 0 .ranging 1000000000)
    else modRg s r fun x => { x with micFail := inc16 x.micFail }
  | _, _ => s

/-- The time of a step has ended. -/
def sewDue (s : State) (r : Region) (st : SewStep) : Bool := (sewOf s r).step == st && !(sewAsks s r) && decide ((sewOf s r).deadline ≤ nowNs s)

/-! ## Registers of the region radio (R219) -/

/-- D_h as shown: hop 1 shows the antenna delay. -/
def linkDelay (x : RegionSt) (h : Nat) : Nat :=
  if h = 1 then x.antDelay.toNat
  else match (hopAt x h).delay with
    | some d => d.toNat
    | none => match x.map.bind fun m => m.hops[h - 1]? with
      | some v => v.delay.toNat
      | none => 0

def rrState (s : State) (r : Region) : Nat := if sewing s r then 1 else if (rgOf s r).map.isSome then 2 else 0

/-- The live word at an offset 0x000-0x0FF of a region page. -/
def rrRead (s : State) (r : Region) (off : Nat) : Word :=
  let x := rgOf s r
  let n := mapHops x
  let ch (f : RegionMap → BitVec 6) : Nat := match x.map with
    | some m => (f m).toNat
    | none => 0
  if 0x80 ≤ off ∧ off < 0xC4 then word (linkDelay x ((off - 0x80) / 4 + 1))
  else
    match off with
    | 0x00 => word (fld (x.bypass.getD 0) 27 + fld n 22 + fld n 17 + fld x.chan.val 15 + fld (ofBool x.keySel) 14
        + fld (ofBool (transmits s && (hasMap s r || beingSewn s r))) 13 + rrState s r)
    | 0x04 => word (fld (ch RegionMap.alt2) 16 + fld (ch RegionMap.alt1) 8 + ch RegionMap.primary)
    | 0x08 => match x.map with
      | some m => m.mapId
      | none => 0
    | 0x0C => match x.map with
      | some m => m.aa
      | none => 0
    | 0x10 => x.antDelay
    | 0x14 => x.txPwr
    | 0x18 => word s.sweep.fe.toNat
    | 0x20 => word (fld x.noEcho 16 + x.badFrames)
    | 0x24 => word (fld x.micFail 16 + x.replay)
    | 0x28 => word (fld x.retries 16 + x.absents)
    | 0x2C => word (fld x.alarms 16 + x.chanSwitches)
    | 0x30 => x.alarmLast
    | 0x44 => word (fld x.sew.result.toNat 24 + fld x.sew.candHop.toNat 16 + fld x.sew.candRssi.toNat 8 + sewNum x.sew.step)
    | 0x48 => match x.sew.cand with
      | some a => a.idHash.setWidth 32
      | none => 0
    | 0x4C => match x.sew.cand with
      | some a => (a.idHash >>> 32).setWidth 32
      | none => 0
    | _ => 0

/-- RR_TXPWR with each field within its range: REACH_DBM 0 to 10, MARGIN_DB 0 to 12. -/
def fixTxPwr (v : Word) : Word × Byte :=
  let p := (BitVec.ofNat 8 (bitsOf v 15 8)).toInt
  let a := (clampInt 0 10 p).toNat
  let m := min 12 (bitsOf v 7 0)
  (word (fld a 8 + m), if p < 0 then 0x02 else if 10 < p ∨ 12 < bitsOf v 7 0 then 0x03 else 0)

/-- A write at an offset 0x000-0x0FF by a writer of the region. -/
def rrWrite (s : State) (who : Writer) (r : Region) (off : Nat) (v : Word) : State :=
  if !(regionWriter s r.val who) then s
  else
    let addr := 0x30000 + 0x1000 * r.val + off
    match off with
    | 0x10 =>
      let a := word (min 2000 v.toNat)
      let s := modRg s r fun x => { x with antDelay := a }
      if a = v then s else clampReg s who addr v a 0x03
    | 0x14 =>
      let a := fixTxPwr v
      let s := modRg s r fun x => { x with txPwr := a.1 }
      if a.2 = 0 then s else clampReg s who addr v a.1 a.2
    | 0x40 => (match who with
      | .host _ => sewCmd s r (v.toNat % 16) (bitsOf v 12 8)
      | .worker _ => s)
    | _ => s

/-! ## The commands -/

def execSewStart (sess : Session) (r : Region) (s : State) : Out := sewRow sess r 1 0 s
def execSewConfirm (sess : Session) (r : Region) (s : State) : Out := sewRow sess r 2 0 s
def execSewReject (sess : Session) (r : Region) (s : State) : Out := sewRow sess r 3 0 s
def execSewFinish (sess : Session) (r : Region) (s : State) : Out := sewRow sess r 4 0 s
def execSewAbandon (sess : Session) (r : Region) (s : State) : Out := sewRow sess r 5 0 s
def execSewRestitch (sess : Session) (r : Region) (hop : BitVec 5) (s : State) : Out := sewRow sess r 6 hop.toNat s
def execSewResewFrom (sess : Session) (r : Region) (hop : BitVec 5) (s : State) : Out := sewRow sess r 7 hop.toNat s
def execSewSurveyEnd (r : Region) (energies : List Nat) (s : State) : Out := run s fun s => surveyEnd s r energies

/-- ENROL_CALL_TX: every 10 ms while the module calls. -/
def execEnrolCallTx (r : Region) (s : State) : Out :=
  run s fun s =>
    let now := nowNs s
    if (sewOf s r).step = .call ∧ (sewOf s r).callAt ≤ now then
      sewSend (modSew s r fun w => { w with callAt := now + 10000000 }) r 9 0 [1]
    else s

def execEnrolAnswerRx (r : Region) (a : EnrolAnswer) (s : State) : Out := run s fun s => sewHeard s r fun s => enrolAnswer s r a
def execSewAnswerWindowEnd (r : Region) (s : State) : Out := run s fun s => windowEnd s r

/-- SEW_NO_ANSWER: no head within 5 s; START must be written again. -/
def execSewNoAnswer (r : Region) (s : State) : Out :=
  run s fun s => if sewDue s r .call ∧ (sewOf s r).answers = [] then sewGo s r 0x01 .between 0 else s

def execChallengeAnswerRx (r : Region) (a : ChallengeAnswer) (s : State) : Out := run s fun s => sewHeard s r fun s => sewChallengeRx s r a
def execSewChallengeTimeout (r : Region) (s : State) : Out := run s fun s => if sewDue s r .challenge then sewExclude s r 0x02 else s
def execSewConfirmTimeout (r : Region) (s : State) : Out := run s fun s => if sewDue s r .prompt then sewGo s r 0x03 .between 0 else s
def execKeyAckRx (r : Region) (mic : Word) (s : State) : Out := run s fun s => sewHeard s r fun s => keyAck s r mic
def execSewKeyTimeout (r : Region) (s : State) : Out := run s fun s => if sewDue s r .keySent then sewGo s r 0x04 .between 0 else s

/-- SEW_SEARCH_TIMEOUT: no block node within 8 s. -/
def execSewSearchTimeout (r : Region) (s : State) : Out :=
  run s fun s => if sewDue s r .search ∧ (sewOf s r).answers = [] then sewGo s r 0x05 .between 0 else s

/-- SEW_RANGING_DONE: the ranging of one link is complete. A restitched node ranges its incoming link first, then the link of hop
h + 1; the head has no incoming link to range (R194, R213, R214; log entry 30). -/
def rangingDone (s : State) (r : Region) (delay : Half) : State :=
  let w := sewOf s r
  let ant := (rgOf s r).antDelay.setWidth 16
  if w.step ≠ .ranging then s
  else if w.tail = [] then sewJoin s r (if w.candHop = 1 then ant else delay) 0
  else if w.candHop = 1 then sewJoin s r ant delay
  else match w.ranged with
    | none => modSew s r fun w => { w with ranged := some delay }
    | some d => sewJoin s r d delay

def execSewRangingDone (r : Region) (delay : Half) (s : State) : Out := run s fun s => rangingDone s r delay

/-- SEW_LINK_FAIL: the node has not ranged its links within 1 s. -/
def execSewLinkFail (r : Region) (s : State) : Out := run s fun s => if sewDue s r .ranging then sewGo s r 0x08 .between 0 else s

end Sys2Proof.Machine
end

