-- ==== Sys2Proof/Machine/Folio.lean ====
section
/-! DEFINITION. Folios, their load and reload, settings fields and the clamp reports (R44, R48, R161-R180, R221, R230),
with the readings of log entry 32. -/
namespace Sys2Proof.Machine

/-! ## The image (R161-R166) -/

def folioMax : Nat := 3 * mib

/-- Section i of an image: 0 CODE, 1 WORKERS, 2 CHANMAP, 3 SETTINGS, 4 TABLES, 5 GOLDEN. -/
def sect' (b : List Byte) (i : Nat) : List Byte := (b.drop (natAt b (24 + 8 * i) 4)).take (natAt b (28 + 8 * i) 4)

/-- The verification of R166: form, then the signature under slot 0x10. -/
def folioHolds (s : State) (b : List Byte) : Bool :=
  let len := natAt b 16 4
  let inside (i : Nat) : Bool := natAt b (28 + 8 * i) 4 == 0 || decide (natAt b (24 + 8 * i) 4 + natAt b (28 + 8 * i) 4 ≤ len - 384)
  natAt b 0 4 == 0x4F56_4631 && natAt b 4 2 == 2 && decide (384 ≤ len ∧ len ≤ folioMax ∧ len ≤ b.length)
    && (List.range 6).all inside
    && (match s.ident.folioKey with
        | some k => sigHolds k (b.take (len - 384)) ((b.drop (len - 384)).take 384)
        | none => false)

/-! ## The load report (R175) -/

/-- An entry of the load report. -/
def clampLoad (s : State) (subject given applied : Word) (scope : Half) (source reason : Byte) : State :=
  modFolio s fun f => { f with clamp := { f.clamp with
    load := if f.clamp.load.length < 8192 then f.clamp.load ++ [⟨s.arb.seq, subject, given, applied, scope, source, reason⟩] else f.clamp.load
    loadCount := inc16 f.clamp.loadCount } }

/-- The entries of a start's load carry the number of its START event (R175; log entry 32). -/
def stampLoad (s : State) : State :=
  let n := s.arb.seq
  modFolio s fun f => { f with clamp := { f.clamp with load := f.clamp.load.map fun e => { e with seq := n } } }

/-- A load that produced more than the report stores is recorded (R175). -/
def reportFull (s : State) (reload : Bool) : State :=
  if 8192 < s.folio.clamp.loadCount then emit s 27 2 0x09 false true chipScope (word (fld (ofBool reload) 16 + s.folio.clamp.loadCount)) else s

/-! ## Fields (R171-R174) -/

/-- CRC-8 of R172. -/
def crc8Bit (c : Byte) : Byte := if c.getLsbD 7 then (c <<< 1) ^^^ 0x07 else c <<< 1
def crc8 (l : List Byte) : Byte :=
  l.foldl (fun c b => crc8Bit (crc8Bit (crc8Bit (crc8Bit (crc8Bit (crc8Bit (crc8Bit (crc8Bit (c ^^^ b))))))))) 0xFF

/-- A field: identifier, type, value, and whether its CRC holds. -/
structure Field where
  id : Nat
  ty : Nat
  v : Word
  good : Bool
deriving DecidableEq, Repr

def fieldOf (b : List Byte) : Field :=
  ⟨natAt b 0 2, byteAt b 2, word (natAt b 4 4), (crc8 (b.take 3 ++ (b.drop 4).take 4)).toNat == byteAt b 3⟩

/-- A field of a block by its bytes, with a good CRC. -/
def fieldBytes (id ty : Nat) (v : Word) : List Byte :=
  let h := bytesLE 2 id ++ [BitVec.ofNat 8 ty]
  let t := bytesLE 4 v.toNat
  h ++ [crc8 (h ++ t)] ++ t

/-- The fields of a SETTINGS section. -/
def fieldsOf (b : List Byte) : List Field :=
  if b.length < 8 ∨ natAt b 0 2 ≠ 1 then []
  else (List.range (min (natAt b 4 4) ((b.length - 8) / 8))).map fun i => fieldOf ((b.drop (8 + 8 * i)).take 8)

/-- The index of the identifier lies in the variant. -/
def inVariant (s : State) (id : Nat) : Bool := idGroup id != 2 || decide (idIndex id < s.nReg)

/-- The scope that a settings entry carries: the region of group 2, the chip otherwise. -/
def fieldScope (id : Nat) : Half := if idGroup id = 2 then regionScope (Fin.ofNat 16 (idIndex id)) else chipScope

/-- Checks 1-8 and 10 (R173): the value, whether it is applied, and the reason. -/
def fieldCheck (s : State) (f : Field) (live : Bool) : Word × Bool × Byte :=
  if f.good = false then (if live then cfgGet s f.id else settingDefault f.id, false, 0x01)
  else match catalogue f.id with
    | none => (0, false, 0x07)
    | some row =>
      if inVariant s f.id = false then (0, false, 0x08)
      else if live && row.2.2.2.2.2 == 0 then (cfgGet s f.id, false, 0x0D)
      else
        let c := checkValue row f.ty f.v
        if c.2 ≠ 0 then (c.1, true, c.2)
        else if live && row.2.2.2.2.2 == 2 then (c.1, true, 0x0B)
        else (c.1, true, 0)

/-- The pairs of R174: the field that must be lower, the other, and whether they may be equal. -/
def pairsOf (s : State) : List (Nat × Nat × Bool) :=
  ((List.range s.nReg).map fun r =>
    [(regId r 2, regId r 1, false), (regId r 4, regId r 3, false), (regId r 6, regId r 5, true), (regId r 0x0B, regId r 0x0C, false)]).flatten

/-- A pair with given values is violated. -/
def pairBad (p : Nat × Nat × Bool) (lo hi : Int) : Bool := if p.2.2 then decide (hi < lo) else decide (hi ≤ lo)

/-! ## Loading settings (R44, R48, R171, R174) -/

/-- One field of a block at load; APPLIED is what the last field of the identifier leaves in force (R175). -/
def loadField (source : Byte) (n : Nat) (all : List Field) (s : State) (x : Nat × Field) : State :=
  let f := x.2
  let subject := word (fld x.1 16 + f.id)
  let note (s : State) (v : Word) (k : Byte) : State := clampLoad s subject f.v v (fieldScope f.id) source k
  let c := fieldCheck s f false
  let later := ((all.drop (x.1 + 1)).filter fun g => g.good && g.id == f.id && (fieldCheck s g false).2.1).getLast?
  let after := match later with
    | some g => (fieldCheck s g false).1
    | none => c.1
  if n ≤ x.1 then s
  else if c.2.1 = false then note s c.1 c.2.2
  else if f.id = 2 ∧ s.wheel.nominalHeld.isSome then note s (word (ofBool (s.wheel.nominalHeld.getD false))) 0x09
  else if c.2.2 ≠ 0 then note (cfgSet s f.id c.1) after c.2.2
  else if later.isSome then note s after 0x09
  else cfgSet s f.id c.1

/-- The upper half of a SUBJECT at load (R175): the position in the block of the field that gave the value, 0xFFFF where the
block gives none (log entry 32). -/
def fieldPos (l : List Field) (id : Nat) : Nat :=
  match ((indexed l).filter fun x => x.2.good && x.2.id == id).getLast? with
  | some x => x.1
  | none => 0xFFFF

/-- The SUBJECT of an entry about a field of a block. -/
def fieldSubject (l : List Field) (id : Nat) : Word := word (fld (fieldPos l id) 16 + id)

/-- The pairs of the fields at load: a violated pair takes both defaults. -/
def loadPairs (source : Byte) (l : List Field) (s : State) (ok : Nat → Bool) : State :=
  ((pairsOf s).filter fun p => ok p.1).foldl (fun s p =>
    let lo := cfgGet s p.1
    let hi := cfgGet s p.2.1
    if pairBad p lo.toInt hi.toInt then
      let s := cfgSet (cfgSet s p.1 (settingDefault p.1)) p.2.1 (settingDefault p.2.1)
      let s := clampLoad s (fieldSubject l p.1) lo (settingDefault p.1) (fieldScope p.1) source 0x0C
      clampLoad s (fieldSubject l p.2.1) hi (settingDefault p.2.1) (fieldScope p.2.1) source 0x0C
    else s) s

/-- REC_RING and ARCHIVE together hold at most 3,200 MiB. -/
def loadAreas (source : Byte) (l : List Field) (s : State) : State :=
  let a := cfgNat s 0x6001
  let b := cfgGet s 0x6002
  if 3200 < a + b.toNat then
    clampLoad (cfgSet s 0x6002 (word (3200 - a))) (fieldSubject l 0x6002) b (word (3200 - a)) chipScope source 0x0C
  else s

/-- N of R48 for the period in force: the nearest, the larger of two, never below what every region fits. -/
def cyclesFor (s : State) : Nat :=
  let f := if s.wheel.nominal then 60 else 50
  max ((2 * cfgNat s 0x1001 * f + 1000) / 2000) s.sweep.minN

/-- N follows the period; where it gives another length, N and that length in ms are reported. -/
def loadPeriod (l : List Field) (s : State) : State :=
  let s := refit s
  let n := cyclesFor s
  let s := refit { s with sweep := { s.sweep with n := n } }
  let p := cfgGet s 0x1001
  let ms := (roundDiv ((n * nominalLen s : Nat) : Int) 1000000).toNat
  if n * nominalLen s / 1000 = p.toNat * 1000 ∨ (s.wheel.nominal = true ∧ n * 50 = p.toNat * 3) then s
  else
    let s := clampLoad s (fieldSubject l 0x1001) p (word n) chipScope 0x00 0x0A
    clampLoad s (fieldSubject l 0x1001) p (word ms) chipScope 0x00 0x0A

/-- The registers that a settings field initialises and that have a home of their own (R177). -/
def loadHolds (s : State) : State :=
  { s with
    quantum := cfgNat s 7
    sweep := { s.sweep with frac := BitVec.ofNat 24 (cfgNat s 0x1002), hush := cfgNat s 0x1003, effDecim := archDecim s } }

/-- The settings of a whole load: every field not given takes its default. -/
def loadSettings (s : State) (b : List Byte) : State :=
  let l := fieldsOf b
  let s := { s with cfg := [] }
  let s := (indexed l).foldl (loadField 0x00 l.length l) s
  let s := loadAreas 0x00 l (loadPairs 0x00 l s fun _ => true)
  loadHolds s

/-! ## Loading workers and channels (R163-R165, R455) -/

/-- A load event (R536). -/
def loadEvent (s : State) (w : Worker) (reason : Nat) (scope : Half) : State :=
  emit s 28 2 0x01 true true chipScope (word (fld w.val 24 + fld reason 16 + scope.toNat))

/-- A valid scope (R82). -/
def scopeValid (s : State) (sc : Half) : Bool :=
  (decide (scopeLevel sc = 2) && decide (scopeIndex sc < s.nReg)) || (chipOrPair sc && decide (scopeIndex sc = 0))

/-- DRAM_LEN as it takes effect: at most 512 MiB, whole lines, clear of the recorder ring (R87, R163, R455). -/
def fixDramLen (s : State) (base len : Nat) : Nat × Nat × Nat :=
  let a := min len 0x20000000
  let b := a / 64 * 64
  let ring := ringBase
  let stop' := archBase s
  let c := if base < ring then min b (ring - base) else if base < stop' then 0 else min b (dramBytes - base)
  (a, b, c)

/-- The descriptor's stores are limited: it reaches outside the writable areas. -/
def storesLimited (s : State) (base len : Nat) : Bool := decide (0 < len) && !(storable s base len)

/-- A worker with nothing loaded, on the core that serves it; a launch of it that is still queued keeps its number (R78, R98,
R160). -/
def unloaded (s : State) (w : Worker) : WorkerSt := { WorkerSt.init w with core := placeOf s w, launches := (wkOf s w).launches }

/-- One worker entry. -/
def loadWorker (source : Byte) (s : State) (w : Worker) (e : List Byte) : State :=
  let entry := natAt e 0 4
  let sc := BitVec.ofNat 16 (natAt e 4 2)
  let note (s : State) (given applied : Nat) (k : Byte) : State := clampLoad s (word w.val) (word given) (word applied) sc source k
  let s := setWk s w (unloaded s w)
  if entry = 0xFFFFFFFF then s
  else if scopeValid s sc = false then loadEvent s w 1 sc
  else if segmentAllowed sc entry = false ∨ s.folio.codeLen ≤ entry then loadEvent s w 2 sc
  else if entry % 4 ≠ 0 then loadEvent s w 3 sc
  else
    let prio := BitVec.ofNat 2 (byteAt e 6)
    let rmax := min 15 (byteAt e 7)
    let s := if 15 < byteAt e 7 then note s (byteAt e 7) 15 0x03 else s
    let bud := fixBudget prio (word (natAt e 8 4))
    let s := if bud.2 = 0 then s else note s (natAt e 8 4) bud.1.toNat bud.2
    let base := natAt e 12 4
    let off := base / 64 * 64
    let len := natAt e 16 4
    let d := fixDramLen s off len
    let s := if d.1 ≠ len then note s len d.1 0x03 else s
    let s := if d.2.1 ≠ d.1 then note s d.1 d.2.1 0x04 else s
    let s := if d.2.2 ≠ d.2.1 then note s d.2.1 d.2.2 0x0F else s
    let s := if base % 2 = 1 && storesLimited s off d.2.2 then note s d.2.2 d.2.2 0x0F else s
    setWk s w { unloaded s w with
      entry := word entry, pc := word entry, scope := sc, prio := prio, state := .stopped, action := (byteAt e 6).testBit 4
      restartMax := BitVec.ofNat 4 rmax, budget := bud.1, dramBase := word (off + base % 2), dramLen := word d.2.2 }

/-- A worker for which there is no whole entry. -/
def missingWorker (source : Byte) (s : State) (w : Worker) : State :=
  clampLoad (setWk s w (unloaded s w)) (word w.val) 0 0 0 source 0x0E

/-- The entry of a worker in a WORKERS section. -/
def workerEntry (b : List Byte) (w : Worker) : Option (List Byte) :=
  if 24 * w.val + 24 ≤ b.length then some ((b.drop (24 * w.val)).take 24) else none

/-- Workers with START set go READY once the load completes. -/
def startLoaded (s : State) (b : List Byte) (w : Worker) : State :=
  match workerEntry b w with
  | some e => if (byteAt e 6).testBit 7 ∧ (wkOf s w).state = .stopped then modWk s w atEntry else s
  | none => s

def loadWorkers (s : State) (b : List Byte) : State :=
  forWorkers s fun w s => match workerEntry b w with
    | some e => loadWorker 0x06 s w e
    | none => missingWorker 0x06 s w

/-- A channel entry by itself (R164): the map, and its changes as given, applied, reason. -/
def chanEntry (s : State) (e : List Byte) : ChanMap × List (Nat × Nat × Byte) :=
  let o := byteAt e 0
  let owner : Option Region := if o < s.nReg then some (Fin.ofNat 16 o) else none
  let c1 := if owner.isNone ∧ o ≠ 0xFF then [(o, 0xFF, (0x08 : Byte))] else []
  let k := byteAt e 1
  let cls : Fin 3 := if k < 3 then Fin.ofNat 3 k else 2
  let c2 := if k < 3 then [] else [(k, 2, (0x05 : Byte))]
  let q := byteAt e 2
  let role : Fin 4 := if 3 < q then 0 else if owner.isNone ∨ cls ≠ 0 then 0 else Fin.ofNat 4 q
  let c3 := if 3 < q then [(q, 0, (0x05 : Byte))] else if role.val ≠ q then [(q, 0, (0x0C : Byte))] else []
  let n := byteAt e 3
  let rn := clampNat 1 15 n
  let c4 := if rn = n then [] else [(n, rn, if n < rn then (0x02 : Byte) else 0x03)]
  let p := natAt e 4 2
  let pn := if cls = 0 then clampNat 20 1000 p else p
  let c5 := if pn = p then [] else [(p, pn, if p < pn then (0x02 : Byte) else 0x03)]
  (⟨owner, cls, role, rn, pn⟩, c1 ++ c2 ++ c3 ++ c4 ++ c5)

/-- The channel map of a CHANMAP section: of two channels that claim one role the lower keeps it. -/
def loadChan (source : Byte) (b : List Byte) (s : State) (c : Chan) : State :=
  if 8 * c.val + 8 ≤ b.length then
    let x := chanEntry s ((b.drop (8 * c.val)).take 8)
    let m := x.1
    let taken := m.role != 0 && (List.finRange 64).any fun d => decide (d.val < c.val) && (mapOf s d).owner == m.owner && (mapOf s d).role == m.role
    let m' := if taken then { m with role := 0 } else m
    let l := x.2 ++ if taken then [(m.role.val, 0, (0x0C : Byte))] else []
    let s := modFolio s fun f => { f with chan := f.chan.set c m' }
    l.foldl (fun s e => clampLoad s (word c.val) (word e.1) (word e.2.1) (chanScope s c) source e.2.2) s
  else
    let s := modFolio s fun f => { f with chan := f.chan.set c ChanMap.missing }
    clampLoad s (word c.val) 0 0 chipScope source 0x0E

def loadChans (s : State) (b : List Byte) : State :=
  forChans s fun c s => if hasChan s c then loadChan 0x07 b s c else modFolio s fun f => { f with chan := f.chan.set c ChanMap.missing }

/-- The images of the shared-table segments. -/
def loadTables' (s : State) (b : List Byte) (only : Option Nat) : State :=
  (Config.tableImages b).foldl (fun s x =>
    if x.1 < 16 ∧ (only = none ∨ only = some x.1) then
      modMem s fun m => { m with tables := memWrite (memClear m.tables (0x40000 * x.1) 0x40000) (0x40000 * x.1) (x.2.take 0x40000) }
    else s) s

/-! ## Slots (R167-R169) -/

def slotState (f : FolioSt) (b : Bool) : SlotState := if b then f.stB else f.stA
def setSlot (f : FolioSt) (b : Bool) (st : SlotState) : FolioSt := if b then { f with stB := st } else { f with stA := st }

/-- The bytes of a slot's image. -/
def slotBytes (f : FolioSt) (b : Bool) : List Byte := if b then memRead f.imgB 0 f.lenB else memRead f.imgA 0 f.lenA

/-- Numbers of the slot states. -/
def slotNum : SlotState → Nat
  | .empty => 0
  | .valid => 1
  | .bad => 2
  | .trial => 3
  | .writing => 4
  | .reverted => 5

def folioResult (s : State) (cmd result : Byte) : State := modFolio s fun f => { f with lastCmd := cmd, result := result }

/-- VERIFY. -/
def folioVerify (s : State) : State :=
  if s.folio.busy ≠ .none then folioResult s 1 0x03
  else if folioMax < s.folio.stageLen.toNat then folioResult s 1 0x02
  else folioResult (rsaAsk (modFolio s fun f => { f with busy := .verify, verified := none }) .folio [] []) 1 0xFF

/-- The verification ends, the RSA unit having been granted to it (R33, R166). -/
def folioVerifyDone (s : State) : State :=
  if s.folio.busy ≠ .verify ∨ rsaServes s .folio = false then s
  else
    let s := rsaNext s
    let len := s.folio.stageLen.toNat
    let bad := decide (0 < len) && poisoned s 0 len
    let ok := !bad && folioHolds s (memRead s.mem.dram 0 len)
    modFolio s fun f => { f with busy := .none, result := if ok then 0 else 0x01, verified := if ok then some len else none }

/-- WRITE_SLOT: the inactive slot is WRITING. -/
def writeSlot (s : State) : State :=
  let f := s.folio
  if f.busy ≠ .none ∨ slotState f f.active = .trial then folioResult s 2 0x03
  else if f.verified ≠ some f.stageLen.toNat then folioResult s 2 0x04
  else folioResult (modFolio s fun f => { setSlot f (!f.active) .writing with busy := .writeSlot }) 2 0xFF

def writeSlotDone (s : State) : State :=
  if s.folio.busy ≠ .writeSlot then s
  else
    let len := s.folio.stageLen.toNat
    let b := memRead s.mem.dram 0 len
    let ok := folioHolds s b
    let v := word (natAt b 8 4)
    let img := memWrite [] 0 b
    modFolio s fun f =>
      let f := if f.active then { f with imgA := img, lenA := len, verA := v } else { f with imgB := img, lenB := len, verB := v }
      { setSlot f (!f.active) (if ok then .valid else .bad) with busy := .none, result := if ok then 0 else 0x01 }

/-- CONFIRM. -/
def folioConfirm (s : State) : State :=
  let f := s.folio
  if f.busy ≠ .none then folioResult s 4 0x03
  else if slotState f f.active = .trial then folioResult (modFolio s fun f => setSlot f f.active .valid) 4 0
  else folioResult s 4 0x09

/-- ACTIVATE can be carried out: the slot is marked TRIAL and ACTIVE points at it; the restart follows (R169, R170). -/
def folioActivate (s : State) : State × Bool :=
  let f := s.folio
  if f.busy ≠ .none then (folioResult s 3 0x03, false)
  else if slotState f (!f.active) ≠ .valid then (folioResult s 3 0x05, false)
  else (folioResult (modFolio s fun f => { setSlot f (!f.active) .trial with active := !f.active, activateStart := true, busy := .activate }) 3 0, true)

/-! ## Reload (R178-R180) -/

/-- Offset and length of section i of an image. -/
def sectOff (b : List Byte) (i : Nat) : Nat := natAt b (24 + 8 * i) 4
def sectLen (b : List Byte) (i : Nat) : Nat := natAt b (28 + 8 * i) 4

/-- Byte x of an image lies in section i; its offset there. -/
def inSect (b : List Byte) (i x : Nat) : Option Nat :=
  if sectOff b i ≤ x ∧ x < sectOff b i + sectLen b i then some (x - sectOff b i) else none

/-- Byte x of an image lies in region part r (R178): code segment r, a worker entry of its scope, a channel entry of its own, or
a field of group 2 with its index. -/
def inRegionPart (b : List Byte) (r x : Nat) : Bool :=
  (match inSect b 0 x with
   | some i => decide (0x100000 + 0x10000 * r ≤ i ∧ i < 0x110000 + 0x10000 * r)
   | none => false)
  || (match inSect b 1 x with
   | some i => decide (i / 24 < 160 ∧ 24 * (i / 24) + 24 ≤ sectLen b 1) && natAt b (sectOff b 1 + 24 * (i / 24) + 4) 2 == 0x4000 + r
   | none => false)
  || (match inSect b 2 x with
   | some i => decide (i / 8 < 64 ∧ 8 * (i / 8) + 8 ≤ sectLen b 2) && byteAt b (sectOff b 2 + 8 * (i / 8)) == r
   | none => false)
  || (match inSect b 3 x with
   | some i =>
     let k := (i - 8) / 8
     let id := natAt b (sectOff b 3 + 8 + 8 * k) 2
     decide (8 ≤ i ∧ k < natAt b (sectOff b 3 + 4) 4 ∧ 16 + 8 * k ≤ sectLen b 3) && decide (idGroup id = 2 ∧ idIndex id = r)
   | none => false)

/-- A folio without its region part r and its signature: every byte with its place, but for the TABLES section, of which the
images of the other segments count (R178, R179; log entry 32). -/
def withoutRegion (b : List Byte) (r : Nat) : List (Option Byte) × List (Nat × List Byte) :=
  ((indexed (b.take (natAt b 16 4 - 384))).map fun x => if inRegionPart b r x.1 || (inSect b 4 x.1).isSome then none else some x.2,
   (Config.tableImages (sect' b 4)).filter fun x => x.1 != r)

/-- How many frames ahead the first lies that begins at least `ns` from now (R176). -/
def framesBeyond (s : State) (ns : Nat) : Nat :=
  let first : Int := (stampTime s (nextStamp s) : Int) - longestLead s
  let miss : Int := (nowNs s : Int) + ns - first
  let len := max 1 (s.sweep.n * s.wheel.cycLen)
  if miss ≤ 0 then 0 else ((miss + len - 1) / len).toNat

/-- The sweep of a settings write made now. -/
def settingSweep (s : State) : Word := sweepAfter s.sweep.nextNum (framesBeyond s 10000000)

/-- A reload of region r waits for the close of sweep m. -/
def reloadWait (s : State) (r : Region) (m : Word) : State :=
  folioResult (modFolio s fun f => { f with busy := .reload r m none, redo := [] }) 5 0xFF

/-- RELOAD of region r: the checks, then it waits for the close of one sweep in both twins, whose number the command carries. The
twin's HELLO tells the folio that it runs: another one is TWIN_MISMATCH; what its inactive slot holds no frame tells, so that with the
same one running TWIN_MISMATCH is a free outcome (R179, R388; log entry 32). -/
def reloadStart (s : State) (r : Region) : State :=
  let f := s.folio
  if f.busy ≠ .none then folioResult s 5 0x03
  else if slotState f (!f.active) ≠ .valid then folioResult s 5 0x05
  else if withoutRegion (slotBytes f (!f.active)) r.val ≠ withoutRegion (slotBytes f f.active) r.val then folioResult s 5 0x06
  else
    let d := drawFree s
    if s.twin.present && (s.twin.folioDiff || Config.freeBool d.1) then folioResult d.2 5 0x08
    else
      let m := settingSweep d.2
      pairSend (reloadWait d.2 r m) (.forward (.reload r m))

/-- A chip or pair worker's PC lies in segment r. -/
def chipInSegment (s : State) (r : Region) : Bool :=
  (List.finRange 160).any fun w =>
    let k := wkOf s w
    chipOrPair k.scope && k.state != .empty && segmentOf k.pc.toNat == some r.val

/-- A reload quiesces and unloads a worker (R78, R79, R179). -/
def unloadWorker (s : State) (w : Worker) : State :=
  let s := leaveWorker (modWk s w quiesce) w .empty
  setWk s w (unloaded s w)

/-- Steps 1-5 of R179. -/
def reloadApply (s : State) (r : Region) : State :=
  let f := s.folio
  let b := slotBytes f (!f.active)
  let ws := sect' b 1
  let mine (s : State) (w : Worker) : Bool := (wkOf s w).scope == regionScope r && (wkOf s w).state != .empty
  let gone := (List.finRange 160).filter fun w => mine s w && (workerEntry ws w).isNone
  let s := forWorkers s fun w s => if mine s w then unloadWorker s w else s
  let s := modFolio s fun f => { f with
    codeLen := (sect' b 0).length, clamp := { f.clamp with load := [], loadCount := 0 } }
  let s := loadTables' s (sect' b 4) (some r.val)
  let l := fieldsOf (sect' b 3)
  let group (id : Nat) : Bool := idGroup id == 2 && idIndex id == r.val
  let s := { s with cfg := s.cfg.filter fun x => !(group x.1) }
  let s := (indexed l).foldl (fun s x => if group x.2.id then loadField 0x01 l.length l s x else s) s
  let s := loadPairs 0x01 l s group
  let s := f.redo.foldl (fun s x => cfgSet s x.1 x.2) s
  let s := forChans s fun c s => if (mapOf s c).owner == some r then loadChan 0x01 (sect' b 2) s c else s
  let s := bankUpdateAll s
  let new (w : Worker) : Bool := match workerEntry ws w with
    | some e => natAt e 4 2 == (regionScope r).toNat
    | none => false
  let s := forWorkers s fun w s => match workerEntry ws w with
    | some e => if new w then loadWorker 0x01 s w e else s
    | none => if gone.contains w then missingWorker 0x01 s w else s
  let s := forWorkers s fun w s => if new w then startLoaded s ws w else s
  let s := modRg s r fun x => (hopList x).foldl (fun x h => setHop x h fun y => { y with limitsDue := true }) x
  let s := modFolio s fun f => { f with
    busy := .none, redo := [], result := 0, active := !f.active, runVer := word (natAt b 8 4) }
  reportFull s true

/-- The region has closed sweep m, or closes none. -/
def regionClosed (s : State) (r : Region) (m : Word) : Bool :=
  !(hasMap s r) || (match (rgOf s r).frame with
    | some f => f.closed && sweepReached f.sweep m
    | none => false)

/-- The reload is applied at the close of its sweep, or waits for a chip or pair worker to leave the segment (R179, R180). -/
def reloadDue (s : State) : State :=
  match s.folio.busy with
  | .reload r m stop' =>
    if regionClosed s r m = false then s
    else if chipInSegment s r then
      (let now := nowNs s
       if stop'.isNone then modFolio s fun f => { f with busy := .reload r m (some (now + 10000000)) } else s)
    else reloadApply s r
  | _ => s

def reloadTimeout (s : State) : State :=
  match s.folio.busy with
  | .reload r _ (some t) =>
    if t ≤ nowNs s ∧ chipInSegment s r = true then modFolio s fun f => { f with busy := .none, redo := [], result := 0x07 } else s
  | _ => s

/-! ## Run-time settings (R174, R176, R221, R230) -/

/-- A field waits for its sweep; a change of the fraction or of HUSH takes effect with its frame. `order` is that of its
submission to this module, 0 for another. -/
def fieldWait (s : State) (m : Word) (order id : Nat) (given v : Word) (reason : Byte) : State :=
  let s := modFolio s fun f => { f with pendingFields := f.pendingFields ++ [⟨m, id, given, v, reason, order⟩] }
  if id = 0x1002 then sweepChanges { s with sweep := { s.sweep with fracNext := s.sweep.fracNext ++ [(m, v.setWidth 24)] } }
  else if id = 0x1003 then sweepChanges { s with sweep := { s.sweep with hushNext := s.sweep.hushNext ++ [(m, v.toNat)] } }
  else s

/-- A field as it is received: the checks, its entry in the clamp ring, and its place in the queue. -/
def fieldTake (s : State) (order : Nat) (f : Field) (m : Word) : State :=
  let c := fieldCheck s f true
  let s := if c.2.2 = 0 then s else
    clampAdd s (word (fld 0xFFFF 16 + f.id)) f.v (if c.2.2 = 0x0B then cfgGet s f.id else c.1) (fieldScope f.id) 0x02 c.2.2
  if c.2.1 then fieldWait s m order f.id f.v c.1 c.2.2 else s

/-- SET_FIELD_HI: the field is numbered, checked, given its sweep and forwarded. -/
def settingsSubmit (s : State) (k : Session) (hi : Word) : State :=
  let lo := s.folio.fieldLo[k]
  let f := fieldOf (bytesLE 4 lo.toNat ++ bytesLE 4 hi.toNat)
  let s := number s
  let m := settingSweep s
  let r := (fieldCheck s f true).2.2
  let n := s.folio.submitted + 1
  let s := modFolio s fun x => { x with setReason := r, submitted := n }
  pairSend (fieldTake s n f m) (.forward (.setting (BitVec.ofNat 64 (hi.toNat * 4294967296 + lo.toNat)) m))

/-- What follows from a settings field that has taken another value in service. -/
def settingMoved (s : State) (id : Nat) : State :=
  if id = 1 then wheelSrcMoved s
  else if id = 6 then timeSrcMoved s
  else if id = 7 then { s with quantum := cfgNat s 7 }
  else if id = 0x3002 then reshapeAll s
  else if id = 0x6003 then { s with sweep := { s.sweep with effDecim := archDecim s } }
  else if idGroup id = 2 ∧ 1 ≤ idItem id ∧ idItem id ≤ 4 then
    modRg s (Fin.ofNat 16 (idIndex id)) fun x => (hopList x).foldl (fun x h => setHop x h fun y => { y with limitsDue := true }) x
  else s

/-- A field is put in force. -/
def settingPut (s : State) (id : Nat) (v : Word) : State := if cfgGet s id = v then s else settingMoved (cfgSet s id v) id

/-- The pair that a field belongs to. -/
def pairOf (s : State) (id : Nat) : Option (Nat × Nat × Bool) := (pairsOf s).find? fun p => p.1 == id || p.2.1 == id

/-- A value of region r that takes effect while its reload is in progress stands after the reloaded values (R180). -/
def settingRedo (s : State) (id : Nat) (v : Word) : State :=
  match s.folio.busy with
  | .reload r _ _ => if idGroup id = 2 ∧ idIndex id = r.val then modFolio s fun f => { f with redo := f.redo ++ [(id, v)] } else s
  | _ => s

/-- A field at its sweep: the pair check against the partner in force, then its value. -/
def fieldApply (s : State) (p : PendingField) : State :=
  let s := modFolio s fun f => { f with pendingFields := f.pendingFields.erase p }
  match pairOf s p.id with
  | some q =>
    let lo := if p.id = q.1 then p.value else cfgGet s q.1
    let hi := if p.id = q.1 then cfgGet s q.2.1 else p.value
    if pairBad q lo.toInt hi.toInt then
      let other := if p.id = q.1 then q.2.1 else q.1
      let s := clampAdd s (word (fld 0xFFFF 16 + p.id)) p.given (cfgGet s p.id) (fieldScope p.id) 0x02 0x0C
      let s := clampAdd s (word (fld 0xFFFF 16 + other)) (cfgGet s other) (cfgGet s other) (fieldScope other) 0x02 0x0C
      if p.order ≠ 0 ∧ p.order = s.folio.submitted then modFolio s fun f => { f with setReason := 0x0C } else s
    else settingPut (settingRedo s p.id p.value) p.id p.value
  | none => if p.id = 2 then setNominal s (p.value == 1) else settingPut (settingRedo s p.id p.value) p.id p.value

/-- The first waiting field whose sweep has come. -/
def fieldDue (s : State) : Option PendingField := s.folio.pendingFields.find? fun p => sweepReached s.sweep.nextNum p.sweep

/-- A write of SWEEP_FRAC or SWEEP_HUSH: it takes effect at the sweep that R176 names, in both twins. -/
def sweepSetting (s : State) (who : Writer) (addr id : Nat) (v : Word) : State :=
  match catalogue id with
  | none => s
  | some row =>
    let c := checkValue row row.1 v
    let s := number s
    let m := settingSweep s
    let s := if c.2 = 0 then s else clampReg s who addr v c.1 c.2
    let s := fieldWait s m 0 id v c.1 c.2
    pairSend s (.forward (.setting (BitVec.ofNat 64 (ofBytesLE (fieldBytes id row.1 c.1))) m))

/-! ## Registers (R180) -/

/-- The entry that CLAMP_SEL names, as 24 bytes; zeros beyond the count. -/
def clampSel (s : State) : List Byte :=
  let c := s.folio.clamp
  match (if c.list then c.ring else c.load)[c.index.toNat]? with
  | some e => bytesLE 8 e.seq.toNat ++ bytesLE 4 e.subject.toNat ++ bytesLE 4 e.given.toNat ++ bytesLE 4 e.applied.toNat
      ++ bytesLE 2 e.scope.toNat ++ [e.source, e.reason]
  | none => bytesLE 24 0

/-- The live word at an offset from 0x0000_0200. -/
def folioRead (s : State) (off : Nat) : Word :=
  let f := s.folio
  if 0x208 ≤ off ∧ off < 0x220 then word (natAt (clampSel s) (off - 0x208) 4)
  else
    match off with
    | 0x000 =>
      let rl := match f.busy with
        | .reload r _ _ => fld r.val 16 + 8
        | _ => 0
      word (rl + fld (slotNum f.stB) 12 + fld (slotNum f.stA) 8 + bitMask [f.active, f.fallback, f.noFolio])
    | 0x004 => f.verA
    | 0x008 => f.verB
    | 0x00C => word (fld f.lastCmd.toNat 8 + f.result.toNat)
    | 0x014 => f.stageLen
    | 0x108 => word (fld (f.pendingFields.filter fun p => p.order != 0).length 16 + f.setReason.toNat)
    | 0x200 => word (fld f.clamp.loadCount 16 + f.clamp.runCount)
    | 0x204 => word (fld (ofBool f.clamp.list) 31 + f.clamp.index.toNat)
    | _ => 0

/-- A write at an offset from 0x0000_0200 by an OPERATOR session, ACTIVATE apart. -/
def folioWrite (s : State) (k : Session) (off : Nat) (v : Word) : State :=
  match off with
  | 0x010 =>
    match v.toNat % 16 with
    | 1 => folioVerify s
    | 2 => writeSlot s
    | 4 => folioConfirm s
    | 5 => if hasRegion s (Fin.ofNat 16 (bitsOf v 11 8)) then reloadStart s (Fin.ofNat 16 (bitsOf v 11 8)) else s
    | _ => s
  | 0x014 => modFolio s fun f => { f with stageLen := v }
  | 0x100 => modFolio s fun f => { f with fieldLo := f.fieldLo.set k v }
  | 0x104 => settingsSubmit s k v
  | 0x204 => modFolio s fun f => { f with clamp := { f.clamp with list := v.getLsbD 31, index := BitVec.ofNat 13 v.toNat } }
  | _ => s

/-- A folio command of an OPERATOR session. -/
def folioRow (sess : Session) (off : Nat) (v : Word) (s : State) : Out := run s fun s => if isOperator s sess then folioWrite s sess off v else s

/-! ## The commands -/

def execFolioVerify (sess : Session) (s : State) : Out := folioRow sess 0x10 1 s
def execFolioVerifyDone (s : State) : Out := run s folioVerifyDone
def execWriteSlot (sess : Session) (s : State) : Out := folioRow sess 0x10 2 s
def execWriteSlotDone (s : State) : Out := run s writeSlotDone
def execFolioConfirm (sess : Session) (s : State) : Out := folioRow sess 0x10 4 s
def execReload (sess : Session) (r : Region) (s : State) : Out := folioRow sess 0x10 (word (fld r.val 8 + 5)) s
def execRegionReloadApply (s : State) : Out := run s reloadDue
def execChipInSegmentTimeout (s : State) : Out := run s reloadTimeout
def execSettingsSubmit (sess : Session) (hi : Word) (s : State) : Out := folioRow sess 0x104 hi s
def execSettingsFieldApply (s : State) : Out :=
  run s fun s => match fieldDue s with
    | some p => fieldApply s p
    | none => s

end Sys2Proof.Machine
end

