-- ==== Sys2Proof/Machine/Recorder.lean ====
section
/-! DEFINITION. The recorder's rings, summaries, ribbons, clears and storage faults (R433-R447), and the scrubber's findings
(R34, R459-R461), with the readings of log entry 31. -/
namespace Sys2Proof.Machine

/-! ## Rings (R436, R440) -/

def ringCap (s : State) : Nat := s.mem.recRing * 32768
def durCap : Nat := 196608

/-- The recorder's own records: code and arguments, chip scope (R435). -/
def recEvent (s : State) (code : Half) (args : Word) : State := emitCode s code chipScope args true

/-- A ribbon meets the loss of a record at or above its cursor. -/
def markGap (src : Nat) (seq : DWord) (b : Ribbon) : Ribbon :=
  if b.source.toNat = src ∧ b.cursor ≤ seq then { b with gap := true } else b

/-- A record enters the DRAM ring; the oldest is overwritten when it is full. -/
def ringPut (cap : Nat) (c : RecorderSt) (r : Rec) : RecorderSt :=
  if c.ring.length < cap then { c with ring := c.ring ++ [r] }
  else match c.ring with
    | o :: t => { c with ring := t ++ [r], ribbons := c.ribbons.map (markGap 0 o.seq) }
    | [] => c

/-- Free slots of the durable ring. -/
def durFree (c : RecorderSt) : Bool := decide (c.durable.length + c.tornSlots < durCap)

/-- The SEQ of the newest durable record, 0 for none. -/
def durNewest (c : RecorderSt) : Nat := match c.durable.getLast? with
  | some r => r.seq.toNat
  | none => 0

/-- The keep-class records of the queue that the durable ring has still to take. -/
def keepDue (c : RecorderSt) : List Rec := c.queue.filter fun r => isKeep r.code && decide (durNewest c < r.seq.toNat)

/-- Keep-class records enter the durable ring while it has free slots; the first that finds none sets KEEP_FULL. -/
def durPut (s : State) (l : List Rec) : State :=
  l.foldl (fun s r =>
    if durFree s.recd then modRec s fun c => { c with durable := c.durable ++ [r] }
    else if s.recd.keepFull then s
    else recEvent (modRec s fun c => { c with keepFull := true }) 0x8644 0) s

/-! ## Storage faults (R444, R445) -/

/-- The status frame for a fault record. -/
def statusFrame (id : Nat) (sideB : Bool) (code : Half) (seq : DWord) : CanFrame :=
  ⟨false, false, false, BitVec.ofNat 29 id, 8, false,
    [1, BitVec.ofNat 8 (ofBool sideB)] ++ bytesLE 2 code.toNat ++ bytesLE 4 (seq.toNat % 4294967296)⟩

def sendStatus (s : State) (sideB : Bool) (code : Half) (seq : DWord) : State :=
  if s.recd.recCan.getLsbD 31 && isLead s then
    txModule s (Fin.ofNat 4 (bitsOf s.recd.recCan 12 11)) (statusFrame (bitsOf s.recd.recCan 10 0) sideB code seq) .status
  else s

/-- A storage fault: store 1 the DRAM ring, 2 the durable ring, at a slot. -/
def storageFault (s : State) (store slot : Nat) : State :=
  let first := !(recDegraded s.recd)
  let flags (c : RecorderSt) : RecorderSt :=
    if store = 1 then { c with ringFail := true, queue := (c.ring ++ c.queue).drop (c.ring.length + c.queue.length - 4096), ring := [] }
    else { c with durFail := true }
  let args := word (fld store 24 + slot % 16777216)
  if first then
    let s := number s
    let r := recOf s 0xD642 chipScope args
    let s := modRec s fun c => { c with bank := r :: c.bank.drop 1 }
    let s := if s.twin.present then twinSend s (.record ⟨r.code, r.scope, r.args, r.seq⟩) else s
    let s := sendStatus s s.twin.sideB r.code r.seq
    modRec s fun c => queuePut (flags c) r
  else
    let s := recEvent (modRec s flags) 0xD642 args
    sendStatus s s.twin.sideB 0xD642 s.arb.seq

/-- Queued records move to the rings (R436); those for the DRAM ring wait while the memory controller is under test (R500). Where a fault is met, the slot is not told to the model: a free value. -/
def ringWrite (s : State) (ringFault durFault : Bool) : State :=
  let c := s.recd
  let due := keepDue c
  let s := if c.ringFail || !s.mem.trained || underTest s 7 then s
    else if ringFault then
      (let d := drawFree s
       storageFault d.2 1 (Config.freeWord d.1).toNat)
    else modRec s fun c => (c.queue.foldl (ringPut (ringCap s)) { c with queue := [] })
  let s := if c.durFail || due.isEmpty then s
    else if durFault then
      (let d := drawFree s
       storageFault d.2 2 (Config.freeWord d.1).toNat)
    else durPut s due
  let n := s.recd.lostNow
  if n ≠ 0 ∧ s.recd.queue.length < 4096 then recEvent (modRec s fun c => { c with lostNow := 0 }) 0x9641 (word (min n 0xFFFFFFFF)) else s

/-! ## Suppression summaries (R438, R439) -/

/-- The bucket that a code has. -/
def heldBucket (s : State) (code : Half) : Option Bucket := s.recd.buckets.find? fun b => b.code == bucketKey code

/-- SUPPRESSED: it takes no token. -/
def summary (s : State) (b : Bucket) : State :=
  let s := number (modRec s fun c => putBucket c { b with suppressed := 0 })
  recEnter s (recOf s 0x4640 b.scope (word (fld b.code.toNat 16 + min b.suppressed 0xFFFF)))

def tokenRefill (s : State) (code : Half) : State :=
  match heldBucket s code with
  | none => s
  | some b =>
    let b := refillBucket s.recd (nowNs s) b
    let s := modRec s fun c => putBucket c b
    if b.suppressed ≠ 0 ∧ b.tokens = (limitOf s.recd b.code).1 then summary s b else s

def summaryTimer (s : State) (code : Half) : State :=
  match heldBucket s code with
  | some b => if b.suppressed ≠ 0 ∧ b.firstAt + 60000000000 ≤ nowNs s then summary s (refillBucket s.recd (nowNs s) b) else s
  | none => s

/-! ## Ribbons (R442) -/

/-- The records of a ribbon's source with their cursor keys. -/
def ribbonSource (c : RecorderSt) (b : Ribbon) : List (Nat × Rec) :=
  if b.source = 2 then indexed c.bank
  else (if b.source = 1 then c.durable else if c.ringFail then c.queue else c.ring).map fun r => (r.seq.toNat, r)

/-- The records at the cursor, at most 8, of the level asked for. -/
def ribbonShown (c : RecorderSt) (b : Ribbon) : List (Nat × Rec) :=
  ((ribbonSource c b).filter fun x => decide (b.cursor.toNat ≤ x.1 ∧ b.minLevel.toNat ≤ levelOf x.2.code)).take 8

/-- The 32 bytes of a record; one that fails its check has a CRC that does not hold. -/
def recBytes (r : Rec) : List Byte :=
  let b := bytesLE 8 r.seq.toNat ++ netBytes r.time ++ bytesLE 2 r.code.toNat ++ bytesLE 2 r.scope.toNat ++ bytesLE 4 r.args.toNat
  b ++ bytesLE 4 (if r.bad then (crc32c b ^^^ 1).toNat else (crc32c b).toNat)

/-- STATE of a snapshot taken now. -/
def ribbonState (b : Ribbon) (l : List (Nat × Rec)) : Nat :=
  match l with
  | [] => 3
  | x :: _ => if b.shown = some (BitVec.ofNat 64 x.1) then 1 else 0

/-- Bytes as words. -/
def wordsLE (b : List Byte) : List Word := (List.range ((b.length + 3) / 4)).map fun i => word (natAt b (4 * i) 4)

/-- Words from an address upward. -/
def wordsAt (addr : Nat) (l : List Word) : List (Nat × Word) := (indexed l).map fun x => (addr + 4 * x.1, x.2)

def ribbonBase (k : Fin 4) : Nat := 0x70000 + 0x200 * k.val

/-- The words that a read of RB_HEAD captures: HEAD and the records. -/
def ribbonWords (s : State) (k : Fin 4) : List (Nat × Word) :=
  let b := s.recd.ribbons[k]
  let l := ribbonShown s.recd b
  let bad := bitMask (l.map fun x => x.2.bad)
  let recs := wordsLE (l.map fun x => recBytes x.2).flatten
  (ribbonBase k, word (fld bad 8 + fld l.length 4 + fld (ofBool b.gap) 2 + ribbonState b l)) ::
    wordsAt (ribbonBase k + 8) (recs ++ List.replicate (64 - recs.length) 0)

/-- What the read of RB_HEAD leaves in the ribbon: the first record shown. -/
def ribbonTaken (s : State) (k : Fin 4) : State :=
  modRec s fun c =>
    let b := c.ribbons[k]
    match ribbonShown c b with
    | [] => c
    | x :: _ => { c with ribbons := c.ribbons.set k { b with shown := some (BitVec.ofNat 64 x.1) } }

/-- A captured word of a snapshot. -/
def snapWord (p : Snap) (a : Nat) : Word := match p.words.find? fun x => x.1 == a with
  | some x => x.2
  | none => 0

/-- The SEQs of the records in a ribbon snapshot. -/
def snapSeqs (p : Snap) (k : Fin 4) : List Nat :=
  (List.range (bitsOf (snapWord p (ribbonBase k)) 7 4)).map fun i =>
    (snapWord p (ribbonBase k + 8 + 32 * i)).toNat + (snapWord p (ribbonBase k + 12 + 32 * i)).toNat * 4294967296

/-- RB_TAIL of a snapshot held: superseded when a record shown is no longer held. -/
def ribbonTail (s : State) (p : Snap) (k : Fin 4) : Word :=
  let held := (ribbonSource s.recd s.recd.ribbons[k]).map fun x => x.2.seq.toNat
  if (snapSeqs p k).all fun q => held.contains q then snapWord p (ribbonBase k) &&& 3 else 2

/-- The cursor moves past the last record shown. -/
def ribbonMove (s : State) (p : Snap) (k : Fin 4) : State :=
  modRec s fun c =>
    let b := c.ribbons[k]
    let seqs := snapSeqs p k
    let last := seqs.foldl max 0
    let key := if b.source = 2 then (match (indexed c.bank).reverse.find? fun x => seqs.contains x.2.seq.toNat with
      | some x => x.1 + 1
      | none => b.cursor.toNat) else last + 1
    if seqs.isEmpty then { c with ribbons := c.ribbons.set k { b with gap := false } }
    else { c with ribbons := c.ribbons.set k { b with cursor := BitVec.ofNat 64 key, shown := none, gap := false } }

/-- The snapshot that a reader holds of the structure at an address. -/
def snapOf (s : State) (rd : Reader) (addr : Nat) : Option Snap := s.snaps.find? fun p => p.reader == rd && p.addr == addr

/-- The snapshot is released. -/
def snapDrop (s : State) (rd : Reader) (addr : Nat) : State :=
  { s with snaps := s.snaps.filter fun p => !(p.reader == rd && p.addr == addr) }

/-- A read of RB_TAIL. -/
def ribbonTailRead (s : State) (rd : Reader) (k : Fin 4) : State :=
  match snapOf s rd (ribbonBase k) with
  | some p => snapDrop (ribbonMove s p k) rd (ribbonBase k)
  | none => s

/-- A write of RB_SEEK_HI. -/
def ribbonSeek (s : State) (k : Fin 4) (hi : Word) : State :=
  modRec s fun c =>
    let b := c.ribbons[k]
    let v := hi.toNat * 4294967296 + b.seekLo.toNat
    let key := match (ribbonSource c b).find? fun x => decide (v ≤ x.2.seq.toNat) with
      | some x => x.1
      | none => if b.source = 2 then c.bank.length else v
    { c with ribbons := c.ribbons.set k { b with cursor := BitVec.ofNat 64 key, shown := none, gap := false } }

/-! ## Clearing (R443) -/

/-- The records of the target with SEQ at or below `seq` become unreadable. -/
def clearRing (c : RecorderSt) (durable : Bool) (seq : Nat) : RecorderSt :=
  let above (l : List Rec) : List Rec := l.filter fun r => decide (seq < r.seq.toNat)
  let src : Nat := if durable then 1 else 0
  let old := if durable then c.durable else if c.ringFail then c.queue else c.ring
  let first := match (above old).head? with
    | some r => r.seq
    | none => BitVec.ofNat 64 (seq + 1)
  let ribbons := c.ribbons.map fun b =>
    if b.source.toNat = src ∧ b.cursor.toNat ≤ seq then
      { b with cursor := first, gap := b.gap || (old.any fun r => decide (b.cursor.toNat ≤ r.seq.toNat ∧ r.seq.toNat ≤ seq)) } else b
  if durable then { c with durable := above c.durable, keepFull := if (above c.durable).length < c.durable.length then false else c.keepFull, ribbons := ribbons }
  else if c.ringFail then { c with queue := above c.queue, ribbons := ribbons }
  else { c with ring := above c.ring, ribbons := ribbons }

/-- The check of a clear: 0 or the result. -/
def clearCheck (s : State) (b sig : List Byte) : Byte :=
  let target := byteAt b 4
  let by' (k : Option (List Byte)) : Bool := match k with
    | some pub => sigHolds pub b sig
    | none => false
  let ok := by' (some s.ident.serviceKey) || (target != 1 && by' s.ident.folioKey)
  if !ok then 0x01
  else if natAt b 16 8 ≠ s.recd.clrNonce.toNat then 0x02
  else if natAt b 24 8 ≠ moduleHash.toNat then 0x03
  else if 1 < target ∨ natAt b 0 4 ≠ 0x52434C52 ∨ natAt b 5 3 ≠ 0 then 0x04
  else 0

/-- The clear that REC_CLR_MSG names is judged and carried out. -/
def clearJudge (s : State) : State :=
  let b := bytes4 s.recd.clrMsg.toList
  let seq := natAt b 8 8
  let res := clearCheck s b (memRead s.mem.dram 0 384)
  let s := recEvent s 0x5646 (word seq)
  let d := drawFree s
  let s := modRec d.2 fun c => { c with clrResult := res, clrNonce := Config.draw d.1 }
  if res = 0 then recEvent (modRec s fun c => clearRing c (byteAt b 4 == 1) seq) 0x5645 (word (fld (byteAt b 4) 24)) else s

/-- EXECUTE of REC_CLR_CMD: BUSY while another waits for the RSA unit, in progress until it ends (R33, R443). -/
def recordClear (s : State) : State :=
  if rsaAsked s .clear then modRec s fun c => { c with clrResult := 0x05 }
  else if rsaFree s then clearJudge s
  else rsaAsk (modRec s fun c => { c with clrResult := 0xFF }) .clear [] []

/-! ## The scrubber (R34, R459-R461) -/

/-- A directory entry's table of cell elements lies in DRAM: kinds 1, 2, 3 and 5 (R304). -/
def dirCells (e : DirEntry) : Bool := decide (0 < dirElem e) && dirInside e && dirDram e

/-- The places in an entry's table whose elements lie in a line of DRAM. -/
def lineElems (e : DirEntry) (line : Nat) : List Nat :=
  (List.range (dirCount e)).filter fun i => meets (e.addr.toNat + dirElem e * i) (dirElem e) (64 * line) 64

/-- The entries whose elements a line of DRAM holds. -/
def lineEntries (s : State) (line : Nat) : List DirEntry :=
  s.est.dir.toList.filter fun e => dirCells e && !(lineElems e line).isEmpty

/-- The populated cells of which a line of DRAM holds state. -/
def lineCells (s : State) (line : Nat) : List Nat :=
  ((lineEntries s line).foldl (fun l e => ((lineElems e line).map fun i => dirFirst e + i).foldl addOnce l) []).filter (populated s)

/-- The part of an entry's table that lies in a line reads zero. -/
def zeroPart (line : Nat) (s : State) (e : DirEntry) : State :=
  let a := max (64 * line) e.addr.toNat
  let b := min (64 * line + 64) (e.addr.toNat + dirElem e * dirCount e)
  modMem s fun m => { m with dram := memWrite m.dram a (List.replicate (b - a) 0) }

/-- The default record of a cell without a chemistry table: its capacity absent, its impedances 0, and no sweep processed, so that
the first run of COUL with a table writes the record of that table (R276; log entry 31). -/
def bareDefault : List Byte := defaultRec ⟨0, [], 0, 0, 0, 0, 0, 0, 0, 0, [], [], [], []⟩ 0

/-- The default record of a cell goes to its table, flagged suspect (R34, R276). -/
def defaultCell (s : State) (c : Nat) : State :=
  match dirFor s 1 c with
  | some e => dirWrite s e (128 * (c - dirFirst e)) (match cellChem s c with
    | some ch => defaultRec ch s.sweep.cur
    | none => bareDefault)
  | none => s

/-- A poisoned line of the estimator tables (R34, R276): a healthy twin gives the range, whose bytes are free values here; else the
state of its cells is untrusted: what the line held is zero, and each of the cells takes its default record, which flags it
(log entry 31). -/
def repairLine (s : State) (line : Nat) : State :=
  let cs := lineCells s line
  let es := lineEntries s line
  if es.isEmpty then s
  else if healthyMirror s || (s.twin.role == .mirror && s.twin.present) then
    let f := s.free
    let b := ((List.range 16).map fun i => bytesLE 4 (Config.freeWord (f + i)).toNat).flatten
    dramWhole { s with free := f + 16 } (64 * line) b
  else
    let s := modMem s fun m => { m with untrusted := cs.foldl addOnce m.untrusted, poison := m.poison.filter fun l => l != line }
    cs.foldl defaultCell (es.foldl (zeroPart line) s)

/-- What a line just found uncorrectable does to its area (R461). -/
def lineLost (s : State) (line : Nat) : State :=
  let off := 64 * line
  match areaOf s off with
  | .estimator => repairLine s line
  | .capture => emit s 27 2 0x0E false true chipScope (word ((off - capBase) / 262144))
  | .ring => if s.recd.ringFail then s else storageFault s 1 ((off - ringBase) / 32)
  | _ => s

/-- The scrubber reads its line. -/
def scrubLine (s : State) (o : LineOutcome) : State :=
  let l := s.mem.scrubPos
  match o with
  | .clean => scrubNext s
  | .corrected => scrubNext (emitMem (modMem s fun m => { m with eccCorr := inc16 m.eccCorr }) false 0 l)
  | .uncorrectable tag => scrubNext (lineLost (poisonLine s l tag) l)

/-! ## Registers (R447) -/

/-- The live word at an offset from 0x0007_1000. -/
def recCtlRead (s : State) (off : Nat) : Word :=
  let c := s.recd
  if off < 0x80 then
    let b := c.ribbons[Fin.ofNat 4 (off / 0x20)]
    match off % 0x20 with
    | 0x00 => word (fld b.minLevel.toNat 2 + b.source.toNat)
    | 0x0C => b.cursor.setWidth 32
    | 0x10 => (b.cursor >>> 32).setWidth 32
    | _ => 0
  else if 0x1100 ≤ off ∧ off < 0x1200 then c.limits[Fin.ofNat 64 ((off - 0x1100) / 4)]
  else
    match off with
    | 0x1000 => word (fld (ofBool c.keepFull) 7 + fld (ofBool c.durFail) 6 + fld (ofBool c.ringFail) 5 + min 16 c.bank.length)
    | 0x1004 => word c.suppressed
    | 0x1008 => word (fld c.queueLost 16 + c.torn)
    | 0x100C => word c.durable.length
    | 0x1010 => c.defLimit
    | 0x1014 => c.recCan
    | 0x1024 => c.clrResult.setWidth 32
    | 0x1028 => c.clrNonce.setWidth 32
    | 0x102C => (c.clrNonce >>> 32).setWidth 32
    | _ => 0

/-- A limit word: REFILL at least 1. -/
def fixLimit (v : Word) : Word := if bitsOf v 7 0 = 0 then v + 1 else v

/-- A write at an offset from 0x0007_1000 by a chip or pair writer. -/
def recCtlWrite (s : State) (who : Writer) (off : Nat) (v : Word) : State :=
  let fix (s : State) (w : Word) : State := if w = v then s else clampReg s who (0x71000 + off) v w 0x02
  if !(chipWriter s who) then s
  else if off < 0x80 then
    let k := Fin.ofNat 4 (off / 0x20)
    let b := s.recd.ribbons[k]
    let put (b : Ribbon) : State := modRec s fun c => { c with ribbons := c.ribbons.set k b }
    match off % 0x20 with
    | 0x00 =>
      let src : BitVec 2 := if v.toNat % 4 = 3 then 0 else BitVec.ofNat 2 v.toNat
      let s := put { b with source := src, minLevel := BitVec.ofNat 2 (bitsOf v 3 2), cursor := if src = b.source then b.cursor else 0
                            shown := if src = b.source then b.shown else none, gap := b.gap && src == b.source }
      if v.toNat % 4 = 3 then clampReg s who (0x71000 + off) v (v &&& 0xC) 0x05 else s
    | 0x04 => put { b with seekLo := v }
    | 0x08 => ribbonSeek s k v
    | _ => s
  else if 0x1100 ≤ off ∧ off < 0x1200 then
    let w := if bitsOf v 31 16 = 0 then v else fixLimit v
    fix (modRec s fun c => { c with limits := c.limits.set (Fin.ofNat 64 ((off - 0x1100) / 4)) w }) w
  else if 0x1040 ≤ off ∧ off < 0x1060 then modRec s fun c => { c with clrMsg := c.clrMsg.set (Fin.ofNat 8 ((off - 0x1040) / 4)) v }
  else
    match off with
    | 0x1010 =>
      let w := fixLimit (v &&& 0xFFFF)
      let s := modRec s fun c => { c with defLimit := w }
      if w = v &&& 0xFFFF then s else clampReg s who 0x72010 v w 0x02
    | 0x1014 => modRec s fun c => { c with recCan := v &&& 0x80001FFF }
    | 0x1020 => (match who with
      | .host _ => if v.toNat % 16 = 1 then recordClear s else s
      | .worker _ => s)
    | _ => s

/-! ## The commands -/

def execRecorderRingWrite (ringFault durFault : Bool) (s : State) : Out := run s fun s => ringWrite s ringFault durFault
def execTokenRefill (code : Half) (s : State) : Out := run s fun s => tokenRefill s code
def execSuppressionSummaryTimer (code : Half) (s : State) : Out := run s fun s => summaryTimer s code
def execRibbonTailRead (rd : Reader) (k : Fin 4) (s : State) : Out := run s fun s => ribbonTailRead s rd k
def execRecordClear (sess : Session) (s : State) : Out := run s fun s => recCtlWrite s (.host sess) 0x1020 1
def execScrubLine (o : LineOutcome) (s : State) : Out := run s fun s => if scrubRuns s then scrubLine s o else s

end Sys2Proof.Machine
end

