-- ==== Sys2Proof/Machine/Twin.lean ====
section
/-! DEFINITION. Twin operation: roles, attach, heartbeats, digests, state transfer, takeover and yield (R365-R390), with
the readings of log entry 33. -/
namespace Sys2Proof.Machine

/-! ## MOD_STATUS (R35) -/

/-- A mask of the cores of a kind. -/
def coresOut (s : State) : Nat := coreMask s fun c => !c.inService

/-- Bits [15:8] of MOD_STATUS. -/
def modDegraded (s : State) : Nat :=
  fld (coresOut s) 12 + fld (ofBool s.comb.out) 11 + fld (ofBool (s.mem.untrusted.any (untrustedCell s))) 10 + fld (ofBool (recDegraded s.recd)) 9

/-- MOD_STATUS. -/
def modStatus (s : State) : Word :=
  let iso := bitMask ((List.finRange 16).map fun r => (reOf s r).state == .isolated)
  word (fld iso 16 + modDegraded s + fld (ofBool s.therm.enforced) 8 + fld (ofBool (decide (modDegraded s ≠ 0))) 3
    + fld (ofBool s.twin.present) 2 + fld (ofBool (isLead s)) 1 + ofBool s.power.hostReady)

/-! ## Roles (R365, R533) -/

/-- An event of the twin link source (R533). -/
def emitTwin (s : State) (level e : Nat) (keep marked : Bool) (args : Nat) : State :=
  emit s 24 level e keep marked pairScope (word args)

/-- A module that takes the lead sends nothing in the frames in progress (R185, R218). -/
def leadMute (s : State) : State :=
  forRegions s fun r s => modRg s r fun x => { x with frame := x.frame.map fun f => { f with mute := true } }

/-- The role changes, with DRIVE_EN and STATES_MATCH as the new role has them; the outputs follow. -/
def setRole (s : State) (r : Role) (drive matched : Bool) : State :=
  let old := roleNum s.twin.role
  let led := isLead s
  let s := modTwin s fun t => { t with role := r, driveEn := drive, statesMatch := matched }
  let s := if r != .mirror && cfgNat s 6 == 1 then timeFree s else s
  let s := if !led && isLead s then leadMute s else s
  let s := if roleNum r = old then s
    else emitTwin s 1 0x01 true true (fld (ofBool drive) 9 + fld (ofBool matched) 8 + fld old 4 + roleNum r)
  bankUpdateAll s

/-- The outputs are released (R348, R383-R386): every commanded state OFF. -/
def releaseOutputs (s : State) : State := forChans s fun c s => if hasChan s c then cmdOff s c else s

/-- The module becomes YIELDED: every step in progress ends OVERTAKEN here, a weld check's too (R385). -/
def becomeYielded (s : State) : State :=
  let s := forRegions s fun r s => if hasRegion s r then stepEnd s r 8 0 else s
  setRole (releaseOutputs s) .yielded false false

/-- TWIN_PRESENT clears; a worker that waits in MRECV is released with 0 (R156). -/
def presentOff (s : State) : State :=
  if s.twin.present then
    forWorkers (modTwin s fun t => { t with present := false }) fun w s =>
      let k := wkOf s w
      match waitOf k with
      | some (.twin d _) => setWk s w (makeReady (putStatus k d 0))
      | _ => s
  else s

/-- The session is closed: transfers and mailboxes of the attach end with it. -/
def sessionClose (s : State) : State :=
  modTwin (presentOff s) fun t => { t with
    session := false, attaching := false, linkLost := false, hbFault := false, xferBusy := false, xferStep := 0
    mail := [], peerMail := [], digOwn := [], digPeer := [], matchRun := 0, divRun := 0, afterXfer := false, estWait := []
    peerMaps := [], xferTail := [] }

/-- A leader's transmissions begin on the buses: every shadow frame not retired goes out (R153, R382). -/
def busesStart (s : State) : State := (List.finRange 4).foldl (fun s n => canKick s n) s

/-- A restart begins (R491, R497, R498): the keeper is no longer refreshed, its hold-over runs (R359), and nothing else acts until WARM_RESTART. -/
def restartBegin (s : State) (cause : BitVec 4) : State :=
  let now := nowNs s
  { s with power := { s.power with state := .restarting cause, origin := now }, bank := { s.bank with holding := true } }

/-- What waited for this module to be YIELDED, or for a hand-over that will not come: trap actions, DETACH, a restart
(R95, R170, R386, R498). -/
def settleYield (s : State) (given : Bool) : State :=
  let t := s.twin
  let s := settleTraps (modTwin s fun t => { t with grant := none, thenDetach := false, thenRestart := none })
  let s := if given && t.thenDetach then modTwin (sessionClose s) fun t => { t with detached := true, result := 0 } else s
  match t.thenRestart with
  | some c => restartBegin s c
  | none => s

/-! ## Taking the lead (R381, R382) -/

/-- LINK_STATE (R381, R533). -/
def linkState (s : State) (lost : Bool) : State :=
  emitTwin s 2 0x03 false true (fld (ofBool lost) 2 + fld (ofBool s.twin.hbFault) 1 + ofBool s.twin.linkLost)

/-- A joiner that takes the lead without ever having received a transfer holds every region OPEN (R381). -/
def holdOpen (s : State) (r : Region) : State :=
  if isOpenable (reOf s r).state || (reOf s r).state == .weldCheck then
    let s := dropWaits (stepEnd s r 8 0) r
    let s := modRe s r fun e => { e with weld := none, negOffAt := none }
    reEnter (coilSet (coilSet (coilSet s r 3 false) r 2 false) r 1 false) r .opened
  else s

/-- The twin is lost (R381, R382): a mirror or a joiner takes the lead, and a lead keeps it, each ALONE. -/
def twinLost (s : State) : State :=
  let now := nowNs s
  let takes := s.twin.role == .mirror || s.twin.role == .joining
  let bare := s.twin.role == .joining && !s.twin.joinedXfer
  let s := sessionClose (modTwin s fun t => { t with hbMissed := min 0xFFFF (t.hbMissed + 3), retryAt := none, xferTimes := [], lostAt := some now })
  let s := if bare then forRegions s fun r s => if hasRegion s r then holdOpen s r else s else s
  let s := if takes then
      (let s := setRole s .alone true true
       let s := modTwin s fun t => { t with takeovers := inc16 t.takeovers }
       busesStart (emitTwin s 3 0x02 true true s.sweep.cur.toNat))
    else if s.twin.role = .lead then setRole s .alone true true
    else s
  let s := linkState s true
  if s.twin.grant.isSome || s.twin.thenRestart.isSome then settleYield s false else s

/-! ## HELLO and the decision of the role (R369) -/

/-- HOLDS_CLOSED: a channel with a contactor role conducts (R369). -/
def holdsClosed (s : State) : Bool := (List.finRange 64).any fun c => (mapOf s c).role != 0 && conducting (chOf s c)

/-- The partner's certificate binds its key and chains to the device CA, and its identity hash is that of the key (R369,
R467). -/
def certified (h : Hello) : Bool :=
  hashOf h.pub == h.idHash && sigHolds deviceCa h.cert h.certSig && Config.certKey h.cert == some h.pub

/-- A refused partner, recorded once until another result stands in TWIN_RESULT (R369). -/
def refusePeer (s : State) (why : Nat) : State :=
  if s.twin.result = 0x06 then s else emitTwin (modTwin s fun t => { t with result := 0x06 }) 2 0x04 true true why

/-- The partner leads a battery in service. -/
def helloLeads (h : Hello) : Bool := h.inService && (h.role == 0 || h.role == 3)

/-- This module leads after the attach (R369, R386): between two in service, the one that leads when only one does. -/
def decideLead (s : State) (h : Hello) : Bool :=
  let t := s.twin
  if t.role = .yielded then !(helloLeads h)
  else if isLead s && t.inService && (h.role == 1 || h.role == 4) then true
  else if t.inService && h.inService then !t.sideB
  else if h.inService then false
  else if t.inService then true
  else if holdsClosed s != h.holdsClosed then holdsClosed s
  else !t.sideB

/-- The sweep number and the cycle count of the lead (R45, R223, R387): `sweep` numbers the lead's next sample instant, the first
on its wheel still to come, and a later one that this twin begins with is numbered on from it. -/
def takeCounts (s : State) (sweep : Word) (cycle : BitVec 40) : State :=
  let s := { s with
    sweep := { s.sweep with cur := sweep }
    wheel := { s.wheel with count := cycle, followsTwin := true } }
  let first := firstFrom s (nowNs s + 1) (cycle.toNat / s.sweep.n * s.sweep.n) 2
  let s := placeFirst s
  { s with sweep := { s.sweep with nextNum := sweepAfter sweep ((s.sweep.nextCycle - first) / s.sweep.n) } }

/-- The module joins again after a lost link (R383): its output stages are off, and a pacing of its transfers goes on (R378). -/
def joinAgain (s : State) : State :=
  let s := setRole s .joining false false
  modTwin s fun t => { t with matchRun := 0, divRun := 0, afterXfer := false, rejoin := false }

/-- The module begins to join the partner (R365, R369). -/
def beginJoin (s : State) : State := modTwin (joinAgain s) fun t => { t with joinedXfer := false, retryAt := none, xferTimes := [] }

/-- Ask the lead for the transfer of an attach, unless its next one is due later (R378, R387). -/
def joinTransfer (s : State) : State := if s.twin.retryAt.isSome then s else pairSend s .xferRequest

/-- The leading module draws the key and its identifier, and sends both under the partner's key (R370). -/
def sendKey (s : State) : State :=
  let (k, s) := drawBytes s 32
  let (i, s) := drawFree s
  let id := Config.freeWord i
  let block := oaepWrap s.twin.peerPub (k ++ bytesLE 4 id.toNat) i
  twinSend (modTwin s fun t => { t with key := k, idOwn := id, attaching := true }) (.key ⟨true, block⟩)

/-- What both twins keep of a partner that they attach to: the accepted peer, its key, its capping key. -/
def knowPeer (s : State) (h : Hello) : State :=
  modTwin s fun t => { t with
    peer := if t.peer = 0 then h.idHash else t.peer
    peerHash := h.idHash, peerPub := h.pub, peerVer := h.version, peerSideB := h.sideB, peerRole := h.role
    folioDiff := decide (h.version ≠ s.folio.runVer)
    capKey := match Config.cappingCert h.cert with
      | some k => some k
      | none => t.capKey }

/-- A SIDE conflict (R369). -/
def sideConflict (s : State) : State :=
  let starts := !s.twin.inService
  if s.twin.result = 0x05 then s
  else
    let s := modTwin s fun t => { t with result := 0x05 }
    let s := if starts then setRole s .standby false false else s
    emitTwin s 3 0x05 true true (ofBool starts)

/-- The first role after a start: the frames are placed (R492, R493). -/
def firstRole (s : State) : State := if s.twin.role = .undecided then placeFirst s else s

/-- A HELLO is heard: from 120 ms after the start's origin, while no session is open over the link (R369, R386). -/
def helloHeard (s : State) : Bool :=
  let t := s.twin
  decide (s.power.origin + 120000000 ≤ nowNs s) && (!t.session || t.linkLost) && !t.detached && t.role != .standby

/-- The partner's certificate is judged, and the role with it (R369, R370): a HELLO that comes while the link of an open session is lost
shows that the partner's session is closed (R386; log entry 33). A module in service that joins releases its outputs. -/
def helloJudge (s : State) (h : Hello) : State :=
  if helloHeard s = false then s
  else
    let s := if s.twin.session then sessionClose s else s
    let t := s.twin
    if t.peer ≠ 0 ∧ t.peer ≠ h.idHash then refusePeer s 0x01
    else if certified h = false then refusePeer s 0x02
    else if h.sideB = t.sideB then sideConflict s
    else if t.role = .yielded ∧ helloLeads h = false then s
    else
      let s := firstRole s
      if decideLead s h then
        let s := knowPeer s h
        sendKey (if s.twin.role = .undecided then setRole s .alone true true else s)
      else
        let s := if t.role = .joining ∧ t.attaching = true then s
          else takeCounts (beginJoin (if isLead s && t.inService then releaseOutputs s else s)) h.sweep h.wheel
        modTwin (knowPeer s h) fun t => { t with attaching := true }

/-- The partner's HELLO is numbered, and goes to the RSA unit (R33, R369). -/
def helloRx (s : State) (h : Hello) : State :=
  if helloHeard s then rsaDo (emitTwin s 0 0x00 false false 0x01) (.hello h) fun s => helloJudge s h else s

/-- No HELLO by 190 ms (R369). -/
def decideAlone (s : State) : State := setRole (firstRole s) .alone true true

/-! ## The session (R370) -/

/-- The session is open: the counters begin, the signals are judged from now, and the partner's role is what the attach makes it
(R374). -/
def sessionOpen (s : State) : State :=
  let now := nowNs s
  modTwin s fun t => { t with
    peerRole := if t.role = .joining then 3 else 1, timeAt := now
    session := true, attaching := false, ctrIn := 0, ctrOut := 0, hbAt := now, edgeAt := now, lostAt := none, linkLost := false, hbFault := false
    etypeNow := t.etype, result := if t.result = 0x05 ∨ t.result = 0x06 then 0 else t.result }

/-- The region maps in force, with their keys. -/
def mapsOf (s : State) : List (Region × RegionMap) :=
  (List.finRange 16).filterMap fun r => (rgOf s r).map.map fun m => (r, m)

/-- Bytes that this module's identity key recovers from an OAEP block. -/
def unwrap (block : List Byte) (i n : Nat) : List Byte := (List.range n).map fun j => Config.unwrapByte identityKey block (i + j)

/-- Maps with their link keys leave for the partner; of a region under re-key its new key too (R207, R371). -/
def sendMaps (s : State) (l : List (Region × RegionMap)) : State :=
  let s := modTwin (pairSend s (.maps l)) fun t => { t with
    peerMaps := (l.map fun x => (x.1, x.2.mapId)) ++ t.peerMaps.filter fun y => !(l.any fun x => x.1 == y.1) }
  l.foldl (fun s x => match (rgOf s x.1).newKey with
    | some k => pairSend s (.forward (.rekey x.1 k))
    | none => s) s

/-- Re-keys that are due are told to a partner that attaches (R208, R211). -/
def tellRekeys (s : State) : State :=
  forRegions s fun r s => if (rgOf s r).rekeyDue then pairSend s (.forward (.rekeyDue r)) else s

/-- Key agreement fails: no attach, and each module keeps the role it has (R389). -/
def keyFails (s : State) : State := refusePeer (modTwin s fun t => { t with attaching := false }) 0x03

/-- A session key message is opened (R370): the joiner answers with an identifier of its own and asks for a transfer; the lead
takes that identifier, becomes LEAD and sends the maps (R371, R387). A block that is not as long as the key's modulus does not
open, and the agreement fails (R389). -/
def keyOpen (s : State) (m : KeyMsg) : State :=
  let awaited := s.twin.attaching || s.twin.session
  if m.block.length ≠ 384 then (if awaited && (if m.fromLead then s.twin.role == .joining else isLead s) then keyFails s else s)
  else if m.fromLead then
    if s.twin.role = .joining ∧ awaited = true then
      let lead := word (ofBytesLE (unwrap m.block 32 4))
      let (i, s) := drawFree s
      let own := if Config.freeWord i = lead then lead + 1 else Config.freeWord i
      let block := oaepWrap s.twin.peerPub (bytesLE 4 own.toNat) i
      let s := modTwin s fun t => { t with key := unwrap m.block 0 32, idOwn := own, idPeer := lead }
      joinTransfer (tellRekeys (twinSend (sessionOpen s) (.key ⟨false, block⟩)))
    else s
  else if isLead s && awaited then
    let id := word (ofBytesLE (unwrap m.block 0 4))
    if id = s.twin.idOwn then keyFails s
    else
      let s := sessionOpen (modTwin s fun t => { t with idPeer := id })
      let s := if s.twin.role = .lead then s else setRole s .lead true true
      sendMaps (tellRekeys s) (mapsOf s)
  else s

/-- A session key message comes, and goes to the RSA unit (R33, R370). -/
def keyRx (s : State) (m : KeyMsg) : State := rsaDo s (.twinKey m) fun s => keyOpen s m

/-- The GCM nonce: the sender's session identifier and CTR (R370). -/
def twinNonce (id : Word) (ctr : Nat) : List Byte := bytesLE 4 id.toNat ++ bytesLE 8 ctr

/-- Bytes 0-11 of a frame, which are authenticated: TYPE, FLAGS, LEN, CTR (R370). -/
def twinHead (type : Nat) (sideB : Bool) (len ctr : Nat) : List Byte :=
  [BitVec.ofNat 8 type, BitVec.ofNat 8 (ofBool sideB)] ++ bytesLE 2 len ++ bytesLE 8 ctr

/-- The tag of a frame of the session under its key. -/
def twinTag (key : List Byte) (id : Word) (type : Nat) (sideB : Bool) (ctr : Nat) (body : List Byte) : BitVec 128 :=
  Config.gcmTag key (twinNonce id ctr) (twinHead type sideB body.length ctr) body

/-- A frame of the session: accepted, and numbered as TWIN_FRAME of its TYPE, or discarded and counted (R370, R533). One of another
EtherType is no twin-link frame. -/
def twinFrame (s : State) (f : TwinHdr) (type : Nat) (act : State → State) : State :=
  let t := s.twin
  if t.session = false ∨ f.etype ≠ t.etypeNow then s
  else if t.ctrIn < f.ctr ∧ f.sideB ≠ t.sideB ∧ f.tag = twinTag t.key t.idPeer type f.sideB f.ctr f.body then
    act (emitTwin (modTwin s fun t => { t with ctrIn := f.ctr }) 0 0x00 false false type)
  else modTwin s fun t => { t with gcmFail := inc16 t.gcmFail }

/-! ## Transfers asked for (R378, R380) -/

/-- Transfers that ended in the last 60 s and that three matching sweeps have not followed. -/
def recentXfers (s : State) : Nat := (s.twin.xferTimes.filter fun t => decide (nowNs s < t + 60000000000)).length

/-- A further transfer may be asked for: none is under way or due later. -/
def mayAsk (s : State) : Bool := !s.twin.xferBusy && s.twin.retryAt.isNone

/-- Three transfers of the last 60 s have ended without a match. -/
def noMatch (s : State) : Bool := mayAsk s && decide (3 ≤ recentXfers s)

/-- A mirror without a match becomes JOINING (R378). -/
def dropMirror (s : State) : State := if s.twin.role = .mirror then setRole s .joining false false else s

/-- No match after three transfers (R378, R380): DIVERGE_FAIL in what was a mirror, NO_MATCH in a joiner; one transfer per 60 s from
then on. -/
def matchFails (s : State) (mirror : Bool) : State :=
  let again := some (nowNs s + 60000000000)
  if mirror then
    let n := recentXfers s
    emitTwin (modTwin s fun t => { t with result := 0x08, retryAt := again, afterXfer := false }) 3 0x07 true true (min n 255)
  else modTwin s fun t => { t with result := 0x07, retryAt := again, afterXfer := false }

/-- Ask the lead for a transfer, unless one is under way or due later. -/
def askTransfer (s : State) : State := if mayAsk s then pairSend s .xferRequest else s

/-! ## Digests (R376-R378) -/

/-- The 2-bit code of a channel. -/
def chanCode (s : State) (c : Chan) : BitVec 2 :=
  if hasChan s c then (if (chOf s c).latched then 3 else (chOf s c).cmd) else 0

/-- The digest of the last sweep sampled. -/
def digestOf (s : State) (p : PackRec) : Digest where
  sweep := p.sweep
  chan := Vector.ofFn fun c => chanCode s c
  region := Vector.ofFn fun r => if hasMap s r then BitVec.ofNat 4 (reNum (reOf s r).state) else 0xF
  verdict := s.twin.verdicts
  cyc := BitVec.ofNat 16 (p.phase.toNat / 16777216)

/-- STATE lies in 0x1-0x6: a contactor is commanded closed. -/
def codeClosed (x : BitVec 4) : Bool := decide (1 ≤ x.toNat ∧ x.toNat ≤ 6)
def codeOpen (x : BitVec 4) : Bool := x == 0 || x == 7 || x == 8

/-- Regions about which the digests say open and closed. -/
def splitRegions (a b : Digest) : List Region :=
  (List.finRange 16).filter fun r =>
    (codeClosed a.region[r] && codeOpen b.region[r]) || (codeOpen a.region[r] && codeClosed b.region[r])

/-- Coil-class channels on in one digest and off in the other, of no region that is opened. -/
def splitChans (s : State) (a b : Digest) (rs : List Region) : List Chan :=
  (List.finRange 64).filter fun c =>
    let off (x : BitVec 2) : Bool := x == 0 || x == 3
    isCoil s c && ((a.chan[c] == 1 && off b.chan[c]) || (off a.chan[c] && b.chan[c] == 1))
      && !(match (mapOf s c).owner with
           | some r => rs.contains r
           | none => false)

/-- The pair is a lead with its mirror. -/
def leadAndMirror (s : State) : Bool := s.twin.role == .mirror || (s.twin.role == .lead && s.twin.peerRole == 2)

/-- The pair has diverged (R378): regions open and isolate, channels go off, and the mirror asks for a transfer, or becomes JOINING
when three have ended without a match. ROLE, DIVERGENCE and DIVERGE_FAIL are numbered in this order (R28). -/
def diverge (s : State) (rs : List Region) (cs : List Chan) : State :=
  let s := modTwin s fun t => { t with divergences := inc16 t.divergences }
  let mirror := s.twin.role == .mirror
  let fails := mirror && noMatch s
  let asks := mirror && mayAsk s && !fails
  let s := rs.foldl (fun s r => emergency s r (some .twin) 0 false) s
  let s := cs.foldl (fun s c => cmdOff s c) s
  let s := if fails then dropMirror s else s
  let s := emitTwin s 2 0x06 true true (fld (ofBool asks) 17 + fld (ofBool (!cs.isEmpty)) 16 + regionMask rs)
  if fails then matchFails s true else if asks then askTransfer s else s

/-- A joiner whose digests have matched three times since its transfer becomes MIRROR (R380). -/
def becomeMirror (s : State) : State :=
  let s := modTwin s fun t => { t with
    retryAt := none, result := if t.result = 0x07 ∨ t.result = 0x08 then 0 else t.result }
  setRole s .mirror true true

/-- The pair of digests of one sweep is compared (R377). Three differing sweeps in a row, counted anew from a transfer, are a
divergence; the first that differs after the third transfer of 60 s shows that it brought no match (log entry 33). -/
def compare (s : State) (a b : Digest) : State :=
  let s := modTwin s fun t => { t with cmpOwn := some a, cmpPeer := some b }
  if a = b then
    let s := modTwin s fun t => { t with
      mismatch := 0, divRun := 0, matchRun := min 255 (t.matchRun + 1), xferTimes := if 2 ≤ t.matchRun then [] else t.xferTimes }
    if s.twin.role = .joining ∧ s.twin.afterXfer = true ∧ s.twin.matchRun = 3 then becomeMirror s else s
  else
    let s := modTwin s fun t => { t with mismatch := satInc 255 t.mismatch, divRun := t.divRun + 1, matchRun := 0 }
    if s.twin.divRun = 3 ∧ leadAndMirror s = true then
      let rs := splitRegions a b
      diverge s rs (splitChans s a b rs)
    else if s.twin.afterXfer && noMatch s then matchFails (dropMirror s) (s.twin.role == .mirror)
    else if s.twin.divRun = 3 ∧ s.twin.role = .joining ∧ s.twin.afterXfer = true then askTransfer s
    else s

/-- Neither twin's last three digests name a sweep of the other's (R378). -/
def noCommon (s : State) : Bool :=
  decide (s.twin.digOwn.length = 3) && decide (s.twin.digPeer.length = 3)
    && !(s.twin.digOwn.any fun a => s.twin.digPeer.any fun b => a.sweep == b.sweep)

/-- After a digest has been taken or received. -/
def digestCheck (s : State) (n : Word) : State :=
  match s.twin.digOwn.find? (fun d => d.sweep == n), s.twin.digPeer.find? (fun d => d.sweep == n) with
  | some a, some b => compare s a b
  | _, _ => if noCommon s && leadAndMirror s && !s.twin.xferBusy then diverge s [] [] else s

/-- DIGEST_SNAPSHOT is due: 1 ms before the next sample instant, once per sweep sampled (R377). -/
def digestDue (s : State) : Option PackRec :=
  match s.sweep.pack with
  | some p =>
    let fresh := match s.twin.digOwn.head? with
      | some d => d.sweep != p.sweep
      | none => true
    if framesRun s && fresh && succSweep p.sweep == s.sweep.nextNum && decide (stampTime s (nextStamp s) ≤ nowNs s + 1000000) then some p else none
  | none => none

def digestTake (s : State) (p : PackRec) : State :=
  let d := digestOf s p
  let s := modTwin s fun t => { t with digOwn := (d :: t.digOwn).take 3, verdicts := 0 }
  digestCheck (pairSend s (.digest d)) d.sweep

def digestRx (s : State) (d : Digest) : State :=
  digestCheck (modTwin s fun t => { t with digPeer := (d :: t.digPeer).take 3 }) d.sweep

/-! ## Heartbeats and TWIN_HB (R367, R381, R383) -/

/-- No change of TWIN_HB, or no heartbeat, for 3.5 ms. -/
def hbStill (s : State) : Bool := decide (s.twin.edgeAt + 3500000 ≤ nowNs s)
def hbMissing (s : State) : Bool := decide (s.twin.hbAt + 3500000 ≤ nowNs s)

/-- The link returns (R383): the mirror rejoins through JOINING with a transfer. ROLE is numbered before LINK_STATE (R28). -/
def linkBack (s : State) : State :=
  let s := modTwin s fun t => { t with linkLost := false }
  if s.twin.role = .mirror ∨ s.twin.role = .joining ∨ (s.twin.role = .yielded ∧ s.twin.rejoin = true) then
    joinTransfer (linkState (joinAgain s) false)
  else linkState s false

/-- A heartbeat is accepted: TWIN_PRESENT is set; heartbeats that did not come in their millisecond are counted. -/
def heartbeat (s : State) (b : Heartbeat) : State :=
  let now := nowNs s
  let missed := (now - s.twin.hbAt) / 1000000 - 1
  let was := s.twin.linkLost
  let s := modTwin s fun t => { t with
    hbAt := now, present := true, peerRole := b.role, peerStatus := b.modStatus, hbMissed := min 0xFFFF (t.hbMissed + missed) }
  if was then linkBack s else s

/-- No heartbeat for 3.5 ms (R381): the link is lost, or the twin. A mirror that takes its network time from the lead loses its source
(R54), and a restart that waited for a transfer of the lost link begins (R170). -/
def heartbeatLoss (s : State) : State :=
  if s.twin.session && hbMissing s then
    if hbStill s then twinLost s
    else if s.twin.linkLost then s
    else
      let now := nowNs s
      let s := linkState (modTwin (presentOff s) fun t => { t with linkLost := true, linkLostAt := now, xferBusy := false, xferStep := 0 }) false
      let s := if s.twin.role = .mirror ∧ cfgNat s 6 = 1 then timeFree s else s
      if s.twin.thenRestart.isSome && s.twin.grant.isNone then settleYield s false else s
  else s

def hbEdge (s : State) : State :=
  let now := nowNs s
  let was := s.twin.hbFault
  let s := modTwin s fun t => { t with edgeAt := now, hbFault := false }
  if was then linkState s false else s

def hbStays (s : State) : State :=
  if s.twin.session && hbStill s then
    if hbMissing s then twinLost s
    else if s.twin.hbFault then s
    else linkState (modTwin s fun t => { t with hbFault := true }) false
  else s

/-- LINK_HOLD has run out in a mirror. -/
def holdOut (s : State) : Bool :=
  s.twin.linkLost && s.twin.role == .mirror && decide (s.twin.linkLostAt + s.twin.linkHold * 1000000000 ≤ nowNs s)

/-! ## State transfer (R379, R380) -/

/-- Fields in force that differ from the folio's, and the words of the estimator directory, numbered 0x8000 + 3n + word. -/
def xferFields (s : State) : List (Half × Word) :=
  let base := loadSettings s (sect' (slotBytes s.folio s.folio.active) 3)
  let l := s.cfg.filter fun p => cfgGet base p.1 != p.2
  let dir := ((indexed s.est.dir.toList).map fun x => [(3 * x.1, x.2.ctrl), (3 * x.1 + 1, x.2.range), (3 * x.1 + 2, x.2.addr)]).flatten
  l.map (fun p => (BitVec.ofNat 16 p.1, p.2)) ++ dir.map fun p => (BitVec.ofNat 16 (0x8000 + p.1), p.2)

/-- The maps whose MAP_ID the partner has not been sent (R379). -/
def xferMaps (s : State) : List (Region × RegionMap) :=
  (mapsOf s).filter fun x => !(s.twin.peerMaps.any fun y => y.1 == x.1 && y.2 == x.2.mapId)

/-- The lengths of the parts of a transfer begun now: maps, settings, estimator, live, tail (R379). -/
def xferLens (s : State) : List Nat :=
  [partLen (.maps (xferMaps s)), partLen (.settings (xferFields s)), (transferSections s).length,
    Config.liveLen ((List.finRange 16).filter fun r => hasRegion s r).length, 32 * (tailRecs s).length]

/-- KiB of a number of bytes, a started one counted. -/
def kibOf (n : Nat) : Nat := min 0xFFFF ((n + 1023) / 1024)

/-- The lead starts a transfer: header, maps and settings at once, the tail copied; the rest at the next publish and close
(R379). -/
def xferStart (s : State) : State :=
  if isLead s = false ∨ s.twin.xferBusy = true then s
  else
    let lens := xferLens s
    let maps := xferMaps s
    let fields := xferFields s
    let tail := tailRecs s
    let s := modTwin s fun t => { t with xferBusy := true, kibDone := 0, kibTotal := kibOf lens.sum, xferStep := 1, xferTail := tail }
    let s := twinSend s (.xfer (.header s.sweep.nextNum s.wheel.count s.folio.runVer lens))
    let s := twinSend (twinSend s (.xfer (.maps maps))) (.xfer (.settings fields))
    modTwin s fun t => { t with peerMaps := (mapsOf s).map fun x => (x.1, x.2.mapId) }

/-- Maps from the lead that differ from those in force (R379, R380). -/
def takeMaps (s : State) (l : List (Region × RegionMap)) : State :=
  l.foldl (fun s x =>
    let differs := match (rgOf s x.1).map with
      | some m => m.mapId != x.2.mapId
      | none => true
    if hasRegion s x.1 && differs && mapHolds s x.2 then mapEnter s x.1 x.2 else s) s

/-- HUSH and the sweep fraction are settings 0x1003 and 0x1002: one that a transfer brings is in force from the joiner's first frame
(R221, R230, R380). -/
def settingTaken (s : State) (id : Nat) : State :=
  if id = 0x1003 then hushTake s (cfgNat s 0x1003)
  else if id = 0x1002 then { s with sweep := { s.sweep with frac := (cfgGet s 0x1002).setWidth 24 } }
  else s

/-- A settings field of a transfer, or a directory word. -/
def takeField (s : State) (f : Half × Word) : State :=
  let n := f.1.toNat
  if 0x8000 ≤ n then
    (let k := n - 0x8000
     if k < 24 then dirTake s none (Fin.ofNat 8 (k / 3)) (Fin.ofNat 3 (k % 3)) f.2 else s)
  else if (catalogue n).isSome then settingTaken (settingPut s n f.2) n
  else s

/-- A record of the twin enters this recorder with this module's number and time, and takes no token (R32, R437). -/
def takeRecord (s : State) (r : FwdRecord) : State :=
  let s := number s
  recEnter s (recOf s (r.code ||| 0x2000) r.scope r.args)

/-- The transfer has ended at the receiver (R380). -/
def xferEnd (s : State) : State :=
  let now := nowNs s
  let s := modTwin s fun t => { t with
    xferBusy := false, transfers := inc16 t.transfers, xferTimes := (now :: t.xferTimes).take 8, afterXfer := true, joinedXfer := true
    matchRun := 0, divRun := 0 }
  emitTwin s 1 0x09 false true (min s.twin.kibDone 0xFFFF)

/-- A part of a transfer is applied (R380). -/
def xferTake (s : State) (b : Xfer) : State :=
  match b with
  | .header sweep wheel version lens =>
    let s := takeCounts s sweep wheel
    modTwin s fun t => { t with
      xferBusy := true, xferBytes := 0, kibDone := 0, kibTotal := kibOf lens.sum, peerVer := version, folioDiff := decide (version ≠ s.folio.runVer) }
  | .maps l => takeMaps s l
  | .settings l => l.foldl takeField s
  | .estimator bytes => modTwin s fun t => { t with estWait := bytes }
  | .live age rs cs =>
    let s := rs.foldl (fun s v => if hasRegion s v.region then takeLive s age v else s) s
    bankUpdateAll (((List.finRange 64).zip cs).foldl (fun s x => takeLiveChan s x.1 x.2) s)
  | .tail l _ => l.foldl takeRecord s

/-- The end of the transfer stands in its last part. -/
def lastPart : Xfer → Bool
  | .tail _ last => last
  | _ => false

/-- A segment arrives at a joiner or a mirror: applied, and acknowledged at each 64 KiB and at the end. -/
def xferRx (s : State) (b : Xfer) : State :=
  if s.twin.role = .joining ∨ s.twin.role = .mirror then
    let before := s.twin.xferBytes
    let s := xferTake s b
    let s := modTwin s fun t => { t with xferBytes := t.xferBytes + partLen b, kibDone := kibOf (t.xferBytes + partLen b) }
    let last := lastPart b
    let s := if before / 65536 < s.twin.xferBytes / 65536 ∨ last = true then pairSend s (.xferAck s.twin.kibDone last) else s
    if last then xferEnd s else s
  else s

/-- An acknowledgement at the lead. A restart that waited for the end of the transfer begins with the hand-over, or at once where the
mirror can no longer take the lead (R170). -/
def xferAcked (s : State) (kib : Nat) (last : Bool) : State :=
  if isLead s && s.twin.xferBusy then
    let s := modTwin s fun t => { t with kibDone := kib % 65536 }
    if last then
      let s := emitTwin (modTwin s fun t => { t with xferBusy := false, divRun := 0, transfers := inc16 t.transfers }) 1 0x09 false true (fld 1 16 + kib % 65536)
      if s.twin.thenRestart.isNone ∨ s.twin.grant.isSome = true then s else if canYield s then yieldStart s else settleYield s false
    else s
  else s

/-- The retry timer (R378, R380). -/
def retryXfer (s : State) : State :=
  if due s s.twin.retryAt && s.twin.role == .joining && s.twin.session then
    let again := some (nowNs s + 60000000000)
    pairSend (modTwin s fun t => { t with retryAt := again }) .xferRequest
  else s

/-! ## Orders, records and messages of the twin (R153, R156, R374, R437) -/

/-- The partner's orders are acted on: its role is MIRROR, LEAD or YIELDED (R374), and the link is not lost (R383). -/
def peerOrders (s : State) : Bool := [2, 3, 4].contains s.twin.peerRole && !s.twin.linkLost

/-- A frame sent, or an order packet sent, by the lead retires the first shadow entry like it, unless the packet itself was heard
(R248). -/
def retire (s : State) (b : Retire) : State :=
  if isLead s then s
  else match b with
    | .can port id data =>
      let q := (canOf s port).tx
      (match q.find? fun e => frameIdWord e.frame == id && e.frame.data == data with
       | some e => modCan s port fun c => { c with tx := q.erase e }
       | none => s)
    | .order r code hops =>
      let q := (rgOf s r).orders
      let heard := (rgOf s r).outstanding.any fun o => o.code == code && o.hops == hops
      (match q.find? fun o => o.code == code && o.hops == hops with
       | some o => if heard then s else modRg s r fun x => { x with orders := q.erase o }
       | none => s)

/-- A record forwarded by the twin; the lead has the status frame sent for a storage fault of the mirror (R445). -/
def recordRx (s : State) (r : FwdRecord) : State :=
  let s := takeRecord s r
  if r.code &&& 0xDFFF = 0xD642 ∧ isLead s = true then sendStatus s s.twin.peerSideB r.code r.seq else s

/-- A message of the twin's worker: to the waiting worker, or into its mailbox of 8 (R156). -/
def mirRx (s : State) (w : Worker) (b : List Byte) : State :=
  let k := wkOf s w
  match waitOf k with
  | some (.twin d a) => setWk s w (makeReady (mirDeliver k d a b))
  | _ =>
    if (s.twin.mail.filter fun x => x.1 == w).length < 8 then modTwin s fun t => { t with mail := t.mail ++ [(w, b)] } else s

/-- A TIME frame (R375): the lead answers the mirror's with its own stamps of reception and sending; from the answer the mirror
takes half of (t2 - t1) - (t4 - t3), by which the lead is ahead. A joiner takes the lead's time so too (R387). -/
def timeFrame (s : State) (t1 t2 t3 t4 : Nat) : State :=
  if isLead s then pairSend s (.time t1 t2 (netNs s))
  else if (s.twin.role = .mirror ∧ cfgNat s 6 = 1) ∨ s.twin.role = .joining then
    timeCorrect s (-(roundDiv (((t2 : Int) - (t1 + latTx s 2)) - ((t4 : Int) - latRx s 2 - t3)) 2))
  else s

/-! ## Yield, detach, resume (R385-R387) -/

/-- The result of a TWIN_CMD. -/
def twinResult (s : State) (cmd result : Byte) : State := modTwin s fun t => { t with lastCmd := cmd, result := result }

/-- Why a YIELD is not taken: 0 when it is. -/
def yieldRefusal (s : State) : Byte :=
  if isLead s = false ∨ s.twin.grant.isSome = true then 0x01
  else if s.twin.xferBusy then 0x04
  else if canYield s then 0
  else 0x02

def twinYield (s : State) : State :=
  let e := yieldRefusal s
  if e = 0 then yieldStart (twinResult s 1 0xFF) else twinResult s 1 e

/-- DETACH (R386). -/
def twinDetach (s : State) : State :=
  if isLead s then
    let e := yieldRefusal s
    if e = 0 then yieldStart (modTwin (twinResult s 2 0xFF) fun t => { t with thenDetach := true })
    else twinResult s 2 (if e = 0x04 then 0x04 else 0x02)
  else if s.twin.role = .mirror ∨ s.twin.role = .yielded ∨ s.twin.role = .joining then
    modTwin (sessionClose (becomeYielded (twinResult s 2 0))) fun t => { t with detached := true, retryAt := none, xferTimes := [] }
  else twinResult s 2 0x03

/-- RESUME (R386): within the session it joins at once, otherwise it answers the lead's HELLO again. -/
def twinResume (s : State) : State :=
  if s.twin.role ≠ .yielded then twinResult s 3 0x02
  else if s.twin.peerRole ≠ 0 ∧ s.twin.peerRole ≠ 3 then twinResult s 3 0x02
  else if s.twin.session then joinTransfer (beginJoin (twinResult s 3 0))
  else modTwin (twinResult s 3 0) fun t => { t with detached := false }

/-- ADMIT and FORGET (R387). -/
def twinAdmit (s : State) : State :=
  modTwin (twinResult s 4 0) fun t => { t with peer := BitVec.ofNat 64 (t.admitHi.toNat * 4294967296 + t.admitLo.toNat) }
def twinForget (s : State) : State := modTwin (twinResult s 5 0) fun t => { t with peer := 0 }

/-- A write of TWIN_CMD: YIELD, DETACH and RESUME by the host and pair workers, the others by the host alone (R390). -/
def twinCmd (s : State) (who : Writer) (cmd : Nat) : State :=
  let host := match who with
    | .host k => isOperator s k
    | .worker _ => false
  match cmd with
  | 1 => if pairWriter s who then twinYield s else s
  | 2 => if pairWriter s who then twinDetach s else s
  | 3 => if pairWriter s who then twinResume s else s
  | 4 => if host then twinAdmit s else s
  | 5 => if host then twinForget s else s
  | _ => s

/-! ## The hand-over at a frame origin (R384, R385) -/

/-- The hand-over of a GRANT: the old lead becomes YIELDED, the mirror LEAD. -/
def handOver (s : State) : State :=
  if s.twin.role = .lead then
    let s := modTwin (becomeYielded s) fun t => { t with
      yields := inc16 t.yields, result := if t.result = 0xFF then 0 else t.result, peerRole := 3 }
    settleYield s true
  else if s.twin.role = .mirror then busesStart (setRole (modTwin s fun t => { t with grant := none, peerRole := 4 }) .lead true true)
  else settleYield s false

/-- The frame origin of the sweep that a GRANT names has come. -/
def grantDue (s : State) : Bool := match s.twin.grant with
  | some m => sweepReached s.sweep.nextNum m
  | none => false

/-- Some region's head has relayed the other SIDE for two frames (R384). -/
def dualLeads (s : State) : Bool := (List.finRange 16).any fun r => decide (2 ≤ (rgOf s r).dualRun)

/-- The SIDE=B module of two leads yields (R384), and what waited for a hand-over follows. -/
def dualYields (s : State) : State :=
  settleYield (becomeYielded (forRegions s fun r s => modRg s r fun x => { x with dualRun := 0 })) true

/-- The frame origin of region r (R186, R384, R385): a pending hand-over first, and the SIDE=B module of two leads
yields. -/
def frameOrigin (s : State) (r : Region) : State :=
  let s := if grantDue s then handOver s else s
  let s := if isLead s && s.twin.sideB && dualLeads s then dualYields s else s
  if s.power.state = .running then frameBegin s r else s

/-! ## Registers (R390) -/

/-- The bytes of a digest. -/
def digestBytes (d : Option Digest) : List Byte := match d with
  | none => List.replicate 32 0
  | some d =>
    let ch := (indexed d.chan.toList).foldl (fun n x => n + x.2.toNat * 4 ^ x.1) 0
    let rg := (indexed d.region.toList).foldl (fun n x => n + x.2.toNat * 16 ^ x.1) 0
    bytesLE 4 d.sweep.toNat ++ bytesLE 16 ch ++ bytesLE 8 rg ++ bytesLE 2 d.verdict.toNat ++ bytesLE 2 d.cyc.toNat

/-- TWIN_STATUS. -/
def twinStatus (s : State) : Word :=
  let t := s.twin
  word (fld t.mismatch 24 + fld (roleNum t.role) 16
    + fld (bitMask [t.driveEn, t.xferBusy, t.dualLead, t.hbFault, t.linkLost, t.folioDiff, t.sideB]) 9
    + bitMask [t.present, isLead s, isYielded s, t.statesMatch])

/-- The word of a twin register, by offset from 0x0008_0000. -/
def twinRead (s : State) (off : Nat) : Word :=
  let t := s.twin
  if 0x100 ≤ off ∧ off < 0x120 then word (natAt (digestBytes t.cmpOwn) (off - 0x100) 4)
  else if 0x120 ≤ off ∧ off < 0x140 then word (natAt (digestBytes t.cmpPeer) (off - 0x120) 4)
  else match off with
    | 0x00 => twinStatus s
    | 0x04 => word t.linkHold
    | 0x0C => word (fld t.lastCmd.toNat 8 + t.result.toNat)
    | 0x10 => t.peer.setWidth 32
    | 0x14 => (t.peer >>> 32).setWidth 32
    | 0x20 => word (fld t.takeovers 16 + t.yields)
    | 0x24 => word (fld t.divergences 16 + t.transfers)
    | 0x28 => word (fld t.hbMissed 16 + t.gcmFail)
    | 0x2C => word (fld t.kibDone 16 + t.kibTotal)
    | 0x30 => t.etype.setWidth 32
    | _ => 0

/-- A write to a twin register by a chip or pair writer; TWIN_ADMIT by the host (R390). -/
def twinWrite (s : State) (who : Writer) (off : Nat) (v : Word) : State :=
  let host := match who with
    | .host k => isOperator s k
    | .worker _ => false
  match off with
  | 0x00 => if chipWriter s who && v.getLsbD 11 then modTwin s fun t => { t with dualLead := false } else s
  | 0x04 =>
    if chipWriter s who then
      let x := bitsOf v 9 0
      let y := clampNat 1 600 x
      let s := if x = y then s else clampReg s who 0x80004 v (word y) (if y < x then 0x03 else 0x02)
      modTwin s fun t => { t with linkHold := y }
    else s
  | 0x08 => twinCmd s who (v.toNat % 16)
  | 0x18 => if host then modTwin s fun t => { t with admitLo := v } else s
  | 0x1C => if host then modTwin s fun t => { t with admitHi := v } else s
  | 0x30 => if chipWriter s who then modTwin s fun t => { t with etype := v.setWidth 16 } else s
  | _ => s

/-! ## The commands -/

/-- What this module's HELLO says (R369). -/
def helloOf (s : State) : HelloOut :=
  ⟨s.twin.sideB, BitVec.ofNat 4 (roleNum s.twin.role), moduleHash, s.twin.inService, holdsClosed s, s.folio.runVer, s.sweep.nextNum, s.wheel.count⟩

/-- The last sweep that a region has closed: the newest of the mapped regions' (R371). -/
def lastClosed (s : State) : Word :=
  (mappedRegions s).foldl (fun n r => if (rgOf s r).lastSweep != 0 && (n == 0 || sweepReached (rgOf s r).lastSweep n) then (rgOf s r).lastSweep else n) 0

/-- What this module's HEARTBEAT says (R371). -/
def heartbeatOf (s : State) : Heartbeat := ⟨BitVec.ofNat 4 (roleNum s.twin.role), modStatus s, lastClosed s⟩

/-- HELLO_TX: every 10 ms from 120 ms after the start until attached (R369, R371). -/
def execHelloTx (s : State) : Out :=
  run s fun s =>
    let t := s.twin
    let quiet := t.session || t.detached || t.role == .standby || decide (nowNs s < s.power.origin + 120000000)
    if quiet then s else twinSend s (.hello (helloOf s))
def execHelloRx (h : Hello) (s : State) : Out := run s fun s => helloRx s h
def execRoleDecisionTimeout (s : State) : Out :=
  run s fun s => if s.twin.role = .undecided ∧ s.power.origin + 190000000 ≤ nowNs s then decideAlone s else s
def execSessionKeyRx (m : KeyMsg) (s : State) : Out := run s fun s => keyRx s m
def execHeartbeatTx (s : State) : Out := run s fun s => pairSend s (.heartbeat (heartbeatOf s))
def execHeartbeatRx (f : TwinHdr) (b : Heartbeat) (s : State) : Out := run s fun s => twinFrame s f 0x02 fun s => heartbeat s b
def execHeartbeatLoss (s : State) : Out := run s heartbeatLoss
def execTwinHbEdge (s : State) : Out := run s hbEdge
def execTwinHbStill (s : State) : Out := run s hbStays
def execLinkHoldExpiry (s : State) : Out :=
  run s fun s => if holdOut s then modTwin (becomeYielded s) fun t => { t with rejoin := true } else s
def execDigestSnapshot (s : State) : Out := run s fun s => match digestDue s with
  | some p => digestTake s p
  | none => s
def execDigestRx (f : TwinHdr) (b : Digest) (s : State) : Out := run s fun s => twinFrame s f 0x03 fun s => if s.twin.linkLost then s else digestRx s b
def execOpenOrderRx (f : TwinHdr) (b : OpenOrder) (s : State) : Out :=
  run s fun s => twinFrame s f 0x04 fun s => if peerOrders s then takeOpenOrder s b else s
def execCheckFailRx (f : TwinHdr) (b : OpenOrder) (s : State) : Out :=
  run s fun s => twinFrame s f 0x04 fun s => if peerOrders s then takeCheckFail s b else s
def execRetireRx (f : TwinHdr) (b : Retire) (s : State) : Out := run s fun s => twinFrame s f 0x06 fun s => retire s b
def execRecordRx (f : TwinHdr) (b : FwdRecord) (s : State) : Out := run s fun s => twinFrame s f 0x07 fun s => recordRx s b
def execMirMsgRx (f : TwinHdr) (w : Worker) (bytes : List Byte) (s : State) : Out :=
  run s fun s => twinFrame s f 0x08 fun s => mirRx s w bytes
def execTimeFrameRx (f : TwinHdr) (t1 t2 t3 t4 : Nat) (s : State) : Out :=
  run s fun s => twinFrame s f 0x0C fun s => timeFrame s t1 t2 t3 t4
def execMapsRx (f : TwinHdr) (maps : List (Region × RegionMap)) (s : State) : Out :=
  run s fun s => twinFrame s f 0x0D fun s => if isLead s then s else takeMaps s maps
def execStateTransferRequest (f : TwinHdr) (s : State) : Out := run s fun s => twinFrame s f 0x09 xferStart
def execXferSegmentRx (f : TwinHdr) (b : Xfer) (s : State) : Out := run s fun s => twinFrame s f 0x09 fun s => xferRx s b
def execXferAckRx (f : TwinHdr) (kib : Nat) (last : Bool) (s : State) : Out :=
  run s fun s => twinFrame s f 0x0A fun s => xferAcked s kib last
def execTransferRetryTimer (s : State) : Out := run s retryXfer
def execGrantRx (f : TwinHdr) (sweep : Word) (s : State) : Out :=
  run s fun s => twinFrame s f 0x0B fun s => if s.twin.role = .mirror then modTwin s fun t => { t with grant := some sweep } else s
def execTwinAdmit (sess : Session) (s : State) : Out := run s fun s => twinCmd s (.host sess) 4
def execTwinForget (sess : Session) (s : State) : Out := run s fun s => twinCmd s (.host sess) 5

/-- BEACON_TX: the frame origin of region r (R186, R192). -/
def execBeaconTx (r : Region) (s : State) : Out := run s fun s => if originDue s r then frameOrigin s r else s

/-- SAMPLE_INSTANT (R220, R229); a hand-over that no frame origin has carried out takes place here. -/
def execSampleInstant (dsm : Dsm4) (s : State) : Out :=
  run s fun s =>
    if framesRun s && decide (stampTime s (nextStamp s) ≤ nowNs s) then
      let s := if grantDue s then handOver s else s
      if s.power.state = .running then sampleAll s dsm else s
    else s

end Sys2Proof.Machine
end

