-- ==== Sys2Proof/Machine/Start.lean ====
section
/-! DEFINITION. Starts, supplies, temperature, self-test and sleep (R168, R491-R511), with the readings of log entry 34. -/
namespace Sys2Proof.Machine

/-! ## What a start keeps (R449, R497): MRAM at every start, and what a warm restart holds besides -/

/-- The start is cold. -/
def isCold (cause : BitVec 4) : Bool := cause == 0

/-- The number after a mark: the word written last plus 131,072 (R31, R45, R223). -/
def resumeAt (m : Marks) : Nat := m.last.toNat + 131072

/-- The arbiter resumes its numbers: the first event of the start takes the mark plus 131,072, and writes it as the mark
(R31). -/
def startArb (a : Arb) : Arb := { a with seq := BitVec.ofNat 64 (resumeAt a.marks) - 1 }

/-- The wheel begins FREE at the nominal length, its count from the mark (R45, R492). -/
def startWheel (s : State) (cold : Bool) (nominal : Bool) : Wheel :=
  let w := s.wheel
  let len := if nominal then 16666667 else 20000000
  let count := BitVec.ofNat 40 (resumeAt w.marks)
  { Wheel.init with
    count := count, marks := w.marks.put (count.setWidth 64), nominal := nominal, cycLen := len, meas := len
    nominalHeld := if cold then none else w.nominalHeld
    rejects := if cold then 0 else w.rejects
    cycStart := nowNs s
    zc := netNow s }

/-- The stored network time last written (R55). -/
def storedTime (t : Time) : Nat := t.marks[t.markNext - 1]

/-- Network time: at a cold start the stored value plus 65,536 s on a new stepless base; otherwise it runs on, no source
yet correcting it (R54, R55). -/
def startTime (t : Time) (cold : Bool) : Time :=
  if cold then { Time.init with marks := t.marks, markNext := t.markNext, epoch := t.epoch, off := storedTime t + 65536000000000 }
  else { t with slewLeft := 0, slewing := false, good := 0, state := if t.state = .unset then .unset else .free }

/-- A hop through a start: whether it has confirmed the key of a re-key under way, and over a warm restart its sleep watch (R211,
R262, R263). -/
def startHop (cold : Bool) (h : HopSt) : HopSt :=
  let y : HopSt := { HopSt.init with rekeyDone := h.rekeyDone }
  if cold then y else { y with watching := h.watching, watchSweep := h.watchSweep, slept := h.slept, burst := h.burst }

/-- A region: its map copies, radio settings, key selection and a re-key under way, and at a warm restart its counters and E. -/
def startRegion (cold : Bool) (x : RegionSt) : RegionSt :=
  let y : RegionSt := { RegionSt.init with
    map := x.map, copyA := x.copyA, copyB := x.copyB, selB := x.selB, keySel := x.keySel, rekeyDue := x.rekeyDue
    newKey := x.newKey, rekeying := x.rekeying, flipDue := x.flipDue, hops := x.hops.map (startHop cold)
    antDelay := x.antDelay, txPwr := x.txPwr, re := { Engine.init with auxCfg := x.re.auxCfg } }
  if cold then y
  else { y with
    noEcho := x.noEcho, badFrames := x.badFrames, micFail := x.micFail, replay := x.replay, retries := x.retries, absents := x.absents
    alarms := x.alarms, chanSwitches := x.chanSwitches, incomplete := x.incomplete, hushViol := x.hushViol, lost := x.lost
    queueFull := x.queueFull, watchSweep := x.watchSweep
    re := { y.re with e := x.re.e, lastHead := x.re.lastHead, verdicts := x.re.verdicts, weldFails := x.re.weldFails } }

/-- The region map of a start (R214, R452): the copy that the selector names, when its signature holds. -/
def startMap (s : State) (r : Region) : State :=
  let x := rgOf s r
  match mapKept x with
  | none => modRg s r fun x => { x with map := none }
  | some m =>
    if mapHolds s m then
      let now := nowNs s
      let hops := (List.range m.hops.length).map fun i => i + 1
      modRg s r fun x =>
        let x := hops.foldl (fun x h => setHop x h fun y => { y with limitsDue := true }) x
        { x with map := some m, chalDue := hops, chalNext := 1, chalAt := now }
    else mapRefused s r m

/-- The switch bank at a cold start: OFF, with its kept options and what its supply inputs show. -/
def coldBank (b : BankSt) : BankSt :=
  { BankSt.init with ch := b.ch.map fun x => { ChanSt.init with opt := x.opt }, supV := b.supV, supUv := b.supUv }

/-- The folio block: slots and clamp reports in MRAM (R175, R449). -/
def startFolio (f : FolioSt) (cold : Bool) : FolioSt :=
  { FolioSt.init with
    imgA := f.imgA, imgB := f.imgB, lenA := f.lenA, lenB := f.lenB, stA := f.stA, stB := f.stB, verA := f.verA, verB := f.verB
    active := f.active
    clamp := { ClampSt.init with load := f.clamp.load, loadCount := f.clamp.loadCount, ring := f.clamp.ring, runCount := if cold then 0 else f.clamp.runCount } }

/-- The recorder: the durable ring and the limits; the last-word bank until the next cold start (R441, R446). -/
def startRec (c : RecorderSt) (cold : Bool) (nonce : DWord) : RecorderSt :=
  let z : RecorderSt := { RecorderSt.init nonce with
    durable := c.durable.filter fun r => !r.bad
    torn := c.tornSlots + (c.durable.filter fun r => r.bad).length
    defLimit := c.defLimit, recCan := c.recCan, limits := c.limits }
  if cold then z else { z with bank := c.bank, bankNext := c.bankNext, suppressed := c.suppressed, queueLost := c.queueLost }

/-- The memory block: nothing of DRAM and SRAM, the areas as the settings in force place them (R244, R454, R458). -/
def startMem (s : State) (cold : Bool) : MemSt :=
  let m := s.mem
  if cold then MemSt.init
  else { MemSt.init with
    eccCorr := m.eccCorr, eccUncorr := m.eccUncorr, sramCorr := m.sramCorr, sramUncorr := m.sramUncorr, tagFail := m.tagFail
    hostPoison := m.hostPoison, mramCorr := m.mramCorr, mramDiscarded := m.mramDiscarded }

/-- The twin block: SIDE is read at a cold start alone (R368, R390). -/
def startTwin (t : TwinSt) (cold : Bool) (sideB : Bool) : TwinSt :=
  let z : TwinSt := { TwinSt.init (if cold then sideB else t.sideB) with peer := t.peer, etype := t.etype, etypeNow := t.etype, peerPub := t.peerPub }
  if cold then z
  else { z with
    driveEn := t.driveEn, capKey := t.capKey, hbLevel := t.hbLevel, takeovers := t.takeovers, yields := t.yields
    divergences := t.divergences, transfers := t.transfers, hbMissed := t.hbMissed, gcmFail := t.gcmFail }

/-- Ethernet: links and kept registers; the switch and its table run on through a warm restart (R413, R432). -/
def startNet (n : NetSt) (cold : Bool) : NetSt :=
  { NetSt.init with
    link := n.link, ipCtrl := n.ipCtrl, ipAddr := n.ipAddr, ipMask := n.ipMask, ipGw := n.ipGw, ipNow := if n.ipCtrl.toNat % 4 = 1 then 0 else n.ipAddr, ctrlNow := n.ipCtrl
    lat := n.lat, bridge := if cold then [] else n.bridge
    refused := if cold then 0 else n.refused, tlsFail := if cold then 0 else n.tlsFail
    noticesLost := if cold then 0 else n.noticesLost, abandoned := if cold then 0 else n.abandoned
    corrected := if cold then 0 else n.corrected, uncorr := if cold then 0 else n.uncorr }

/-- Identity: keys, trust list and challenge interval; a new nonce (R466, R469). -/
def startIdent (i : IdentSt) (cold : Bool) (nonce : DWord) : IdentSt :=
  { IdentSt.init nonce with
    folioKey := i.folioKey, serviceKey := i.serviceKey, appKeys := i.appKeys, trust := i.trust, chalInt := i.chalInt
    adopted := if cold then none else i.adopted
    passed := if cold then 0 else i.passed, failed := if cold then 0 else i.failed }

/-- Temperature and self-test: the comparators hold what they show through a warm restart (R504, R506, R507). -/
def startTherm (t : ThermSt) (cause : BitVec 4) : ThermSt :=
  let z : ThermSt := { ThermSt.init with shutdowns := t.shutdowns, repairs := t.repairs, lastShutdown := cause == 3 }
  if isCold cause then z
  else { z with tripped := t.tripped, request := t.request, enforced := t.enforced, graceEnd := t.graceEnd, throttles := t.throttles }

/-- Power: kept registers, the supply inputs, the origin of the start. -/
def startPower (p : PowerSt) (cause : BitVec 4) : PowerSt :=
  { PowerSt.init with
    state := .running, cause := cause, origin := if isCold cause then 0 else p.origin, brownouts := p.brownouts
    logicA := p.logicA, logicB := p.logicB, grace := p.grace, wakeDin := p.wakeDin, wakeGrid := p.wakeGrid, wakeRegion := p.wakeRegion
    wakeSource := if isCold cause then 0 else p.wakeSource, wakeIndex := if isCold cause then 0 else p.wakeIndex
    burst := cause == 5, burstCount := if isCold cause then 0 else p.burstCount }

/-- A position input through a start (R479): zeroed by a cold one; after a stop of the decoder its count is held, INVALID. -/
def startQp (cause : BitVec 4) (q : QpSt) : QpSt :=
  if isCold cause then { QpSt.init with qa := q.qa, qb := q.qb, qi := q.qi } else if cause = 3 ∨ cause = 5 then { q with invalid := true, lastAt := none, intervals := [] } else q

/-- The sever line of a module that holds it no longer: low only where the twin holds it (R341, R368). -/
def lineLeft (v : SeverSt) : SeverSt := { SeverSt.init with lineLow := v.peerHolds, peerHolds := v.peerHolds }

/-- The state of a start before its folio is chosen: State.reset with what the start keeps. -/
def startBase (s : State) (cause : BitVec 4) (sideB : Bool) : State :=
  let cold := isCold cause
  let n1 := Config.draw s.free
  let n2 := Config.draw (s.free + 1)
  let time := startTime s.time cold
  let cur := resumeAt s.sweep.marks % 4294967296
  let first := if cur = 0 then 1 else cur
  let t : State := { State.reset with
    pending := s.pending, free := s.free + 2, nReg := s.nReg, time := time
    power := startPower s.power cause, therm := startTherm s.therm cause, arb := startArb s.arb
    region := s.region.map (startRegion cold)
    sweep := { SweepSt.init with marks := s.sweep.marks.put ((word first).setWidth 64), fe := s.sweep.fe, cur := word first, nextNum := word first }
    bank := if cold then coldBank s.bank else s.bank
    sever := if cold then lineLeft s.sever else s.sever
    din := s.din, folio := startFolio s.folio cold, recd := startRec s.recd cold n1, mem := startMem s cold
    twin := startTwin s.twin cold sideB, net := startNet s.net cold, ident := startIdent s.ident cold n2
    est := { EstSt.init with serial := s.est.serial }
    qp := s.qp.map (startQp cause)
    can := s.can.map fun c => { CanSt.init with cntBase := if cold then 0 else c.cntBase } }
  let now := nowNs t
  { t with
    wheel := s.wheel, ticks := Vector.replicate 4 (Tick.init (now / 10)) }

/-! ## The slot (R168) -/

/-- The slot's image verifies. -/
def slotHolds (s : State) (b : Bool) : Bool := folioHolds s (slotBytes s.folio b)

/-- Step 4 and 5: the other slot, or no folio. -/
def chooseOther (s : State) : State × Option Bool :=
  let b := !s.folio.active
  if slotState s.folio b = .valid then
    if slotHolds s b then (modFolio s fun f => { f with active := b, fallback := true }, some b)
    else (modFolio s fun f => setSlot f b .bad, none)
  else (s, none)

/-- The slot that a start loads, none for NO_FOLIO. `activated`: the start is the one that ACTIVATE caused. -/
def chooseSlot (s : State) (activated : Bool) : State × Option Bool :=
  let a := s.folio.active
  match slotState s.folio a with
  | .trial =>
    if activated then
      if slotHolds s a then (s, some a) else chooseOther (modFolio s fun f => setSlot f a .bad)
    else chooseOther (modFolio s fun f => setSlot f a .reverted)
  | .valid => if slotHolds s a then (s, some a) else chooseOther (modFolio s fun f => setSlot f a .bad)
  | _ => chooseOther s

/-! ## The load at a start (R44, R163-R165, R171, R454) -/

/-- The nominal frequency of the start (R44): held, else the folio's, at a cold start; as it was at a warm restart. -/
def startNominal (s : State) (cold : Bool) (was : Word) : Bool :=
  if cold then
    match s.wheel.nominalHeld with
    | some b => b
    | none => cfgNat s 2 == 1
  else was == 1

/-- The settings and what follows from them: a warm restart keeps NOMINAL and TIME_SRC. -/
def startSettings (s : State) (cold : Bool) (nominal timeSrc : Word) (b : List Byte) : State :=
  let held := s.wheel.nominalHeld
  let s := if cold then s else { s with wheel := { s.wheel with nominalHeld := none } }
  let s := loadSettings s b
  let s := { s with wheel := { s.wheel with nominalHeld := held } }
  let nom := startNominal s cold nominal
  let s := cfgSet s 2 (word (ofBool nom))
  let s := if cold then s else cfgSet s 6 timeSrc
  let s := { s with wheel := startWheel s cold nom }
  let s := modMem s fun m => { m with recRing := cfgNat s 0x6001, archive := cfgNat s 0x6002 }
  { s with can := Vector.ofFn fun n => { canLoaded s n with cntBase := (canOf s n).cntBase } }

/-- The whole load of a folio image. -/
def startLoad (s : State) (cold : Bool) (nominal timeSrc : Word) (b : List Byte) : State :=
  let s := modFolio s fun f => { f with clamp := { f.clamp with load := [], loadCount := 0 } }
  let s := startSettings s cold nominal timeSrc (sect' b 3)
  let s := modFolio s fun f => { f with codeLen := (sect' b 0).length, runVer := word (natAt b 8 4), noFolio := false }
  let s := loadTables' s (sect' b 4) none
  loadPeriod (fieldsOf (sect' b 3)) (loadWorkers (loadChans s (sect' b 2)) (sect' b 1))

/-- No folio: defaults, every worker EMPTY, all outputs off; the load report is that of the last load (R168, R175). -/
def startEmpty (s : State) (cold : Bool) (nominal timeSrc : Word) : State :=
  let kept := s.folio.clamp
  let s := startSettings s cold nominal timeSrc []
  let s := loadPeriod [] (releaseOutputs s)
  modFolio s fun f => { f with noFolio := true, clamp := kept }

/-! ## Adoption (R343, R359, R360, R497) -/

/-- After an expiry coils are cleared to OFF; otherwise every commanded state is adopted, and the engines follow. -/
def startAdopt (s : State) : State :=
  let gone := s.bank.expiryDue.isSome
  let s := if gone then forChans s fun c s => if isCoil s c then cmdOff s c else s else s
  let s := { s with bank := { s.bank with expiryDue := none } }
  let s := forRegions s fun r s => if hasRegion s r then (let s := adoptRegion s r; if s.sever.observed then severRegion s r else s) else s
  { s with power := { s.power with adopted := !gone } }

/-- TORN, START, FALLBACK (R441, R535). -/
def startEvents (s : State) (slot : Option Bool) : State :=
  let s := if s.recd.torn = 0 then s else recEvent s 0x9643 (word (min s.recd.torn 0xFFFF))
  let s := emit s 27 1 0x07 true true chipScope (word
    (fld (ofBool slot.isNone) 10 + fld (ofBool s.folio.fallback) 9 + fld (ofBool s.power.adopted) 8 + s.power.cause.toNat))
  match slot with
  | some b =>
    let s := stampLoad s
    if s.folio.fallback then
      emit s 27 2 0x08 true true chipScope (word (fld (slotNum (slotState s.folio (!b))) 8 + ofBool b)) else s
  | none => s

/-- TRIP_OFF at a load (R339, R534): DSM0 measures no current. -/
def tripLoad (s : State) : State :=
  if tripOn s then s else emit { s with sever := { s.sever with tripOff := true } } 26 2 0x05 false true chipScope 0

/-- A start (R168, R491, R492, R497): what is kept, the latched keeper expiry (R359), the folio, the bank read back, the auxiliary
inputs, the events, FE raised. -/
def start (s : State) (cause : BitVec 4) (sideB : Bool) : State :=
  let cold := isCold cause
  let nominal := word (ofBool s.wheel.nominal)
  let timeSrc := cfgGet s 6
  let act := s.folio.activateStart && cause == 2
  let s := raiseExpiry (archStart (forRegions (startBase s cause sideB) fun r s => startMap s r)) (keeperMs s)
  let (s, slot) := chooseSlot s act
  let s := modFolio s fun f => { f with noFolio := slot.isNone }
  let b := match slot with
    | some b => slotBytes s.folio b
    | none => []
  let loaded := if slot.isSome then startLoad s cold nominal timeSrc b else startEmpty s cold nominal timeSrc
  let s := if cold then loaded else startAdopt loaded
  let s := forRegions s fun r s => if hasRegion s r then auxBoth s r else s
  let s := startEvents (tripLoad s) slot
  ptpRestart (raiseFe (if slot.isSome then reportFull s false else s))

/-! ## Supplies (R360, R491, R499, R517) -/

/-- Loss of the logic supply: every channel off, what the bank latched is lost, and the module holds SEVER_N no longer (R359,
R360, R368). -/
def supplyLost (s : State) : State :=
  { s with power := { s.power with state := .off }, bank := coldBank s.bank, sever := lineLeft s.sever }

/-- Nothing more is done until a start: what the on-chip queue held is lost (R441). -/
def halted (s : State) (p : Power) : State :=
  let s := modRec s fun c => { c with queue := [] }
  { s with power := { s.power with state := p }, bank := { s.bank with holding := true } }

/-- The brown-out warning (R499, R535). -/
def brownout (s : State) : State :=
  let now := nowNs s
  let n := inc16 s.power.brownouts
  let s := { s with power := { s.power with brownouts := n, warnAt := now } }
  let s := if s.power.state = .running then
      emit s 27 3 0x05 true true chipScope (word (fld n 16 + fld (ofBool s.power.logicB) 1 + ofBool s.power.logicA)) else s
  halted s .brownout

/-- The warning comes while the module runs or restarts. -/
def canBrownout (s : State) : Bool :=
  match s.power.state with
  | .running => true
  | .restarting _ => true
  | _ => false

/-- The cause of the restart in progress. -/
def restartCause (s : State) : Option (BitVec 4) :=
  match s.power.state with
  | .restarting c => some c
  | _ => none

/-- A restart at once, or in a lead with a healthy mirror after the hand-over, which a GRANT under way brings about, or which
begins once a transfer has ended (R170, R385, R498). -/
def restartOrYield (s : State) (cause : BitVec 4) : State :=
  if s.twin.role == .lead && healthyMirror s then
    let s := modTwin s fun t => { t with thenRestart := some cause }
    if s.twin.grant.isSome || s.twin.xferBusy then s else yieldStart s
  else restartBegin s cause

/-! ## Temperature (R505-R507) -/

/-- The shutdown (R506): recorded directly in the durable ring; then the module stops. -/
def thermalShutdown (s : State) : State :=
  let n := inc16 s.therm.shutdowns
  let s := number { s with therm := { s.therm with shutdowns := n } }
  let s := durPut s [recOf s (eventCode 3 true 27 0x04) chipScope (word n)]
  halted s .thermal

/-- Enforcement begins (R507, R535). -/
def enforce (s : State) : State :=
  if s.therm.enforced then s
  else
    emit { s with therm := { s.therm with enforced := true } } 27 2 0x03 false true chipScope (word (fld (cfgNat s 0x7003) 2))

/-- What the throttle mode makes of a tripped comparator (R507). -/
def throttleMode (s : State) : State :=
  if cfgNat s 0x7003 = 0 then
    let due' := s.therm.graceEnd.getD (nowNs s + cfgNat s 0x7004 * 1000000000)
    { s with therm := { s.therm with request := true, graceEnd := some due' } }
  else enforce s

/-- A trip. -/
def throttleTrip (s : State) : State :=
  if s.therm.tripped then s
  else
    let s := { s with therm := { s.therm with tripped := true, throttles := inc16 s.therm.throttles } }
    throttleMode (emit s 27 2 0x02 false true chipScope (word (fld (cfgNat s 0x7003) 2 + 1)))

/-- A release ends REQUEST, enforcement and the grace. -/
def throttleRelease (s : State) : State :=
  if s.therm.tripped then
    let s := { s with therm := { s.therm with tripped := false, request := false, enforced := false, graceEnd := none } }
    emit s 27 2 0x02 false true chipScope (word (fld (cfgNat s 0x7003) 2))
  else s

/-- A change of MODE while tripped applies at once; a grace already running keeps its end (R507). -/
def modeMoved (s : State) : State :=
  if s.therm.tripped then
    if cfgNat s 0x7003 = 0 then
      if s.therm.graceEnd.isSome then s
      else throttleMode { s with therm := { s.therm with enforced := false } }
    else enforce { s with therm := { s.therm with request := false } }
  else s

/-! ## Sleep (R508, R509) -/

/-- No contactor channel is driven and every region is OPEN or ISOLATED. -/
def canSleep (s : State) : Bool :=
  !(holdsClosed s) && (List.finRange 16).all fun r => (reOf s r).state == .opened || (reOf s r).state == .isolated

def pwrResult (s : State) (r : Byte) : State := { s with power := { s.power with result := r } }

/-- SLEEP taken. -/
def sleepTake (s : State) : State :=
  let due' := nowNs s + 10000000
  { s with power := { s.power with result := 0xFF, sleepAt := some due' } }

def pwrSleep (s : State) : State :=
  if s.power.sleepAt.isSome then pwrResult s 0x02
  else if canSleep s then pairSend (sleepTake s) (.forward .sleep)
  else pwrResult s 0x01

/-- The close that SLEEP waits for has come: a sweep closed at least 10 ms after the command, or there is no region that
closes one. -/
def sleepDue (s : State) : Bool :=
  match s.power.sleepAt with
  | some t => decide (t ≤ nowNs s) && ((mappedRegions s).isEmpty || (mappedRegions s).any fun r => decide (t ≤ (rgOf s r).closedAt))
  | none => false

/-- The module sleeps: every channel off; a region no longer open keeps it awake. -/
def sleepEnter (s : State) : State :=
  if canSleep s then
    let s := releaseOutputs { s with power := { s.power with sleepAt := none, result := 0 } }
    halted (sessionClose s) .asleep
  else { s with power := { s.power with sleepAt := none, result := 0x01 } }

/-- The source may wake the module; its number and index. -/
def wakeSource (s : State) : WakeSrc → Option (BitVec 3 × BitVec 5)
  | .grid => if s.power.wakeGrid then some (1, 0) else none
  | .din n => if s.power.wakeDin.getLsbD n.val then some (2, BitVec.ofNat 5 n.val) else none
  | .region r => if s.power.wakeRegion && hasMap s r then some (3, BitVec.ofNat 5 r.val) else none

def wake (s : State) (src : WakeSrc) : State :=
  match wakeSource s src with
  | some (k, i) => restartBegin { s with power := { s.power with wakeSource := k, wakeIndex := i } } 5
  | none => s

/-- RESTART of PWR_CMD (R498). -/
def pwrRestart (s : State) : State :=
  if s.twin.grant.isSome then pwrResult s 0x02 else restartOrYield (pwrResult s 0xFF) 1

/-! ## Self-test (R500-R504) -/

/-- The core of a partition. -/
def partCore (p : Fin 32) : Option (Fin 4) := if h : p.val < 4 then some ⟨p.val, h⟩ else none
/-- The controller of a partition. -/
def partCan (p : Fin 32) : Option (Fin 4) := if 8 ≤ p.val ∧ p.val < 12 then some (Fin.ofNat 4 (p.val - 8)) else none

/-- Why a test is refused (R501): true when it is. -/
def testRefused (s : State) (p : Fin 32) : Bool :=
  if p.val < 4 then (List.finRange 4).any fun k => k.val != p.val && !(coreOf s k).inService
  else if p.val = 7 then isLead s && holdsClosed s
  else if p.val < 8 then false
  else if p.val < 12 then
    let st := (canOf s (Fin.ofNat 4 (p.val - 8))).state
    st != .config && st != .disabled
  else if p.val < 16 then true
  else decide (s.nReg ≤ p.val - 16)

/-- The workers of a core go to the cores in service, through QUIESCED, which they leave at the next idle clock (R78, R98; log
entry 19). -/
def migrate (s : State) (k : Fin 4) : State :=
  forWorkers s fun w s =>
    if (wkOf s w).core = k then
      match placeFrom s k w with
      | some c => modWk (moveTo s w c) w quiesce
      | none => s
    else s

/-- A core leaves service. -/
def coreLeaves (s : State) (k : Fin 4) (test : Bool) : State :=
  migrate (modCore s k fun c => { c with inService := false, selftest := test, failed := !test }) k

def bistResult (s : State) (p : Fin 32) (r : Byte) : State := { s with therm := { s.therm with bistPart := p, bistResult := r } }

/-- RUN of BIST_CMD. -/
def bistStart (s : State) (p : Fin 32) : State :=
  if s.therm.bistBusy then { s with therm := { s.therm with bistResult := 0x06 } }
  else if testRefused s p then bistResult s p 0x05
  else
    let s := { s with therm := { s.therm with bistBusy := true, bistPart := p, bistRows := 0 } }
    match partCore p with
    | some k => coreLeaves s k true
    | none => s

/-- The golden value of a partition (R503): none where it is all zero or beyond the section. -/
def golden (s : State) (p : Fin 32) : Option Nat :=
  let b := if s.folio.noFolio then [] else sect' (slotBytes s.folio s.folio.active) 5
  let v := natAt b (8 * p.val) 8
  if 8 * p.val + 8 ≤ b.length ∧ v ≠ 0 then some v else none

/-- The result of a test. -/
def judgeTest (s : State) (p : Fin 32) (sig : DWord) (rows : Byte) (rowFail : Bool) : Byte :=
  if rowFail then 0x04
  else match golden s p with
    | none => 0x02
    | some g => if g = sig.toNat then (if rows = 0 then 0x00 else 0x01) else 0x03

/-- A partition returns to service (R503). -/
def partReturns (s : State) (p : Fin 32) : State :=
  let was := s.therm.bistOut.getLsbD p.val
  let s := { s with therm := { s.therm with bistOut := s.therm.bistOut &&& ~~~(BitVec.ofNat 32 (2 ^ p.val)) } }
  let s := match partCore p with
    | some k => modCore s k fun c => { c with inService := true, selftest := false, failed := false }
    | none => s
  let s := if p.val = 4 then { s with comb := { s.comb with out := false } } else s
  let s := if p.val = 7 then modMem s fun m => { m with dramOut := false } else s
  match partCan p with
  | some n => if was && canEnabled s n then modCan s n fun c => { c with state := .config, mode := 0 } else s
  | none => s

/-- A partition that failed stays out of service (R34, R504): a failed core leads to a hand-over. -/
def partFails (s : State) (p : Fin 32) : State :=
  let s := { s with therm := { s.therm with bistOut := s.therm.bistOut ||| BitVec.ofNat 32 (2 ^ p.val) } }
  let s := match partCan p with
    | some n => modCan s n fun c => { c with state := .disabled, inTx := none }
    | none => s
  if p.val = 4 then { s with comb := { s.comb with out := true } }
  else if p.val = 7 then
    let (i, s) := drawFree (modMem s fun m => { m with dramOut := true })
    storageFault s 1 (Config.freeWord i).toNat
  else match partCore p with
    | some k =>
      let s := modCore s k fun c => { c with inService := false, selftest := false, failed := true }
      if canYield s then yieldStart s else s
    | none => s

/-- Rows repaired in a partition, kept in MRAM (R504). -/
def addRepairs (l : List (Nat × Nat)) (p n : Nat) : List (Nat × Nat) :=
  if n = 0 then l
  else
    let had := match l.find? fun x => x.1 == p with
      | some x => x.2
      | none => 0
    (p, had + n) :: l.filter fun x => x.1 != p

/-- The test ends (R503, R535). -/
def bistEnd (s : State) (sig : DWord) (rows : Byte) (rowFail : Bool) : State :=
  if s.therm.bistBusy then
    let p := s.therm.bistPart
    let r := judgeTest s p sig rows rowFail
    let s := { s with therm := { s.therm with
      bistBusy := false, bistResult := r, bistRows := rows, bistSig := sig, repairs := addRepairs s.therm.repairs p.val rows.toNat } }
    let s := emit s 27 1 0x06 false true chipScope (word (fld r.toNat 24 + fld p.val 16 + fld rows.toNat 8))
    if r.toNat ≤ 2 then partReturns s p else partFails s p
  else s

/-! ## Registers (R511) -/

/-- The word of a register, by offset from 0x0009_0000. -/
def pwrRead (s : State) (off : Nat) : Word :=
  let t := s.therm
  let p := s.power
  match off with
  | 0x000 => word (bitMask [t.tripped, t.request, t.enforced, t.lastShutdown])
  | 0x004 => word ((cfgGet s 0x7001).toNat % 65536)
  | 0x008 => cfgGet s 0x7002
  | 0x00C => word (fld (cfgNat s 0x7004) 8 + cfgNat s 0x7003)
  | 0x010 => word (fld t.shutdowns 16 + t.throttles)
  | 0x014 => word (fld t.lastBoard.toNat 16 + t.lastDie.toNat)
  | 0x100 => word (fld p.brownouts 16 + bitMask [p.logicA, p.logicB])
  | 0x108 => word p.result.toNat
  | 0x10C => word (fld (ofBool p.adopted) 8 + p.cause.toNat)
  | 0x110 => p.grace
  | 0x120 => p.wakeDin
  | 0x124 => word (bitMask [p.wakeRegion, p.wakeGrid])
  | 0x128 => word (fld p.wakeSource.toNat 5 + p.wakeIndex.toNat)
  | 0x204 => word (fld t.bistResult.toNat 24 + fld t.bistPart.val 16 + fld t.bistRows.toNat 8 + ofBool t.bistBusy)
  | 0x208 => t.bistSig.setWidth 32
  | 0x20C => (t.bistSig >>> 32).setWidth 32
  | 0x210 => t.bistOut
  | _ => 0

/-- START_GRACE between its bounds (R494). -/
def setGrace (s : State) (who : Writer) (v : Word) : State :=
  let x := bitsOf v 13 0
  let y := clampNat 500 10000 x
  let s := if x = y then s else clampReg s who 0x90110 v (word y) (if y < x then 0x03 else 0x02)
  { s with power := { s.power with grace := word y } }

/-- A write by a chip or pair writer; the commands by those of R498, R502 and R508. -/
def pwrWrite (s : State) (who : Writer) (off : Nat) (v : Word) : State :=
  if chipWriter s who then
    match off with
    | 0x004 => writeSetting s who 0x90004 0x7001 ((v.setWidth 16).signExtend 32)
    | 0x008 => writeSetting s who 0x90008 0x7002 (word (bitsOf v 10 0))
    | 0x00C =>
      let old := cfgNat s 0x7003
      let s := writeSetting (writeSetting s who 0x9000C 0x7004 (word (bitsOf v 13 8))) who 0x9000C 0x7003 (word (bitsOf v 1 0))
      if cfgNat s 0x7003 = old then s else modeMoved s
    | 0x104 =>
      if pairWriter s who then
        match v.toNat % 16 with
        | 1 => pwrRestart s
        | 2 => pwrSleep s
        | _ => s
      else s
    | 0x110 => setGrace s who v
    | 0x120 => { s with power := { s.power with wakeDin := v } }
    | 0x124 => { s with power := { s.power with wakeGrid := v.getLsbD 1, wakeRegion := v.getLsbD 0 } }
    | 0x200 => if v.toNat % 16 = 1 then bistStart s (Fin.ofNat 32 (bitsOf v 12 8)) else s
    | _ => s
  else s

/-! ## The commands -/

/-- COLD_START: supply valid with the logic supply lost before (R491, R492). -/
def execColdStart (sideB : Bool) (s : State) : Out := .next (if s.power.state = .off then start s 0 sideB else s)
/-- WARM_RESTART: 40 ms after the restart began, the bank is read back (R497). -/
def execWarmRestart (s : State) : Out :=
  .next (match restartCause s with
    | some c => if s.power.origin + 40000000 ≤ nowNs s then start s c false else s
    | none => s)
def execChipWatchdog (s : State) : Out := run s fun s => if s.bank.lastRefresh + 50000000 ≤ nowNs s then restartBegin s 6 else s
def execBrownoutWarning (s : State) : Out := .next (if canBrownout s then brownout s else s)
def execSupplyRecovery (s : State) : Out :=
  .next (if s.power.state = .brownout ∧ s.power.warnAt + 50000000 ≤ nowNs s then restartBegin s 4 else s)
def execLogicSupplyLoss (s : State) : Out := .next (supplyLost s)
def execLogicSupplyInputChange (b present : Bool) (s : State) : Out :=
  .next (if s.power.state = .off then s
    else { s with power := if b then { s.power with logicB := present } else { s.power with logicA := present } })
/-- A trip stops the module, also during a restart (R510). -/
def execThermalShutdown (s : State) : Out :=
  .next (if s.power.state = .running then thermalShutdown s
    else if (restartCause s).isSome then halted s .thermal else s)
def execThermalRelease (s : State) : Out := .next (if s.power.state = .thermal then restartBegin s 3 else s)
def execThrottleTrip (s : State) : Out := run s throttleTrip
def execThrottleRelease (s : State) : Out := run s throttleRelease
def execThrottleGraceEnd (s : State) : Out :=
  run s fun s => if due s s.therm.graceEnd && s.therm.tripped && !s.therm.enforced && cfgNat s 0x7003 == 0 then enforce s else s
def execSleepEnter (s : State) : Out := run s fun s => if sleepDue s then sleepEnter s else s
def execWakeFromSleep (src : WakeSrc) (s : State) : Out := .next (if s.power.state = .asleep then wake s src else s)
def execBistDone (sig : DWord) (rows : Byte) (rowFail : Bool) (s : State) : Out := run s fun s => bistEnd s sig rows rowFail

/-- 200 ms after the start, workers with START set become READY (R492). -/
def execStartWorkersReady (s : State) : Out :=
  run s fun s =>
    if s.power.workersReady = false ∧ s.power.origin + 200000000 ≤ nowNs s then
      let b := sect' (slotBytes s.folio s.folio.active) 1
      let s := if s.folio.noFolio then s else forWorkers s fun w s => startLoaded s b w
      { s with power := { s.power with workersReady := true } }
    else s
/-- 250 ms after the start, the host window is READY (R492). -/
def execHostWindowReady (s : State) : Out :=
  run s fun s => if s.power.origin + 250000000 ≤ nowNs s then { s with power := { s.power with hostReady := true } } else s
def execFolioActivate (sess : Session) (s : State) : Out :=
  run s fun s =>
    if isOperator s sess then
      let (s, go) := folioActivate s
      if go then restartOrYield s 2 else s
    else s

end Sys2Proof.Machine
end

