-- ==== Sys2Proof/Machine/Ident.lean ====
section
/-! DEFINITION. Identity, attestation and service commands (R465-R472, R476, R477), with the readings of log entry 35. -/
namespace Sys2Proof.Machine

/-- Offsets in the folio staging area: payload, and what the module writes out (R467-R469). -/
def payloadAt : Nat := 0x10000
def outAt : Nat := 0x3000000

def modIdent (s : State) (f : IdentSt → IdentSt) : State := { s with ident := f s.ident }

/-! ## Certificates and attestation (R467, R468) -/

/-- A certificate of the module: 0 identity, 1 capping, 2 and up the application certificates in the order made. -/
def moduleCert (i : Nat) : List Byte := (List.range (Config.certLen i)).map (Config.certByte i)

/-- The three certificates, one after another. -/
def threeCerts (s : State) : List Byte := moduleCert 0 ++ moduleCert 1 ++ moduleCert (2 + s.ident.appKeys)

/-- Bytes written out at staging offset 0x0300_0000, and their length. -/
def writeOut (s : State) (cmd : Byte) (b : List Byte) : State :=
  modIdent (dramWhole s outAt b) fun i => { i with lastCmd := cmd, result := 0, outLen := word b.length }

/-- CERTS. -/
def certsOut (s : State) : State := writeOut s 0x02 (threeCerts s)

/-- The digest of a key slot, zeros if it is empty. -/
def slotDigest : Option (List Byte) → List Byte
  | some k => sha256 k
  | none => bytesLE 32 0

/-- The host trust list in index order: of each entry in use its role and certificate. -/
def trustBytes (s : State) : List Byte :=
  s.ident.trust.toList.flatMap fun e => match e with
    | some (op, c) => BitVec.ofNat 8 (ofBool op) :: c
    | none => []

/-- The digest of the active folio, zeros where there is none. -/
def folioDigest (s : State) : List Byte :=
  if s.folio.noFolio then bytesLE 32 0 else sha256 (slotBytes s.folio s.folio.active)

def variantNum (s : State) : Nat := s.nReg

/-- Bytes 0-215 of the statement. -/
def statement (s : State) : List Byte :=
  bytesLE 4 0x54535441 ++ bytesLE 2 1 ++ [BitVec.ofNat 8 (variantNum s), BitVec.ofNat 8 (ofBool s.twin.sideB)]
    ++ bytesLE 8 moduleHash.toNat ++ s.ident.attNonce.toList.flatMap (fun x => bytesLE 4 x.toNat)
    ++ netBytes (netNow s) ++ bytesLE 8 s.arb.seq.toNat ++ bytesLE 4 (modStatus s).toNat ++ bytesLE 4 (folioRead s 0).toNat
    ++ bytesLE 4 (if s.folio.noFolio then 0 else s.folio.runVer.toNat) ++ folioDigest s
    ++ slotDigest s.ident.folioKey ++ slotDigest (some s.ident.serviceKey) ++ sha256 (trustBytes s) ++ bytesLE 8 0

/-- ATTEST: numbered, and the statement goes to the RSA unit to be signed under slot 0x00 (R33). -/
def attestAsk (s : State) : State :=
  let s := number s
  rsaAsk (modIdent s fun i => { i with lastCmd := 0x01, result := 0xFF }) .attest (statement s) []

/-- The statement and its signature are written out. -/
def attestOut (s : State) (m : List Byte) : State :=
  let (g, s) := signMsg s identityKey m
  writeOut s 0x01 (m ++ g)

/-- An attestation or a service command is in progress. -/
def identBusy (s : State) : Bool := s.crypto.any fun q => match q.job with
  | .attest | .service _ => true
  | _ => false

/-! ## Service commands (R469-R472, R476) -/

/-- The message in SVC_MSG, and a field of it. -/
def svcMessage (s : State) : List Byte := s.ident.svcMsg.toList.flatMap fun x => bytesLE 4 x.toNat
def svcField (s : State) (off n : Nat) : Nat := ofBytesLE (((svcMessage s).drop off).take n)

/-- The staged payload. -/
def payloadOf (s : State) : List Byte := memRead s.mem.dram payloadAt (svcField s 24 4)
/-- The staged signature. -/
def stagedSig (s : State) : List Byte := memRead s.mem.dram 0 384

/-- CMD and ARG are of the list. -/
def svcListed (cmd arg : Nat) : Bool :=
  decide (1 ≤ cmd ∧ cmd ≤ 6) && (decide (arg = 0) || (decide (cmd = 3 ∨ cmd = 4) && decide (arg < 16)))

/-- SET_FOLIO_KEY is refused: a slot is TRIAL or WRITING, or a folio command is in progress. -/
def folioKeyRefused (f : FolioSt) : Bool :=
  f.stA == .trial || f.stB == .trial || f.stA == .writing || f.stB == .writing || f.busy != .none

/-- What is wrong with the message: the RESULT, 0 when it is good (log entry 35). -/
def svcFault (s : State) : Byte :=
  let cmd := svcField s 4 1
  if poisoned s 0 384 || !(sigHolds s.ident.serviceKey (svcMessage s) (stagedSig s)) then 0x01
  else if svcField s 8 8 ≠ s.ident.nonce.toNat then 0x02
  else if svcField s 16 8 ≠ moduleHash.toNat then 0x03
  else if svcField s 0 4 ≠ 0x56435253 || !(svcListed cmd (svcField s 5 1)) then 0x07
  else if 65536 < svcField s 24 4 then 0x04
  else if (decide (0 < svcField s 24 4) && poisoned s payloadAt (svcField s 24 4))
      || sha256 (payloadOf s) ≠ ((svcMessage s).drop 32) then 0x04
  else if cmd = 1 && folioKeyRefused s.folio then 0x06
  else 0

/-- A trust list entry from its payload: role, then the certificate. -/
def trustEntry (b : List Byte) : Option (Bool × List Byte) :=
  match b with
  | [] => none
  | r :: c => if r.toNat ≤ 1 ∧ (Config.certKey c).isSome then some (r = 1, c) else none

/-- The effect of each command; true where its payload is bad. -/
def svcEffect (s : State) (cmd : Nat) : State × Bool :=
  let b := payloadOf s
  let k : Fin 16 := Fin.ofNat 16 (svcField s 5 1)
  match cmd with
  | 1 => (modIdent s fun i => { i with folioKey := some b }, false)
  | 2 => (modIdent s fun i => { i with serviceKey := b }, false)
  | 3 =>
    match trustEntry b with
    | some e => (modIdent s fun i => { i with trust := i.trust.set k (some e) }, false)
    | none => (s, true)
  | 4 => (modIdent s fun i => { i with trust := i.trust.set k none }, false)
  | 5 => (modIdent s fun i => { i with appKeys := i.appKeys + 1 }, false)
  | _ =>
    match Config.cappingCert b with
    | some key => (modIdent s fun i => { i with adopted := some key }, false)
    | none => (s, true)

/-- The command of the message in SVC_MSG, its result, and a new nonce whether it succeeds or fails; a session that removes the
entry that admitted it closes at its next message. -/
def serviceRun (s : State) (who : Session) : State :=
  let cmd := svcField s 4 1
  let arg := svcField s 5 1
  let bad := svcFault s
  let r := if bad = 0 then svcEffect s cmd else (s, false)
  let out := decide (bad = 0 ∧ cmd = 4) && (sessOf s who).entry == some (Fin.ofNat 16 arg)
  let d := drawFree (if out then modSess r.1 who fun x => { x with revoked := true } else r.1)
  modIdent d.2 fun i => { i with
    nonce := Config.draw d.1, lastCmd := 0x03, result := if bad = 0 then (if r.2 then 0x04 else 0x00) else bad
    svcCmd := BitVec.ofNat 8 cmd, svcArg := BitVec.ofNat 8 arg }

/-- SERVICE: in progress while it waits for the RSA unit (R33, R469). -/
def serviceAsk (s : State) (who : Session) : State :=
  if rsaFree s then serviceRun s who else rsaAsk (modIdent s fun i => { i with lastCmd := 0x03, result := 0xFF }) (.service who) [] []

/-- ID_CMD: BUSY while an attestation or a service command is in progress. -/
def identCmd (s : State) (k : Session) (v : Word) : State :=
  if identBusy s && decide (1 ≤ v.toNat % 16 ∧ v.toNat % 16 ≤ 3) then modIdent s fun i => { i with lastCmd := BitVec.ofNat 8 (v.toNat % 16), result := 0x05 }
  else match v.toNat % 16 with
  | 1 => attestAsk s
  | 2 => certsOut s
  | 3 => serviceAsk s k
  | _ => s

/-! ## Registers (R477) -/

/-- The word of a register. -/
def identRead (s : State) (off : Nat) : Word :=
  let i := s.ident
  match off with
  | 0x00 => moduleHash.setWidth 32
  | 0x04 => (moduleHash >>> 32).setWidth 32
  | 0x08 => word (fld (variantNum s) 24 + fld (i.trust.toList.filter Option.isSome).length 8
      + bitMask [false, i.folioKey.isSome, true, s.twin.capKey.isSome, i.adopted.isSome])
  | 0x0C => Config.serial
  | 0x14 => word (fld i.lastCmd.toNat 8 + i.result.toNat)
  | 0x18 => i.outLen
  | 0x1C => word (fld i.svcCmd.toNat 8 + i.svcArg.toNat)
  | 0x20 => i.nonce.setWidth 32
  | 0x24 => (i.nonce >>> 32).setWidth 32
  | 0xA0 => i.chalInt
  | 0xA4 => word (fld i.passed 16 + i.failed)
  | _ => 0

/-- ID_CHAL_INT between its bounds. -/
def setChalInt (s : State) (k : Session) (v : Word) : State :=
  let x := bitsOf v 7 0
  let y := clampNat 1 168 x
  let s := if x = y then s else clampReg s (.host k) 0xA0 v (word y) (if y < x then 0x03 else 0x02)
  modIdent s fun i => { i with chalInt := word y }

/-- A write by an OPERATOR session. -/
def identWrite (s : State) (k : Session) (off : Nat) (v : Word) : State :=
  if off = 0x10 then identCmd s k v
  else if off = 0xA0 then setChalInt s k v
  else if h : 0x40 ≤ off ∧ off < 0x60 then modIdent s fun i => { i with attNonce := i.attNonce.set ((off - 0x40) / 4) v }
  else if h : 0x60 ≤ off ∧ off < 0xA0 then modIdent s fun i => { i with svcMsg := i.svcMsg.set ((off - 0x60) / 4) v }
  else s

/-! ## The commands -/

/-- ID_CMD of an OPERATOR session. -/
def identRow (k : Session) (v : Word) (s : State) : Out := run s fun s => if isOperator s k then identWrite s k 0x10 v else s

/-- A service command of the list: SERVICE written while the message names it. -/
def serviceRow (k : Session) (cmd : Nat) (s : State) : Out :=
  run s fun s => if isOperator s k ∧ svcField s 4 1 = cmd then identWrite s k 0x10 3 else s

def execAttest (sess : Session) (s : State) : Out := identRow sess 1 s
def execCerts (sess : Session) (s : State) : Out := identRow sess 2 s
def execSetFolioKey (sess : Session) (s : State) : Out := serviceRow sess 1 s
def execSetServiceKey (sess : Session) (s : State) : Out := serviceRow sess 2 s
def execTrustAdd (sess : Session) (s : State) : Out := serviceRow sess 3 s
def execTrustRemove (sess : Session) (s : State) : Out := serviceRow sess 4 s
def execNewAppKey (sess : Session) (s : State) : Out := serviceRow sess 5 s
def execAdopt (sess : Session) (s : State) : Out := serviceRow sess 6 s

end Sys2Proof.Machine
end

