-- ==== Sys2Proof/Machine/Net.lean ====
section
/-! DEFINITION. Ethernet ports, the switch, PTP and the addresses of the module (R413-R418, R431, R432), with the readings
of log entry 36. -/
namespace Sys2Proof.Machine

def modNet (s : State) (f : NetSt → NetSt) : State := { s with net := f s.net }

/-- An event of the Ethernet source (R532). -/
def emitEth (s : State) (level e : Nat) (marked : Bool) (args : Nat) : State := emit s 23 level e false marked chipScope (word args)

/-- The switch runs: it stops only without logic supply and in deep sleep (R413). -/
def switchRuns (s : State) : Bool := s.power.state != .off && s.power.state != .asleep

/-- Port 0 and 1 of the link vector. -/
def port3 (p : Fin 2) : Fin 3 := Fin.ofNat 3 p.val
def linkUp (s : State) (p : Fin 2) : Bool := s.net.link[port3 p].getLsbD 3
/-- Linked at 1000BASE-T: stamps are used (R415). -/
def gigabit (s : State) (p : Fin 2) : Bool := s.net.link[port3 p] == 0xB

/-! ## PTP (R415, R416) -/

/-- TIME_SRC is PTP. -/
def ptpOn (s : State) : Bool := cfgNat s 0x0006 = 0

/-- Fields of PTP_CTRL. -/
def ptpDomain (s : State) : Nat := bitsOf s.net.ptpCtrl 22 16
def ptpPort (s : State) : Nat := bitsOf s.net.ptpCtrl 5 4
def ptpPower (s : State) : Bool := bitsOf s.net.ptpCtrl 1 0 = 1

/-- The port is in use: selected, and linked so that its stamps can be used; under a test of the Ethernet partition PTP messages
are not used (R500). -/
def ptpUses (s : State) (p : Fin 2) : Bool := (ptpPort s == 2 || ptpPort s == p.val) && gigabit s p && !(partDown s 5)

/-- STATE or SLAVE_PORT changes (PTP_STATE of R532). -/
def setPtp (s : State) (st : BitVec 4) (port : Fin 2) : State :=
  let old := s.net.ptpState
  let moved := old != st || s.net.slavePort != port
  let s := modNet s fun n => { n with ptpState := st, slavePort := port }
  if moved then emitEth s 1 0x02 true (fld port.val 8 + fld old.toNat 4 + st.toNat) else s

/-- The order of the data set comparison: the smaller announces the better master (IEEE 1588; log entry 36). -/
def ptpRank (m : PtpAnnounce) : List Nat :=
  [m.prio1.toNat, m.clockClass.toNat, m.accuracy.toNat, m.variance.toNat, m.prio2.toNat, m.gm.toNat, m.steps.toNat,
    m.sender.toNat, m.port.val]

/-- Lexicographic order. -/
def ranksBefore : List Nat → List Nat → Bool
  | a :: x, b :: y => decide (a < b) || (decide (a = b) && ranksBefore x y)
  | _, _ => false

/-- The best of the announced masters. -/
def bestMaster (l : List PtpAnnounce) : Option PtpAnnounce :=
  l.foldl (fun b m => match b with
    | none => some m
    | some x => if ranksBefore (ptpRank m) (ptpRank x) then some m else b) none

/-- The master is chosen again among those announced: a new one is uncalibrated. -/
def ptpChoose (s : State) (before : Option PtpAnnounce) : State :=
  match bestMaster s.net.masters with
  | none => s
  | some m =>
    let same := match before with
      | some x => x.sender == m.sender && x.port == m.port
      | none => false
    let s := modNet s fun n => { n with gmClass := m.clockClass, gm := m.gm }
    let s := { s with time := { s.time with utc := m.utc } }
    setPtp s (if same then s.net.ptpState else 2) m.port

/-- No master is heard any more: listening, and no source corrects the time (R416). -/
def ptpSilent (s : State) : State :=
  let s := modNet s fun n => { n with masters := [], gmClass := 0, gm := 0 }
  timeFree (setPtp s 1 s.net.slavePort)

/-- An Announce. -/
def ptpAnnounce (s : State) (m : PtpAnnounce) : State :=
  if ptpOn s && ptpUses s m.port && decide (m.domain.toNat = ptpDomain s) then
    let before := bestMaster s.net.masters
    let s := modNet s fun n => { n with masters := m :: n.masters.filter fun x => !(x.port == m.port && x.sender == m.sender) }
    ptpChoose s before
  else s

/-- A Sync of the chosen master, stamped at the pins (R415): the offset corrects network time, and the delay is measured
next. -/
def ptpSync (s : State) (m : PtpSync) : State :=
  match bestMaster s.net.masters with
  | none => s
  | some b =>
    if ptpOn s && ptpUses s m.port && decide (m.domain.toNat = ptpDomain s) && b.sender == m.sender && b.port == m.port then
      let at' : Int := (netNs s : Int) - m.age - latRx s (port3 m.port)
      let s := setPtp s 3 m.port
      let s := timeCorrect s (at' - (m.origin + m.corr + s.net.path.toNat))
      modNet s fun n => { n with out := n.out ++ [.delayReq m.port] }
    else s

/-- A delay measured on the port of the chosen master, by the module's stamps at the MII: referred to the pins it is shorter by half
of both latencies (R63, R415). -/
def ptpDelay (s : State) (port : Fin 2) (domain : Byte) (delay : Word) : State :=
  if ptpOn s && ptpUses s port && decide (domain.toNat = ptpDomain s) && s.net.slavePort == port && decide (2 ≤ s.net.ptpState.toNat) then
    let path := BitVec.ofInt 32 (roundDiv (2 * (delay.toNat : Int) - latRx s (port3 port) - latTx s (port3 port)) 2)
    modNet s fun n => { n with path := path }
  else s

/-- Pdelay_Req in the power profile. -/
def ptpPdelay (s : State) (port : Fin 2) : State :=
  if ptpOn s && ptpPower s && gigabit s port && !(partDown s 5) then modNet s fun n => { n with out := n.out ++ [.pdelayResp port] } else s

/-! ## The transparent clock (R417) -/

/-- Count a message of the transparent clock. -/
def tcCount (s : State) (corrected : Bool) : State :=
  modNet s fun n => if corrected then { n with corrected := inc16 n.corrected } else { n with uncorr := inc16 n.uncorr }

/-- The message leaves by the other port with `added` ns in its correction field. -/
def tcSend (s : State) (ingress : Fin 2) (kind : PtpEvent) (added : Nat) : State :=
  modNet s fun n => { n with out := n.out ++ [.ptpForward (ingress + 1) kind added] }

/-- The residence time of a two-step Sync waits for its Follow_Up. -/
def tcHold (s : State) (ingress : Fin 2) (r : Option Nat) : State :=
  modNet s fun n => { n with residence := n.residence.set ingress r }

/-- A PTP message between P0 and P1: `between` is its residence by the stamps at the MII, which the latencies refer to the pins
(R415). With the Ethernet partition under test forwarding goes on without corrections (R500; out of service as well, log entry
36). -/
def tcForward (s : State) (ingress : Fin 2) (kind : PtpEvent) (between : Nat) : State :=
  let residence := between + latTx s (port3 (ingress + 1)) + latRx s (port3 ingress)
  let corrects := s.net.tcEn && gigabit s ingress && gigabit s (ingress + 1) && !(partDown s 5)
  if !(linkUp s (ingress + 1)) then s
  else match kind with
    | .pdelay => s
    | .sync true => tcHold (tcSend (if corrects then s else tcCount s false) ingress kind 0) ingress (if corrects then some residence else none)
    | .followUp =>
      match s.net.residence[ingress] with
      | some r => tcHold (tcSend (tcCount s true) ingress kind r) ingress none
      | none => tcSend s ingress kind 0
    | _ => tcSend (tcCount s corrects) ingress kind (if corrects then residence else 0)

/-! ## Links and the bridge (R413, R431, R532) -/

/-- A link goes up or down or changes speed; TWL links at 1000BASE-T alone (R4, R370). A port that no longer stamps loses its masters; with PORT 2 the best master is
chosen again on the other port. -/
def linkChange (s : State) (port : Fin 3) (speed : BitVec 3) : State :=
  let v : BitVec 4 := if speed = 0 then 0 else BitVec.ofNat 4 (8 + speed.toNat)
  if s.net.link[port] = v ∨ (port = 2 ∧ speed ≠ 0 ∧ speed ≠ 3) then s
  else
    let before := bestMaster s.net.masters
    let s := modNet s fun n => { n with link := n.link.set port v }
    let s := if s.power.state = .running then
        emitEth s 1 0x01 true (fld (ofBool (speed != 0)) 8 + fld speed.toNat 4 + port.val) else s
    if port.val < 2 ∧ v ≠ 0xB ∧ ptpPort s = 2 then
      let s := modNet s fun n => { n with masters := n.masters.filter fun m => m.port.val != port.val }
      if ptpOn s ∧ s.power.state = .running then ptpChoose s before else s
    else s

/-- ETH_MAC byte 0 is the first of an address: its lowest bit marks a group address. -/
def isGroup (a : BitVec 48) : Bool := a.getLsbD 0

/-- The port behind which an address was learned. -/
def learnedAt (s : State) (a : BitVec 48) : Option (Fin 2) := match s.net.bridge.find? fun x => x.1 == a with
  | some x => some x.2.1
  | none => none

/-- Learn the source of a frame; a full table of 1,024 learns no new one. -/
def bridgeLearn (s : State) (port : Fin 2) (src : BitVec 48) : State :=
  modNet s fun n =>
    let rest := n.bridge.filter fun x => x.1 != src
    if rest.length < 1024 ∧ isGroup src = false then { n with bridge := (src, port, nowNs s) :: rest } else n

/-- A frame on P0 or P1: learned from, and forwarded unless it is the module's own or its receiver is behind its port. -/
def bridgeFrame (s : State) (port : Fin 2) (src dst : BitVec 48) : State :=
  let s := bridgeLearn s port src
  if dst = Config.mac || learnedAt s dst == some port || !(linkUp s (port + 1)) then s
  else modNet s fun n => { n with out := n.out ++ [.bridged (port + 1) src dst] }

/-- An entry that has not been learned again for 300 s leaves the table. -/
def bridgeAge (s : State) (a : BitVec 48) : State :=
  modNet s fun n => { n with bridge := n.bridge.filter fun x => !(x.1 == a && decide (x.2.2 + 300000000000 ≤ nowNs s)) }

/-! ## Registers (R432) -/

/-- A mask of the TLS slots. -/
def slotMask (s : State) (p : SessSt → Bool) : Nat := bitMask ((sessions.take 8).map fun k => p (sessOf s k))
def isOpen (x : SessSt) : Bool := x.state == .opened

/-- The word of a register, by offset from 0x0006_0000. -/
def ethRead (s : State) (off : Nat) : Word :=
  let n := s.net
  let usb := sessOf s 8
  match off with
  | 0x00 => word (fld (ofBool (isOpen usb && usb.operator)) 25 + fld (ofBool (isOpen usb)) 24
      + fld ((sessions.take 8).filter fun k => isOpen (sessOf s k)).length 16
      + fld n.link[2].toNat 8 + fld n.link[1].toNat 4 + n.link[0].toNat)
  | 0x04 => Config.mac.setWidth 32
  | 0x08 => (Config.mac >>> 32).setWidth 32
  | 0x10 => n.ipCtrl
  | 0x14 => n.ipAddr
  | 0x18 => n.ipMask
  | 0x1C => n.ipGw
  | 0x20 => n.ipNow
  | 0x30 => n.lat[0]
  | 0x34 => n.lat[1]
  | 0x38 => n.lat[2]
  | 0x40 => n.ptpCtrl
  | 0x44 => word (fld n.gmClass.toNat 8 + fld s.net.ptpState.toNat 4 + n.slavePort.val)
  | 0x48 => n.gm.setWidth 32
  | 0x4C => (n.gm >>> 32).setWidth 32
  | 0x50 => n.path
  | 0x54 => word (ofBool n.tcEn)
  | 0x58 => word (fld n.corrected 16 + n.uncorr)
  | 0x60 => word (fld (slotMask s fun x => isOpen x && x.operator) 8 + slotMask s isOpen)
  | 0x64 => word (fld n.refused 16 + n.tlsFail)
  | 0x68 => word (fld n.noticesLost 16 + n.abandoned)
  | _ => if h : 0x80 ≤ off ∧ off < 0xA0 then n.chal[(off - 0x80) / 4] else 0

/-- A value and what of it is applied, with its clamp entry when they differ (R14, R175). -/
def ethClamp (s : State) (who : Writer) (off : Nat) (v x y : Word) (reason : Byte) : State :=
  if x = y then s else clampReg s who (0x60000 + off) v y reason

/-- IP_CTRL: a port of at least 1, a mode of the two. -/
def ipCtrlOf (v : Word) : Word :=
  word (fld (clampNat 1 65535 (bitsOf v 31 16)) 16 + (if bitsOf v 1 0 = 1 then 1 else 0))

/-- ETH_LAT: each half at most 2,000. -/
def latOf (v : Word) : Word := word (fld (min 2000 (bitsOf v 31 16)) 16 + min 2000 (bitsOf v 15 0))

/-- PTP_CTRL: the domain at most 127, PORT and PROFILE of their lists. -/
def ptpCtrlOf (v : Word) : Word :=
  word (fld (bitsOf v 22 16) 16 + fld (if bitsOf v 5 4 = 3 then 2 else bitsOf v 5 4) 4 + fld (bitsOf v 3 3) 3
    + (if bitsOf v 1 0 = 1 then 1 else 0))

/-- PTP_CTRL in force: a change begins again with listening (log entry 36). -/
def setPtpCtrl (s : State) (v : Word) : State :=
  if s.net.ptpCtrl = v then s
  else
    let s := modNet s fun n => { n with ptpCtrl := v }
    if ptpOn s then ptpSilent s else s

/-- A write by a chip or pair writer. -/
def ethWrite (s : State) (who : Writer) (off : Nat) (v : Word) : State :=
  if chipWriter s who then
    match off with
    | 0x10 =>
      let x := v &&& 0xFFFF0003
      modNet (ethClamp s who off v x (ipCtrlOf v) (if bitsOf v 31 16 = 0 then 0x02 else 0x05)) fun n => { n with ipCtrl := ipCtrlOf v }
    | 0x14 => modNet s fun n => { n with ipAddr := v }
    | 0x18 => modNet s fun n => { n with ipMask := v }
    | 0x1C => modNet s fun n => { n with ipGw := v }
    | 0x30 => modNet (ethClamp s who off v v (latOf v) 0x03) fun n => { n with lat := n.lat.set 0 (latOf v) }
    | 0x34 => modNet (ethClamp s who off v v (latOf v) 0x03) fun n => { n with lat := n.lat.set 1 (latOf v) }
    | 0x38 => modNet (ethClamp s who off v v (latOf v) 0x03) fun n => { n with lat := n.lat.set 2 (latOf v) }
    | 0x40 => setPtpCtrl (ethClamp s who off v (v &&& 0x007F003B) (ptpCtrlOf v) 0x05) (ptpCtrlOf v)
    | 0x54 => modNet s fun n => { n with tcEn := v.getLsbD 0 }
    | _ => s
  else s

/-! ## The commands -/

def execEthLinkChange (port : Fin 3) (speed : BitVec 3) (s : State) : Out :=
  .next (if switchRuns s ∧ speed.toNat < 4 then linkChange s port speed else s)
def execPtpSyncRx (m : PtpSync) (s : State) : Out := run s fun s => ptpSync s m
def execPtpPdelayReqRx (port : Fin 2) (s : State) : Out := run s fun s => ptpPdelay s port
def execPtpAnnounceTimeout (s : State) : Out := run s fun s => if ptpOn s ∧ 2 ≤ s.net.ptpState.toNat then ptpSilent s else s
def execPtpAnnounceRx (m : PtpAnnounce) (s : State) : Out := run s fun s => ptpAnnounce s m
def execPtpDelayRespRx (port : Fin 2) (domain : Byte) (delay : Word) (s : State) : Out := run s fun s => ptpDelay s port domain delay
def execTcForward (ingress : Fin 2) (kind : PtpEvent) (residence : Nat) (s : State) : Out :=
  .next (if switchRuns s then tcForward s ingress kind residence else s)
def execBridgeFrameRx (port : Fin 2) (src dst : BitVec 48) (s : State) : Out :=
  .next (if switchRuns s then bridgeFrame s port src dst else s)
def execBridgeAddressAgeOut (mac : BitVec 48) (s : State) : Out := .next (if switchRuns s then bridgeAge s mac else s)
/-- ARP and ICMP echo at the address in force (R414). -/
def execArpIcmpRequest (icmp : Bool) (target : Word) (s : State) : Out :=
  run s fun s => if target = s.net.ipNow ∧ target ≠ 0 ∧ s.therm.bistOut.getLsbD 5 = false then
    modNet s fun n => { n with out := n.out ++ [if icmp then .icmpReply target else .arpReply target] } else s
/-- A DHCP answer while IP_MODE DHCPv4 is in force. -/
def execDhcpv4Lease (lease : Option Word) (s : State) : Out :=
  run s fun s => if bitsOf s.net.ctrlNow 1 0 = 1 ∧ s.therm.bistOut.getLsbD 5 = false then modNet s fun n => { n with ipNow := lease.getD 0 } else s

end Sys2Proof.Machine
end

