-- ==== Sys2Proof/Machine/Position.lean ====
section
/-! DEFINITION. Position and speed inputs (R478-R490) and QIN (R150), with the readings of log entry 22. -/
namespace Sys2Proof.Machine

def qpOf (s : State) (n : Fin 8) : QpSt := s.qp[n]
def modQp (s : State) (n : Fin 8) (f : QpSt → QpSt) : State := { s with qp := s.qp.set n (f (qpOf s n)) }

/-! ## Configuration fields -/

def qpEn (q : QpSt) : Bool := q.cfg.getLsbD 31
def qpTravel (q : QpSt) : Bool := q.cfg.getLsbD 30
def qpInvert (q : QpSt) : Bool := q.cfg.getLsbD 29
def qpFalling (q : QpSt) : Bool := q.cfg.getLsbD 28
def qpIdxEvt (q : QpSt) : Bool := q.cfg.getLsbD 21
def qpSkipMax (q : QpSt) : Nat := bitsOf q.cfg 19 16
def qpCpr (q : QpSt) : Nat := bitsOf q.cfg 15 0
/-- SPD_AVG as a number of intervals. -/
def qpAvg (q : QpSt) : Nat :=
  match bitsOf q.cfg 23 22 with
  | 1 => 4
  | 2 => 16
  | _ => 1
def qpTimeout (q : QpSt) : Nat := bitsOf q.time 31 16 * 1000000
def qpWindow (q : QpSt) : Nat := bitsOf q.time 15 0 * 1000000

/-- The decoder runs: through a warm restart too, not without supply, in thermal shutdown or in deep sleep (R479). -/
def qpRuns (s : State) : Bool := s.power.state != .off && s.power.state != .thermal && s.power.state != .asleep
def qpRun (s : State) (f : State → State) : Out := .next (if qpRuns s then f s else s)

/-! ## Lines and pass-through (R478, R487) -/

/-- The levels of QA and QB after a counted transition: with QA leading they pass 00, 10, 11, 01 (R478). -/
def lineStep (q : QpSt) (qbLeads : Bool) : QpSt :=
  if q.qa == q.qb then (if qbLeads then { q with qb := !q.qb } else { q with qa := !q.qa })
  else (if qbLeads then { q with qa := !q.qa } else { q with qb := !q.qb })

/-- A command of an input's lines: the levels move whether or not the decoder runs, before what the decoder makes of it. -/
def lineRun (s : State) (n : Fin 8) (lines : QpSt → QpSt) (f : State → State) : Out := qpRun (modQp s n lines) f

/-- The logic supply is there (R487). -/
def logicSupply (s : State) : Bool := s.power.state != .off && (s.power.logicA || s.power.logicB)

/-- The pass-through outputs QAO, QBO and QIO of an input: its lines, in every power state and with EN clear, as long as the
logic supply holds; low without it (R487, R489). -/
def passOut (s : State) (n : Fin 8) : Bool × Bool × Bool :=
  let q := qpOf s n
  (logicSupply s && q.qa, logicSupply s && q.qb, logicSupply s && q.qi)

/-- An event of the field inputs for an input (R534). -/
def emitQp (s : State) (level e : Nat) (marked : Bool) (args : Nat) : State := emit s 26 level e false marked chipScope (word args)

/-! ## Counting (R478, R480, R483) -/

/-- AT_LO, AT_HI as the count stands, with a LIMIT event for a limit newly reached. -/
def qpLimits (s : State) (n : Fin 8) : State :=
  let q := qpOf s n
  let lo := qpTravel q && q.count == q.limLo
  let hi := qpTravel q && q.count == q.limHi
  let s := modQp s n fun q => { q with atLo := lo, atHi := hi }
  let s := if lo && !q.atLo then emitQp s 1 0x02 true n.val else s
  if hi && !q.atHi then emitQp s 1 0x02 true (n.val + 256) else s

/-- The count of a travel input brought between its limits, and whether it had to be. -/
def qpClamp (q : QpSt) (v : Word) : Word × Bool :=
  if qpTravel q = false then (v, false)
  else if v.toInt < q.limLo.toInt then (q.limLo, true)
  else if q.limHi.toInt < v.toInt then (q.limHi, true)
  else (v, false)

/-- One step of the count; a travel count at its limit is held (R483). -/
def qpCountStep (q : QpSt) (neg : Bool) : QpSt :=
  if qpTravel q && (if neg then decide (q.count.toInt ≤ q.limLo.toInt) else decide (q.limHi.toInt ≤ q.count.toInt)) then
    { q with held := inc16 q.held }
  else { q with count := if neg then q.count - 1 else q.count + 1 }

/-- The speed's part of a counted transition at time `t` (R485, R486). -/
def qpSpeedStep (q : QpSt) (neg : Bool) (t : Nat) : QpSt :=
  match q.lastAt with
  | some u =>
    if t < u + qpTimeout q then
      if neg = q.dir then { q with lastAt := some t, intervals := (max 50 (t - u) :: q.intervals).take 16, standstill := false }
      else { q with lastAt := some t, intervals := [], dir := neg }
    else { q with lastAt := some t, intervals := [], dir := neg, standstill := true }
  | none => { q with lastAt := some t, intervals := [], dir := neg }

/-- The 50 ns grid. -/
def grid50 (s : State) : Nat := nowNs s / 50 * 50

/-- A counted transition. -/
def qpStep (s : State) (n : Fin 8) (qbLeads : Bool) : State :=
  if qpEn (qpOf s n) then
    let t := grid50 s
    qpLimits (modQp s n fun q =>
      let neg := qbLeads != qpInvert q
      qpSpeedStep (qpCountStep q neg) neg t) n
  else s

/-- Speed in counts per s (R485, R486). -/
def qpSpeed (s : State) (n : Fin 8) : Word :=
  let q := qpOf s n
  let used := q.intervals.take (qpAvg q)
  let total := used.foldl (· + ·) 0
  match q.lastAt with
  | none => 0
  | some u =>
    let e := grid50 s - u
    if q.standstill || used.isEmpty || decide (qpTimeout q ≤ e) then 0
    else
      let measured := roundDiv (used.length * 1000000000) total
      let v := if e = 0 then measured else min measured (roundDiv 1000000000 e)
      BitVec.ofInt 32 (if q.dir then -v else v)

/-! ## Index (R481, R482) -/

/-- DRIFT after a latch: unchanged on a re-crossing, at the first latch, on a travel input and without CPR. -/
def qpDrift (q : QpSt) : Half :=
  let diff := (q.count - q.index).toInt
  let cpr : Int := qpCpr q
  if qpTravel q || qpCpr q == 0 || !q.indexSeen || decide (2 * diff.natAbs ≤ qpCpr q) then q.drift
  else BitVec.ofInt 16 (clampInt (-32767) 32767 (diff - if 0 < diff then cpr else -cpr))

/-- An edge of the filtered QI. -/
def qpIndex (s : State) (n : Fin 8) (rising : Bool) : State :=
  let q := qpOf s n
  if qpEn q && rising != qpFalling q then
    let s := modQp s n fun q => { q with index := q.count, drift := qpDrift q, indexSeen := true }
    if qpIdxEvt q then emitQp s 0 0x01 false n.val else s
  else s

/-! ## Skips (R484) -/

/-- A skip: INVALID with its event at the skip that first exceeds SKIP_MAX in the window. -/
def qpSkips (s : State) (n : Fin 8) : State :=
  let q := qpOf s n
  if qpEn q then
    let s := modQp s n fun q => { q with skips := inc16 q.skips, skipsWin := q.skipsWin + 1, skipFlag := true }
    if q.skipsWin = qpSkipMax q then
      emitQp (modQp s n fun q => { q with invalid := true }) 2 0x03 true (n.val + fld (min 255 (q.skipsWin + 1)) 8)
    else s
  else s

/-- The end of the skip window. -/
def qpWindowEnds (s : State) (n : Fin 8) : State :=
  let q := qpOf s n
  if q.winStart + qpWindow q ≤ nowNs s then modQp s n fun q => { q with skipsWin := 0, winStart := q.winStart + qpWindow q } else s

/-- No counted transition for SPD_TIMEOUT: standstill (R486). -/
def qpStill (s : State) (n : Fin 8) : State :=
  let q := qpOf s n
  match q.lastAt with
  | some u => if u + qpTimeout q ≤ nowNs s then modQp s n fun q => { q with standstill := true, lastAt := none, intervals := [] } else s
  | none => s

/-! ## Writes (R483, R484, R489, R490) -/

def qpAddr (n : Fin 8) (off : Nat) : Nat := 0xA0000 + 0x40 * n.val + off

/-- PRESET: the count within the limits, INVALID cleared. -/
def qpLoad (s : State) (who : Writer) (n : Fin 8) (v : Word) : State :=
  let (x, out) := qpClamp (qpOf s n) v
  let s := if out then clampReg s who (qpAddr n 0x2C) v x (if v.toInt < x.toInt then 0x02 else 0x03) else s
  qpLimits (modQp s n fun q => { q with count := x, invalid := false }) n

/-- QP_CMD CLEAR: INVALID and the window cleared, the windows restarted. -/
def qpClear (s : State) (n : Fin 8) : State :=
  let now := nowNs s
  modQp s n fun q => { q with invalid := false, skipsWin := 0, winStart := now }

/-- The configuration value applied: SPD_AVG 0b11 takes 0b00; bit 20 is reserved. -/
def qpCfgFix (v : Word) : Word × Bool :=
  let v := v &&& 0xFFEFFFFF
  if bitsOf v 23 22 = 3 then (v &&& 0xFF3FFFFF, true) else (v, false)

/-- Bring the count between the limits, HELD counted once (R489). -/
def qpHold (s : State) (n : Fin 8) : State :=
  qpLimits (modQp s n fun q =>
    let (x, out) := qpClamp q q.count
    if out then { q with count := x, held := inc16 q.held } else q) n

/-- Put a configuration in force. -/
def qpConfigure (s : State) (n : Fin 8) (v : Word) : State := qpHold (modQp s n fun q => { q with cfg := (qpCfgFix v).1 }) n

/-- A register write of QP_CFG. -/
def qpCfgReg (s : State) (who : Writer) (n : Fin 8) (v : Word) : State :=
  let s := if (qpCfgFix v).2 then clampReg s who (qpAddr n 0) v (qpCfgFix v).1 0x05 else s
  qpConfigure s n v

/-- A limit written: a pair out of order takes both defaults (R174, R483). -/
def qpLimitReg (s : State) (who : Writer) (n : Fin 8) (hi : Bool) (v : Word) : State :=
  let q := qpOf s n
  let lo := if hi then q.limLo else v
  let up := if hi then v else q.limHi
  if lo.toInt < up.toInt then qpHold (modQp s n fun q => { q with limLo := lo, limHi := up }) n
  else
    let s := clampReg s who (qpAddr n 0x08) lo 0x80000000 0x0C
    let s := clampReg s who (qpAddr n 0x0C) up 0x7FFFFFFF 0x0C
    qpHold (modQp s n fun q => { q with limLo := 0x80000000, limHi := 0x7FFFFFFF }) n

/-- QP_TIME within its ranges. -/
def qpTimeReg (s : State) (who : Writer) (n : Fin 8) (v : Word) : State :=
  let t := clampNat 1 10000 (bitsOf v 31 16)
  let w := clampNat 10 60000 (bitsOf v 15 0)
  let x := word (fld t 16 + w)
  let low := decide (bitsOf v 31 16 < t ∨ bitsOf v 15 0 < w)
  let s := if x = v then s else clampReg s who (qpAddr n 4) v x (if low then 0x02 else 0x03)
  modQp s n fun q => { q with time := x }

/-- A write at an offset from 0x000A_0000 by a chip or pair writer. -/
def qpWrite (s : State) (who : Writer) (off : Nat) (v : Word) : State :=
  if chipWriter s who && decide (off < 0x200) then
    let n : Fin 8 := Fin.ofNat 8 (off / 64)
    match off % 64 with
    | 0x00 => qpCfgReg s who n v
    | 0x04 => qpTimeReg s who n v
    | 0x08 => qpLimitReg s who n false v
    | 0x0C => qpLimitReg s who n true v
    | 0x24 => if v.getLsbD 0 then modQp s n fun q => { q with skipFlag := false } else s
    | 0x2C => qpLoad s who n v
    | 0x30 => if v.toNat % 16 = 1 then qpClear s n else s
    | _ => s
  else s

/-- QP_STAT. -/
def qpStat (q : QpSt) : Word :=
  word (fld (min 255 q.skipsWin) 16 + fld (ofBool q.standstill) 7 + fld (ofBool q.dir) 6 + fld (ofBool q.invalid) 5
    + fld (ofBool q.atHi) 4 + fld (ofBool q.atLo) 3 + fld (ofBool q.indexSeen) 2 + fld (ofBool (qpTravel q)) 1 + ofBool (qpEn q))

/-- The live word at an offset from 0x000A_0000. -/
def qpRead (s : State) (off : Nat) : Word :=
  if off < 0x200 then
    let n : Fin 8 := Fin.ofNat 8 (off / 64)
    let q := qpOf s n
    match off % 64 with
    | 0x00 => q.cfg
    | 0x04 => q.time
    | 0x08 => q.limLo
    | 0x0C => q.limHi
    | 0x10 => q.count
    | 0x14 => qpSpeed s n
    | 0x18 => q.index
    | 0x1C => q.drift.setWidth 32
    | 0x20 => qpStat q
    | 0x24 => word (ofBool q.skipFlag)
    | 0x28 => word (fld q.skips 16 + q.held)
    | _ => 0
  else 0

/-! ## QIN (R150) -/

/-- The input that gs1 names. -/
def qinInput (k : WorkerSt) (s1 : GReg) : Fin 8 := Fin.ofNat 8 (gGet k s1).toNat

/-- A reading of QIN. -/
def qin (w : Worker) (d s1 : GReg) (s : State) (f : State → Fin 8 → Word) : Out :=
  issue s w fun s => modWk s w fun k => nextPc (putStatus k d (f s (qinInput k s1)))

def execQinCount (w : Worker) (d s1 : GReg) (s : State) : Out := qin w d s1 s fun s n => (qpOf s n).count
def execQinSpeed (w : Worker) (d s1 : GReg) (s : State) : Out := qin w d s1 s qpSpeed
def execQinStat (w : Worker) (d s1 : GReg) (s : State) : Out := qin w d s1 s fun s n => qpStat (qpOf s n)
def execQinIndex (w : Worker) (d s1 : GReg) (s : State) : Out := qin w d s1 s fun s n => (qpOf s n).index

/-- qin.cfg: chip and pair only; a clamp entry names the worker (R175). -/
def execQinCfg (w : Worker) (d s1 s2 : GReg) (s : State) : Out :=
  issue s w fun s =>
    let k := wkOf s w
    let n := qinInput k s1
    let v := gGet k s2
    if !(chipOrPair k.scope) then trapWorker s w causeScope (word n.val)
    else
      let s := if (qpCfgFix v).2 then clampAdd s (word w.val) v (qpCfgFix v).1 k.scope 0x05 0x05 else s
      modWk (qpConfigure s n v) w fun k => nextPc (putStatus k d (qpCfgFix v).1)

/-! ## The commands -/

def execQpTransition (n : Fin 8) (qbLeads : Bool) (s : State) : Out :=
  lineRun s n (fun q => lineStep q qbLeads) fun s => qpStep s n qbLeads
def execQpSkip (n : Fin 8) (s : State) : Out :=
  lineRun s n (fun q => { q with qa := !q.qa, qb := !q.qb }) fun s => qpSkips s n
def execQpIndexEdge (n : Fin 8) (rising : Bool) (s : State) : Out :=
  lineRun s n (fun q => { q with qi := rising }) fun s => qpIndex s n rising
def execSkipWindowEnd (n : Fin 8) (s : State) : Out := qpRun s fun s => qpWindowEnds s n
def execSpdTimeoutExpiry (n : Fin 8) (s : State) : Out := qpRun s fun s => qpStill s n

end Sys2Proof.Machine
end

