-- ==== Sys2Proof/Machine/Regs.lean ====
section
/-! DEFINITION. The register map (R13, R14, R85, R429): live words, access codes, snapshots, and writes, with the readings
of log entry 37. -/
namespace Sys2Proof.Machine

/-! ## Phase wheel, time, ticks, sweeps (R70, R247) -/

/-- NOMINAL as WHEEL_CTRL and WHEEL_STATUS show it waiting (R44). DESIGN CHOICE: while no value is held NOMINAL_HELD shows the value
in force (log entry 37). -/
def nominalWaiting (s : State) : Bool := s.wheel.nominalHeld.getD s.wheel.nominal

/-- The live word at an address 0x0001_0000-0x0001_03FF. -/
def timeRead (s : State) (a : Nat) : Word :=
  let w := s.wheel
  let p := phaseNow s
  let t := netNow s
  let l := s.canLatch
  match a with
  | 0x10000 => word (fld (cfgNat s 3) 3 + fld (ofBool (nominalWaiting s)) 2 + cfgNat s 1)
  | 0x10004 => cfgGet s 4 &&& 0xFFFFFF
  | 0x10008 => cfgGet s 5
  | 0x1000C => word (fld w.rejects 16 + fld w.acceptRun 8 + fld (ofBool (nominalWaiting s)) 4 + fld (ofBool w.nominal) 3
      + fld (ofBool w.followsTwin) 2 + wheelNum w.state)
  | 0x10010 => p.setWidth 32
  | 0x10014 => (p >>> 32).setWidth 32
  | 0x10018 => word w.cycLen
  | 0x10020 => w.count.setWidth 32
  | 0x10024 => (w.count >>> 32).setWidth 32
  | 0x10028 => w.zc.sec.setWidth 32
  | 0x1002C => word (fld w.zc.epoch.toNat 16 + (w.zc.sec >>> 32).toNat)
  | 0x10030 => w.zc.ns
  | 0x10100 => cfgGet s 6
  | 0x10104 => word (fld s.time.epoch.toNat 16 + fld s.time.steps 8 + fld (ofBool s.time.slewing) 2 + timeNum s.time.state)
  | 0x10108 => s.time.lastOffset
  | 0x1010C => s.time.utc.setWidth 32
  | 0x10110 => t.sec.setWidth 32
  | 0x10114 => word (fld t.epoch.toNat 16 + (t.sec >>> 32).toNat)
  | 0x10118 => t.ns
  | 0x10300 => l.sec.setWidth 32
  | 0x10304 => word (fld l.epoch.toNat 16 + (l.sec >>> 32).toNat)
  | 0x10308 => l.cnt[0]
  | 0x1030C => l.cnt[1]
  | 0x10310 => l.cnt[2]
  | 0x10314 => l.cnt[3]
  | a =>
    if 0x10200 ≤ a ∧ a < 0x10280 then
      let n : Fin 4 := Fin.ofNat 4 ((a - 0x10200) / 32)
      let k := s.ticks[n]
      match a % 32 with
      | 0x00 => word (ofBool k.en)
      | 0x04 => word k.div
      | 0x08 => (tickCount s n).setWidth 32
      | 0x0C => (tickCount s n >>> 32).setWidth 32
      | 0x10 => k.cmp.setWidth 32
      | 0x14 => (k.cmp >>> 32).setWidth 32
      | _ => 0
    else 0

/-- WHEEL_CTRL. -/
def setWheelCtrl (s : State) (who : Writer) (v : Word) : State :=
  let s := setNominal (setWheelSrc s who (v.setWidth 2)) (v.getLsbD 2)
  writeSetting s who 0x10000 3 (word (bitsOf v 3 3))

/-- TICK_DIV within 10 and 100,000. -/
def setTickDiv (s : State) (who : Writer) (n : Fin 4) (v : Word) : State :=
  let x := bitsOf v 16 0
  let y := clampNat 10 100000 x
  tickSetDiv (if x = y then s else clampReg s who (0x10204 + 0x20 * n.val) v (word y) (if y < x then 0x03 else 0x02)) n y

/-- A register of tick domain `n`. -/
def tickWrite (s : State) (who : Writer) (n : Fin 4) (off : Nat) (v : Word) : State :=
  let cmp := (s.ticks[n]).cmp
  match off with
  | 0x00 => tickEnable s n (v.getLsbD 0)
  | 0x04 => setTickDiv s who n v
  | 0x10 => tickSetCmp s n (cmp &&& 0xFFFFFFFF00000000 ||| v.setWidth 64)
  | 0x14 => tickSetCmp s n (cmp &&& 0xFFFFFFFF ||| (v.setWidth 64) <<< 32)
  | 0x18 => modTick s n fun t => { t with loadLo := v }
  | 0x1C => tickLoadHi s n v
  | _ => s

/-- A write by a chip or pair writer at an address 0x0001_0000-0x0001_03FF. -/
def timeWrite (s : State) (who : Writer) (a : Nat) (v : Word) : State :=
  match a with
  | 0x10000 => setWheelCtrl s who v
  | 0x10004 => writeSetting s who a 4 ((v.setWidth 24).signExtend 32)
  | 0x10008 => writeSetting s who a 5 (word (bitsOf v 13 0))
  | 0x10040 => { s with wheel := { s.wheel with msgLo := v } }
  | 0x10044 => { s with wheel := { s.wheel with msgHi := v } }
  | 0x10048 => phaseMessage s v
  | 0x10100 => setTimeSrc s who (v.setWidth 2)
  | 0x10120 => { s with time := { s.time with setLo := v } }
  | 0x10124 => { s with time := { s.time with setHi := v } }
  | 0x10128 => timeSetNs s who v
  | a => if 0x10200 ≤ a ∧ a < 0x10280 then tickWrite s who (Fin.ofNat 4 ((a - 0x10200) / 32)) (a % 32) v else s

/-- The live word at an address 0x0001_0400-0x0001_05FF. -/
def sweepRead (s : State) (a : Nat) : Word :=
  let w := s.sweep
  let at' := BitVec.ofNat 64 (w.nextCycle * 16777216 + w.frac.toNat)
  match a with
  | 0x10400 => word (fld w.n 16 + fld w.minN 8)
  | 0x10404 => w.frac.setWidth 32
  | 0x10408 => word w.hush
  | 0x1040C => w.cur
  | 0x10410 => at'.setWidth 32
  | 0x10414 => (at' >>> 32).setWidth 32
  | 0x10500 => word (ofBool w.adapt)
  | 0x10504 => word (fld w.effDecim 16 + fld (archFill s) 8)
  | 0x10508 => word (archBase s)
  | 0x1050C => word (entrySize s)
  | 0x10510 => word w.newest
  | 0x10514 => word w.oldest
  | 0x10518 => word (archCap s)
  | 0x1051C => w.ack
  | 0x10520 => word w.lost
  | _ => 0

/-- A register write waits for its sweep (R176, R247, R373). -/
def regWait (s : State) (who : Option Writer) (a : Nat) (v m : Word) : State :=
  sweepChanges { s with sweep := { s.sweep with regNext := s.sweep.regNext ++ [(m, who, a, v)] } }

/-- A register write takes effect at the sweep that R176 names, in both twins. -/
def regAtSweep (s : State) (who : Writer) (a : Nat) (v : Word) : State :=
  let s := number s
  let m := settingSweep s
  pairSend (regWait s (some who) a v m) (.forward (.registerAt (word a) v m))

/-- A write of ARCH_CTRL or ARCH_ACK: it takes effect at the sweep that R176 names, in both twins (R247). -/
def archWrite (s : State) (who : Writer) (a : Nat) (v : Word) : State :=
  if a = 0x10500 ∨ a = 0x1051C then
    regAtSweep s who a v
  else s

/-- A write of a controller register (R373, R411): of the host in a pair it takes effect at the sweep that R176 names, in both
twins. DESIGN CHOICE: CAN_CMD acts at once, the lead sending what R401 and R408 name (log entry 36). -/
def canWrite (s : State) (who : Writer) (n : Fin 4) (off : Nat) (v : Word) : State :=
  match who with
  | .host _ => if s.twin.session && off != 0x1C then regAtSweep s who (canAddr n off) v else canPut s who n off v
  | .worker _ => canPut s who n off v

/-- A write by a chip or pair writer at an address 0x0001_0400-0x0001_05FF. -/
def sweepWrite (s : State) (who : Writer) (a : Nat) (v : Word) : State :=
  if a = 0x10404 then sweepSetting s who a 0x1002 (v &&& 0xFFFFFF)
  else if a = 0x10408 then sweepSetting s who a 0x1003 (word (bitsOf v 10 0))
  else archWrite s who a v

/-- The live word at an offset 0x100-0x1FF of a region page. -/
def rsRead (s : State) (r : Region) (off : Nat) : Word :=
  let x := rgOf s r
  match off with
  | 0x100 => match x.held.head? with
    | some v => word (fld x.incRun 24 + fld v.clkBad.toNat 8 + fld v.absentCount 3
        + bitMask [v.complete, v.isolated, x.periodShort])
    | none => word (fld x.incRun 24 + fld (ofBool x.periodShort) 2)
  | 0x104 => x.lastSweep
  | 0x108 => x.fitE
  | 0x10C => x.fitA
  | 0x110 => word (fld x.incomplete 16 + x.hushViol)
  | 0x114 => x.closeUs
  | _ => 0

/-! ## The map of the blocks -/

/-- The live word at an offset of a region page; positions beyond the variant read zero (R3). -/
def pageRead (s : State) (r : Region) (off : Nat) : Word :=
  if !(hasRegion s r) then 0
  else if off < 0x100 then rrRead s r off
  else if off < 0x200 then rsRead s r off
  else if off < 0x300 then ordRead s r off
  else reRead s r off

/-- The live word of a register, windows apart; an address that holds no register reads zero. -/
def liveWord (s : State) (a : Nat) : Word :=
  if a < 0x100 then identRead s a
  else if a = 0x100 then modStatus s
  else if a = 0x108 then s.arb.seq.setWidth 32
  else if a = 0x10C then (s.arb.seq >>> 32).setWidth 32
  else if a < 0x200 then 0
  else if a < 0x420 then folioRead s (a - 0x200)
  else if a < 0x10000 then 0
  else if a < 0x10400 then timeRead s a
  else if a < 0x10600 then sweepRead s a
  else if a < 0x20000 then 0
  else if a < 0x23800 then wcRead s (a - 0x20000)
  else if a < 0x30000 then 0
  else if a < 0x40000 then pageRead s (pageOf a) (a % 0x1000)
  else if a < 0x41800 then bankRead s (a - 0x40000)
  else if a < 0x50000 then 0
  else if a < 0x58000 then canRead s (canPort a) (canOff a)
  else if a < 0x60000 then 0
  else if a < 0x60100 then ethRead s (a - 0x60000)
  else if a < 0x71000 then 0
  else if a < 0x73000 then recCtlRead s (a - 0x71000)
  else if a < 0x80000 then 0
  else if a < 0x80800 then twinRead s (a - 0x80000)
  else if a < 0x80810 then severRead s a
  else if a < 0x90000 then 0
  else if a < 0xA0000 then pwrRead s (a - 0x90000)
  else if a < 0xB0000 then qpRead s (a - 0xA0000)
  else if a < 0xB8000 then memRegRead s (a - 0xB0000)
  else if a < 0xB8200 then estRead s (a - 0xB8000)
  else 0

/-! ## Snapshot structures of registers (R13, R71) -/

/-- The structures of two or more registers, from their RS word to their RL word. -/
def structPairs : List (Nat × Nat) :=
  [(0x0, 0x4), (0x20, 0x24), (0x108, 0x10C), (0x408, 0x41C), (0x10010, 0x10014), (0x10020, 0x10030), (0x10110, 0x10118),
   (0x10208, 0x1020C), (0x10228, 0x1022C), (0x10248, 0x1024C), (0x10268, 0x1026C), (0x10300, 0x10314), (0x10410, 0x10414),
   (0x10510, 0x10514), (0x40030, 0x40034), (0x40038, 0x4003C), (0x60004, 0x60008), (0x60048, 0x6004C), (0x60080, 0x6009C),
   (0x7100C, 0x71010), (0x7102C, 0x71030), (0x7104C, 0x71050), (0x7106C, 0x71070), (0x72028, 0x7202C), (0x80010, 0x80014),
   (0x80100, 0x8011C), (0x80120, 0x8013C), (0x90208, 0x9020C), (0xB0010, 0xB0014), (0xB8110, 0xB8114)]

/-- The structure that a register belongs to: run counters, sewing candidates, clash tables and position inputs besides. -/
def structOf (s : State) (a : Nat) : Option (Nat × Nat) :=
  if 0x21000 ≤ a ∧ a < 0x23800 then
    (if a % 64 = 0x30 then some (a, a + 4) else if a % 64 = 0x34 then some (a - 4, a) else none)
  else if 0x30000 ≤ a ∧ a < 0x40000 then
    (if !(hasRegion s (pageOf a)) then none
     else if a % 0x1000 = 0x48 then some (a, a + 4) else if a % 0x1000 = 0x4C then some (a - 4, a) else none)
  else if 0x50000 ≤ a ∧ a < 0x58000 then
    (let b := a - canOff a
     if 0x80 ≤ canOff a ∧ canOff a < 0xC0 then some (b + 0x80, b + 0xBC) else none)
  else if 0xA0000 ≤ a ∧ a < 0xA0200 then
    (let b := a - a % 64
     if 0x10 ≤ a % 64 ∧ a % 64 < 0x20 then some (b + 0x10, b + 0x1C) else none)
  else structPairs.find? fun p => decide (p.1 ≤ a ∧ a ≤ p.2)

/-! ## Windows (R239, R240, R306, R307, R399, R442) -/

/-- A window that only a snapshot shows. -/
inductive Win where
  | sweep (r : Region)
  | pack
  | cell (r : Region)
  | summary
  | can (n : Fin 4) (k : Fin 64)
  | ribbon (k : Fin 4)
deriving DecidableEq, Repr

/-- The window at an address, its first address and the offset of its TAIL. -/
def winOf (a : Nat) : Option (Win × Nat × Nat) :=
  if 0x100000 ≤ a ∧ a < 0x108000 then some (.sweep (Fin.ofNat 16 ((a - 0x100000) / 0x800)), a - a % 0x800, 0x548)
  else if 0x108000 ≤ a ∧ a < 0x10804C then some (.pack, 0x108000, 0x48)
  else if 0x110000 ≤ a ∧ a < 0x150000 then some (.cell (Fin.ofNat 16 ((a - 0x110000) / 0x4000)), a - (a - 0x110000) % 0x4000, 0x3C10)
  else if 0x150000 ≤ a ∧ a < 0x15033C then some (.summary, 0x150000, 0x338)
  else if 0x70000 ≤ a ∧ a < 0x70800 then some (.ribbon (Fin.ofNat 4 ((a - 0x70000) / 0x200)), a - a % 0x200, 0x108)
  else if 0x50000 ≤ a ∧ a < 0x58000 ∧ 0x800 ≤ canOff a then
    (let i := (canOff a - 0x800) / 0x60
     some (.can (canPort a) (Fin.ofNat 64 i), a - (canOff a - 0x800) % 0x60, 0x5C))
  else none

/-- The bytes of a result window between SEQ and TAIL. -/
def winBytes : Win → Nat
  | .sweep _ => 1344
  | .pack => 64
  | .cell _ => 15368
  | .summary => 816
  | _ => 0

/-- The newest complete result of a window: its sweep and its bytes after SEQ; none before the first. -/
def newest (s : State) (w : Win) : Option (Word × List Byte) :=
  match w with
  | .sweep r => if hasRegion s r && hasMap s r then (rgOf s r).held.head?.map fun v => (v.sweep, sweepBytes r v) else none
  | .pack => s.sweep.pack.map fun p => (p.sweep, packBytes p 0)
  | .cell r => if hasRegion s r then (s.est.cell[r]).map fun x => (x.sweep, memRead x.bytes 8 15368) else none
  | .summary => s.est.summary.map fun x => (x.sweep, memRead x.bytes 8 816)
  | _ => none

/-- The words of a window after STATE. -/
def resultWords (s : State) (w : Win) : List Word :=
  match newest s w with
  | some (n, b) => n :: wordsLE b
  | none => List.replicate (winBytes w / 4 + 1) 0

/-- STATE that a reader would see now: 0 fresh, 1 already read, 3 none yet; zero beyond the variant. -/
def resultState (s : State) (rd : Reader) (base : Nat) (w : Win) : Nat :=
  match newest s w with
  | some (n, _) => if s.sweep.shown.contains (rd, base, n) then 1 else 0
  | none => match w with
    | .sweep r | .cell r => if hasRegion s r then 3 else 0
    | _ => 3

/-- The reader has been shown the newest result. -/
def markShown (s : State) (rd : Reader) (base : Nat) (w : Win) : State :=
  match newest s w with
  | some (n, _) => { s with sweep := { s.sweep with
      shown := (rd, base, n) :: s.sweep.shown.filter fun x => !(x.1 == rd && x.2.1 == base) } }
  | none => s

/-- A result of another sweep is newer than the one held, and so is one of the same sweep that is published anew: a record that a
late fill rewrote (R238), another publication of the estimator. -/
def newerResult (s : State) (p : Snap) (base : Nat) (w : Win) : Bool :=
  match newest s w with
  | none => false
  | some (n, b) => snapWord p base == 3 || n != snapWord p (base + 4) || (match w with
    | .sweep _ | .cell _ | .summary => (p.words.map Prod.snd).drop 1 != n :: wordsLE b
    | _ => false)

/-- TAIL at release: 2 when a newer result completed while the snapshot was held; a window whose map was withdrawn meanwhile
holds none (R239). -/
def resultTail (s : State) (p : Snap) (base : Nat) (w : Win) : Word :=
  if newerResult s p base w then 2 else snapWord p base

/-- The words that a read of BUF_STATE captures. -/
def bufWords (s : State) (rd : Reader) (base : Nat) (n : Fin 4) (k : Fin 64) : List (Nat × Word) :=
  let c := canOf s n
  let l := heldIn c k
  match l.head? with
  | some e => wordsAt base (word (fld l.length 16 + ofBool (c.shown.contains (rd, k.val, e.seq))) :: wordsLE (imageOf e (lostWith c e)))
  | none => wordsAt base (3 :: List.replicate 22 0)

/-- The reader has been shown the oldest frame of a buffer. -/
def markBuf (s : State) (rd : Reader) (n : Fin 4) (k : Fin 64) : State :=
  modCan s n fun c =>
    match (heldIn c k).head? with
    | some e => { showLoss c k with shown := (rd, k.val, e.seq) :: c.shown.filter fun x => !(x.1 == rd && x.2.1 == k.val) }
    | none => c

/-- The frame that the reader was last shown, while it is still held. -/
def shownFrame (c : CanSt) (rd : Reader) (k : Fin 64) : Option RxEntry :=
  match c.shown.find? fun x => x.1 == rd && x.2.1 == k.val with
  | some x => c.rx.find? fun e => e.seq == x.2.2
  | none => none

/-- BUF_TAIL: 2 when the frame shown has left the queue. -/
def bufTail (s : State) (p : Snap) (base : Nat) (n : Fin 4) (k : Fin 64) : Word :=
  if bitsOf (snapWord p base) 1 0 = 3 then 3
  else if (shownFrame (canOf s n) p.reader k).isSome then word (bitsOf (snapWord p base) 1 0) else 2

/-- Releasing the window of a buffer that the host consumes takes the frame shown, if it is still the oldest (R398). -/
def bufRelease (s : State) (p : Snap) (base : Nat) (n : Fin 4) (k : Fin 64) : State :=
  let c := canOf s n
  match p.reader, shownFrame c p.reader k with
  | .host _, some e =>
    if bitsOf (snapWord p base) 1 0 ≠ 3 && bufHost c k && (heldIn c k).head?.map RxEntry.seq == some e.seq then
      modCan s n fun c => consume c e else s
  | _, _ => s

/-! ## Reading (R13, R89, R240, R425, R426) -/

/-- A snapshot takes the place of the reader's earlier one of the structure. -/
def snapPut (s : State) (rd : Reader) (base : Nat) (words : List (Nat × Word)) : State :=
  let s' := snapDrop s rd base
  { s' with snaps := ⟨rd, base, words, nowNs s⟩ :: s'.snaps }

/-- The words that a window's snapshot captures. -/
def winWords (s : State) (rd : Reader) (base : Nat) (w : Win) : List (Nat × Word) :=
  match w with
  | .can n k => bufWords s rd base n k
  | .ribbon k => ribbonWords s k
  | w => wordsAt base (word (resultState s rd base w) :: resultWords s w)

/-- Take the snapshot of a window. -/
def winTake (s : State) (rd : Reader) (base : Nat) (w : Win) : State :=
  let t := snapPut s rd base (winWords s rd base w)
  match w with
  | .can n k => markBuf t rd n k
  | .ribbon k => ribbonTaken t k
  | w => markShown t rd base w

/-- TAIL of a window whose snapshot is held. -/
def winTail (s : State) (p : Snap) (base : Nat) (w : Win) : Word :=
  match w with
  | .can n k => bufTail s p base n k
  | .ribbon k => ribbonTail s p k
  | w => resultTail s p base w

/-- Release the snapshot of a window. -/
def winRelease (s : State) (p : Snap) (base : Nat) (w : Win) : State :=
  match w with
  | .can n k => snapDrop (bufRelease s p base n k) p.reader base
  | .ribbon k => ribbonTailRead s p.reader k
  | _ => snapDrop s p.reader base

/-- A read of a window's word: zero without a snapshot, STATE apart. -/
def winRead (s : State) (rd : Reader) (a : Nat) (w : Win) (base tail : Nat) : Word × State :=
  if a = base then ((match (winWords s rd base w).head? with
    | some x => x.2
    | none => 0), winTake s rd base w)
  else match snapOf s rd base with
    | none => (0, s)
    | some p => if a = base + tail then (winTail s p base w, winRelease s p base w) else (snapWord p a, s)

/-- The live words of a structure. -/
def structWords (s : State) (lo hi : Nat) : List (Nat × Word) :=
  (List.range ((hi - lo) / 4 + 1)).map fun i => (lo + 4 * i, liveWord s (lo + 4 * i))

/-- A read of a register of a structure. -/
def structRead (s : State) (rd : Reader) (a lo hi : Nat) : Word × State :=
  if a = lo then (liveWord s a, snapPut s rd lo (structWords s lo hi))
  else match snapOf s rd lo with
    | none => (liveWord s a, s)
    | some p => (snapWord p a, if a = hi then snapDrop s rd lo else s)

/-- A read of the word at an address by a reader: what it returns, and the snapshots it takes and releases. -/
def regRead (s : State) (rd : Reader) (a : Nat) : Word × State :=
  match winOf a with
  | some (w, base, tail) => winRead s rd a w base tail
  | none =>
    match structOf s a with
    | some (lo, hi) => structRead s rd a lo hi
    | none => (liveWord s a, s)

/-- The address is an RS word, or an RL word, and of the structure it belongs to. -/
def snapEnds (s : State) (a : Nat) : Option (Nat × Nat) :=
  match winOf a with
  | some (_, base, tail) => some (base, base + tail)
  | none => structOf s a
def isRs (s : State) (a : Nat) : Bool := match snapEnds s a with
  | some (lo, _) => a == lo
  | none => false
def isRl (s : State) (a : Nat) : Bool := match snapEnds s a with
  | some (_, hi) => a == hi
  | none => false

/-! ## Access codes (R13) -/

/-- How a word is accessed: no register, read only, write only, or with a field that a write sets. -/
inductive Access where
  | hole | ro | wo | rw
deriving DecidableEq, Repr

/-- The access of a word by lists of its block's offsets. -/
def accIn (ro wo rw : List Nat) (off : Nat) : Access :=
  if rw.contains off then .rw else if wo.contains off then .wo else if ro.contains off then .ro else .hole

/-- Offsets in steps of 4. -/
def offs (lo n : Nat) : List Nat := (List.range n).map fun i => lo + 4 * i

def accPage (off : Nat) : Access :=
  accIn ([0x00, 0x04, 0x08, 0x0C, 0x18, 0x20, 0x24, 0x28, 0x2C, 0x30, 0x44, 0x48, 0x4C] ++ offs 0x80 17 ++ offs 0x100 6
      ++ [0x20C, 0x210, 0x220, 0x224, 0x228, 0x230, 0x244, 0x248] ++ offs 0x300 8 ++ [0x328])
    [0x40, 0x200, 0x204, 0x208, 0x240] ([0x10, 0x14, 0x250, 0x320, 0x324] ++ offs 0x380 18) off

def accCan (s : State) (off : Nat) : Access :=
  if 0x800 ≤ off then .ro
  else if 0x100 ≤ off ∧ off < 0x500 then
    (if off % 16 = 0xC ∨ off = 0x108 then .ro else .rw)
  else if 0x500 ≤ off ∧ off < 0x600 then .rw
  else if 0x40 ≤ off ∧ off < 0x54 then (if s.nReg = 16 then .rw else .ro)
  else accIn ([0x04, 0x08, 0x14, 0x18] ++ offs 0x20 6 ++ offs 0x80 16) [0x1C] [0x00, 0x0C, 0x10] off

def accRec (a : Nat) : Access :=
  if a < 0x70800 then (if a % 0x200 = 4 ∨ 0x108 < a % 0x200 then .hole else .ro)
  else if 0x71000 ≤ a ∧ a < 0x71080 then accIn [0x0C, 0x10] [0x04, 0x08] [0x00] (a % 0x20)
  else if 0x72100 ≤ a ∧ a < 0x72200 then .rw
  else accIn [0x72000, 0x72004, 0x72008, 0x7200C, 0x72024, 0x72028, 0x7202C] (0x72020 :: offs 0x72040 8) [0x72010, 0x72014] a

def accBank (s : State) (off : Nat) : Access :=
  if 0x1000 ≤ off then
    (if hasChan s (Fin.ofNat 64 ((off - 0x1000) / 32)) then accIn [0x04, 0x0C, 0x14] [] [0x00, 0x08, 0x10] (off % 32) else .hole)
  else accIn ([0x10, 0x14, 0x18, 0x1C, 0x20] ++ offs 0x30 4) [] [0x00, 0x04, 0x08, 0x0C] off

def accTime (a : Nat) : Access :=
  if 0x10200 ≤ a ∧ a < 0x10280 then accIn [0x08, 0x0C] [0x18, 0x1C] [0x00, 0x04, 0x10, 0x14] (a % 32)
  else if 0x10400 ≤ a then
    accIn ([0x10400, 0x1040C, 0x10410, 0x10414, 0x10520] ++ offs 0x10504 6) [] [0x10404, 0x10408, 0x10500, 0x1051C] a
  else
    accIn ([0x1000C, 0x10010, 0x10014, 0x10018] ++ offs 0x10020 5 ++ [0x10104, 0x10108, 0x1010C] ++ offs 0x10110 3 ++ offs 0x10300 6)
      [0x10040, 0x10044, 0x10048, 0x10120, 0x10124, 0x10128] [0x10000, 0x10004, 0x10008, 0x10100] a

def accWindow (a : Nat) : Access :=
  match winOf a with
  | some (_, base, tail) => if a ≤ base + tail then .ro else .hole
  | none => .hole

/-- The access of the word at an address; positions beyond the variant hold no register. -/
def regAcc (s : State) (a : Nat) : Access :=
  if a < 0x100 then accIn [0x00, 0x04, 0x08, 0x0C, 0x14, 0x18, 0x1C, 0x20, 0x24, 0xA4] ([0x10] ++ offs 0x40 24) [0xA0] a
  else if a < 0x10000 then
    accIn ([0x100, 0x108, 0x10C, 0x200, 0x204, 0x208, 0x20C, 0x308, 0x400] ++ offs 0x408 6) [0x210, 0x300, 0x304] [0x214, 0x404] a
  else if a < 0x20000 then accTime a
  else if a < 0x21000 then accIn ([0x20004] ++ offs 0x20010 5) [] [0x20000] a
  else if a < 0x23800 then accIn (offs 0 7 ++ offs 0x28 4) [0x1C] [0x20, 0x24] (a % 64)
  else if a < 0x30000 then .hole
  else if a < 0x40000 then (if hasRegion s (pageOf a) then accPage (a % 0x1000) else .hole)
  else if a < 0x41800 then accBank s (a - 0x40000)
  else if a < 0x50000 then .hole
  else if a < 0x58000 then accCan s (canOff a)
  else if a < 0x60000 then .hole
  else if a < 0x70000 then
    accIn ([0x60000, 0x60004, 0x60008, 0x60020, 0x60044, 0x60048, 0x6004C, 0x60050, 0x60058, 0x60060, 0x60064, 0x60068] ++ offs 0x60080 8)
      [0x60070] (offs 0x60010 4 ++ offs 0x60030 3 ++ [0x60040, 0x60054]) a
  else if a < 0x80000 then accRec a
  else if a < 0x90000 then
    accIn ([0x8000C, 0x80010, 0x80014, 0x80020, 0x80024, 0x80028, 0x8002C, 0x80800, 0x80808] ++ offs 0x80100 16)
      [0x80008, 0x80018, 0x8001C, 0x80804] [0x80000, 0x80004, 0x80030] a
  else if a < 0xA0000 then
    accIn [0x90000, 0x90010, 0x90014, 0x90100, 0x90108, 0x9010C, 0x90128, 0x90204, 0x90208, 0x9020C, 0x90210] [0x90104, 0x90200]
      [0x90004, 0x90008, 0x9000C, 0x90110, 0x90120, 0x90124] a
  else if a < 0xA0200 then accIn ([0x10, 0x14, 0x18, 0x1C, 0x20, 0x28] ++ offs 0x34 3) [0x2C, 0x30] [0x00, 0x04, 0x08, 0x0C, 0x24] (a % 64)
  else if a < 0xB0000 then .hole
  else if a < 0xB8000 then
    accIn (offs 0xB0000 6 ++ [0xB0020, 0xB0024, 0xB003C, 0xB0040, 0xB0044, 0xB0048, 0xB0050, 0xB0054]) [0xB0038] [0xB0030, 0xB0034] a
  else if a < 0xB8080 then (if a % 16 = 12 then .ro else .rw)
  else if a < 0xB8200 then
    accIn [0xB8084, 0xB8088, 0xB8108, 0xB810C, 0xB8110, 0xB8114, 0xB811C] [0xB8080, 0xB8104] [0xB8100, 0xB8118] a
  else accWindow a

/-! ## Writing (R13, R14, R85) -/

/-- FOLIO_CMD ACTIVATE (R170): the folio is made active, and the restart follows. -/
def folioGo (s : State) : State :=
  let (s, go) := folioActivate s
  if go then restartOrYield s 2 else s

/-- A write below 0x0001_0000, taken from the host alone. -/
def hostBlock (s : State) (k : Session) (a : Nat) (v : Word) : State :=
  if a < 0x100 then identWrite s k a v
  else if a = 0x210 ∧ v.toNat % 16 = 3 then folioGo s
  else if 0x200 ≤ a ∧ a < 0x420 then folioWrite s k (a - 0x200) v
  else s

/-- A write in a region page by a writer of the region; RE_AUX by the host alone. -/
def pageWrite (s : State) (who : Writer) (r : Region) (off : Nat) (v : Word) : State :=
  if !(hasRegion s r && regionWriter s r.val who) then s
  else if off < 0x100 then rrWrite s who r off v
  else if off < 0x200 then s
  else if off < 0x300 then ordWrite s who r off v
  else if off = 0x320 then (match who with
    | .host _ => setAux s who r v
    | .worker _ => s)
  else reWrite s r off v

/-- A store of CH_CMD by a worker: taken as its OUT. -/
def chStore (s : State) (w : Worker) (c : Chan) (v : Word) : State :=
  (outTake (request s w 0x2C) (wkOf s w).scope w.val c (v.toNat % 4) ((v >>> 16).setWidth 16)).1

/-- A write in the switch bank. -/
def bankStore (s : State) (who : Writer) (off : Nat) (v : Word) : State :=
  if !(bankAllowed s who off) then s
  else
    let c : Chan := Fin.ofNat 64 ((off - 0x1000) / 32)
    if 0x1000 ≤ off ∧ off < 0x1800 ∧ off % 32 = 0 then
      (if hasChan s c then (match who with
        | .host _ => outHost s c (v.toNat % 4) ((v >>> 16).setWidth 16)
        | .worker w => chStore s w c v) else s)
    else bankWrite s who off v

/-- A write in the worker block: WK_CMD by the rule of R83, the rest by chip and pair writers. -/
def wkStore (s : State) (who : Writer) (a : Nat) (v : Word) : State :=
  if 0x21000 ≤ a ∧ a < 0x23800 ∧ a % 64 = 0x1C then
    let w : Worker := Fin.ofNat 160 ((a - 0x21000) / 64)
    if wkAllowed s who w then wkCmd s w (v.toNat % 16) else s
  else if chipWriter s who then wcWrite s who (a - 0x20000) v else s

/-! ### USB_CMD (R430) -/

/-- A fresh challenge of 32 bytes in USB_CHAL. -/
def usbChallenge (s : State) (under : Bool) : State :=
  let (b, s) := drawBytes s 32
  modNet s fun n => { n with chal := Vector.ofFn fun i => word (natAt b (4 * i.val) 4), unlocking := under }

/-- The role of the USB session, and its event. -/
def usbRole (s : State) (op denied : Bool) : State :=
  emitEth (modSess s 8 fun x => { x with operator := op }) 1 0x05 true (bitMask [op, denied])

/-- The staged signature over the challenge holds under slot 0x11. -/
def usbProves (s : State) : Bool :=
  s.net.unlocking && !(poisoned s 0 384)
    && sigHolds s.ident.serviceKey (s.net.chal.toList.flatMap fun x => bytesLE 4 x.toNat) (stagedSig s)

/-- The signature is judged (R33, R430). -/
def usbJudge (s : State) : State :=
  if usbProves s then usbRole (modNet s fun n => { n with unlocking := false }) true false
  else usbRole (usbChallenge s true) (sessOf s 8).operator true

/-- UNLOCK, VERIFY, LOCK. -/
def usbCmd (s : State) (v : Word) : State :=
  match v.toNat % 16 with
  | 1 => usbChallenge s true
  | 2 => rsaDo s .usb usbJudge
  | 3 => if (sessOf s 8).operator then usbRole s false false else s
  | _ => s

/-- A write in the Ethernet block: USB_CMD by the USB session alone. -/
def ethStore (s : State) (who : Writer) (a : Nat) (v : Word) : State :=
  if a = 0x60070 then (if who = .host 8 then usbCmd s v else s) else ethWrite s who (a - 0x60000) v

/-- A write in the twin block and to the sever registers (R345, R390). -/
def twinStore (s : State) (who : Writer) (a : Nat) (v : Word) : State :=
  if a = 0x80804 then (if pairWriter s who then severWrite s v else s)
  else if a < 0x80800 ∧ pairWriter s who = true then twinWrite s who (a - 0x80000) v
  else s

/-- A write of the word at an address: its field's effect, where the writer may write it; ignored elsewhere. -/
def regWrite (s : State) (who : Writer) (a : Nat) (v : Word) : State :=
  if a < 0x10000 then (match who with
    | .host k => if isOperator s k then hostBlock s k a v else s
    | .worker _ => s)
  else if a < 0x20000 then (if chipWriter s who then (if a < 0x10400 then timeWrite s who a v else sweepWrite s who a v) else s)
  else if a < 0x30000 then wkStore s who a v
  else if a < 0x40000 then pageWrite s who (pageOf a) (a % 0x1000) v
  else if a < 0x50000 then bankStore s who (a - 0x40000) v
  else if a < 0x60000 then (if chipWriter s who ∧ a < 0x58000 then canWrite s who (canPort a) (canOff a) v else s)
  else if a < 0x70000 then ethStore s who a v
  else if a < 0x80000 then (if 0x71000 ≤ a ∧ a < 0x73000 then recCtlWrite s who (a - 0x71000) v else s)
  else if a < 0x90000 then twinStore s who a v
  else if a < 0xA0000 then pwrWrite s who (a - 0x90000) v
  else if a < 0xB0000 then qpWrite s who (a - 0xA0000) v
  else if a < 0xB8000 then memRegWrite s who (a - 0xB0000) v
  else if a < 0xB8200 then estWrite s who (a - 0xB8000) v
  else s

/-! ## The commands -/

/-- The reader reads: a worker, or an open session. -/
def canReadAs (s : State) : Reader → Bool
  | .worker _ => true
  | .host k => isOpen (sessOf s k)

def execSnapshotTake (rd : Reader) (addr : Word) (s : State) : Out :=
  run s fun s => if canReadAs s rd && isRs s addr.toNat then (regRead s rd addr.toNat).2 else s
def execSnapshotRelease (rd : Reader) (addr : Word) (s : State) : Out :=
  run s fun s => if canReadAs s rd && isRl s addr.toNat then (regRead s rd addr.toNat).2 else s

/-- SNAPSHOT_TIMEOUT: a host snapshot held for 1 s is dropped (R240, R426). -/
def execSnapshotTimeout (rd : Reader) (addr : Word) (s : State) : Out :=
  run s fun s =>
    match rd, snapOf s rd addr.toNat with
    | .host _, some p => if p.taken + 1000000000 ≤ nowNs s then snapDrop s rd addr.toNat else s
    | _, _ => s


/-- A register write that the twin has forwarded (R373, R411). -/
def takeRegister (s : State) (a : Nat) (v : Word) : State :=
  if 0x50000 ≤ a ∧ a < 0x58000 then canPut s (.host 0) (canPort a) (canOff a) v else s

/-- FORWARD_RX (R371, R373). -/
def takeForward (s : State) (b : Forward) : State :=
  match b with
  | .setting f m => fieldTake s 0 (fieldOf (bytesLE 8 f.toNat)) m
  | .reload r m => if s.folio.busy = .none then reloadWait s r m else s
  | .restore len bytes t => { s with est := { s.est with restore := some (bytes.take len.toNat, ((t : Int) - s.time.off).toNat, false) } }
  | .directory n word v => dirTake s none n word v
  | .register a v => takeRegister s a.toNat v
  | .registerAt a v m => regWait s none a.toNat v m
  | .rekey r key => if hasRegion s r then modRg s r (rekeyWith key) else s
  | .rekeyDue r => if hasMap s r || beingSewn s r then modRg s r fun x => { x with rekeyDue := true } else s
  | .keyFlip r => if hasMap s r then modRg s r fun x => { x with flipDue := true } else s
  | .sleep => if canSleep s then sleepTake s else s

def execForwardRx (f : TwinHdr) (b : Forward) (s : State) : Out := run s fun s => twinFrame s f 0x05 fun s => takeForward s b

/-! ## The end of an RSA operation (R33) -/

/-- What the operation in progress brings when it ends. The verification of a folio and the seal of a capping end by rows of their own,
unless what asked for them has ended. -/
def cryptoEnd (s : State) (q : CryptoReq) : State :=
  match q.job with
  | .sig => sigDone (rsaNext s) q
  | .attest => attestOut (rsaNext s) q.data
  | .chal r hop pub => if sigHolds pub q.data q.sig then chalPass (rsaNext s) r hop else chalFail (rsaNext s) r hop 0x01
  | .folio => if s.folio.busy = .verify then s else rsaNext s
  | .seal => match s.est.step with
    | .sealing _ => s
    | _ => rsaNext s
  | .restore => restoreJudge (rsaNext s)
  | .clear => clearJudge (rsaNext s)
  | .usb => usbJudge (rsaNext s)
  | .service k => serviceRun (rsaNext s) k
  | .sewProof r c a => sewProve (rsaNext s) r c a
  | .sewKey r => if (sewOf s r).step = .keySent then keySend (rsaNext s) r else rsaNext s
  | .sewMap r => sewSigned (rsaNext s) r
  | .flipMap r => mapSign (rsaNext s) r
  | .hello h => helloJudge (rsaNext s) h
  | .twinKey m => keyOpen (rsaNext s) m

/-- The RSA operation in progress completes (R33). -/
def cryptoDone (s : State) : State :=
  match s.crypto with
  | [] => s
  | q :: _ => if rsaServes s q.job then cryptoEnd s q else s

def execCryptoComplete (s : State) : Out := run s cryptoDone

end Sys2Proof.Machine
end

