-- ==== Sys2Proof/Machine/Host.lean ====
section
/-! DEFINITION. Host sessions and the host window protocol (R419-R430), with the readings of log entry 37. -/
namespace Sys2Proof.Machine

/-! ## Sessions (R419-R421, R430) -/

/-- SESSION of R532. -/
def emitSession (s : State) (k : Session) (open' operator : Bool) : State :=
  emitEth s 1 0x03 true (fld (ofBool operator) 9 + fld (ofBool open') 8 + k.val)

/-- What a reader has been shown of windows and buffers is forgotten. -/
def forgetShown (s : State) (rd : Reader) : State :=
  { s with
    sweep := { s.sweep with shown := s.sweep.shown.filter fun x => x.1 != rd }
    can := s.can.map fun c => { c with shown := c.shown.filter fun x => x.1 != rd } }

/-- A session or a connection ends: its slot is free, with no snapshot, descriptor, subscription, queued message or half of
a field write left (R176, R421). -/
def slotFree (s : State) (k : Session) : State :=
  let s := modFolio (modSess s k fun _ => SessSt.init) fun f => { f with fieldLo := f.fieldLo.set k 0 }
  forgetShown (dropSnaps s (.host k)) (.host k)

/-- An open session is closed, with its event. -/
def sessClose (s : State) (k : Session) : State :=
  let x := sessOf s k
  if isOpen x then emitSession (slotFree s k) k false x.operator else s

/-- A session opens in a slot (R419, R430). -/
def sessOpen (s : State) (k : Session) (operator : Bool) (entry : Option (Fin 16)) : State :=
  let now := nowNs s
  let s := modSess s k fun _ => { SessSt.init with state := .opened, operator := operator, lastMsg := now, entry := entry }
  emitSession s k true operator

/-- The session of a TLS slot. -/
def tlsSession (k : Fin 8) : Session := Fin.ofNat 9 k.val

/-- The lowest TLS slot that is free. -/
def freeSession (s : State) : Option Session := (sessions.take 8).find? fun k => (sessOf s k).state == .closed

/-- A connection is reset and counted in REFUSED. -/
def refuse (s : State) : State := modNet s fun n => { n with out := n.out ++ [.tcpReset], refused := inc16 n.refused }

/-- The module is in a warm restart. -/
def isRestarting : Power → Bool
  | .restarting _ => true
  | _ => false

/-- A TCP connection on HW_PORT (R419, R431). -/
def connect (s : State) : State :=
  if s.power.hostReady && s.power.state == .running then
    match freeSession s with
    | some k => modSess s k fun _ => { SessSt.init with state := .handshake (nowNs s) }
    | none => refuse s
  else refuse s

/-- When the handshake of a slot began. -/
def handshakeOf (s : State) (k : Session) : Option Nat := match (sessOf s k).state with
  | .handshake since => some since
  | _ => none

/-- A handshake fails: counted, recorded, and the connection closed (R419, R532). -/
def handshakeFail (s : State) (k : Session) (alert : Byte) : State :=
  let s := slotFree s k
  emitEth (modNet s fun n => { n with tlsFail := inc16 n.tlsFail }) 2 0x04 true alert.toNat

/-- The entry of the trust list with a certificate, and its role. -/
def trustFind (l : List (Option (Bool × List Byte))) (c : List Byte) : Option (Fin 16 × Bool) :=
  (List.finRange 16).findSome? fun i => match l[i.val]? with
    | some (some (op, cert)) => if cert = c then some (i, op) else none
    | _ => none

/-- A handshake ends: a session with the role of the trust list's entry, or a failure; the alert for a certificate that the
list does not admit is a free value (R419, R420). -/
def handshakeEnd (s : State) (k : Session) (r : TlsResult) : State :=
  match handshakeOf s k, r with
  | none, _ => s
  | some _, .fail alert => handshakeFail s k alert
  | some _, .done issuer =>
    match trustFind s.ident.trust.toList issuer with
    | some (i, op) => sessOpen s k op (some i)
    | none =>
      let d := drawFree s
      handshakeFail d.2 k ((Config.freeWord d.1).setWidth 8)

/-- 5 s without a completed handshake (R419). -/
def handshakeTimeout (s : State) (k : Session) : State :=
  match handshakeOf s k with
  | some since => if since + 5000000000 ≤ nowNs s then handshakeFail s k 0 else s
  | none => s

/-- Nothing reaches the slot: the Ethernet partition is out of service (R504; log entry 36). -/
def ethOut (s : State) (k : Session) : Bool := decide (k.val < 8) && s.therm.bistOut.getLsbD 5

/-- A message of an open session: a session whose trust entry it removed itself closes at its next message (R476). -/
def onMessage (s : State) (k : Session) (f : State → State) : State :=
  let x := sessOf s k
  if !(isOpen x) || ethOut s k then s
  else if x.revoked then sessClose s k
  else f (modSess s k fun x => { x with lastMsg := nowNs s })

/-- WRITE, DESC and SUBSCRIBE are events, numbered when taken (R425, R532). -/
def hostEvent (s : State) (k : Session) (type : Nat) : State := emitEth s 0 0x00 false (fld k.val 8 + type)

/-! ## Ranges (R424, R427, R429) -/

/-- STATUS of R424. -/
def stOk : Byte := 0x00
def stClamped : Byte := 0x01
def stIgnored : Byte := 0x02
def stDenied : Byte := 0x03
def stUnmapped : Byte := 0x04
def stAlign : Byte := 0x05
def stNoDesc : Byte := 0x06
def stBusy : Byte := 0x07
def stTooLong : Byte := 0x08

/-- First address and end of each block of the host window (R429). -/
def hostBlocks : List (Nat × Nat) :=
  [(0x0, 0x100), (0x100, 0x110), (0x200, 0x420), (0x10000, 0x10400), (0x10400, 0x10600), (0x20000, 0x23800),
   (0x30000, 0x40000), (0x40000, 0x41800), (0x50000, 0x58000), (0x60000, 0x60100), (0x70000, 0x80000),
   (0x80000, 0x80810), (0x90000, 0xA0000), (0xA0000, 0xB0000), (0xB0000, 0xB8000), (0xB8000, 0xB8200),
   (0x100000, 0x110000), (0x110000, 0x150000), (0x150000, 0x200000)]

/-- An address lies in a block. -/
def hostMapped (a : Nat) : Bool := hostBlocks.any fun b => decide (b.1 ≤ a ∧ a < b.2)

/-- Every word of a range lies in a block. -/
def allMapped (a words : Nat) : Bool := (List.range words).all fun i => hostMapped (a + 4 * i)

/-- Where DRAM begins in the host window. -/
def hostDram : Nat := 0x20000000

/-- A descriptor of the session that covers a range of usable DRAM. -/
def descFor (s : State) (k : Session) (off len : Nat) (wr : Bool) : Bool :=
  (sessOf s k).desc.toList.any fun d => match d with
    | some d => decide (d.base ≤ off ∧ off + len ≤ d.base + d.len) && (d.wr || !wr)
    | none => false

/-- What is wrong with the length, alignment and place of a range, 0 when nothing is. -/
def rangeFault (s : State) (k : Session) (a bytes : Nat) : Byte :=
  if bytes < 4 ∨ 65536 < bytes then stTooLong
  else if a % 4 ≠ 0 ∨ bytes % 4 ≠ 0 then stAlign
  else if a < hostDram ∧ hostDram < a + bytes then stTooLong
  else if hostDram ≤ a then (if descFor s k (a - hostDram) bytes false then stOk else stNoDesc)
  else if allMapped a (bytes / 4) then stOk
  else stUnmapped

/-! ## READ (R423-R426, R461) -/

/-- Read words of the map in ascending order: their bytes, and whether one of them is write-only. -/
def readMap (s : State) (k : Session) (a : Nat) : Nat → List Byte × Bool × State
  | 0 => ([], false, s)
  | n + 1 =>
    let x := regRead s (.host k) a
    let rest := readMap x.2 k (a + 4) n
    (bytesLE 4 x.1.toNat ++ rest.1, regAcc s a == .wo || rest.2.1, rest.2.2)

/-- The bytes of DRAM that the host sees: those of a poisoned line are zero. -/
def readDram (s : State) (off len : Nat) : List Byte :=
  (List.range len).map fun i => if s.mem.poison.contains ((off + i) / 64) then 0 else memGet s.mem.dram (off + i)

/-- Poisoned lines of a range. -/
def poisonLines (s : State) (off len : Nat) : List Nat := (linesOf off len).filter fun l => s.mem.poison.contains l

/-- A counter of 16 bits that saturates, raised n times. -/
def add16 (c n : Nat) : Nat := min 65535 (c + n)

/-- A READ message. -/
def readMsg (s : State) (k : Session) (tag : Half) (a bytes : Nat) : State :=
  let bad := rangeFault s k a bytes
  if bad ≠ 0 then sendOut s k (.readResp tag bad [])
  else if hostDram ≤ a then
    let off := a - hostDram
    let n := (poisonLines s off bytes).length
    sendOut (modMem s fun m => { m with hostPoison := add16 m.hostPoison n }) k (.readResp tag stOk (readDram s off bytes))
  else
    let x := readMap s k a (bytes / 4)
    sendOut x.2.2 k (if x.2.1 then .readResp tag stIgnored [] else .readResp tag stOk x.1)

/-! ## WRITE (R424, R425, R430) -/

/-- The outcome of the words of a WRITE so far: denied, ignored, words with clamp entries, first word not as written. -/
structure Tally where
  denied : Bool
  ignored : Bool
  clamped : Nat
  first : Option Nat
deriving DecidableEq, Repr

def Tally.zero : Tally := ⟨false, false, 0, none⟩

/-- How one word went. -/
inductive WordEnd where
  | asWritten | clamped | ignored | denied
deriving DecidableEq, Repr

/-- Count word `i`. -/
def Tally.put (t : Tally) (i : Nat) (e : WordEnd) : Tally :=
  match e with
  | .asWritten => t
  | .clamped => { t with clamped := t.clamped + 1, first := some (t.first.getD i) }
  | .ignored => { t with ignored := true, first := some (t.first.getD i) }
  | .denied => { t with denied := true, first := some (t.first.getD i) }

/-- The STATUS of a message. -/
def Tally.status (t : Tally) : Byte :=
  if t.denied then stDenied else if 0 < t.clamped then stClamped else if t.ignored then stIgnored else stOk

/-- A register write by the host, and whether it left a clamp entry of SOURCE 0x03: the ring is set aside and put back. -/
def regWriteSeen (s : State) (k : Session) (a : Nat) (v : Word) : State × Bool :=
  let old := s.folio.clamp.ring
  let t := regWrite (modFolio s fun f => { f with clamp := { f.clamp with ring := [] } }) (.host k) a v
  let new := t.folio.clamp.ring
  (modFolio t fun f => { f with clamp := { f.clamp with ring := if new.isEmpty then old else (new ++ old).take 1024 } }, new.any fun e => e.source == 0x03)

/-- One word of a WRITE to the map. -/
def writeMapWord (s : State) (k : Session) (a : Nat) (v : Word) : State × WordEnd :=
  if a = 0x60070 then
    (if k = 8 then
      let t := usbCmd s v
      (t, if v.toNat % 16 = 2 ∧ (usbProves s) = false then .denied else .asWritten)
     else (s, .ignored))
  else match regAcc s a with
    | .hole | .ro => (s, .ignored)
    | _ =>
      let x := regWriteSeen s k a v
      (x.1, if x.2 then .clamped else .asWritten)

/-- The words in ascending order; a word that starts the module again ends the rest. -/
def writeMap (s : State) (k : Session) (a i : Nat) (t : Tally) : List Word → State × Tally
  | [] => (s, t)
  | v :: rest =>
    if s.power.state = .running then
      let x := writeMapWord s k a v
      writeMap x.1 k (a + 4) (i + 1) (t.put i x.2) rest
    else (s, t)

/-- The line lies wholly in a range. -/
def wholeLine (off len l : Nat) : Bool := decide (off ≤ 64 * l ∧ 64 * l + 64 ≤ off + len)

/-- The words of a WRITE to the staging area: a poisoned line is cleared when the message covers it whole, and takes nothing
otherwise (R460). -/
def writeDram (s : State) (off i : Nat) (t : Tally) : List Word → State × Tally
  | [] => (s, t)
  | v :: rest =>
    if s.mem.poison.contains (off / 64) then writeDram s (off + 4) (i + 1) (t.put i .ignored) rest
    else writeDram (modMem s fun m => { m with dram := memWrite m.dram off (bytesLE 4 v.toNat) }) (off + 4) (i + 1) t rest

/-- A folio, node image or restore command is in progress (R424). -/
def stagingBusy (s : State) : Bool :=
  s.folio.busy != .none || s.region.toList.any (fun x => x.nfw.step != 0 && x.nfw.step != 3) || restoring s

/-- The USB session with MONITOR may write USB_CMD alone, or the first 384 bytes of the staging area through the descriptor
of R430. -/
def usbMayWrite (s : State) (k : Session) (a words : Nat) : Bool :=
  decide (k = 8) && (decide (a = 0x60070 ∧ words = 1)
    || (decide (hostDram ≤ a ∧ a + 4 * words ≤ hostDram + 384) && decide ((sessOf s k).desc[0] = some ⟨true, 0, 384⟩)))

/-- The checks made before any word is written. -/
def writeFault (s : State) (k : Session) (a words : Nat) : Byte :=
  let bytes := 4 * words
  if !(isOperator s k || usbMayWrite s k a words) then stDenied
  else
    let bad := rangeFault s k a bytes
    if bad ≠ 0 then bad
    else if hostDram ≤ a then
      (if !(descFor s k (a - hostDram) bytes true) then stDenied
       else if stagingBusy s then stBusy
       else stOk)
    else stOk

/-- Answer a WRITE, unless it has stopped the module. -/
def writeAnswer (s : State) (k : Session) (tag : Half) (t : Tally) : State :=
  if s.power.state = .running ∧ isOpen (sessOf s k) then
    sendOut s k (.writeResp tag t.status t.clamped (match t.first with
      | some i => word i
      | none => 0xFFFFFFFF))
  else s

/-- A WRITE message. LEN above the limit closes the session (R422). -/
def writeMsg (s : State) (k : Session) (tag : Half) (a : Nat) (ws : List Word) : State :=
  if 65544 < 4 + 4 * ws.length then sessClose s k
  else
    let bad := writeFault s k a ws.length
    if bad ≠ 0 then sendOut s k (.writeResp tag bad 0 0)
    else
      let s := hostEvent s k 0x02
      if hostDram ≤ a then
        let off := a - hostDram
        let len := 4 * ws.length
        let s := modMem s fun m => { m with poison := m.poison.filter fun l => !(wholeLine off len l) }
        let x := writeDram s off 0 Tally.zero ws
        writeAnswer x.1 k tag x.2
      else
        let x := writeMap s k a 0 Tally.zero ws
        writeAnswer x.1 k tag x.2

/-! ## DESC and SUBSCRIBE (R427, R428, R430) -/

/-- WR may be granted: inside the staging area to an OPERATOR, or the one descriptor of the USB session with MONITOR. -/
def wrGranted (s : State) (k : Session) (idx base len : Nat) : Bool :=
  decide (base + len ≤ estBase) && (isOperator s k || (decide (k = 8) && decide (idx = 0 ∧ base = 0 ∧ len = 384)))

/-- The checks of a descriptor. -/
def descFault (s : State) (k : Session) (idx : Nat) (wr : Bool) (base len : Nat) : Byte :=
  if 3 < idx then stDenied
  else if base % 64 ≠ 0 ∨ len % 64 ≠ 0 then stAlign
  else if dramBytes < base + len then stUnmapped
  else if meets base len ringBase (archBase s - ringBase) then stDenied
  else if wr && !(wrGranted s k idx base len) then stDenied
  else stOk

/-- A DESC message. -/
def descMsg (s : State) (k : Session) (tag : Half) (idx : Nat) (wr : Bool) (base len : Nat) : State :=
  let bad := descFault s k idx wr base len
  if bad ≠ 0 then sendOut s k (.descResp tag bad)
  else
    let s := hostEvent s k 0x03
    sendOut (modSess s k fun x => { x with desc := x.desc.set (Fin.ofNat 4 idx) (some ⟨wr, base, len⟩) }) k (.descResp tag stOk)

/-- A SUBSCRIBE message. -/
def subMsg (s : State) (k : Session) (tag : Half) (mask : Word) : State :=
  let s := hostEvent s k 0x04
  sendOut (modSess s k fun x => { x with mask := mask.setWidth 3 }) k (.subResp tag stOk)

/-- A message type of the host that R423 defines. -/
def typeDefined (t : Byte) : Bool := decide (t.toNat ∈ [0x01, 0x02, 0x03, 0x04, 0x07, 0x08])

/-- A message whose TYPE or LEN is not as R422 has it. -/
def badMsg (s : State) (k : Session) (tag : Half) (type : Byte) (len : Nat) : State :=
  if 65544 < len then sessClose s k
  else if typeDefined type then s
  else sendOut s k (.badType tag)

/-! ## The commands -/

def execTcpConnect (s : State) : Out :=
  .next (if (s.power.state = .running ∨ isRestarting s.power.state = true) ∧ ethOut s 0 = false then connect s else s)
def execTlsHandshakeDone (slot : Fin 8) (r : TlsResult) (s : State) : Out := 
  run s fun s => if ethOut s 0 then s else handshakeEnd s (tlsSession slot) r
def execTlsHandshakeTimeout (slot : Fin 8) (s : State) : Out := run s fun s => handshakeTimeout s (tlsSession slot)
def execHostRead (sess : Session) (tag : BitVec 16) (addr bytes : Word) (s : State) : Out :=
  run s fun s => onMessage s sess fun s => readMsg s sess tag addr.toNat bytes.toNat
def execHostWrite (sess : Session) (tag : BitVec 16) (addr : Word) (words : List Word) (s : State) : Out :=
  run s fun s => onMessage s sess fun s => writeMsg s sess tag addr.toNat words
def execHostDesc (sess : Session) (tag : BitVec 16) (idx : Byte) (wr : Bool) (base len : Word) (s : State) : Out :=
  run s fun s => onMessage s sess fun s => descMsg s sess tag idx.toNat wr base.toNat len.toNat
def execHostSubscribe (sess : Session) (tag : BitVec 16) (mask : Word) (s : State) : Out :=
  run s fun s => onMessage s sess fun s => subMsg s sess tag mask
def execHostPing (sess : Session) (tag : BitVec 16) (s : State) : Out :=
  run s fun s => onMessage s sess fun s => sendOut s sess (.pong tag (netNow s))
def execHostClose (sess : Session) (_tag : BitVec 16) (s : State) : Out :=
  run s fun s => onMessage s sess fun s => sessClose s sess
def execBadType (sess : Session) (tag : BitVec 16) (type : Byte) (len : Word) (s : State) : Out :=
  run s fun s => onMessage s sess fun s => badMsg s sess tag type len.toNat

/-- 2 s with the queue full: the capping is abandoned for the session (R428). -/
def stallEnd (s : State) (k : Session) : State :=
  match (sessOf s k).stallSince with
  | some t =>
    if t + 2000000000 ≤ nowNs s then
      modNet (modSess s k fun x => { x with sending := x.sending.drop 1, stallSince := none }) fun n =>
        { n with abandoned := inc16 n.abandoned }
    else s
  | none => s
def execCappingQueueStall (sess : Session) (s : State) : Out := run s fun s => stallEnd s sess

/-- 60 s without a message close a TLS session (R421; log entry 37). -/
def execSessionIdleTimeout (sess : Session) (s : State) : Out :=
  run s fun s => if sess.val < 8 ∧ (sessOf s sess).lastMsg + 60000000000 ≤ nowNs s then sessClose s sess else s

def execUsbEnumerate (s : State) : Out :=
  run s fun s => if s.power.hostReady && (sessOf s 8).state == .closed then sessOpen s 8 false none else s
def execUsbDisconnect (s : State) : Out := run s fun s => sessClose s 8
def execUsbUnlock (s : State) : Out := run s fun s => onMessage s 8 fun s => usbCmd s 1
def execUsbVerify (s : State) : Out := run s fun s => onMessage s 8 fun s => usbCmd s 2
def execUsbLock (s : State) : Out := run s fun s => onMessage s 8 fun s => usbCmd s 3
/-- 15 minutes without a message return the USB session to MONITOR (R430). -/
def execUsbRoleLapse (s : State) : Out :=
  run s fun s => if isOperator s 8 ∧ (sessOf s 8).lastMsg + 900000000000 ≤ nowNs s then usbRole s false false else s

end Sys2Proof.Machine
end

