-- ==== Sys2Proof/Machine/LoadStore.lean ====
section
/-! DEFINITION. Loads, stores, atomic accesses and FENCE (R85, R88, R113-R118). -/
namespace Sys2Proof.Machine

/-! ## Loads -/

/-- A load of a doubleword from the blocks: the low word, then the high word, in one access (R115). -/
def regRead2 (s : State) (rd : Reader) (a : Nat) : DWord × State :=
  let x := regRead s rd a
  let y := regRead x.2 rd (a + 4)
  (x.1.setWidth 64 ||| (y.1.setWidth 64) <<< 32, y.2)

/-- A load of `len` bytes, its alignment judged before its place (log entry 19): from a register block by `reg`, from scratch and tables by `mem` with the value read, from the
DRAM aperture by an access in flight. -/
def load (s : State) (w : Worker) (a : Word) (len : Nat) (byWord : Bool) (reg : State → State) (mem : Nat → WorkerSt → WorkerSt)
    (flight : Nat → Flight) : State :=
  let x := a.toNat
  if x % len ≠ 0 then trapWorker s w causeAlign a
  else if inBlocks x then
    (if byWord then modWk (reg s) w nextPc else trapWorker s w causeAddress a)
  else match loadPlace (wkOf s w) x len with
    | .bad c => trapWorker s w c a
    | .ok (.dram off) => modWk s w fun k => fly k (flight off)
    | .ok p =>
      if badPlace s w p len then trapWorker s w causeMem a
      else
        let v := ofBytesLE (readPlace s w p len)
        modWk s w fun k => nextPc (mem v k)

/-- A load of a word into gd. -/
def loadWord (s : State) (w : Worker) (d : GReg) (a : Word) : State :=
  load s w a 4 true (fun s => let r := regRead s (.worker w) a.toNat
                              modWk r.2 w fun k => gSet k d r.1)
    (fun v k => gSet k d (word v)) (fun off => .loadG d off .word)

/-- A load of a value of a size into gd. -/
def loadSized (s : State) (w : Worker) (d : GReg) (a : Word) (z : XSize) : State :=
  match z with
  | .word => loadWord s w d a
  | z => load s w a (xBytes z) false id (fun v k => gSet k d (xExtend z v)) (fun off => .loadG d off z)

/-- A load of a doubleword into ad. -/
def loadDouble (s : State) (w : Worker) (d : AReg) (a : Word) : State :=
  load s w a 8 true (fun s => let r := regRead2 s (.worker w) a.toNat
                              modWk r.2 w fun k => aSet k d r.1)
    (fun v k => aSet k d (BitVec.ofNat 64 v)) (fun off => .loadA d off)

/-! ## Stores -/

/-- A store to the DRAM aperture is posted while the core's queue of 8 has room; otherwise it waits (R114, R117). -/
def postStore (s : State) (w : Worker) (off : Nat) (b : List Byte) : State :=
  let c := (wkOf s w).core
  if (coreOf s c).storeQ.length < 8 then
    modWk (modCore s c fun q => { q with storeQ := q.storeQ ++ [(w, off, b)] }) w nextPc
  else modWk s w fun k => fly k (.store off b)

/-- The words of a store to the blocks, in ascending order. -/
def storeRegs (s : State) (w : Worker) (a : Nat) (b : List Byte) : State :=
  if storesIgnored a then s
  else (indexed (wordsLE b)).foldl (fun s x => regWrite s (.worker w) (a + 4 * x.1) x.2) s

/-- A store of bytes. -/
def store (s : State) (w : Worker) (a : Word) (b : List Byte) (byWord : Bool) : State :=
  let x := a.toNat
  let len := b.length
  if x % len ≠ 0 then trapWorker s w causeAlign a
  else if inBlocks x then
    (if !byWord then trapWorker s w causeAddress a
     else if (indexed (wordsLE b)).all fun y => storeAllowed s w (x + 4 * y.1) then storeRegs (modWk s w nextPc) w x b
     else trapWorker s w causeScope a)
  else match storePlace s (wkOf s w) x len with
    | .bad c => trapWorker s w c a
    | .ok (.dram off) => if poisoned s off len then trapWorker s w causeMem a else postStore s w off b
    | .ok p => modWk (writePlace s w p b) w nextPc

/-! ## Atomic accesses (R116) -/

/-- An atomic access to a word. -/
def atom (w : Worker) (op : AtomOp) (d s1 s2 : GReg) (s : State) : Out :=
  issue s w fun s =>
    let k := wkOf s w
    let a := gGet k s1
    if a.toNat % 4 ≠ 0 then trapWorker s w causeAlign a
    else match storePlace s k a.toNat 4 with
      | .bad c => trapWorker s w c a
      | .ok (.dram off) => modWk s w fun k => fly k (.atom op d s2 off)
      | .ok p =>
        if badPlace s w p 4 then trapWorker s w causeMem a
        else
          let old := word (ofBytesLE (readPlace s w p 4))
          let st := atomStore op old (gGet k d) (gGet k s2)
          let s := match st with
            | some v => writePlace s w p (bytesLE 4 v.toNat)
            | none => s
          modWk s w fun k => nextPc (atomResult op d old st.isSome k)

/-! ## Accesses to DRAM that complete (R114, R118, R457) -/

/-- The codeword of the n-th line read: a free outcome (R457). -/
def codeword (n : Nat) : LineOutcome :=
  match Config.readFails n with
  | some tag => .uncorrectable tag
  | none => if Config.readCorrected n then .corrected else .clean

/-- The line is not initialised yet: it reads zero and never faults (R458). -/
def lineFresh (s : State) (l : Nat) : Bool :=
  !s.mem.initDone && decide (s.mem.initPos ≤ l) && (memRead s.mem.dram (64 * l) 64).all (· == 0)

/-- An access reads its line; answers whether the line is lost (R118, R457, R460). -/
def lineRead (s : State) (l : Nat) : State × Bool :=
  if s.mem.poison.contains l then (s, true)
  else if lineFresh s l then (s, false)
  else
    let (n, s) := drawFree s
    match codeword n with
    | .clean => (s, false)
    | .corrected => (emitMem (modMem s fun m => { m with eccCorr := inc16 m.eccCorr }) false 0 l, false)
    | .uncorrectable tag => (lineLost (poisonLine s l tag) l, true)

/-- The access in flight of a worker reaches its line: with the line lost it faults, else it has its effect. -/
def lineAccess (s : State) (w : Worker) (off : Nat) (f : State → State) : State :=
  let a := apertureAddr (wkOf s w) off
  let r := lineRead (modWk s w fun k => { k with flight := .none }) (off / 64)
  if r.2 then trapWorker r.1 w causeMem a else f r.1

/-- A DRAM load or atomic access of the worker completes; an atomic access first drains its posted stores, of which one into
a poisoned line faults (R118). With the memory
controller out of service DRAM access stops, under its test accesses wait (R463, R500). -/
def dramComplete (s : State) (w : Worker) : State :=
  if dramHeld s then s
  else match (wkOf s w).flight with
    | .loadG d off z => lineAccess s w off fun s => modWk s w fun k => nextPc (gSet k d (xExtend z (memNat (dramSeen s w) off (xBytes z))))
    | .loadA d off => lineAccess s w off fun s => modWk s w fun k => nextPc (aSet k d (BitVec.ofNat 64 (memNat (dramSeen s w) off 8)))
    | .atom op d s2 off => match postedBad s w with
      | some a => trapWorker s w causeMem a
      | none => lineAccess (drainWorker s w) w off fun s =>
        let old := word (memNat s.mem.dram off 4)
        let st := atomStore op old (gGet (wkOf s w) d) (gGet (wkOf s w) s2)
        let s := match st with
          | some v => modMem s fun m => { m with dram := memWrite m.dram off (bytesLE 4 v.toNat) }
          | none => s
        modWk s w fun k => nextPc (atomResult op d old st.isSome k)
    | _ => s

/-! ## The commands -/

def execLdw (w : Worker) (d s1 : GReg) (imm : Half) (s : State) : Out :=
  issue s w fun s => loadWord s w d (immAddr (wkOf s w) s1 imm)
def execStw (w : Worker) (d s1 : GReg) (imm : Half) (s : State) : Out :=
  issue s w fun s => let k := wkOf s w
                     store s w (immAddr k s1 imm) (bytesLE 4 (gGet k d).toNat) true
def execLdx (w : Worker) (d s1 s2 : GReg) (size : XSize) (scale : Bool) (s : State) : Out :=
  issue s w fun s => loadSized s w d (xAddr (wkOf s w) s1 s2 size scale) size
def execStx (w : Worker) (d s1 s2 : GReg) (size : XSize) (scale : Bool) (s : State) : Out :=
  issue s w fun s => let k := wkOf s w
                     store s w (xAddr k s1 s2 size scale) (bytesLE (xBytes size) (gGet k d).toNat) (size == .word)
def execLdd (w : Worker) (d : AReg) (s1 : GReg) (imm : Half) (s : State) : Out :=
  issue s w fun s => loadDouble s w d (immAddr (wkOf s w) s1 imm)
def execStd (w : Worker) (d : AReg) (s1 : GReg) (imm : Half) (s : State) : Out :=
  issue s w fun s => let k := wkOf s w
                     store s w (immAddr k s1 imm) (bytesLE 8 (aGet k d).toNat) true
def execXchg (w : Worker) (d s1 s2 : GReg) (s : State) : Out := atom w .xchg d s1 s2 s
def execFadd (w : Worker) (d s1 s2 : GReg) (s : State) : Out := atom w .fadd d s1 s2 s
def execCas (w : Worker) (d s1 s2 : GReg) (s : State) : Out := atom w .cas d s1 s2 s
def execFetchOr (w : Worker) (d s1 s2 : GReg) (s : State) : Out := atom w .or d s1 s2 s
def execFetchAnd (w : Worker) (d s1 s2 : GReg) (s : State) : Out := atom w .and d s1 s2 s

def execDramAccessComplete (w : Worker) (s : State) : Out := run s fun s => dramComplete s w

/-- FENCE: over at once when none of the worker's stores is posted. -/
def execFence (w : Worker) (s : State) : Out :=
  issue s w fun s => if hasPosted s w then modWk s w fun k => fly k .fence else modWk s w nextPc

end Sys2Proof.Machine
end

