-- ==== Sys2Proof/Machine/Writes.lean ====
section
/-! DEFINITION. The rows that are a register write by the host or by a worker's store (R84, R85, R100). -/
namespace Sys2Proof.Machine

/-- A write of the register at an address with the effect `f`: by an OPERATOR session, or by a store of a worker whose scope
allows it; the store of any other worker that can issue faults with cause SCOPE (R84, R85). -/
def writeRow (who : Writer) (addr : Nat) (f : State → State) (s : State) : Out :=
  run s fun s => match who with
    | .host k => if isOperator s k then f s else s
    | .worker v =>
      if storeAllowed s v addr then f s
      else if eligible (wkOf s v) then trapWorker s v causeScope (word addr)
      else s

/-- The addresses of WK_CMD of a worker, of ORD_ARG1 of a region, and of a register of a CAN controller. -/
def wkCmdAddr (w : Worker) : Nat := 0x2101C + 64 * w.val
def orderAddr (r : Region) : Nat := 0x30208 + 0x1000 * r.val
def canReg (n : Fin 4) (off : Nat) : Nat := 0x50000 + 0x2000 * n.val + off

/-- REGISTER_WRITE: a word-aligned register that the writer's role or scope may write; a store outside its scope faults. -/
def execRegisterWrite (who : Writer) (addr v : Word) (s : State) : Out :=
  run s fun s =>
    if addr.toNat % 4 ≠ 0 then s
    else match who with
      | .host _ => regWrite s who addr.toNat v
      | .worker w =>
        if !(inBlocks addr.toNat) || storesIgnored addr.toNat then s
        else if storeAllowed s w addr.toNat then regWrite s who addr.toNat v
        else if eligible (wkOf s w) then trapWorker s w causeScope addr
        else s

/-! ## Time and the phase wheel (R42-R44, R52, R57, R62) -/

def execPhaseMessageCommit (who : Writer) (ns : Word) (s : State) : Out := writeRow who 0x10048 (fun s => phaseMessage s ns) s
def execWheelSrcWrite (who : Writer) (src : BitVec 2) (s : State) : Out :=
  writeRow who 0x10000 (fun s => setWheelSrc s who src) s
def execNominalWrite (who : Writer) (nominal : Bool) (s : State) : Out := writeRow who 0x10000 (fun s => setNominal s nominal) s
def execTimeSrcWrite (who : Writer) (src : BitVec 2) (s : State) : Out := writeRow who 0x10100 (fun s => setTimeSrc s who src) s
def execTimeSet (who : Writer) (ns : Word) (s : State) : Out := writeRow who 0x10128 (fun s => timeSetNs s who ns) s
def execTickLoad (who : Writer) (n : Fin 4) (hi : Word) (s : State) : Out :=
  writeRow who (0x1021C + 0x20 * n.val) (fun s => tickLoadHi s n hi) s

/-! ## Workers (R84, R100) -/

def execWkStart (who : Writer) (w : Worker) (s : State) : Out := writeRow who (wkCmdAddr w) (fun s => wkStart s w) s
def execWkStop (who : Writer) (w : Worker) (s : State) : Out := writeRow who (wkCmdAddr w) (fun s => wkStop s w) s
def execWkRestart (who : Writer) (w : Worker) (s : State) : Out := writeRow who (wkCmdAddr w) (fun s => wkRestart s w) s
def execWkClearRestarts (who : Writer) (w : Worker) (s : State) : Out := writeRow who (wkCmdAddr w) (fun s => wkClear s w) s

/-! ## Sweeps and the archive (R221, R230) -/

def execSweepFracWrite (who : Writer) (v : Word) (s : State) : Out :=
  writeRow who 0x10404 (fun s => sweepSetting s who 0x10404 0x1002 (v &&& 0x00FFFFFF)) s
def execSweepHushWrite (who : Writer) (v : Word) (s : State) : Out :=
  writeRow who 0x10408 (fun s => sweepSetting s who 0x10408 0x1003 v) s

/-! ## Orders to nodes (R248, R249) -/

def execBalCommit (who : Writer) (r : Region) (hops : BitVec 5) (arg0 arg1 : Word) (s : State) : Out :=
  writeRow who (orderAddr r) (fun s => orderPut s r 0x01 hops arg0 arg1) s
def execBalHalt (who : Writer) (r : Region) (hops : BitVec 5) (arg0 arg1 : Word) (s : State) : Out :=
  writeRow who (orderAddr r) (fun s => orderPut s r 0x02 hops arg0 arg1) s
def execCapture (who : Writer) (r : Region) (hops : BitVec 5) (arg0 arg1 : Word) (s : State) : Out :=
  writeRow who (orderAddr r) (fun s => orderPut s r 0x03 hops arg0 arg1) s
def execPreStream (who : Writer) (r : Region) (hops : BitVec 5) (arg0 arg1 : Word) (s : State) : Out :=
  writeRow who (orderAddr r) (fun s => orderPut s r 0x04 hops arg0 arg1) s
def execPreStop (who : Writer) (r : Region) (hops : BitVec 5) (arg0 arg1 : Word) (s : State) : Out :=
  writeRow who (orderAddr r) (fun s => orderPut s r 0x05 hops arg0 arg1) s
def execOrderSleep (who : Writer) (r : Region) (hops : BitVec 5) (arg0 arg1 : Word) (s : State) : Out :=
  writeRow who (orderAddr r) (fun s => orderPut s r 0x06 hops arg0 arg1) s
def execFwActivate (who : Writer) (r : Region) (hops : BitVec 5) (arg0 arg1 : Word) (s : State) : Out :=
  writeRow who (orderAddr r) (fun s => orderPut s r 0x07 hops arg0 arg1) s
def execBalPlan (who : Writer) (r : Region) (hops : BitVec 5) (arg0 arg1 : Word) (s : State) : Out :=
  writeRow who (orderAddr r) (fun s => orderPut s r 0x10 hops arg0 arg1) s
def execBalTally (who : Writer) (r : Region) (hops : BitVec 5) (arg0 arg1 : Word) (s : State) : Out :=
  writeRow who (orderAddr r) (fun s => orderPut s r 0x11 hops arg0 arg1) s
def execOrdLimits (who : Writer) (r : Region) (hops : BitVec 5) (arg0 arg1 : Word) (s : State) : Out :=
  writeRow who (orderAddr r) (fun s => orderPut s r 0x12 hops arg0 arg1) s
def execCapUpload (who : Writer) (r : Region) (hops : BitVec 5) (arg0 arg1 : Word) (s : State) : Out :=
  writeRow who (orderAddr r) (fun s => orderPut s r 0x13 hops arg0 arg1) s
def execFwSeg (who : Writer) (r : Region) (hops : BitVec 5) (arg0 arg1 : Word) (s : State) : Out :=
  writeRow who (orderAddr r) (fun s => orderPut s r 0x14 hops arg0 arg1) s
def execFwQuery (who : Writer) (r : Region) (hops : BitVec 5) (arg0 arg1 : Word) (s : State) : Out :=
  writeRow who (orderAddr r) (fun s => orderPut s r 0x15 hops arg0 arg1) s

/-! ## Estimation and cappings (R272, R304, R313) -/

def execEstPublish (who : Writer) (n : Word) (s : State) : Out := writeRow who 0xB8080 (fun s => estWrite s who 0x80 n) s
def execDirectoryWrite (who : Writer) (n : Fin 8) (word : Fin 3) (v : Word) (s : State) : Out :=
  writeRow who (0xB8000 + 16 * n.val + 4 * word.val) (fun s => dirStore s who n word v) s
def execCappingExport (who : Writer) (s : State) : Out := writeRow who 0xB8104 (fun s => estWrite s who 0x104 1) s

/-! ## Sever outputs and the twin (R345, R385, R386) -/

def execSeverAssert (who : Writer) (s : State) : Out := writeRow who 0x80804 (fun s => severCmd s) s
def execSeverClear (who : Writer) (s : State) : Out := writeRow who 0x80804 (fun s => severClear s) s
def execTwinYield (who : Writer) (s : State) : Out := writeRow who 0x80008 (fun s => twinCmd s who 1) s
def execTwinDetach (who : Writer) (s : State) : Out := writeRow who 0x80008 (fun s => twinCmd s who 2) s
def execTwinResume (who : Writer) (s : State) : Out := writeRow who 0x80008 (fun s => twinCmd s who 3) s

/-! ## CAN controllers (R393, R395, R401, R405, R408) -/

def execCanRecover (who : Writer) (n : Fin 4) (s : State) : Out := writeRow who (canReg n 0x1C) (fun s => canRecoverNow s n) s
def execCanFlush (who : Writer) (n : Fin 4) (s : State) : Out := writeRow who (canReg n 0x1C) (fun s => canFlushQueue s n) s
def execCanClashClear (who : Writer) (n : Fin 4) (s : State) : Out :=
  writeRow who (canReg n 0x1C) (fun s => canClashEmpty s n) s
def execCanModeWrite (who : Writer) (n : Fin 4) (mode : BitVec 4) (s : State) : Out :=
  writeRow who (canReg n 0) (fun s => canWrite s who n 0x000 (canCtrl (canOf s n) &&& 0xFFFFFFF0 ||| mode.setWidth 32)) s
def execCanBtWrite (who : Writer) (n : Fin 4) (dataPhase : Bool) (v : Word) (s : State) : Out :=
  writeRow who (canReg n (if dataPhase then 0x010 else 0x00C)) (fun s => canWrite s who n (if dataPhase then 0x010 else 0x00C) v) s
def execCanFilterWrite (who : Writer) (n : Fin 4) (f : Fin 64) (v : Word) (s : State) : Out :=
  writeRow who (canReg n (0x100 + 16 * f.val)) (fun s => canWrite s who n (0x100 + 16 * f.val) v) s

/-! ## Ribbons, memory, position inputs (R442, R460, R480) -/

def execRibbonSeek (who : Writer) (k : Fin 4) (hi : Word) (s : State) : Out :=
  writeRow who (0x71008 + 0x20 * k.val) (fun s => ribbonSeek s k hi) s
def execMemZero (who : Writer) (s : State) : Out := writeRow who 0xB0038 (fun s => memRegWrite s who 0x38 1) s
def execQpPreset (who : Writer) (n : Fin 8) (v : Word) (s : State) : Out :=
  writeRow who (0xA002C + 64 * n.val) (fun s => qpWrite s who (64 * n.val + 0x2C) v) s
def execQpClear (who : Writer) (n : Fin 8) (s : State) : Out :=
  writeRow who (0xA0030 + 64 * n.val) (fun s => qpWrite s who (64 * n.val + 0x30) 1) s
def execQpCfgWrite (who : Writer) (n : Fin 8) (v : Word) (s : State) : Out :=
  writeRow who (0xA0000 + 64 * n.val) (fun s => qpWrite s who (64 * n.val) v) s

/-! ## Power and self-test (R498, R502) -/

def execPwrRestart (who : Writer) (s : State) : Out := writeRow who 0x90104 (fun s => pwrWrite s who 0x104 1) s
def execPwrSleep (who : Writer) (s : State) : Out := writeRow who 0x90104 (fun s => pwrWrite s who 0x104 2) s
def execBistRun (who : Writer) (part : Fin 32) (s : State) : Out :=
  writeRow who 0x90200 (fun s => pwrWrite s who 0x200 (word (fld part.val 8 + 1))) s

end Sys2Proof.Machine
end

