-- ==== Sys2Proof/Machine/Dispatch.lean ====
section
/-! DEFINITION. One arm per command: exec is the effect of a command on everything but the queue. -/
namespace Sys2Proof.Machine

def exec (i : Instr) (s : State) : Host.Outcome State Fault Refusal :=
  match i with
  | .coldStart sideB => Sys2Proof.Machine.execColdStart sideB s
  | .warmRestart => Sys2Proof.Machine.execWarmRestart s
  | .chipWatchdog => Sys2Proof.Machine.execChipWatchdog s
  | .brownoutWarning => Sys2Proof.Machine.execBrownoutWarning s
  | .supplyRecovery => Sys2Proof.Machine.execSupplyRecovery s
  | .logicSupplyLoss => Sys2Proof.Machine.execLogicSupplyLoss s
  | .thermalShutdown => Sys2Proof.Machine.execThermalShutdown s
  | .thermalRelease => Sys2Proof.Machine.execThermalRelease s
  | .throttleTrip => Sys2Proof.Machine.execThrottleTrip s
  | .throttleRelease => Sys2Proof.Machine.execThrottleRelease s
  | .throttleGraceEnd => Sys2Proof.Machine.execThrottleGraceEnd s
  | .startGraceEnd r => Sys2Proof.Machine.execStartGraceEnd r s
  | .pwrRestart who => Sys2Proof.Machine.execPwrRestart who s
  | .pwrSleep who => Sys2Proof.Machine.execPwrSleep who s
  | .sleepEnter => Sys2Proof.Machine.execSleepEnter s
  | .wakeFromSleep src => Sys2Proof.Machine.execWakeFromSleep src s
  | .bistRun who part => Sys2Proof.Machine.execBistRun who part s
  | .bistDone sig rows rowFail => Sys2Proof.Machine.execBistDone sig rows rowFail s
  | .snapshotTake rd addr => Sys2Proof.Machine.execSnapshotTake rd addr s
  | .snapshotRelease rd addr => Sys2Proof.Machine.execSnapshotRelease rd addr s
  | .snapshotTimeout rd addr => Sys2Proof.Machine.execSnapshotTimeout rd addr s
  | .registerWrite who addr v => Sys2Proof.Machine.execRegisterWrite who addr v s
  | .gridsyncPulse => Sys2Proof.Machine.execGridsyncPulse s
  | .phaseMessageCommit who ns => Sys2Proof.Machine.execPhaseMessageCommit who ns s
  | .wheelLossTime => Sys2Proof.Machine.execWheelLossTime s
  | .wheelHoldExpiry => Sys2Proof.Machine.execWheelHoldExpiry s
  | .wheelCycleBoundary => Sys2Proof.Machine.execWheelCycleBoundary s
  | .wheelSrcWrite who src => Sys2Proof.Machine.execWheelSrcWrite who src s
  | .nominalWrite who nominal => Sys2Proof.Machine.execNominalWrite who nominal s
  | .timeSrcWrite who src => Sys2Proof.Machine.execTimeSrcWrite who src s
  | .timeSet who ns => Sys2Proof.Machine.execTimeSet who ns s
  | .timeSlewEnd => Sys2Proof.Machine.execTimeSlewEnd s
  | .timeMarkStore => Sys2Proof.Machine.execTimeMarkStore s
  | .tickCompare n => Sys2Proof.Machine.execTickCompare n s
  | .tickLoad who n hi => Sys2Proof.Machine.execTickLoad who n hi s
  | .canLatchSecond => Sys2Proof.Machine.execCanLatchSecond s
  | .actionDue w => Sys2Proof.Machine.execActionDue w s
  | .ptpSyncRx m => Sys2Proof.Machine.execPtpSyncRx m s
  | .ptpPdelayReqRx port => Sys2Proof.Machine.execPtpPdelayReqRx port s
  | .ptpAnnounceTimeout => Sys2Proof.Machine.execPtpAnnounceTimeout s
  | .tcForward ingress kind residence => Sys2Proof.Machine.execTcForward ingress kind residence s
  | .ethLinkChange port speed => Sys2Proof.Machine.execEthLinkChange port speed s
  | .wkStart who w => Sys2Proof.Machine.execWkStart who w s
  | .wkStop who w => Sys2Proof.Machine.execWkStop who w s
  | .wkRestart who w => Sys2Proof.Machine.execWkRestart who w s
  | .wkClearRestarts who w => Sys2Proof.Machine.execWkClearRestarts who w s
  | .trapRestartPauseEnd w => Sys2Proof.Machine.execTrapRestartPauseEnd w s
  | .dramAccessComplete w => Sys2Proof.Machine.execDramAccessComplete w s
  | .storeQueueDrain w => Sys2Proof.Machine.execStoreQueueDrain w s
  | .illegalOpcode w word => Sys2Proof.Machine.execIllegalOpcode w word s
  | .add w d s1 s2 => Sys2Proof.Machine.execAdd w d s1 s2 s
  | .sub w d s1 s2 => Sys2Proof.Machine.execSub w d s1 s2 s
  | .and w d s1 s2 => Sys2Proof.Machine.execAnd w d s1 s2 s
  | .or w d s1 s2 => Sys2Proof.Machine.execOr w d s1 s2 s
  | .xor w d s1 s2 => Sys2Proof.Machine.execXor w d s1 s2 s
  | .nor w d s1 s2 => Sys2Proof.Machine.execNor w d s1 s2 s
  | .sll w d s1 s2 => Sys2Proof.Machine.execSll w d s1 s2 s
  | .srl w d s1 s2 => Sys2Proof.Machine.execSrl w d s1 s2 s
  | .sra w d s1 s2 => Sys2Proof.Machine.execSra w d s1 s2 s
  | .slt w d s1 s2 => Sys2Proof.Machine.execSlt w d s1 s2 s
  | .sltu w d s1 s2 => Sys2Proof.Machine.execSltu w d s1 s2 s
  | .mul w d s1 s2 => Sys2Proof.Machine.execMul w d s1 s2 s
  | .mulh w d s1 s2 => Sys2Proof.Machine.execMulh w d s1 s2 s
  | .mulhu w d s1 s2 => Sys2Proof.Machine.execMulhu w d s1 s2 s
  | .div w d s1 s2 => Sys2Proof.Machine.execDiv w d s1 s2 s
  | .divu w d s1 s2 => Sys2Proof.Machine.execDivu w d s1 s2 s
  | .rem w d s1 s2 => Sys2Proof.Machine.execRem w d s1 s2 s
  | .remu w d s1 s2 => Sys2Proof.Machine.execRemu w d s1 s2 s
  | .min w d s1 s2 => Sys2Proof.Machine.execMin w d s1 s2 s
  | .max w d s1 s2 => Sys2Proof.Machine.execMax w d s1 s2 s
  | .minu w d s1 s2 => Sys2Proof.Machine.execMinu w d s1 s2 s
  | .maxu w d s1 s2 => Sys2Proof.Machine.execMaxu w d s1 s2 s
  | .clz w d s1 => Sys2Proof.Machine.execClz w d s1 s
  | .popc w d s1 => Sys2Proof.Machine.execPopc w d s1 s
  | .rdsw w d => Sys2Proof.Machine.execRdsw w d s
  | .addi w d s1 imm => Sys2Proof.Machine.execAddi w d s1 imm s
  | .slti w d s1 imm => Sys2Proof.Machine.execSlti w d s1 imm s
  | .sltiu w d s1 imm => Sys2Proof.Machine.execSltiu w d s1 imm s
  | .andi w d s1 imm => Sys2Proof.Machine.execAndi w d s1 imm s
  | .ori w d s1 imm => Sys2Proof.Machine.execOri w d s1 imm s
  | .xori w d s1 imm => Sys2Proof.Machine.execXori w d s1 imm s
  | .lui w d imm => Sys2Proof.Machine.execLui w d imm s
  | .shiSll w d s1 sh => Sys2Proof.Machine.execShiSll w d s1 sh s
  | .shiSrl w d s1 sh => Sys2Proof.Machine.execShiSrl w d s1 sh s
  | .shiSra w d s1 sh => Sys2Proof.Machine.execShiSra w d s1 sh s
  | .shiRotateRight w d s1 sh => Sys2Proof.Machine.execShiRotateRight w d s1 sh s
  | .muli w d s1 imm => Sys2Proof.Machine.execMuli w d s1 imm s
  | .qmuli w d s1 imm => Sys2Proof.Machine.execQmuli w d s1 imm s
  | .cmpi w s1 imm => Sys2Proof.Machine.execCmpi w s1 imm s
  | .qadd w d s1 s2 => Sys2Proof.Machine.execQadd w d s1 s2 s
  | .qsub w d s1 s2 => Sys2Proof.Machine.execQsub w d s1 s2 s
  | .qmul w d s1 s2 => Sys2Proof.Machine.execQmul w d s1 s2 s
  | .qdiv w d s1 s2 => Sys2Proof.Machine.execQdiv w d s1 s2 s
  | .qabs w d s1 => Sys2Proof.Machine.execQabs w d s1 s
  | .qneg w d s1 => Sys2Proof.Machine.execQneg w d s1 s
  | .itoq w d s1 => Sys2Proof.Machine.execItoq w d s1 s
  | .qtoi w d s1 => Sys2Proof.Machine.execQtoi w d s1 s
  | .qrnd w d s1 => Sys2Proof.Machine.execQrnd w d s1 s
  | .qclr w => Sys2Proof.Machine.execQclr w s
  | .csel w d s1 s2 cond => Sys2Proof.Machine.execCsel w d s1 s2 cond s
  | .mac w d s1 s2 => Sys2Proof.Machine.execMac w d s1 s2 s
  | .macu w d s1 s2 => Sys2Proof.Machine.execMacu w d s1 s2 s
  | .msu w d s1 s2 => Sys2Proof.Machine.execMsu w d s1 s2 s
  | .qmac w d s1 s2 => Sys2Proof.Machine.execQmac w d s1 s2 s
  | .aclr w d => Sys2Proof.Machine.execAclr w d s
  | .amov w d s1 => Sys2Proof.Machine.execAmov w d s1 s
  | .ajoin w d s1 s2 => Sys2Proof.Machine.execAjoin w d s1 s2 s
  | .alo w d s1 => Sys2Proof.Machine.execAlo w d s1 s
  | .ahi w d s1 => Sys2Proof.Machine.execAhi w d s1 s
  | .aadd w d s1 s2 => Sys2Proof.Machine.execAadd w d s1 s2 s
  | .asub w d s1 s2 => Sys2Proof.Machine.execAsub w d s1 s2 s
  | .aq w d s1 => Sys2Proof.Machine.execAq w d s1 s
  | .asext w d s1 => Sys2Proof.Machine.execAsext w d s1 s
  | .acmp w s1 s2 => Sys2Proof.Machine.execAcmp w s1 s2 s
  | .asra w d s1 s2 => Sys2Proof.Machine.execAsra w d s1 s2 s
  | .asll w d s1 s2 => Sys2Proof.Machine.execAsll w d s1 s2 s
  | .ldw w d s1 imm => Sys2Proof.Machine.execLdw w d s1 imm s
  | .stw w d s1 imm => Sys2Proof.Machine.execStw w d s1 imm s
  | .ldx w d s1 s2 size scale => Sys2Proof.Machine.execLdx w d s1 s2 size scale s
  | .stx w d s1 s2 size scale => Sys2Proof.Machine.execStx w d s1 s2 size scale s
  | .ldd w d s1 imm => Sys2Proof.Machine.execLdd w d s1 imm s
  | .std w d s1 imm => Sys2Proof.Machine.execStd w d s1 imm s
  | .xchg w d s1 s2 => Sys2Proof.Machine.execXchg w d s1 s2 s
  | .fadd w d s1 s2 => Sys2Proof.Machine.execFadd w d s1 s2 s
  | .cas w d s1 s2 => Sys2Proof.Machine.execCas w d s1 s2 s
  | .fetchOr w d s1 s2 => Sys2Proof.Machine.execFetchOr w d s1 s2 s
  | .fetchAnd w d s1 s2 => Sys2Proof.Machine.execFetchAnd w d s1 s2 s
  | .fence w => Sys2Proof.Machine.execFence w s
  | .beq w d s1 imm => Sys2Proof.Machine.execBeq w d s1 imm s
  | .bne w d s1 imm => Sys2Proof.Machine.execBne w d s1 imm s
  | .bc w link cond off => Sys2Proof.Machine.execBc w link cond off s
  | .jr w s1 => Sys2Proof.Machine.execJr w s1 s
  | .jalr w d s1 => Sys2Proof.Machine.execJalr w d s1 s
  | .tnow w d => Sys2Proof.Machine.execTnow w d s
  | .pnow w d => Sys2Proof.Machine.execPnow w d s
  | .tadd w d s1 s2 => Sys2Proof.Machine.execTadd w d s1 s2 s
  | .tdif w d s1 s2 => Sys2Proof.Machine.execTdif w d s1 s2 s
  | .waitAt w s1 late alat => Sys2Proof.Machine.execWaitAt w s1 late alat s
  | .waitAtt w s1 late alat => Sys2Proof.Machine.execWaitAtt w s1 late alat s
  | .every w d first s2 late alat => Sys2Proof.Machine.execEvery w d first s2 late alat s
  | .everyCancel w d => Sys2Proof.Machine.execEveryCancel w d s
  | .waitDuration w s1 alat => Sys2Proof.Machine.execWaitDuration w s1 alat s
  | .waitTick w s1 dom late alat => Sys2Proof.Machine.execWaitTick w s1 dom late alat s
  | .swpAll w d s1 s2 => Sys2Proof.Machine.execSwpAll w d s1 s2 s
  | .swpAny w d s1 s2 => Sys2Proof.Machine.execSwpAny w d s1 s2 s
  | .swpRevt w d s1 s2 => Sys2Proof.Machine.execSwpRevt w d s1 s2 s
  | .fetchVolt w d s1 => Sys2Proof.Machine.execFetchVolt w d s1 s
  | .fetchTemp w d s1 => Sys2Proof.Machine.execFetchTemp w d s1 s
  | .fetchNode w d s1 => Sys2Proof.Machine.execFetchNode w d s1 s
  | .fetchHead w d s1 => Sys2Proof.Machine.execFetchHead w d s1 s
  | .fetchPack w d s1 => Sys2Proof.Machine.execFetchPack w d s1 s
  | .cmb w d s1 => Sys2Proof.Machine.execCmb w d s1 s
  | .cmbw w d s1 => Sys2Proof.Machine.execCmbw w d s1 s
  | .coul => Sys2Proof.Machine.execCoul s
  | .zcomp => Sys2Proof.Machine.execZcomp s
  | .ocv => Sys2Proof.Machine.execOcv s
  | .socf => Sys2Proof.Machine.execSocf s
  | .limp => Sys2Proof.Machine.execLimp s
  | .balp => Sys2Proof.Machine.execBalp s
  | .stat => Sys2Proof.Machine.execStat s
  | .stepfit => Sys2Proof.Machine.execStepfit s
  | .rlsz => Sys2Proof.Machine.execRlsz s
  | .vadd => Sys2Proof.Machine.execVadd s
  | .vmul => Sys2Proof.Machine.execVmul s
  | .vmadd => Sys2Proof.Machine.execVmadd s
  | .vmin => Sys2Proof.Machine.execVmin s
  | .vmax => Sys2Proof.Machine.execVmax s
  | .vinterp => Sys2Proof.Machine.execVinterp s
  | .vcmpm => Sys2Proof.Machine.execVcmpm s
  | .outOff src => Sys2Proof.Machine.execOutOff src s
  | .outOn src => Sys2Proof.Machine.execOutOn src s
  | .outPwm src => Sys2Proof.Machine.execOutPwm src s
  | .outClearLatch src => Sys2Proof.Machine.execOutClearLatch src s
  | .closeNeg w d s1 s2 => Sys2Proof.Machine.execCloseNeg w d s1 s2 s
  | .precharge w d s1 s2 => Sys2Proof.Machine.execPrecharge w d s1 s2 s
  | .closePos w d s1 s2 => Sys2Proof.Machine.execClosePos w d s1 s2 s
  | .openPre w d s1 s2 => Sys2Proof.Machine.execOpenPre w d s1 s2 s
  | .openPlanned w d s1 s2 => Sys2Proof.Machine.execOpenPlanned w d s1 s2 s
  | .openEmergency w d s1 s2 => Sys2Proof.Machine.execOpenEmergency w d s1 s2 s
  | .ctcRestart w d s1 s2 => Sys2Proof.Machine.execCtcRestart w d s1 s2 s
  | .weldCheck w d s1 s2 => Sys2Proof.Machine.execWeldCheck w d s1 s2 s
  | .qinCount w d s1 => Sys2Proof.Machine.execQinCount w d s1 s
  | .qinSpeed w d s1 => Sys2Proof.Machine.execQinSpeed w d s1 s
  | .qinStat w d s1 => Sys2Proof.Machine.execQinStat w d s1 s
  | .qinIndex w d s1 => Sys2Proof.Machine.execQinIndex w d s1 s
  | .qinCfg w d s1 s2 => Sys2Proof.Machine.execQinCfg w d s1 s2 s
  | .ctx w d s1 s2 => Sys2Proof.Machine.execCtx w d s1 s2 s
  | .crx w d s1 s2 nb => Sys2Proof.Machine.execCrx w d s1 s2 nb s
  | .evt w d s1 s2 keep => Sys2Proof.Machine.execEvt w d s1 s2 keep s
  | .mstat w d => Sys2Proof.Machine.execMstat w d s
  | .msend w d s1 s2 => Sys2Proof.Machine.execMsend w d s1 s2 s
  | .mrecv w d s1 => Sys2Proof.Machine.execMrecv w d s1 s
  | .myield w d => Sys2Proof.Machine.execMyield w d s
  | .sigHash w d s1 s2 => Sys2Proof.Machine.execSigHash w d s1 s2 s
  | .sigSign w d s1 s2 => Sys2Proof.Machine.execSigSign w d s1 s2 s
  | .sigVerify w d s1 s2 => Sys2Proof.Machine.execSigVerify w d s1 s2 s
  | .cryptoComplete => Sys2Proof.Machine.execCryptoComplete s
  | .halt w => Sys2Proof.Machine.execHalt w s
  | .yieldQ w => Sys2Proof.Machine.execYieldQ w s
  | .temp w d board die => Sys2Proof.Machine.execTemp w d board die s
  | .trap w code => Sys2Proof.Machine.execTrap w code s
  | .folioVerify sess => Sys2Proof.Machine.execFolioVerify sess s
  | .folioVerifyDone => Sys2Proof.Machine.execFolioVerifyDone s
  | .writeSlot sess => Sys2Proof.Machine.execWriteSlot sess s
  | .writeSlotDone => Sys2Proof.Machine.execWriteSlotDone s
  | .folioActivate sess => Sys2Proof.Machine.execFolioActivate sess s
  | .folioConfirm sess => Sys2Proof.Machine.execFolioConfirm sess s
  | .reload sess r => Sys2Proof.Machine.execReload sess r s
  | .regionReloadApply => Sys2Proof.Machine.execRegionReloadApply s
  | .settingsSubmit sess hi => Sys2Proof.Machine.execSettingsSubmit sess hi s
  | .settingsFieldApply => Sys2Proof.Machine.execSettingsFieldApply s
  | .sweepFracWrite who v => Sys2Proof.Machine.execSweepFracWrite who v s
  | .sweepHushWrite who v => Sys2Proof.Machine.execSweepHushWrite who v s
  | .beaconTx r => Sys2Proof.Machine.execBeaconTx r s
  | .beaconEchoRx r echo => Sys2Proof.Machine.execBeaconEchoRx r echo s
  | .commandWindowTx r stepOfs => Sys2Proof.Machine.execCommandWindowTx r stepOfs s
  | .sampleInstant dsm => Sys2Proof.Machine.execSampleInstant dsm s
  | .upstreamPacketRx r p => Sys2Proof.Machine.execUpstreamPacketRx r p s
  | .collectionLimitReached r => Sys2Proof.Machine.execCollectionLimitReached r s
  | .alarmPacketRx r p => Sys2Proof.Machine.execAlarmPacketRx r p s
  | .spareExchangeStart r => Sys2Proof.Machine.execSpareExchangeStart r s
  | .spareUpRx r a => Sys2Proof.Machine.execSpareUpRx r a s
  | .spareAnswerTimeout r => Sys2Proof.Machine.execSpareAnswerTimeout r s
  | .reachAnswerRx r hop a => Sys2Proof.Machine.execReachAnswerRx r hop a s
  | .reachTimeout r => Sys2Proof.Machine.execReachTimeout r s
  | .keptRecordsRx r hop k => Sys2Proof.Machine.execKeptRecordsRx r hop k s
  | .rekeyStart r => Sys2Proof.Machine.execRekeyStart r s
  | .sewStart sess r => Sys2Proof.Machine.execSewStart sess r s
  | .sewSurveyEnd r energies => Sys2Proof.Machine.execSewSurveyEnd r energies s
  | .enrolCallTx r => Sys2Proof.Machine.execEnrolCallTx r s
  | .enrolAnswerRx r a => Sys2Proof.Machine.execEnrolAnswerRx r a s
  | .sewAnswerWindowEnd r => Sys2Proof.Machine.execSewAnswerWindowEnd r s
  | .sewNoAnswer r => Sys2Proof.Machine.execSewNoAnswer r s
  | .challengeAnswerRx r a => Sys2Proof.Machine.execChallengeAnswerRx r a s
  | .sewChallengeTimeout r => Sys2Proof.Machine.execSewChallengeTimeout r s
  | .sewConfirm sess r => Sys2Proof.Machine.execSewConfirm sess r s
  | .sewReject sess r => Sys2Proof.Machine.execSewReject sess r s
  | .sewConfirmTimeout r => Sys2Proof.Machine.execSewConfirmTimeout r s
  | .keyAckRx r mic => Sys2Proof.Machine.execKeyAckRx r mic s
  | .sewKeyTimeout r => Sys2Proof.Machine.execSewKeyTimeout r s
  | .sewSearchTimeout r => Sys2Proof.Machine.execSewSearchTimeout r s
  | .sewFinish sess r => Sys2Proof.Machine.execSewFinish sess r s
  | .sewAbandon sess r => Sys2Proof.Machine.execSewAbandon sess r s
  | .sewRestitch sess r hop => Sys2Proof.Machine.execSewRestitch sess r hop s
  | .sewResewFrom sess r hop => Sys2Proof.Machine.execSewResewFrom sess r hop s
  | .balCommit who r hops arg0 arg1 => Sys2Proof.Machine.execBalCommit who r hops arg0 arg1 s
  | .balHalt who r hops arg0 arg1 => Sys2Proof.Machine.execBalHalt who r hops arg0 arg1 s
  | .capture who r hops arg0 arg1 => Sys2Proof.Machine.execCapture who r hops arg0 arg1 s
  | .preStream who r hops arg0 arg1 => Sys2Proof.Machine.execPreStream who r hops arg0 arg1 s
  | .preStop who r hops arg0 arg1 => Sys2Proof.Machine.execPreStop who r hops arg0 arg1 s
  | .orderSleep who r hops arg0 arg1 => Sys2Proof.Machine.execOrderSleep who r hops arg0 arg1 s
  | .fwActivate who r hops arg0 arg1 => Sys2Proof.Machine.execFwActivate who r hops arg0 arg1 s
  | .balPlan who r hops arg0 arg1 => Sys2Proof.Machine.execBalPlan who r hops arg0 arg1 s
  | .balTally who r hops arg0 arg1 => Sys2Proof.Machine.execBalTally who r hops arg0 arg1 s
  | .ordLimits who r hops arg0 arg1 => Sys2Proof.Machine.execOrdLimits who r hops arg0 arg1 s
  | .capUpload who r hops arg0 arg1 => Sys2Proof.Machine.execCapUpload who r hops arg0 arg1 s
  | .fwSeg who r hops arg0 arg1 => Sys2Proof.Machine.execFwSeg who r hops arg0 arg1 s
  | .fwQuery who r hops arg0 arg1 => Sys2Proof.Machine.execFwQuery who r hops arg0 arg1 s
  | .balTallyTimer r => Sys2Proof.Machine.execBalTallyTimer r s
  | .captureUploadStart r => Sys2Proof.Machine.execCaptureUploadStart r s
  | .captureSegmentRx r seg => Sys2Proof.Machine.execCaptureSegmentRx r seg s
  | .captureUploadTimeout r => Sys2Proof.Machine.execCaptureUploadTimeout r s
  | .fwActivateTimeout r => Sys2Proof.Machine.execFwActivateTimeout r s
  | .nfwLoad sess r => Sys2Proof.Machine.execNfwLoad sess r s
  | .nfwActivate sess r => Sys2Proof.Machine.execNfwActivate sess r s
  | .nfwAbort sess r => Sys2Proof.Machine.execNfwAbort sess r s
  | .estPublish who n => Sys2Proof.Machine.execEstPublish who n s
  | .publishComplete => Sys2Proof.Machine.execPublishComplete s
  | .directoryWrite who n word v => Sys2Proof.Machine.execDirectoryWrite who n word v s
  | .cappingExport who => Sys2Proof.Machine.execCappingExport who s
  | .cappingSealed => Sys2Proof.Machine.execCappingSealed s
  | .cappingRestore sess => Sys2Proof.Machine.execCappingRestore sess s
  | .dinChange n level => Sys2Proof.Machine.execDinChange n level s
  | .auxTimeout r pos => Sys2Proof.Machine.execAuxTimeout r pos s
  | .pullinEnd ch => Sys2Proof.Machine.execPullinEnd ch s
  | .prechargeRelayOn r => Sys2Proof.Machine.execPrechargeRelayOn r s
  | .prechargeTimeout r => Sys2Proof.Machine.execPrechargeTimeout r s
  | .preExpired r => Sys2Proof.Machine.execPreExpired r s
  | .preAutoOff r => Sys2Proof.Machine.execPreAutoOff r s
  | .openWaitLimit r => Sys2Proof.Machine.execOpenWaitLimit r s
  | .negOpenDelay r => Sys2Proof.Machine.execNegOpenDelay r s
  | .weldTimeEnd r => Sys2Proof.Machine.execWeldTimeEnd r s
  | .weldCheckJudge r => Sys2Proof.Machine.execWeldCheckJudge r s
  | .circWatchEnd r => Sys2Proof.Machine.execCircWatchEnd r s
  | .fastTrip raw => Sys2Proof.Machine.execFastTrip raw s
  | .severLowObserved => Sys2Proof.Machine.execSeverLowObserved s
  | .severMinHoldEnd => Sys2Proof.Machine.execSeverMinHoldEnd s
  | .severReleased => Sys2Proof.Machine.execSeverReleased s
  | .severAssert who => Sys2Proof.Machine.execSeverAssert who s
  | .severClear who => Sys2Proof.Machine.execSeverClear who s
  | .reAuxWrite sess r v => Sys2Proof.Machine.execReAuxWrite sess r v s
  | .ocShutoff ch => Sys2Proof.Machine.execOcShutoff ch s
  | .retryPauseEnd ch => Sys2Proof.Machine.execRetryPauseEnd ch s
  | .attemptCountReset ch => Sys2Proof.Machine.execAttemptCountReset ch s
  | .dtTrip ch => Sys2Proof.Machine.execDtTrip ch s
  | .dtRelease ch => Sys2Proof.Machine.execDtRelease ch s
  | .holdLongTimer ch => Sys2Proof.Machine.execHoldLongTimer ch s
  | .openLoadDetect ch ext => Sys2Proof.Machine.execOpenLoadDetect ch ext s
  | .openLoadClear ch => Sys2Proof.Machine.execOpenLoadClear ch s
  | .coilSupplyUv n v => Sys2Proof.Machine.execCoilSupplyUv n v s
  | .coilSupplyRestore n v => Sys2Proof.Machine.execCoilSupplyRestore n v s
  | .keeperRefresh => Sys2Proof.Machine.execKeeperRefresh s
  | .keeperExpiry => Sys2Proof.Machine.execKeeperExpiry s
  | .helloTx => Sys2Proof.Machine.execHelloTx s
  | .helloRx h => Sys2Proof.Machine.execHelloRx h s
  | .roleDecisionTimeout => Sys2Proof.Machine.execRoleDecisionTimeout s
  | .sessionKeyRx m => Sys2Proof.Machine.execSessionKeyRx m s
  | .heartbeatTx => Sys2Proof.Machine.execHeartbeatTx s
  | .heartbeatRx f b => Sys2Proof.Machine.execHeartbeatRx f b s
  | .heartbeatLoss => Sys2Proof.Machine.execHeartbeatLoss s
  | .twinHbEdge => Sys2Proof.Machine.execTwinHbEdge s
  | .twinHbStill => Sys2Proof.Machine.execTwinHbStill s
  | .linkHoldExpiry => Sys2Proof.Machine.execLinkHoldExpiry s
  | .digestSnapshot => Sys2Proof.Machine.execDigestSnapshot s
  | .digestRx f b => Sys2Proof.Machine.execDigestRx f b s
  | .openOrderRx f b => Sys2Proof.Machine.execOpenOrderRx f b s
  | .checkFailRx f b => Sys2Proof.Machine.execCheckFailRx f b s
  | .forwardRx f b => Sys2Proof.Machine.execForwardRx f b s
  | .retireRx f b => Sys2Proof.Machine.execRetireRx f b s
  | .recordRx f b => Sys2Proof.Machine.execRecordRx f b s
  | .mirMsgRx f w bytes => Sys2Proof.Machine.execMirMsgRx f w bytes s
  | .timeFrameRx f t1 t2 t3 t4 => Sys2Proof.Machine.execTimeFrameRx f t1 t2 t3 t4 s
  | .mapsRx f maps => Sys2Proof.Machine.execMapsRx f maps s
  | .stateTransferRequest f => Sys2Proof.Machine.execStateTransferRequest f s
  | .xferSegmentRx f b => Sys2Proof.Machine.execXferSegmentRx f b s
  | .xferAckRx f kib last => Sys2Proof.Machine.execXferAckRx f kib last s
  | .transferRetryTimer => Sys2Proof.Machine.execTransferRetryTimer s
  | .grantRx f sweep => Sys2Proof.Machine.execGrantRx f sweep s
  | .twinYield who => Sys2Proof.Machine.execTwinYield who s
  | .twinDetach who => Sys2Proof.Machine.execTwinDetach who s
  | .twinResume who => Sys2Proof.Machine.execTwinResume who s
  | .twinAdmit sess => Sys2Proof.Machine.execTwinAdmit sess s
  | .twinForget sess => Sys2Proof.Machine.execTwinForget sess s
  | .canFrameRx n f stamp => Sys2Proof.Machine.execCanFrameRx n f stamp s
  | .canTxDone n stamp => Sys2Proof.Machine.execCanTxDone n stamp s
  | .canTxError n e => Sys2Proof.Machine.execCanTxError n e s
  | .canRecoveryDone n => Sys2Proof.Machine.execCanRecoveryDone n s
  | .canRecover who n => Sys2Proof.Machine.execCanRecover who n s
  | .canFlush who n => Sys2Proof.Machine.execCanFlush who n s
  | .canClashClear who n => Sys2Proof.Machine.execCanClashClear who n s
  | .canModeWrite who n mode => Sys2Proof.Machine.execCanModeWrite who n mode s
  | .canIntegrated n => Sys2Proof.Machine.execCanIntegrated n s
  | .canBtWrite who n dataPhase v => Sys2Proof.Machine.execCanBtWrite who n dataPhase v s
  | .canFilterWrite who n f v => Sys2Proof.Machine.execCanFilterWrite who n f v s
  | .canWake n cause => Sys2Proof.Machine.execCanWake n cause s
  | .tcpConnect => Sys2Proof.Machine.execTcpConnect s
  | .tlsHandshakeDone slot r => Sys2Proof.Machine.execTlsHandshakeDone slot r s
  | .tlsHandshakeTimeout slot => Sys2Proof.Machine.execTlsHandshakeTimeout slot s
  | .hostRead sess tag addr bytes => Sys2Proof.Machine.execHostRead sess tag addr bytes s
  | .hostWrite sess tag addr words => Sys2Proof.Machine.execHostWrite sess tag addr words s
  | .hostDesc sess tag idx wr base len => Sys2Proof.Machine.execHostDesc sess tag idx wr base len s
  | .hostSubscribe sess tag mask => Sys2Proof.Machine.execHostSubscribe sess tag mask s
  | .hostPing sess tag => Sys2Proof.Machine.execHostPing sess tag s
  | .hostClose sess tag => Sys2Proof.Machine.execHostClose sess tag s
  | .badType sess tag type len => Sys2Proof.Machine.execBadType sess tag type len s
  | .cappingQueueStall sess => Sys2Proof.Machine.execCappingQueueStall sess s
  | .sessionIdleTimeout sess => Sys2Proof.Machine.execSessionIdleTimeout sess s
  | .usbEnumerate => Sys2Proof.Machine.execUsbEnumerate s
  | .usbDisconnect => Sys2Proof.Machine.execUsbDisconnect s
  | .usbUnlock => Sys2Proof.Machine.execUsbUnlock s
  | .usbVerify => Sys2Proof.Machine.execUsbVerify s
  | .usbLock => Sys2Proof.Machine.execUsbLock s
  | .usbRoleLapse => Sys2Proof.Machine.execUsbRoleLapse s
  | .recorderRingWrite ringFault durFault => Sys2Proof.Machine.execRecorderRingWrite ringFault durFault s
  | .tokenRefill code => Sys2Proof.Machine.execTokenRefill code s
  | .suppressionSummaryTimer code => Sys2Proof.Machine.execSuppressionSummaryTimer code s
  | .ribbonTailRead rd k => Sys2Proof.Machine.execRibbonTailRead rd k s
  | .ribbonSeek who k hi => Sys2Proof.Machine.execRibbonSeek who k hi s
  | .recordClear sess => Sys2Proof.Machine.execRecordClear sess s
  | .memZero who => Sys2Proof.Machine.execMemZero who s
  | .memZeroDone => Sys2Proof.Machine.execMemZeroDone s
  | .scrubLine o => Sys2Proof.Machine.execScrubLine o s
  | .sramScrub o => Sys2Proof.Machine.execSramScrub o s
  | .checkStoreInit => Sys2Proof.Machine.execCheckStoreInit s
  | .attest sess => Sys2Proof.Machine.execAttest sess s
  | .certs sess => Sys2Proof.Machine.execCerts sess s
  | .setFolioKey sess => Sys2Proof.Machine.execSetFolioKey sess s
  | .setServiceKey sess => Sys2Proof.Machine.execSetServiceKey sess s
  | .trustAdd sess => Sys2Proof.Machine.execTrustAdd sess s
  | .trustRemove sess => Sys2Proof.Machine.execTrustRemove sess s
  | .newAppKey sess => Sys2Proof.Machine.execNewAppKey sess s
  | .adopt sess => Sys2Proof.Machine.execAdopt sess s
  | .nodeChallengeStart r hop => Sys2Proof.Machine.execNodeChallengeStart r hop s
  | .nodeChallengeAnswerRx r hop parts => Sys2Proof.Machine.execNodeChallengeAnswerRx r hop parts s
  | .nodeChallengeTimeout r => Sys2Proof.Machine.execNodeChallengeTimeout r s
  | .nodeChallengeRoutine r => Sys2Proof.Machine.execNodeChallengeRoutine r s
  | .qpTransition n qbLeads => Sys2Proof.Machine.execQpTransition n qbLeads s
  | .qpSkip n => Sys2Proof.Machine.execQpSkip n s
  | .qpIndexEdge n rising => Sys2Proof.Machine.execQpIndexEdge n rising s
  | .skipWindowEnd n => Sys2Proof.Machine.execSkipWindowEnd n s
  | .spdTimeoutExpiry n => Sys2Proof.Machine.execSpdTimeoutExpiry n s
  | .qpPreset who n v => Sys2Proof.Machine.execQpPreset who n v s
  | .qpClear who n => Sys2Proof.Machine.execQpClear who n s
  | .qpCfgWrite who n v => Sys2Proof.Machine.execQpCfgWrite who n v s
  | .canRxError n e => Sys2Proof.Machine.execCanRxError n e s
  | .leadPacketHeard r p => Sys2Proof.Machine.execLeadPacketHeard r p s
  | .dramTrainingDone => Sys2Proof.Machine.execDramTrainingDone s
  | .canIntegrationStart => Sys2Proof.Machine.execCanIntegrationStart s
  | .startWorkersReady => Sys2Proof.Machine.execStartWorkersReady s
  | .hostWindowReady => Sys2Proof.Machine.execHostWindowReady s
  | .cappingCopyEnd => Sys2Proof.Machine.execCappingCopyEnd s
  | .chipInSegmentTimeout => Sys2Proof.Machine.execChipInSegmentTimeout s
  | .sewRangingDone r delay => Sys2Proof.Machine.execSewRangingDone r delay s
  | .sewLinkFail r => Sys2Proof.Machine.execSewLinkFail r s
  | .ptpAnnounceRx m => Sys2Proof.Machine.execPtpAnnounceRx m s
  | .ptpDelayRespRx port domain delay => Sys2Proof.Machine.execPtpDelayRespRx port domain delay s
  | .bridgeFrameRx port src dst => Sys2Proof.Machine.execBridgeFrameRx port src dst s
  | .bridgeAddressAgeOut mac => Sys2Proof.Machine.execBridgeAddressAgeOut mac s
  | .arpIcmpRequest icmp target => Sys2Proof.Machine.execArpIcmpRequest icmp target s
  | .dhcpv4Lease lease => Sys2Proof.Machine.execDhcpv4Lease lease s
  | .logicSupplyInputChange b present => Sys2Proof.Machine.execLogicSupplyInputChange b present s
  | .coilSupplyPresentChange n v => Sys2Proof.Machine.execCoilSupplyPresentChange n v s

end Sys2Proof.Machine
end

