-- ==== Sys2Proof/Machine/Idle.lean ====
section
/-! DEFINITION. A clock of the idle block: what happens with time alone (R78, R98, R263; log entries 1, 19, 25 and 26). -/
namespace Sys2Proof.Machine

/-- The wake burst of the lead begins once it transmits, and lasts 1.2 s (R263). -/
def burstStart (s : State) : State :=
  let p := s.power
  if p.burst && transmits s && p.state == .running then
    let now := nowNs s
    { s with power := { p with burst := false, burstEnd := some (now + 1200000000), burstAt := now, burstCount := p.burstCount + 1 } }
  else s

/-- Its packets: one every 1 ms in each mapped region, with ORIGIN 0 and CODE WAKE; the count is that of the bursts (R262, R263). -/
def burstSend (s : State) : State :=
  let p := s.power
  match p.burstEnd with
  | none => s
  | some e =>
    if e ≤ nowNs s ∨ transmits s = false ∨ p.state ≠ .running then { s with power := { p with burstEnd := none } }
    else if p.burstAt ≤ nowNs s then
      let s := { s with power := { p with burstAt := p.burstAt + 1000000 } }
      forRegions s fun r s => if hasMap s r then airAlarm s r 6 p.burstCount else s
    else s

/-- The mirror's, or a joiner's, TIME frames: 8 a second, which the lead answers (R371, R375). -/
def timeTx (s : State) : State :=
  let t := s.twin
  if s.power.state = .running ∧ t.session = true ∧ (t.role = .mirror ∨ t.role = .joining) ∧ t.timeAt ≤ nowNs s then
    let at' := nowNs s + 125000000
    modTwin (twinSend s (.time (netNs s) 0 0)) fun t => { t with timeAt := at' }
  else s

/-- TYPE of a frame (R371): a key message travels as HELLO does, a transfer's request as XFER (log entry 33). -/
def frameType : TwinOut → Nat
  | .hello _ | .key _ => 1
  | .heartbeat _ => 2
  | .digest _ => 3
  | .openOrder _ _ => 4
  | .forward _ => 5
  | .retire _ => 6
  | .record _ => 7
  | .mirMsg _ _ => 8
  | .xfer _ | .xferRequest => 9
  | .xferAck _ _ => 10
  | .grant _ => 11
  | .time _ _ _ => 12
  | .maps _ => 13

/-- The 8 bytes of an open order (R374). -/
def orderBytes (o : OpenOrder) (checkFail : Bool) : List Byte :=
  [BitVec.ofNat 8 o.region.val, BitVec.ofNat 8 (bitMask [o.isolate, checkFail]), o.cause, o.result] ++ bytesLE 2 o.ticket.toNat ++ [0, 0]

/-- The body of a frame: given for digests, open orders and key messages, left open for the rest (log entry 33). -/
def frameBody (i : Nat) : TwinOut → List Byte
  | .digest d => digestBytes (some d)
  | .openOrder o c => orderBytes o c
  | .key m => m.block
  | _ => Config.twinBody i

/-- A frame leaves as the session has it: encrypted and tagged, or before its key in clear with TAG zero (R370). -/
def sealFrame (t : TwinSt) (ctr i : Nat) (x : TwinOut) : TwinSent :=
  let ty := frameType x
  let b := frameBody i x
  if countsInSession x then
    let c := Config.gcmCipher t.key (twinNonce t.idOwn ctr) b
    ⟨t.etypeNow, ty, t.sideB, ctr, c, twinTag t.key t.idOwn ty t.sideB ctr c, x⟩
  else ⟨t.etypeNow, ty, t.sideB, 0, b, 0, x⟩

/-- The frames of a clock, numbered from CTR. -/
def sealAll (t : TwinSt) : Nat → Nat → List TwinOut → List TwinSent
  | _, _, [] => []
  | ctr, i, x :: l => let n := if countsInSession x then ctr + 1 else ctr; sealFrame t n i x :: sealAll t n (i + 1) l

/-- What is queued for the twin link leaves (R370, R372). -/
def sendWire (s : State) : State :=
  if s.power.state = .off then s else
  let l := sealAll s.twin s.twin.ctrOut s.free s.twin.out
  { s with free := s.free + s.twin.out.length, twin := { s.twin with wire := l } }

/-- Workers leave QUIESCED for the state they were in (R78, R98). -/
def migrationsEnd (s : State) : State := { s with wk := s.wk.map unquiesce }

/-- One clock of the idle block: time passes, the packets and frames sent have left, migrations end, the wake burst goes on, the network takes
messages or not, and cappings go on into the queues. -/
def tick (s : State) : State := feedCappings (drainOut (burstSend (burstStart (migrationsEnd { idle (sendWire (timeTx s)) with air := [] }))))

end Sys2Proof.Machine
end

