-- ==== Sys2Proof/Safety.lean ====
section
/-! DEFINITION. The terms that statements about the module use: completion of a command, what a command leaves alone, and
the canonical form of every memory. -/
namespace Sys2Proof.Machine

/-- The command answers a next state, of which P holds. -/
def Ends (i : Instr) (s : State) (P : State → Prop) : Prop := ∃ t, exec i s = .next t ∧ P t

/-- The module runs: commands have their effect. -/
def Running (s : State) : Prop := s.power.state = .running

/-- Every byte memory of the module is in its canonical form. -/
def memoriesWf (s : State) : Prop :=
  memWf s.mem.dram = true ∧ memWf s.mem.tables = true ∧ memWf s.folio.imgA = true ∧ memWf s.folio.imgB = true
    ∧ ∀ w : Worker, memWf (wkOf s w).scratch = true

/-- The worker issues its next instruction: the module runs, the worker may issue and is below its run budget (R75, R93). -/
def Issues (s : State) (w : Worker) : Prop :=
  Running s ∧ canIssue s w = true ∧ overBudget (wkOf s w) = false

/-- Nothing but the worker's own record and the bookkeeping of the cores changes: every other part of the state stays, and
of every other worker at most its place between READY and RUNNING. -/
def OnlyWorker (s t : State) (w : Worker) : Prop :=
  t = { s with wk := t.wk, cores := t.cores } ∧ ∀ v, v ≠ w → wkOf t v = { wkOf s v with state := (wkOf t v).state }

/-- The worker's record after an instruction is `k`, with the issue counted in it; where the worker stands between READY and
RUNNING, and on which core, is left to the scheduler (R75, R93, R101). -/
def WorkerIs (s t : State) (w : Worker) (k : WorkerSt) : Prop :=
  wkOf t w = { k with
    sw := { k.sw with lead := isLead s }, state := (wkOf t w).state, core := (wkOf t w).core
    issued := k.issued + 1, run := k.run + 1 }

/-- The instruction completes: the worker's record becomes `k`; no other worker, no byte of DRAM and of the tables and no other
part of the module changes. -/
def Becomes (i : Instr) (s : State) (w : Worker) (k : WorkerSt) : Prop :=
  Ends i s fun t => OnlyWorker s t w ∧ WorkerIs s t w k

/-- General registers after a write of g[d]: a write to g0 is discarded (R73). -/
def gWrite (g : Vector Word 32) (d : GReg) (v : Word) : Vector Word 32 := if d = 0 then g else g.set d v

/-- The instruction completes: g[d] takes a value, the flags are as given, the PC goes on by 4, nothing else changes. -/
def Gives (i : Instr) (s : State) (w : Worker) (d : GReg) (v : Word) (sw : Flags) : Prop :=
  Becomes i s w { wkOf s w with g := gWrite (wkOf s w).g d v, sw := sw, pc := (wkOf s w).pc + 4 }

/-- The same for an accumulator a[d]. -/
def GivesA (i : Instr) (s : State) (w : Worker) (d : AReg) (v : DWord) (sw : Flags) : Prop :=
  Becomes i s w { wkOf s w with a := (wkOf s w).a.set d v, sw := sw, pc := (wkOf s w).pc + 4 }

/-- The same for an instruction that sets flags alone. -/
def Flagged (i : Instr) (s : State) (w : Worker) (sw : Flags) : Prop :=
  Becomes i s w { wkOf s w with sw := sw, pc := (wkOf s w).pc + 4 }

/-- The instruction faults (R90): the worker is TRAPPED with the cause and the instruction's address recorded, its PC
still at the instruction; none of its registers, accumulators or scratch bytes is written. -/
def Traps (i : Instr) (s : State) (w : Worker) (cause : Byte) : Prop :=
  Ends i s fun t => (wkOf t w).state = .trapped ∧ (wkOf t w).faultCause = cause ∧ (wkOf t w).faultPc = (wkOf s w).pc
    ∧ (wkOf t w).pc = (wkOf s w).pc ∧ (wkOf t w).g = (wkOf s w).g ∧ (wkOf t w).a = (wkOf s w).a ∧ (wkOf t w).scratch = (wkOf s w).scratch

/-- Z and N of a value of any width, the other flags as given. -/
def zn {n : Nat} (f : Flags) (v : BitVec n) : Flags := { f with z := v == 0, n := v.msb }
/-- Z and N of a value, C and V cleared (R105). -/
def plain (f : Flags) (v : Word) : Flags := { zn f v with c := false, v := false }

/-- The instruction completes, and the rest of the module becomes that of `u`, which has the workers of `s`. -/
def BecomesIn (i : Instr) (s : State) (w : Worker) (u : State) (k : WorkerSt) : Prop :=
  Ends i s fun t => OnlyWorker u t w ∧ WorkerIs s t w k

/-- The instruction completes by waiting (R78): the worker is WAITING on `x` with its PC past the instruction, the rest of the
module is that of `u`. -/
def Waits (i : Instr) (s : State) (w : Worker) (u : State) (k : WorkerSt) (x : Wait) : Prop :=
  Ends i s fun t => OnlyWorker u t w ∧ (wkOf t w).state = .waiting ∧ WorkerIs s t w { k with pc := k.pc + 4, wait := some x }

/-- The worker's posted stores can drain at once: none goes into a poisoned line, and while DRAM takes none there is none (R117,
R118). -/
def Drains (s : State) (w : Worker) : Prop := postedBad s w = none ∧ (dramHeld s = true → hasPosted s w = false)

/-- The instruction waits for its worker's posted stores and issues after them (R117): the worker is READY with its PC at the
instruction, which does not count as issued; nothing else changes. -/
def AwaitsDrain (i : Instr) (s : State) (w : Worker) : Prop :=
  Ends i s fun t => OnlyWorker s t w ∧ wkOf t w = { wkOf s w with
    flight := .drain, sw := { (wkOf s w).sw with lead := isLead s }, state := .ready, core := (wkOf t w).core }

/-- `s` with the event numbers, the recorder's intake and the frames to the twin of `t`: what raising an event touches. -/
def Logged (s t : State) : State := { s with arb := t.arb, recd := t.recd, twin := { s.twin with out := t.twin.out } }

/-- The bytes from `off` on are overwritten; every other byte reads as before, and the memory stays in its canonical form. -/
def Overwrites (m m' : Mem) (off : Nat) (b : List Byte) : Prop :=
  memWf m' = true ∧ ∀ i, memGet m' i = if off ≤ i ∧ i < off + b.length then b.getD (i - off) 0 else memGet m i

/-- `n` bytes from address `a` lie in the worker's scratch, or in the shared tables, without an uncorrectable error, and spell
the little-endian number `v` (R85, R113). -/
def Holds (s : State) (w : Worker) (a n v : Nat) : Prop :=
  (0x40000000 ≤ a ∧ a + n ≤ 0x40004000 ∧ badPlace s w (.scratch (a - 0x40000000)) n = false
      ∧ v = memNat (wkOf s w).scratch (a - 0x40000000) n)
    ∨ (0x50000000 ≤ a ∧ a + n ≤ 0x50400000 ∧ badPlace s w (.table (a - 0x50000000)) n = false
      ∧ v = memNat s.mem.tables (a - 0x50000000) n)

/-- `n` bytes from address `a` lie in the worker's DRAM aperture, at usable offset `off` (R85, R87). -/
def InAperture (s : State) (w : Worker) (a n off : Nat) : Prop :=
  0x20000000 ≤ a ∧ a + n ≤ 0x40000000 ∧ a - 0x20000000 + n ≤ (wkOf s w).dramLen.toNat
    ∧ off = (wkOf s w).dramBase.toNat / 64 * 64 + (a - 0x20000000)

/-- `n` bytes from address `a` lie in none of the ranges of the program view (R85). -/
def Nowhere (s : State) (w : Worker) (a n : Nat) : Prop :=
  0xC0000 ≤ a ∧ ¬(0x100000 ≤ a ∧ a < 0x200000) ∧ ¬(0x40000000 ≤ a ∧ a + n ≤ 0x40004000)
    ∧ ¬(0x50000000 ≤ a ∧ a + n ≤ 0x50400000) ∧ ¬(0x20000000 ≤ a ∧ a + n ≤ 0x40000000 ∧ a - 0x20000000 + n ≤ (wkOf s w).dramLen.toNat)

/-- An instruction that stores bytes completes: in scratch, or in table segments that the worker may store to, the bytes are
overwritten, and nothing else but the PC changes. -/
def Stores (i : Instr) (s : State) (w : Worker) (a : Nat) (b : List Byte) : Prop :=
  let k := wkOf s w
  (0x40000000 ≤ a → a + b.length ≤ 0x40004000 → Ends i s fun t => OnlyWorker s t w
      ∧ WorkerIs s t w { k with scratch := (wkOf t w).scratch, pc := k.pc + 4 }
      ∧ Overwrites k.scratch (wkOf t w).scratch (a - 0x40000000) b)
    ∧ (0x50000000 ≤ a → a + b.length ≤ 0x50400000 → segmentsOk k (a - 0x50000000) b.length = true →
      Ends i s fun t => OnlyWorker { s with mem := { s.mem with tables := t.mem.tables } } t w
        ∧ WorkerIs s t w { k with pc := k.pc + 4 } ∧ Overwrites s.mem.tables t.mem.tables (a - 0x50000000) b)

/-- The writer's role or scope does not allow this register write: it has no effect, and where the writer is a worker that can
issue, its store faults with cause SCOPE and the register's address (R84, R85, R90). -/
def Barred (i : Instr) (s : State) (who : Writer) (addr : Nat) : Prop :=
  ((∀ v, who = .worker v → eligible (wkOf s v) = false) → exec i s = .next s)
    ∧ ∀ v, who = .worker v → eligible (wkOf s v) = true →
      Traps i s v 0x02 ∧ Ends i s fun t => (wkOf t v).faultAddr = BitVec.ofNat 32 addr

/-- Only region `r`, the bookkeeping of events and workers that waited for a region event change. -/
def OnlyRegion (s t : State) (r : Region) : Prop :=
  t = { Logged s t with region := s.region.set r (rgOf t r), wk := t.wk, free := t.free }
    ∧ ∀ w, waitOf (wkOf s w) = none → wkOf t w = wkOf s w

/-- Region `r` becomes `x`, its ring of events apart. -/
def RegionIs (t : State) (r : Region) (x : RegionSt) : Prop :=
  rgOf t r = { x with events := (rgOf t r).events, gone := (rgOf t r).gone }

/-- The command completes with an event of region `r`, which becomes `x`; nothing else changes. -/
def RegionBecomes (i : Instr) (s : State) (r : Region) (x : RegionSt) : Prop :=
  Ends i s fun t => OnlyRegion s t r ∧ RegionIs t r x

/-- A frame of a TYPE of the twin link is accepted in this state (R370): the session is open under its EtherType, CTR rises, SIDE is
the twin's, and the tag holds under the session key over the nonce, the header and the body. -/
def FrameHolds (s : State) (f : TwinHdr) (type : Nat) : Prop :=
  s.twin.session = true ∧ f.etype = s.twin.etypeNow ∧ s.twin.ctrIn < f.ctr ∧ f.sideB ≠ s.twin.sideB
    ∧ f.tag = Config.gcmTag s.twin.key (bytesLE 4 s.twin.idPeer.toNat ++ bytesLE 8 f.ctr)
        ([BitVec.ofNat 8 type, if f.sideB then 1 else 0] ++ bytesLE 2 f.body.length ++ bytesLE 8 f.ctr) f.body

/-- The command completes and the twin block becomes `x`, what it sends apart; nothing else changes. -/
def TwinBecomes (i : Instr) (s : State) (x : TwinSt) : Prop :=
  Ends i s fun t => t = { Logged s t with twin := { x with out := t.twin.out } }

/-- Session slot `k` is free again, with no snapshot, descriptor, subscription, queued message or half of a field write left; the network block is
otherwise `n`, and nothing else changes (R421). -/
def SessionFreed (s t : State) (k : Session) (n : NetSt) : Prop :=
  t = { Logged s t with
      net := { n with sess := s.net.sess.set k SessSt.init }, snaps := s.snaps.filter fun p => p.reader != .host k
      folio := { s.folio with fieldLo := s.folio.fieldLo.set k 0 }
      sweep := { s.sweep with shown := s.sweep.shown.filter fun x => x.1 != .host k }, can := t.can }
    ∧ ∀ c, canOf t c = { canOf s c with shown := (canOf s c).shown.filter fun x => x.1 != .host k }

end Sys2Proof.Machine
end

