-- ==== Sys2Proof/Certificates/Slice0/Obligations.lean ====
section
/-! DEFINITION. The statements for the provers. Each says, of every command it names, that it answers a next state and what that
state holds; the rules it formalises stand in OBLIGATIONS.json. -/
open Sys2Proof Sys2Proof.Machine

/-- For every state with a command at the front of its queue, step is exec of that command on the state with the queue's rest. Every command of the table answers a next state in every state: none stops the module. On an empty queue a step of a module with logic supply is one 10 ns clock, which leaves memory, regions and the switch bank as they are, and the workers but for those QUIESCED, which return to the state they were in (the model's choice, log entries 1 and 19). -/
def Obligations.StepRunsFront : Prop :=
  ∀ (s : State) (c : Instr) (rest : List Instr),
    (s.pending = c :: rest → step s = exec c { s with pending := rest }) ∧ (∃ t, exec c s = .next t)
      ∧ (s.pending = [] → s.power.state ≠ .off → ∃ t, step s = .next t ∧ t.time.clk = s.time.clk + 1 ∧ t.pending = [] ∧ t.mem = s.mem
        ∧ t.region = s.region ∧ t.bank = s.bank
        ∧ ∀ w, wkOf t w = if (wkOf s w).state = .quiesced then { wkOf s w with state := (wkOf s w).held } else wkOf s w)

/-- For every state in which a worker issues, each of AND, OR, XOR, NOR, SLL, SRL, SRA, SLT, SLTU, MULHU, MIN, MAX, MINU, MAXU, CLZ and POPC completes: g[d] takes the value of R107 (a write to g0 is discarded), Z and N follow the value, C and V are cleared, the PC goes on by 4 and nothing else changes. -/
def Obligations.AluRegister : Prop :=
  ∀ (s : State) (w : Worker) (d s1 s2 : GReg), Issues s w →
    let f := (wkOf s w).sw
    let a := gGet (wkOf s w) s1
    let b := gGet (wkOf s w) s2
    let yields (i : Instr) (v : Word) : Prop := Gives i s w d v (plain f v)
    yields (.and w d s1 s2) (a &&& b) ∧ yields (.or w d s1 s2) (a ||| b) ∧ yields (.xor w d s1 s2) (a ^^^ b)
      ∧ yields (.nor w d s1 s2) (~~~(a ||| b))
      ∧ yields (.sll w d s1 s2) (a <<< (b.toNat % 32)) ∧ yields (.srl w d s1 s2) (a >>> (b.toNat % 32))
      ∧ yields (.sra w d s1 s2) (BitVec.ofInt 32 (a.toInt / 2 ^ (b.toNat % 32)))
      ∧ yields (.slt w d s1 s2) (if a.toInt < b.toInt then 1 else 0)
      ∧ yields (.sltu w d s1 s2) (if a.toNat < b.toNat then 1 else 0)
      ∧ yields (.mulhu w d s1 s2) (BitVec.ofNat 32 (a.toNat * b.toNat / 2 ^ 32))
      ∧ yields (.min w d s1 s2) (BitVec.ofInt 32 (min a.toInt b.toInt))
      ∧ yields (.max w d s1 s2) (BitVec.ofInt 32 (max a.toInt b.toInt))
      ∧ yields (.minu w d s1 s2) (BitVec.ofNat 32 (min a.toNat b.toNat))
      ∧ yields (.maxu w d s1 s2) (BitVec.ofNat 32 (max a.toNat b.toNat))
      ∧ yields (.clz w d s1) a.clz
      ∧ yields (.popc w d s1) (BitVec.ofNat 32 ((List.range 32).filter fun i => a.getLsbD i).length)

/-- For every state in which a worker issues, ADD, SUB, ADDI, CMPI, AADD, ASUB and ACMP complete with the sum or difference modulo 2^32 or 2^64, Z and N of it, C the carry or the absence of a borrow, V the signed wrap, the PC on by 4 and nothing else changed. -/
def Obligations.AddSubtractFlags : Prop :=
  ∀ (s : State) (w : Worker) (d s1 s2 : GReg) (ad as1 as2 : AReg) (imm : BitVec 16), Issues s w →
    let f := (wkOf s w).sw
    let a := gGet (wkOf s w) s1
    let b := gGet (wkOf s w) s2
    let i : Word := imm.signExtend 32
    let x := aGet (wkOf s w) as1
    let y := aGet (wkOf s w) as2
    let sum {n : Nat} (p q : BitVec n) : Flags := { zn f (p + q) with
      c := decide (2 ^ n ≤ p.toNat + q.toNat), v := decide ((p + q).toInt ≠ p.toInt + q.toInt) }
    let dif {n : Nat} (p q : BitVec n) : Flags := { zn f (p - q) with
      c := decide (q.toNat ≤ p.toNat), v := decide ((p - q).toInt ≠ p.toInt - q.toInt) }
    Gives (.add w d s1 s2) s w d (a + b) (sum a b) ∧ Gives (.sub w d s1 s2) s w d (a - b) (dif a b)
      ∧ Gives (.addi w d s1 imm) s w d (a + i) (sum a i) ∧ Flagged (.cmpi w s1 imm) s w (dif a i)
      ∧ GivesA (.aadd w ad as1 as2) s w ad (x + y) (sum x y) ∧ GivesA (.asub w ad as1 as2) s w ad (x - y) (dif x y)
      ∧ Flagged (.acmp w as1 as2) s w (dif x y)

/-- For every state in which a worker issues, MUL, MULH and MULI complete with the low or high word of the signed product, Z and N of it, V when the product does not fit in 32 bits and C as before; MAC, MACU, MSU and QMAC add to or subtract from the accumulator modulo 2^64, V when the exact result leaves 64 bits, and of them MAC alone sets Z and N. -/
def Obligations.Products : Prop :=
  ∀ (s : State) (w : Worker) (d s1 s2 : GReg) (ad : AReg) (imm : BitVec 16), Issues s w →
    let f := (wkOf s w).sw
    let a := gGet (wkOf s w) s1
    let b := gGet (wkOf s w) s2
    let acc := aGet (wkOf s w) ad
    let p := a.toInt * b.toInt
    let q := a.toInt * imm.toInt
    let fits (x : Int) : Bool := decide (-(2 ^ 31) ≤ x ∧ x < 2 ^ 31)
    let lo (x : Int) : Word := BitVec.ofInt 32 x
    let add64 (x : Int) : DWord := BitVec.ofInt 64 (acc.toInt + x)
    let uns : Int := acc.toNat + a.toNat * b.toNat
    let wraps (x : Int) : Bool := decide ((add64 x).toInt ≠ acc.toInt + x)
    Gives (.mul w d s1 s2) s w d (lo p) { zn f (lo p) with v := !(fits p) }
      ∧ Gives (.mulh w d s1 s2) s w d (lo (p / 2 ^ 32)) { zn f (lo (p / 2 ^ 32)) with v := !(fits p) }
      ∧ Gives (.muli w d s1 imm) s w d (lo q) { zn f (lo q) with v := !(fits q) }
      ∧ GivesA (.mac w ad s1 s2) s w ad (add64 p) { zn f (add64 p) with v := wraps p }
      ∧ GivesA (.macu w ad s1 s2) s w ad (BitVec.ofInt 64 uns) { f with v := decide (2 ^ 64 ≤ uns) }
      ∧ GivesA (.msu w ad s1 s2) s w ad (add64 (-p)) { f with v := wraps (-p) }
      ∧ GivesA (.qmac w ad s1 s2) s w ad (add64 p) { f with v := wraps p }

/-- For every state in which a worker issues: with a divisor other than 0, DIV, DIVU, REM, REMU and QDIV complete with the quotient rounded toward zero or its remainder, and the flags of R105; with divisor 0 each faults with cause DIVIDE (0x05) and writes no register. -/
def Obligations.Division : Prop :=
  ∀ (s : State) (w : Worker) (d s1 s2 : GReg), Issues s w →
    let f := (wkOf s w).sw
    let a := gGet (wkOf s w) s1
    let b := gGet (wkOf s w) s2
    let q := a.toInt.tdiv b.toInt
    let r : Word := BitVec.ofInt 32 (a.toInt.tmod b.toInt)
    let x := (a.toInt * 65536).tdiv b.toInt
    let sat := clampInt (-(2 ^ 31)) (2 ^ 31 - 1) x
    (b ≠ 0 →
      Gives (.div w d s1 s2) s w d (BitVec.ofInt 32 q) { zn f (BitVec.ofInt 32 q) with c := false, v := decide (a = 0x80000000 ∧ b = 0xFFFFFFFF) }
        ∧ Gives (.divu w d s1 s2) s w d (BitVec.ofNat 32 (a.toNat / b.toNat)) (plain f (BitVec.ofNat 32 (a.toNat / b.toNat)))
        ∧ Gives (.rem w d s1 s2) s w d r (plain f r)
        ∧ Gives (.remu w d s1 s2) s w d (BitVec.ofNat 32 (a.toNat % b.toNat)) (plain f (BitVec.ofNat 32 (a.toNat % b.toNat)))
        ∧ Gives (.qdiv w d s1 s2) s w d (BitVec.ofInt 32 sat) { zn f (BitVec.ofInt 32 sat) with sat := f.sat || decide (sat ≠ x) })
    ∧ (b = 0 → Traps (.div w d s1 s2) s w 0x05 ∧ Traps (.divu w d s1 s2) s w 0x05 ∧ Traps (.rem w d s1 s2) s w 0x05
        ∧ Traps (.remu w d s1 s2) s w 0x05 ∧ Traps (.qdiv w d s1 s2) s w 0x05)

/-- For every state in which a worker issues, SLTI, SLTIU, ANDI, ORI, XORI, LUI and the four kinds of SHI complete with the value of R109, Z and N of it and C and V cleared; RDSW gives SW with the copy of LEAD current; CSEL chooses by the condition of R119 and leaves the flags. -/
def Obligations.Immediates : Prop :=
  ∀ (s : State) (w : Worker) (d s1 s2 : GReg) (imm : BitVec 16) (sh : BitVec 5) (cond : BitVec 4), Issues s w →
    let f := (wkOf s w).sw
    let a := gGet (wkOf s w) s1
    let b := gGet (wkOf s w) s2
    let sext : Word := imm.signExtend 32
    let zext : Word := imm.setWidth 32
    let sw := swWord s { wkOf s w with sw := { f with lead := isLead s } }
    let yields (i : Instr) (v : Word) : Prop := Gives i s w d v (plain f v)
    yields (.slti w d s1 imm) (if a.toInt < sext.toInt then 1 else 0)
      ∧ yields (.sltiu w d s1 imm) (if a.toNat < sext.toNat then 1 else 0)
      ∧ yields (.andi w d s1 imm) (a &&& zext) ∧ yields (.ori w d s1 imm) (a ||| zext) ∧ yields (.xori w d s1 imm) (a ^^^ zext)
      ∧ yields (.lui w d imm) (BitVec.ofNat 32 (imm.toNat * 65536))
      ∧ yields (.shiSll w d s1 sh) (a <<< sh.toNat) ∧ yields (.shiSrl w d s1 sh) (a >>> sh.toNat)
      ∧ yields (.shiSra w d s1 sh) (BitVec.ofInt 32 (a.toInt / 2 ^ sh.toNat))
      ∧ yields (.shiRotateRight w d s1 sh) ((a >>> sh.toNat) ||| (a <<< (32 - sh.toNat)))
      ∧ yields (.rdsw w d) sw
      ∧ Gives (.csel w d s1 s2 cond) s w d (if condHolds f cond then a else b) f

/-- For every state in which a worker issues, QADD, QSUB, QMUL, QMULI, QABS, QNEG and ITOQ complete with the exact result, rounded to nearest with ties away from zero where it has to be, saturated to 0x7FFF_FFFF or 0x8000_0000; QTOI and QRND give the integer part and the nearest integer; all set Z and N, set SAT when they saturate and leave C and V; QCLR clears SAT alone. -/
def Obligations.FixedPoint : Prop :=
  ∀ (s : State) (w : Worker) (d s1 s2 : GReg) (imm : BitVec 16), Issues s w →
    let f := (wkOf s w).sw
    let a := (gGet (wkOf s w) s1).toInt
    let b := (gGet (wkOf s w) s2).toInt
    let nearest (x : Int) (n : Int) : Int := if 0 ≤ x then (2 * x + n) / (2 * n) else -((2 * -x + n) / (2 * n))
    let yields (i : Instr) (x : Int) : Prop :=
      let y := clampInt (-(2 ^ 31)) (2 ^ 31 - 1) x
      Gives i s w d (BitVec.ofInt 32 y) { zn f (BitVec.ofInt 32 y) with sat := f.sat || decide (y ≠ x) }
    yields (.qadd w d s1 s2) (a + b) ∧ yields (.qsub w d s1 s2) (a - b)
      ∧ yields (.qmul w d s1 s2) (nearest (a * b) 65536)
      ∧ yields (.qmuli w d s1 imm) (nearest (a * imm.toInt) 256)
      ∧ yields (.qabs w d s1) (if a < 0 then -a else a) ∧ yields (.qneg w d s1) (-a)
      ∧ yields (.itoq w d s1) (a * 65536) ∧ yields (.qtoi w d s1) (a / 65536) ∧ yields (.qrnd w d s1) (nearest a 65536)
      ∧ Flagged (.qclr w) s w { f with sat := false }

/-- For every state in which a worker issues, ACLR, AMOV, AJOIN, ASEXT, ASRA and ASLL write the accumulator, and ALO, AHI and AQ the general register, with the value of R112; ASLL sets V when the exact signed value leaves 64 bits, AQ sets SAT when it saturates, and no other flag changes. -/
def Obligations.Accumulators : Prop :=
  ∀ (s : State) (w : Worker) (d s1 s2 : GReg) (ad as1 : AReg), Issues s w →
    let f := (wkOf s w).sw
    let a := gGet (wkOf s w) s1
    let b := gGet (wkOf s w) s2
    let x := aGet (wkOf s w) as1
    let n := b.toNat % 64
    let up : DWord := BitVec.ofInt 64 (x.toInt * 2 ^ n)
    let q := x.toInt / 65536
    let y := clampInt (-(2 ^ 31)) (2 ^ 31 - 1) q
    GivesA (.aclr w ad) s w ad 0 f ∧ GivesA (.amov w ad as1) s w ad x f
      ∧ GivesA (.ajoin w ad s1 s2) s w ad (b ++ a) f
      ∧ GivesA (.asext w ad s1) s w ad (BitVec.ofInt 64 a.toInt) f
      ∧ GivesA (.asra w ad as1 s2) s w ad (BitVec.ofInt 64 (x.toInt / 2 ^ n)) f
      ∧ GivesA (.asll w ad as1 s2) s w ad up { f with v := decide (up.toInt ≠ x.toInt * 2 ^ n) }
      ∧ Gives (.alo w d as1) s w d (BitVec.ofNat 32 (x.toNat % 2 ^ 32)) f
      ∧ Gives (.ahi w d as1) s w d (BitVec.ofNat 32 (x.toNat / 2 ^ 32)) f
      ∧ Gives (.aq w d as1) s w d (BitVec.ofInt 32 y) { f with sat := f.sat || decide (y ≠ q) }

/-- For every state in which a worker issues: BEQ, BNE and BC with a condition that does not hold go on to the next instruction; with one that holds, and JR and JALR with a target that is a multiple of 4, the PC takes the target where it lies in the code section, outside the segments of regions that the worker's scope does not cover (R162), g31 or g[d] takes the address after the branch in the call form and JALR, and no flag changes; any other target faults with cause ADDRESS, and a JR or JALR target that is no multiple of 4 with cause ALIGN, with no register written. -/
def Obligations.Branches : Prop :=
  ∀ (s : State) (w : Worker) (d s1 : GReg) (imm : BitVec 16) (link : Bool) (cond : BitVec 4), Issues s w →
    let k := wkOf s w
    let rel := k.pc + 4 * imm.signExtend 32
    let target := gGet k s1
    let inside (x : Word) : Prop := x.toNat < s.folio.codeLen ∧ (0x100000 ≤ x.toNat →
      x.toNat < 0x200000 ∧ coversRegion k.scope ((x.toNat - 0x100000) / 0x10000) = true)
    let goes (i : Instr) (g : Vector Word 32) (x : Word) : Prop := Becomes i s w { k with g := g, pc := x }
    let taken (i : Instr) (c : Prop) (g : Vector Word 32) : Prop :=
      (¬c → goes i k.g (k.pc + 4)) ∧ (c → inside rel → goes i g rel) ∧ (c → ¬inside rel → Traps i s w 0x03)
    let jumps (i : Instr) (g : Vector Word 32) : Prop :=
      (target.toNat % 4 = 0 → inside target → goes i g target) ∧ (target.toNat % 4 = 0 → ¬inside target → Traps i s w 0x03)
        ∧ (target.toNat % 4 ≠ 0 → Traps i s w 0x04)
    taken (.beq w d s1 imm) (gGet k d = target) k.g ∧ taken (.bne w d s1 imm) (gGet k d ≠ target) k.g
      ∧ taken (.bc w link cond imm) (condHolds k.sw cond = true) (if link then gWrite k.g 31 (k.pc + 4) else k.g)
      ∧ jumps (.jr w s1) k.g ∧ jumps (.jalr w d s1) (gWrite k.g d (k.pc + 4))

/-- For every state in which a worker issues: TNOW writes network time as seconds, epoch and nanoseconds into a triple, PNOW the phase stamp into an accumulator; TADD and TDIF complete on triples whose nanoseconds are below 10^9, with the sum as seconds and nanoseconds and the difference in ns, V for a sum outside 48 bits of seconds and for two epochs that differ; a triple with more nanoseconds faults with cause TIME_FIELD (0x06). -/
def Obligations.TimeOperands : Prop :=
  ∀ (s : State) (w : Worker) (d s1 s2 : TReg) (ad as2 : AReg), Issues s w →
    let k := wkOf s w
    let reg (n : Nat) : GReg := Fin.ofNat 32 n
    let ns (n : TReg) : Nat := (gGet k (reg (n.val + 2))).toNat
    let sec (n : TReg) : Nat := (gGet k (reg (n.val + 1))).toNat % 65536 * 2 ^ 32 + (gGet k (reg n.val)).toNat
    let epoch (n : TReg) : Nat := (gGet k (reg (n.val + 1))).toNat / 65536
    let count (n : TReg) : Int := sec n * 1000000000 + ns n
    let triple (n : TReg) (sc ep nn : Nat) : Vector Word 32 :=
      gWrite (gWrite (gWrite k.g (reg n.val) (BitVec.ofNat 32 (sc % 2 ^ 32))) (reg (n.val + 1)) (BitVec.ofNat 32 (ep * 65536 + sc / 2 ^ 32 % 65536)))
        (reg (n.val + 2)) (BitVec.ofNat 32 nn)
    let now := netNow s
    let total := count s1 + (aGet k as2).toInt
    let totalSec := total / 1000000000
    let dif := count s1 - count s2
    Becomes (.tnow w d) s w { k with g := triple d now.sec.toNat now.epoch.toNat now.ns.toNat, pc := k.pc + 4 }
      ∧ GivesA (.pnow w ad) s w ad (phaseNow s) k.sw
      ∧ (ns s1 < 1000000000 → Becomes (.tadd w d s1 as2) s w { k with
          g := triple d (totalSec % 2 ^ 48).toNat (epoch s1) (total % 1000000000).toNat
          sw := { k.sw with v := decide (totalSec < 0 ∨ 2 ^ 48 ≤ totalSec) }
          pc := k.pc + 4 })
      ∧ (ns s1 < 1000000000 → ns s2 < 1000000000 → GivesA (.tdif w ad s1 s2) s w ad (BitVec.ofInt 64 dif)
          { zn k.sw (BitVec.ofInt 64 dif) with v := decide (epoch s1 ≠ epoch s2) })
      ∧ (1000000000 ≤ ns s1 → Traps (.tadd w d s1 as2) s w 0x06 ∧ Traps (.tdif w ad s1 s2) s w 0x06 ∧ Traps (.tdif w ad s2 s1) s w 0x06)

/-- For every state in which a worker issues: LDW, LDX of each size and LDD at an aligned address in scratch or in the shared tables complete with the little-endian value there, sign- or zero-extended by the size of LDX, in g[d] or a[d]; flags and every byte of memory stay. -/
def Obligations.Loads : Prop :=
  ∀ (s : State) (w : Worker) (d s1 s2 : GReg) (ad : AReg) (imm : BitVec 16) (scale : Bool) (v : Nat), Issues s w →
    let k := wkOf s w
    let a : Word := gGet k s1 + imm.signExtend 32
    let x (n : Nat) : Word := gGet k s1 + (if scale then gGet k s2 * BitVec.ofNat 32 n else gGet k s2)
    let at' (y : Word) (n : Nat) : Prop := y.toNat % n = 0 ∧ Holds s w y.toNat n v
    let yields (i : Instr) (r : Word) : Prop := Gives i s w d r k.sw
    (at' a 4 → yields (.ldw w d s1 imm) (BitVec.ofNat 32 v))
      ∧ (at' a 8 → GivesA (.ldd w ad s1 imm) s w ad (BitVec.ofNat 64 v) k.sw)
      ∧ (at' (x 4) 4 → yields (.ldx w d s1 s2 .word scale) (BitVec.ofNat 32 v))
      ∧ (at' (x 2) 2 → yields (.ldx w d s1 s2 .halfS scale) ((BitVec.ofNat 16 v).signExtend 32)
          ∧ yields (.ldx w d s1 s2 .halfU scale) (BitVec.ofNat 32 v))
      ∧ (at' (x 1) 1 → yields (.ldx w d s1 s2 .byteS scale) ((BitVec.ofNat 8 v).signExtend 32)
          ∧ yields (.ldx w d s1 s2 .byteU scale) (BitVec.ofNat 32 v))

/-- For every state with memories in canonical form in which a worker issues: STW, STX of each size and STD at an aligned address in scratch, or in table segments that the worker may store to, complete; the bytes from that address on hold the register's low bytes, the lowest first, every other byte reads as before, and no register but the PC changes. -/
def Obligations.StoresToMemory : Prop :=
  ∀ (s : State) (w : Worker) (d s1 s2 : GReg) (ad : AReg) (imm : BitVec 16) (scale : Bool), Issues s w → memoriesWf s →
    let k := wkOf s w
    let a : Word := gGet k s1 + imm.signExtend 32
    let x (n : Nat) : Word := gGet k s1 + (if scale then gGet k s2 * BitVec.ofNat 32 n else gGet k s2)
    let v := gGet k d
    let byte {n : Nat} (y : BitVec n) (i : Nat) : Byte := (y >>> (8 * i)).setWidth 8
    let y := aGet k ad
    (a.toNat % 4 = 0 → Stores (.stw w d s1 imm) s w a.toNat [byte v 0, byte v 1, byte v 2, byte v 3])
      ∧ (a.toNat % 8 = 0 → Stores (.std w ad s1 imm) s w a.toNat
          [byte y 0, byte y 1, byte y 2, byte y 3, byte y 4, byte y 5, byte y 6, byte y 7])
      ∧ ((x 4).toNat % 4 = 0 → Stores (.stx w d s1 s2 .word scale) s w (x 4).toNat [byte v 0, byte v 1, byte v 2, byte v 3])
      ∧ ((x 2).toNat % 2 = 0 → ∀ z ∈ [XSize.halfS, .halfU], Stores (.stx w d s1 s2 z scale) s w (x 2).toNat [byte v 0, byte v 1])
      ∧ (∀ z ∈ [XSize.byteS, .byteU], Stores (.stx w d s1 s2 z scale) s w (x 1).toNat [byte v 0])

/-- For every state with memories in canonical form in which a worker issues: XCHG, FADD, CAS, FETCH_OR and FETCH_AND at an aligned word of scratch, or of a table segment that the worker may store to, give the old word in g[d] and store gs2, the sum, gs2 when the old word equals g[d], the OR and the AND; CAS sets Z when it has stored and stores nothing otherwise; FENCE goes on when no store of the worker is posted. -/
def Obligations.Atomics : Prop :=
  ∀ (s : State) (w : Worker) (d s1 s2 : GReg) (old : Nat), Issues s w → memoriesWf s →
    let k := wkOf s w
    let a := (gGet k s1).toNat
    let o : Word := BitVec.ofNat 32 old
    let b := gGet k s2
    let byte (y : Word) (i : Nat) : Byte := (y >>> (8 * i)).setWidth 8
    let bytes (y : Word) : List Byte := [byte y 0, byte y 1, byte y 2, byte y 3]
    let swaps (i : Instr) (new : List Byte) (sw : Flags) : Prop :=
      (0x40000000 ≤ a → a + 4 ≤ 0x40004000 → Ends i s fun t => OnlyWorker s t w
          ∧ WorkerIs s t w { k with g := gWrite k.g d o, scratch := (wkOf t w).scratch, sw := sw, pc := k.pc + 4 }
          ∧ Overwrites k.scratch (wkOf t w).scratch (a - 0x40000000) new)
        ∧ (0x50000000 ≤ a → segmentsOk k (a - 0x50000000) 4 = true →
          Ends i s fun t => OnlyWorker { s with mem := { s.mem with tables := t.mem.tables } } t w
            ∧ WorkerIs s t w { k with g := gWrite k.g d o, sw := sw, pc := k.pc + 4 }
            ∧ Overwrites s.mem.tables t.mem.tables (a - 0x50000000) new)
    (hasPosted s w = false → Becomes (.fence w) s w { k with pc := k.pc + 4 })
      ∧ (a % 4 = 0 → Holds s w a 4 old →
        swaps (.xchg w d s1 s2) (bytes b) k.sw ∧ swaps (.fadd w d s1 s2) (bytes (o + b)) k.sw
          ∧ swaps (.fetchOr w d s1 s2) (bytes (o ||| b)) k.sw ∧ swaps (.fetchAnd w d s1 s2) (bytes (o &&& b)) k.sw
          ∧ swaps (.cas w d s1 s2) (if o = gGet k d then bytes b else []) { k.sw with z := o == gGet k d })

/-- For every state in which a worker issues: an access whose address is no multiple of its size faults with cause ALIGN (0x04), an aligned one in none of the ranges of the program view with cause ADDRESS (0x03), and an aligned store of a word or an atomic access to a table segment outside the worker's scope with cause SCOPE (0x02); no register, accumulator or scratch byte is written. -/
def Obligations.MemoryFaults : Prop :=
  ∀ (s : State) (w : Worker) (d s1 s2 : GReg) (ad : AReg) (imm : BitVec 16) (z : XSize) (scale : Bool), Issues s w →
    let k := wkOf s w
    let a := (gGet k s1 + imm.signExtend 32).toNat
    let n : Nat := match z with
      | .byteS | .byteU => 1
      | .halfS | .halfU => 2
      | .word => 4
    let x := (gGet k s1 + (if scale then gGet k s2 * BitVec.ofNat 32 n else gGet k s2)).toNat
    let b := (gGet k s1).toNat
    let stores : List (Instr × Nat) :=
      [(.stw w d s1 imm, a), (.xchg w d s1 s2, b), (.fadd w d s1 s2, b), (.cas w d s1 s2, b), (.fetchOr w d s1 s2, b), (.fetchAnd w d s1 s2, b)]
    let all : List (Instr × Nat × Nat) := stores.map (fun p => (p.1, p.2, 4))
      ++ [(.ldw w d s1 imm, a, 4), (.ldd w ad s1 imm, a, 8), (.std w ad s1 imm, a, 8), (.ldx w d s1 s2 z scale, x, n), (.stx w d s1 s2 z scale, x, n)]
    (∀ p ∈ all, (p.2.1 % p.2.2 ≠ 0 → Traps p.1 s w 0x04)
        ∧ (p.2.1 % p.2.2 = 0 → Nowhere s w p.2.1 p.2.2 → Traps p.1 s w 0x03))
      ∧ ∀ p ∈ stores, p.2 % 4 = 0 → 0x50000000 ≤ p.2 → p.2 + 4 ≤ 0x50400000 → segmentsOk k (p.2 - 0x50000000) 4 = false → Traps p.1 s w 0x02

/-- For every state: LDW, LDD and LDX at an aligned address of the aperture put an access in flight and change nothing else; DRAM_ACCESS_COMPLETE gives the register the value in DRAM, with the worker's own posted stores seen (the reading of log entry 19), and moves the PC on, from a line not initialised yet at once, from any other with the free outcome of its codeword, which counts a corrected one and faults with cause MEM_UNCORR (0x08) on an uncorrectable one, as a poisoned line does; while DRAM accesses wait neither row changes anything; a store to a writable, unpoisoned part of the aperture is posted while the core's queue holds fewer than 8; STORE_QUEUE_DRAIN makes the worker's oldest posted store visible, every other byte of DRAM reading as before, and faults with cause MEM_UNCORR where it goes into a poisoned line. Every instruction that may block, and HALT, faults so too where a posted store of its worker goes into a poisoned line, and waits for the stores, not issued yet, while DRAM takes none; the drain of the last one lets it issue. -/
def Obligations.DramAccess : Prop :=
  ∀ (s : State) (w : Worker) (d s1 s2 : GReg) (ad : AReg) (imm : BitVec 16) (z : XSize) (scale : Bool) (off : Nat),
    let k := wkOf s w
    let a := (gGet k s1 + imm.signExtend 32).toNat
    let x := (xAddr k s1 s2 z scale).toNat
    let flies (i : Instr) (f : Flight) : Prop := Becomes i s w { k with flight := f }
    let posts (i : Instr) (b : List Byte) : Prop := Ends i s fun t =>
      OnlyWorker s t w ∧ WorkerIs s t w { k with pc := k.pc + 4 }
        ∧ ((wkOf t w).core = k.core → (coreOf t k.core).storeQ = (coreOf s k.core).storeQ ++ [(w, off, b)])
        ∧ ((wkOf t w).core ≠ k.core → (coreOf t (wkOf t w).core).storeQ =
            (coreOf s (wkOf t w).core).storeQ ++ (coreOf s k.core).storeQ.filter (fun q => q.1 == w) ++ [(w, off, b)])
    let completes (r : WorkerSt) : Prop :=
      (s.mem.poison.contains (off / 64) = false → lineFresh s (off / 64) = true → exec (.dramAccessComplete w) s = .next (setWk s w r))
        ∧ (s.mem.poison.contains (off / 64) = false → lineFresh s (off / 64) = false →
          (codeword s.free = .clean → exec (.dramAccessComplete w) s = .next (setWk { s with free := s.free + 1 } w r))
            ∧ (codeword s.free = .corrected → Ends (.dramAccessComplete w) s fun t =>
                wkOf t w = r ∧ t.mem.eccCorr = inc16 s.mem.eccCorr ∧ t.mem.dram = s.mem.dram)
            ∧ ∀ tag, codeword s.free = .uncorrectable tag → Traps (.dramAccessComplete w) s w 0x08)
        ∧ (s.mem.poison.contains (off / 64) = true → Traps (.dramAccessComplete w) s w 0x08)
    let room := k.dramBase.getLsbD 0 = true ∧ (coreOf s k.core).storeQ.length < 8
    (Issues s w → a % 4 = 0 → InAperture s w a 4 off → flies (.ldw w d s1 imm) (.loadG d off .word))
      ∧ (Issues s w → a % 8 = 0 → InAperture s w a 8 off → flies (.ldd w ad s1 imm) (.loadA ad off))
      ∧ (Issues s w → x % xBytes z = 0 → InAperture s w x (xBytes z) off → flies (.ldx w d s1 s2 z scale) (.loadG d off z))
      ∧ (Issues s w → room → a % 4 = 0 → InAperture s w a 4 off → storable s off 4 = true → poisoned s off 4 = false →
          posts (.stw w d s1 imm) (bytesLE 4 (gGet k d).toNat))
      ∧ (Running s → dramHeld s = false →
        (k.flight = .loadG d off z →
            completes { k with flight := .none, g := gWrite k.g d (xExtend z (memNat (dramSeen s w) off (xBytes z))), pc := k.pc + 4 })
          ∧ (k.flight = .loadA ad off →
            completes { k with flight := .none, a := k.a.set ad (BitVec.ofNat 64 (memNat (dramSeen s w) off 8)), pc := k.pc + 4 }))
      ∧ (Running s → dramHeld s = true → exec (.dramAccessComplete w) s = .next s ∧ exec (.storeQueueDrain w) s = .next s)
      ∧ (∀ b, Running s → dramHeld s = false → memoriesWf s → k.flight = .none → ((coreOf s k.core).storeQ.find? fun q => q.1 == w) = some (w, off, b) →
          poisoned s off b.length = false → Ends (.storeQueueDrain w) s fun t =>
            t = { s with cores := t.cores, mem := { s.mem with dram := t.mem.dram } }
              ∧ (coreOf t k.core).storeQ = (coreOf s k.core).storeQ.erase (w, off, b) ∧ Overwrites s.mem.dram t.mem.dram off b)
      ∧ (∀ b, Running s → dramHeld s = false → ((coreOf s k.core).storeQ.find? fun q => q.1 == w) = some (w, off, b) →
          poisoned s off b.length = true → Traps (.storeQueueDrain w) s w 0x08)
      ∧ (∀ b, Running s → dramHeld s = false → k.flight = .drain → (coreOf s k.core).storeQ.filter (fun q => q.1 == w) = [(w, off, b)] →
          poisoned s off b.length = false → Ends (.storeQueueDrain w) s fun t =>
            wkOf t w = { k with flight := .none } ∧ hasPosted t w = false ∧ (∀ v, v ≠ w → wkOf t v = wkOf s v))
      ∧ (Issues s w → ∀ (t1 : TReg) (late : BitVec 2) (alat : AReg) (dom : Fin 4) (first : EveryFirst) (nb : Bool),
        ∀ i ∈ [Instr.waitAt w ad late alat, .waitAtt w t1 late alat, .waitDuration w ad alat, .waitTick w ad dom late alat,
            .every w d first ad late alat, .swpAll w d s1 s2, .swpAny w d s1 s2, .swpRevt w d s1 s2, .cmbw w d s1, .crx w d s1 s2 nb,
            .mrecv w d s1, .sigHash w d s1 s2, .sigSign w d s1 s2, .sigVerify w d s1 s2, .halt w],
          ((postedBad s w).isSome = true → Traps i s w 0x08)
            ∧ (postedBad s w = none → dramHeld s = true → hasPosted s w = true → AwaitsDrain i s w))

/-- For every state in which a worker issues whose posted stores can drain: AT, ATT, WAIT for a tick count and WAIT for a duration first complete those stores and always complete: on a target that lies ahead, and WAIT for a duration always, they wait on it; on a target reached already AT, ATT and WAIT for a tick count follow their policy: RUN releases at once with LATE set and the lateness, in the units of the base, in the accumulator, DISCARD does so with DISC set, and NEXT_CYCLE, of AT alone (of the others it is RUN), waits for the next stamp with the target's fraction and keeps the lateness (that a tick count reached already is late in a domain whose EN is clear too is the model's choice, log entry 38); a nanosecond field of 10^9 or more makes ATT fault with TIME_FIELD. ACTION_DUE on a worker whose target is reached, of whatever base, with or without a periodic slot, late or not, releases every one-shot action of a lower index that is reached, and that worker; where no action stands before it in the order of R67, it releases that worker alone, with LATE and the lateness as they were noted, DISC clear, the handle of EVERY and the periodic slot's next occurrence. -/
def Obligations.Schedule : Prop :=
  ∀ (s : State) (w : Worker) (s1 : AReg) (t1 : TReg) (late : BitVec 2) (alat : AReg) (dom : Fin 4),
    let k := wkOf s w
    let p := aGet k s1
    let now := (phaseNow s).toNat
    let u := drainWorker s w
    let waits (i : Instr) (x : TimeWait) : Prop := Waits i s w u k (.time x)
    let releases (i : Instr) (lateness : Nat) : Prop := Ends i s fun t =>
      t = { Logged u t with wk := t.wk, cores := t.cores } ∧ (∀ v, v ≠ w → wkOf t v = { wkOf s v with state := (wkOf t v).state })
        ∧ wkOf t w = { k with
            pc := k.pc + 4, state := .ready, wait := none, issued := 0, run := k.run + 1, core := (wkOf t w).core
            a := k.a.set alat (BitVec.ofNat 64 lateness), sw := { k.sw with lead := isLead s, late := true, disc := late == 1 } }
    (Issues s w → Drains s w →
      (now < p.toNat → waits (.waitAt w s1 late alat) ⟨.phase p, late, alat, none, none⟩)
        ∧ (p.toNat ≤ now → late ≠ 2 → releases (.waitAt w s1 late alat) (now - p.toNat))
        ∧ (p.toNat ≤ now → late = 2 → waits (.waitAt w s1 late alat)
            ⟨.phase (nextFraction s (p.toNat % 2 ^ 24)), late, alat, some (BitVec.ofNat 64 (now - p.toNat)), none⟩)
        ∧ (badTriple k t1 = false → netNs s < tripleCount k t1 → waits (.waitAtt w t1 late alat) ⟨.net (tripleCount k t1), late, alat, none, none⟩)
        ∧ (badTriple k t1 = false → tripleCount k t1 ≤ netNs s → releases (.waitAtt w t1 late alat) (netNs s - tripleCount k t1))
        ∧ (badTriple k t1 = true → Traps (.waitAtt w t1 late alat) s w 0x06)
        ∧ waits (.waitDuration w s1 alat) ⟨.dur (clockNs s + p.toNat), 0, alat, none, none⟩
        ∧ ((tickCount s dom).toNat < p.toNat → waits (.waitTick w s1 dom late alat) ⟨.tick dom p, late, alat, none, none⟩)
        ∧ (p.toNat ≤ (tickCount s dom).toNat → releases (.waitTick w s1 dom late alat) ((tickCount s dom).toNat - p.toNat)))
      ∧ (∀ x : TimeWait, Running s → k.state = .waiting → k.wait = some (.time x) → reached s x.target = true →
          ((∀ n, x.target ≠ .slot n) → Ends (.actionDue w) s fun t => (wkOf t w).state = .ready
              ∧ ∀ v < w, ∀ y, (wkOf s v).state = .waiting → (wkOf s v).wait = some (.time y) → y.slot = none →
                (∀ n, y.target ≠ .slot n) → reached s y.target = true → (wkOf t v).state = .ready)
            ∧ ((∀ v y, timeWaitOf (wkOf s v) = some y → reached s y.target = true → dueRank w x ≤ dueRank v y) →
                Ends (.actionDue w) s fun t =>
                  t = setWk { Logged s t with slots := match x.target with
                        | .slot n => s.slots.set n ((s.slots[n]).map fun y => { y with next := y.next + y.interval })
                        | _ => s.slots } w { k with
                    state := .ready, wait := none, issued := 0
                    a := k.a.set x.alat (match x.late with
                      | some l => l
                      | none => 0)
                    g := match x.slot with
                      | some (n, d, past) => gWrite k.g d (BitVec.ofNat 32 (min past 0xFFFF * 65536 + n.val + 1))
                      | none => k.g
                    sw := { k.sw with late := x.late.isSome, disc := false } }))

/-- For every state in which a worker issues: once its posted stores can drain, EVERY with a handle that the worker does not hold takes a free slot, the lowest (the model's choice, log entry 19), with the first occurrence and the interval of its operands, the interval set to a bound of R129 that it passes; EVERY with the handle of a slot that it holds goes on with that slot. With the next occurrence ahead it waits on the slot; with one reached, every reached occurrence is consumed and, under RUN and DISCARD and on network time, the worker is released with LATE, with the lateness of the last one consumed, and with a handle whose high half counts the others; under NEXT_CYCLE on phase it waits for the next stamp with that fraction. With no free slot it faults with cause 0x07. EVERY.CANCEL frees the slot of the handle held, gives 0 and goes on, and does the same without a held handle. -/
def Obligations.Periodic : Prop :=
  ∀ (s : State) (w : Worker) (d : GReg) (s1 s2 alat : AReg) (t1 : TReg) (late : BitVec 2) (n : Fin 64), Issues s w →
    let k := wkOf s w
    let held (n : Fin 64) : Prop := (gGet k d).toNat % 128 = n.val + 1 ∧ ∃ x, s.slots[n] = some x ∧ x.owner = w
    let free : Prop := s.slots[n] = none ∧ ∀ m : Fin 64, m < n → s.slots[m] ≠ none
    let interval := (aGet k s2).toNat
    let bounded (net : Bool) : Nat :=
      if net then max 100000 (min interval 86400000000000) else max 65536 (min interval 281474976710656)
    let now (net : Bool) : Nat := if net then netNs s else (phaseNow s).toNat
    let handle (past : Nat) : Word := BitVec.ofNat 32 (min past 0xFFFF * 65536 + n.val + 1)
    let u (t : State) (x : Slot) : State := { Logged (drainWorker s w) t with
      slots := s.slots.set n (some x), folio := { s.folio with clamp := t.folio.clamp } }
    let goes (i : Instr) (x : Slot) (g : Vector Word 32) : Prop :=
      let past := (now x.net - x.next) / x.interval
      let last := x.next + past * x.interval
      let y : Slot := { x with next := last + x.interval }
      let waits (x : Slot) (y : TimeWait) : Prop := Ends i s fun t => OnlyWorker (u t x) t w ∧ (wkOf t w).state = .waiting
        ∧ WorkerIs s t w { k with pc := k.pc + 4, g := g, wait := some (.time y) }
      (now x.net < x.next → waits x ⟨.slot n, late, alat, none, some (n, d, 0)⟩)
        ∧ (x.next ≤ now x.net → late = 2 → x.net = false → waits y
            ⟨.phase (nextFraction s (last % 2 ^ 24)), late, alat, some (BitVec.ofNat 64 (now x.net - last)), some (n, d, past)⟩)
        ∧ (x.next ≤ now x.net → late ≠ 2 ∨ x.net = true → Ends i s fun t =>
            OnlyWorker (u t y) t w ∧ wkOf t w = { k with
              pc := k.pc + 4, state := .ready, wait := none, issued := 0, run := k.run + 1, core := (wkOf t w).core
              g := gWrite k.g d (handle past), a := k.a.set alat (BitVec.ofNat 64 (now x.net - last))
              sw := { k.sw with lead := isLead s, late := true, disc := late == 1 } })
    (Drains s w →
      ((∀ m, ¬held m) → free →
          goes (.every w d (.phase s1) s2 late alat) ⟨w, false, (aGet k s1).toNat, bounded false⟩ (gWrite k.g d (handle 0))
            ∧ (badTriple k t1 = false →
              goes (.every w d (.net t1) s2 late alat) ⟨w, true, tripleCount k t1, bounded true⟩ (gWrite k.g d (handle 0))))
        ∧ (∀ f x, held n → s.slots[n] = some x → goes (.every w d f s2 late alat) x k.g)
        ∧ ((∀ m, ¬held m) → badTriple k t1 = true → Traps (.every w d (.net t1) s2 late alat) s w 0x06)
        ∧ ((∀ m, ¬held m) → (∀ m : Fin 64, s.slots[m] ≠ none) → Traps (.every w d (.phase s1) s2 late alat) s w 0x07
            ∧ (badTriple k t1 = false → Traps (.every w d (.net t1) s2 late alat) s w 0x07)))
      ∧ (held n → BecomesIn (.everyCancel w d) s w { s with slots := s.slots.set n none } { k with g := gWrite k.g d 0, pc := k.pc + 4 })
      ∧ ((∀ m, ¬held m) → Gives (.everyCancel w d) s w d 0 k.sw)

/-- For every state: by a writer that R83 allows, START makes a STOPPED worker READY at its entry, RESTART makes a STOPPED or TRAPPED one READY there with its registers cleared and RESTARTED set, STOP leaves any loaded worker STOPPED with its registers kept and none of its slots held, and CLEAR empties its restarts, and by a worker that R83 does not allow each faults that worker with cause SCOPE; TRAP_RESTART after the pause does as RESTART and counts; HALT stops the worker past the instruction, once its posted stores can drain, and faults with cause MEM_UNCORR where one goes into a poisoned line, YIELD leaves it READY there, TRAP faults with the program's code, a word that spells no instruction with cause ILLEGAL, and TEMP gives the two temperatures of the measurement rounded to 0.25 °C. -/
def Obligations.WorkerCommands : Prop :=
  ∀ (s : State) (who : Writer) (w : Worker) (d : GReg) (code : BitVec 7) (x : Word) (board die : BitVec 16),
    let k := wkOf s w
    let kept : WorkerSt := { k with pc := k.entry, state := .ready, wait := none, flight := .none, issued := 0, restartAt := none, actDue := false }
    let fresh : WorkerSt := { kept with
      g := Vector.replicate 32 0, a := Vector.replicate 8 0, launched := false
      sw := ⟨false, false, false, false, false, false, false, true, false⟩ }
    let round (t : BitVec 16) : BitVec 16 := BitVec.ofInt 16 (25 * (if 0 ≤ t.toInt then (2 * t.toInt + 25) / 50 else -((2 * -t.toInt + 25) / 50)))
    let stops (i : Instr) (pc : Word) : Prop := Ends i s fun t =>
      (wkOf t w).state = .stopped ∧ (wkOf t w).pc = pc ∧ (wkOf t w).g = k.g ∧ (wkOf t w).a = k.a ∧ (wkOf t w).scratch = k.scratch
        ∧ (∀ n : Fin 64, ∀ y, t.slots[n] = some y → y.owner ≠ w) ∧ (∀ y ∈ t.snaps, y.reader ≠ .worker w) ∧ t.region = s.region ∧ t.bank = s.bank
    (Running s → wkAllowed s who w = true →
      (k.state = .stopped → exec (.wkStart who w) s = .next (setWk s w kept))
        ∧ (k.state = .stopped ∨ k.state = .trapped → exec (.wkRestart who w) s = .next (setWk s w fresh))
        ∧ (k.state ≠ .empty → stops (.wkStop who w) k.pc ∧ exec (.wkClearRestarts who w) s = .next (setWk s w { k with restarts := [] })))
      ∧ (∀ v, who = .worker v → Running s → eligible (wkOf s v) = true → wkAllowed s who w = false →
          ∀ i ∈ [Instr.wkStart who w, .wkStop who w, .wkRestart who w, .wkClearRestarts who w], Traps i s v 0x02)
      ∧ (Running s → k.state = .trapped → due s k.restartAt = true →
          exec (.trapRestartPauseEnd w) s = .next (setWk s w { fresh with restarts := (nowNs s :: k.restarts).take 16 }))
      ∧ (Issues s w → (Drains s w → stops (.halt w) (k.pc + 4))
          ∧ ((postedBad s w).isSome = true → Traps (.halt w) s w 0x08)
          ∧ (Ends (.yieldQ w) s fun t => OnlyWorker s t w ∧ (wkOf t w).state = .ready ∧ WorkerIs s t w { k with pc := k.pc + 4 })
          ∧ Traps (.trap w code) s w (BitVec.ofNat 8 (128 + code.toNat))
          ∧ (legalWord x = false → Traps (.illegalOpcode w x) s w 0x01)
          ∧ (s.therm.measEnd ≤ nowNs s →
              let v : Word := (round board) ++ (round die)
              BecomesIn (.temp w d board die) s w
                { s with therm := { s.therm with lastBoard := round board, lastDie := round die, measEnd := nowNs s + 50000 } }
                { k with g := gWrite k.g d v, sw := zn k.sw v, pc := k.pc + 4 })
          ∧ (nowNs s < s.therm.measEnd →
              let v : Word := s.therm.lastBoard ++ s.therm.lastDie
              Gives (.temp w d board die) s w d v (zn k.sw v)))

/-- For every state in which a worker issues whose posted stores can drain: SWP.ALL with a sweep (gs2, or the next one where gs2 is 0) that every mapped region of the mask has reached gives its number, with C set when all of them closed it complete, and waits otherwise; SWP.ANY gives the mask of the regions that have reached it and waits when there is none; with no mapped region in the mask both give 0; SWP.REVT with no later event held waits, and with one writes its 16-byte record to scratch and goes on; each FETCH copies its image to an aligned address of scratch and changes no other byte. Regions beyond the variant fault with cause SCOPE. -/
def Obligations.SweepWaits : Prop :=
  ∀ (s : State) (w : Worker) (d s1 s2 : GReg), Issues s w → Drains s w →
    let k := wkOf s w
    let mask : BitVec 16 := (gGet k s1).setWidth 16
    let m := if gGet k s2 = 0 then nextTarget s mask else gGet k s2
    let u := drainWorker s w
    let gives (i : Instr) (v : Word) (sw : Flags) : Prop := BecomesIn i s w u { k with g := gWrite k.g d v, sw := sw, pc := k.pc + 4 }
    let mapped := maskMapped s mask
    let inVariant := ∀ r < 16, mask.getLsbD r = true → r < s.nReg
    let reachedBy (r : Region) : Prop := regionReached s r m = true
    let r : Region := Fin.ofNat 16 (gGet k s1).toNat
    let a := (gGet k s2).toNat
    let sel := gGet k s1
    let dst := (gGet k d).toNat
    let bits : Word := BitVec.ofNat 32 (regionMask (mapped.filter fun r => regionReached s r m))
    (inVariant →
      (mapped ≠ [] → (∀ r ∈ mapped, reachedBy r) →
          gives (.swpAll w d s1 s2) m { zn k.sw m with c := mapped.all fun r => closedComplete s r m })
        ∧ ((∃ r ∈ mapped, ¬reachedBy r) →
          Waits (.swpAll w d s1 s2) s w u k (.swpAll d mask (BitVec.ofNat 16 (regionMask mapped)) m))
        ∧ ((∃ r ∈ mapped, reachedBy r) → gives (.swpAny w d s1 s2) bits (zn k.sw bits))
        ∧ (mapped ≠ [] → (∀ r ∈ mapped, ¬reachedBy r) → Waits (.swpAny w d s1 s2) s w u k (.swpAny d mask m))
        ∧ (mapped = [] → gives (.swpAll w d s1 s2) 0 { zn k.sw (0 : Word) with c := true } ∧ gives (.swpAny w d s1 s2) 0 (zn k.sw (0 : Word))))
      ∧ (¬inVariant → Traps (.swpAll w d s1 s2) s w 0x02 ∧ Traps (.swpAny w d s1 s2) s w 0x02)
      ∧ (r.val < s.nReg → a % 8 = 0 → 0x40000000 ≤ a → a + 16 ≤ 0x40004000 → badPlace s w (.scratch (a - 0x40000000)) 8 = false →
        (revtDeliver s w d r (gGet k s2) = none → Waits (.swpRevt w d s1 s2) s w u k (.swpRevt d r (gGet k s2)))
          ∧ ((revtDeliver s w d r (gGet k s2)).isSome = true → Ends (.swpRevt w d s1 s2) s fun t =>
              OnlyWorker u t w ∧ (wkOf t w).pc = k.pc + 4 ∧ (wkOf t w).a = k.a
                ∧ ∃ e ∈ (rgOf s r).events, memNat k.scratch (a - 0x40000000) 8 < e.seq.toNat
                  ∧ (memoriesWf s → Overwrites k.scratch (wkOf t w).scratch (a - 0x40000000)
                      (bytesLE 8 e.seq.toNat ++ bytesLE 2 e.code.toNat ++ bytesLE 2 e.scope.toNat ++ bytesLE 4 e.args.toNat))))
      ∧ ∀ p ∈ [(Instr.fetchVolt w d s1, fetchBlocks s sel 0, true), (.fetchTemp w d s1, fetchBlocks s sel 1, true),
            (.fetchNode w d s1, fetchBlocks s sel 2, true), (.fetchHead w d s1, fetchHeadBytes s sel, true),
            (.fetchPack w d s1, fetchPackBytes s sel, false)],
          (p.2.2 = true → (selRegion sel).val < s.nReg) → dst % 8 = 0 → 0x40000000 ≤ dst → dst + p.2.1.length ≤ 0x40004000 →
          BecomesIn p.1 s w { s with free := s.free + 16 } { k with scratch := memWrite k.scratch (dst - 0x40000000) p.2.1, pc := k.pc + 4 }

/-- For every state in which a worker issues: CMB with a well-formed descriptor in scratch whose range and tables the worker may use, and with a launch entry free, queues the launch under a ticket numbered by its event and gives the ticket; with no entry free it gives 0 and queues nothing; a malformed descriptor faults with cause 0x0A. CMBW, once the worker's posted stores can drain, of a held completion gives its word, of a ticket still running waits, of another ticket gives 0xFE or 0xFF, and of 0 waits while a launch runs and goes on when none does. -/
def Obligations.CombLaunches : Prop :=
  ∀ (s : State) (w : Worker) (d s1 : GReg), Issues s w →
    let k := wkOf s w
    let a := (gGet k s1).toNat
    let b := memRead k.scratch (a - 0x40000000) 32
    let ticket := ticketOf w k.launches
    let l := launchOf s w b ticket
    let t1 := gGet k s1
    let u := drainWorker s w
    let answers (v : Word) : Prop := BecomesIn (.cmbw w d s1) s w u { k with g := gWrite k.g d v, sw := zn k.sw v, pc := k.pc + 4 }
    let placed := a % 8 = 0 ∧ 0x40000000 ≤ a ∧ a + 32 ≤ 0x40004000 ∧ badPlace s w (.scratch (a - 0x40000000)) 32 = false
    let allowed := badDescriptor b l = false ∧ rangeOk s k.scope l = true ∧ badTable s w l = none
    (placed → allowed → entryFree s k = true → Ends (.cmb w d s1) s fun t =>
        OnlyWorker { Logged s t with comb := { s.comb with queue := s.comb.queue ++ [{ l with seq := t.arb.seq }] } } t w
          ∧ WorkerIs s t w { k with
              tickets := k.tickets ++ [ticket], launched := true, launches := k.launches + 1, g := gWrite k.g d ticket
              sw := zn k.sw ticket, pc := k.pc + 4 })
      ∧ (placed → allowed → entryFree s k = false → Gives (.cmb w d s1) s w d 0 (zn k.sw (0 : Word)))
      ∧ (placed → badDescriptor b l = true → Traps (.cmb w d s1) s w 0x0A)
      ∧ (Drains s w →
        (∀ v, t1 ≠ 0 → (k.done.find? fun x => x.1 == t1) = some (t1, v) → answers v)
          ∧ (t1 ≠ 0 → (k.done.find? fun x => x.1 == t1) = none → t1 ∈ k.tickets → Waits (.cmbw w d s1) s w u k (.comb d t1 0 false))
          ∧ (t1 ≠ 0 → (k.done.find? fun x => x.1 == t1) = none → t1 ∉ k.tickets → answers (if wasTicket k w t1 then 0xFE else 0xFF))
          ∧ (t1 = 0 → k.tickets ≠ [] → Waits (.cmbw w d s1) s w u k (.comb d 0 0 false))
          ∧ (t1 = 0 → k.tickets = [] → answers (if k.launched then 0 else 0xFF)))

/-- For every running state with a launch granted next, the row of that launch's kernel runs one segment of 64 elements of it. After the last segment, and where a line is poisoned or the kernel ends early, the launch leaves the queue and the worker holds its completion word, with the number of elements left out in [31:16] and the status 0 done or 1 poisoned in [7:0]; else the launch stays in its place of the queue with the next segment to run. -/
def Obligations.KernelsComplete : Prop :=
  ∀ (s : State) (l : Launch), Running s → granted s = some l →
    let ends (t : State) : Prop :=
      ((∀ x ∈ t.comb.queue, x.ticket ≠ l.ticket)
          ∧ ∃ n st, n ≤ 0xFFFF ∧ st ≤ 1 ∧ (wkOf t l.worker).done.head? = some (l.ticket, BitVec.ofNat 32 (n * 65536 + st)))
        ∨ (64 * (l.seg + 1) < l.count ∧ ∃ x ∈ t.comb.queue, x.ticket = l.ticket ∧ x.seq = l.seq ∧ x.seg = l.seg + 1)
    let runs (i : Instr) (code : Nat) (f : State → Launch → KRun) : Prop :=
      l.kernel.toNat = code → exec i s = .next (segDone (f s l)) ∧ ends (segDone (f s l))
    runs .coul 0x01 coulRun ∧ runs .ocv 0x02 (trusting ocvRun) ∧ runs .zcomp 0x03 zcompRun ∧ runs .rlsz 0x04 (trusting rlszRun)
      ∧ runs .stepfit 0x05 stepfitRun ∧ runs .socf 0x06 socfRun ∧ runs .limp 0x07 limpRun ∧ runs .balp 0x08 balpRun
      ∧ runs .stat 0x09 statRun ∧ runs .vadd 0x20 vaddRun ∧ runs .vmul 0x21 vmulRun ∧ runs .vmadd 0x22 vmaddRun
      ∧ runs .vmin 0x23 (fun s l => vecPick s l fun a b => decide (a < b))
      ∧ runs .vmax 0x24 (fun s l => vecPick s l fun a b => decide (b < a))
      ∧ runs .vinterp 0x25 vinterpRun ∧ runs .vcmpm 0x26 vcmpmRun

/-- For every running state with clean shared tables in canonical form and a launch granted next whose tables lie in the shared tables: VADD, VMUL and VMADD write for every element of the segment the sum, the product and the product with PARAM0 plus the second source, wrapped to 32 bits, or with Q set rounded to nearest and saturated, all from the sources as they stood before the segment, and every byte of the tables outside the segment's part of the destination reads as before. -/
def Obligations.VectorKernels : Prop :=
  ∀ (s : State) (l : Launch), Running s → granted s = some l → memWf s.mem.tables = true → s.mem.badTable = [] →
    let base (a : Word) : Nat := a.toNat - 0x50000000
    let inTables (a : Word) : Prop := 0x50000000 ≤ a.toNat
    let first := 64 * l.seg
    let last := min l.count (64 * l.seg + 64)
    let elem (a : Word) (i : Nat) : Int := (BitVec.ofNat 32 (memNat s.mem.tables (base a + 4 * i) 4)).toInt
    let q := l.param1.getLsbD 0
    let nearest (x : Int) : Int := if 0 ≤ x then (2 * x + 65536) / 131072 else -((2 * -x + 65536) / 131072)
    let out (x : Int) : Word := BitVec.ofInt 32 (if q then clampInt (-(2 ^ 31)) (2 ^ 31 - 1) x else x)
    let writes (i : Instr) (f : Nat → Word) : Prop := Ends i s fun t =>
      (∀ j, first ≤ j → j < last → memNat t.mem.tables (base l.dst + 4 * j) 4 = (f j).toNat)
        ∧ ∀ x, x < base l.dst + 4 * first ∨ base l.dst + 4 * last ≤ x → memGet t.mem.tables x = memGet s.mem.tables x
    first < l.count → inTables l.srcA → inTables l.srcB → inTables l.dst →
      (l.kernel = 0x20 → writes .vadd fun j => out (elem l.srcA j + elem l.srcB j))
        ∧ (l.kernel = 0x21 → writes .vmul fun j => out (if q then nearest (elem l.srcA j * elem l.srcB j) else elem l.srcA j * elem l.srcB j))
        ∧ (l.kernel = 0x22 → writes .vmadd fun j => out (if q then nearest (elem l.srcA j * l.param0.toInt + elem l.srcB j * 65536)
            else elem l.srcA j * l.param0.toInt + elem l.srcB j))

/-- For every running state with clean shared tables in canonical form and a launch granted next of VMIN or VMAX, whose tables lie in the shared tables and which has an element that counts in its segment or has found one before (SKIP leaves out 0x8000_0000): after the segment the eight bytes at DST hold the least or the greatest of the elements counted so far and the lowest index at which it stands, the launch, while segments are left, carries that pick on, and every other byte of the tables reads as before. -/
def Obligations.ExtremeKernels : Prop :=
  ∀ (s : State) (l : Launch), Running s → granted s = some l → memWf s.mem.tables = true → s.mem.badTable = [] →
    let base (a : Word) : Nat := a.toNat - 0x50000000
    let elem (i : Nat) : Int := (BitVec.ofNat 32 (memNat s.mem.tables (base l.srcA + 4 * i) 4)).toInt
    let counted (i : Nat) (v : Int) : Prop := (i, v) ∈ l.acc
      ∨ (64 * l.seg ≤ i ∧ i < min l.count (64 * l.seg + 64) ∧ ¬(l.param1.getLsbD 1 = true ∧ elem i = -(2 ^ 31)) ∧ v = elem i)
    let finds (i : Instr) (better : Int → Int → Prop) : Prop := Ends i s fun t =>
      (∃ j v, counted j v ∧ (∀ x y, counted x y → ¬better y v) ∧ (∀ x, counted x v → j ≤ x)
          ∧ memNat t.mem.tables (base l.dst) 4 = (BitVec.ofInt 32 v).toNat ∧ memNat t.mem.tables (base l.dst + 4) 4 = j
          ∧ (64 * (l.seg + 1) < l.count → ∃ x ∈ t.comb.queue, x.seq = l.seq ∧ x.acc = [(j, v)]))
        ∧ ∀ x, x < base l.dst ∨ base l.dst + 8 ≤ x → memGet t.mem.tables x = memGet s.mem.tables x
    0x50000000 ≤ l.srcA.toNat → 0x50000000 ≤ l.dst.toNat → 64 * l.seg < l.count → l.count < 2 ^ 32 →
      l.acc.length ≤ 1 → (∀ x ∈ l.acc, x.1 < 64 * l.seg) → (∃ i v, counted i v) →
      (l.kernel = 0x23 → finds .vmin fun a b => a < b) ∧ (l.kernel = 0x24 → finds .vmax fun a b => b < a)

/-- For every state: an Isken OUT of OFF, ON, PWM or CLEAR_LATCH on a channel that the worker's scope owns gives the status of R146; accepted, it takes the command on that channel alone (OFF clears command, duty and latch, ON and PWM set the command and PWM the duty, CLEAR_LATCH ends the latch); refused, no channel changes. The same from an OPERATOR's write of CH_CMD, with the status in BANK_LAST. A channel not owned faults with cause SCOPE. -/
def Obligations.SwitchOutputs : Prop :=
  ∀ (s : State) (w : Worker) (d s1 s2 : GReg) (sess : Session) (c : Chan) (duty : BitVec 16),
    let k := wkOf s w
    let cw : Chan := Fin.ofNat 64 (gGet k s1).toNat
    let dutyW : BitVec 16 := (gGet k s2 >>> 16).setWidth 16
    let rows (src : OutSrc) : List (Instr × Nat) := [(.outOff src, 0), (.outOn src, 1), (.outPwm src, 2), (.outClearLatch src, 3)]
    let taken (x y : ChanSt) (cmd : Nat) (duty : BitVec 16) : Prop := match cmd with
      | 0 => y.cmd = 0 ∧ y.duty = 0 ∧ y.latched = false ∧ y.drive = 0 ∧ y.pauseEnd = none ∧ y.attempts = 0
      | 1 => y.cmd = 1 ∧ y.duty = x.duty ∧ y.latched = x.latched
      | 2 => y.cmd = 2 ∧ y.duty = duty ∧ y.latched = x.latched
      | _ => y.cmd = x.cmd ∧ y.duty = x.duty ∧ y.latched = false ∧ y.attempts = 0
    let others (t : State) (c : Chan) : Prop := ∀ e, e ≠ c → chOf t e = chOf s e
    (Issues s w → hasChan s cw = true → ownsChan s k.scope cw = true → ∀ p ∈ rows (.isken w d s1 s2), (gGet k s2).toNat % 4 = p.2 →
        Ends p.1 s fun t => OnlyWorker { Logged s t with bank := { s.bank with ch := t.bank.ch } } t w ∧ others t cw
          ∧ (let st : Word := BitVec.ofNat 32 (outStatus s cw p.2)
             WorkerIs s t w { k with g := gWrite k.g d st, sw := zn k.sw st, pc := k.pc + 4 })
          ∧ (if outStatus s cw p.2 = 0 then taken (chOf s cw) (chOf t cw) p.2 dutyW else chOf t cw = chOf s cw))
      ∧ (Issues s w → (hasChan s cw && ownsChan s k.scope cw) = false → ∀ p ∈ rows (.isken w d s1 s2), (gGet k s2).toNat % 4 = p.2 → Traps p.1 s w 0x02)
      ∧ (Running s → isOperator s sess = true → hasChan s c = true → ∀ p ∈ rows (.host sess c duty),
        Ends p.1 s fun t =>
          t = { Logged s t with bank := { s.bank with ch := t.bank.ch, lastCh := c, lastStatus := BitVec.ofNat 8 (outStatus s c p.2) } }
            ∧ others t c ∧ (if outStatus s c p.2 = 0 then taken (chOf s c) (chOf t c) p.2 duty else chOf t c = chOf s c))

/-- For every state in which a worker issues a CTC step on a region of its scope: the step takes the region's next ticket, gives region and ticket in g[d], and the region's ticket advances past 0; a region outside the scope faults with cause SCOPE. While the sever line is high, the module does not yield and no step is in progress: CLOSE_NEG of an OPEN region enters NEG_CLOSED with its negative contactor commanded, PRECHARGE of a NEG_CLOSED one, but for one whose full order queue refuses its stream, and CLOSE_POS of a PRECHARGED one become the step in progress, WELD_CHECK of an OPEN one starts the check, RESTART of an ISOLATED one enters OPEN when the conditions of R338 hold, OPEN_PLANNED of a CLOSED one enters OPENING, OPEN_EMERGENCY enters WELD_CHECK, and OPEN_PRE of a CLOSED_PRE one enters CLOSED. -/
def Obligations.ContactorSteps : Prop :=
  ∀ (s : State) (w : Worker) (d s1 s2 : GReg), Issues s w →
    let k := wkOf s w
    let r : Region := Fin.ofNat 16 (gGet k s1).toNat
    let code := (gGet k s2).toNat % 16
    let e := reOf s r
    let rows : List (Instr × Nat) := [(.closeNeg w d s1 s2, 1), (.precharge w d s1 s2, 2), (.closePos w d s1 s2, 3), (.openPre w d s1 s2, 4),
      (.openPlanned w d s1 s2, 5), (.openEmergency w d s1 s2, 6), (.ctcRestart w d s1 s2, 7), (.weldCheck w d s1 s2, 8)]
    let v : Word := BitVec.ofNat 32 (r.val * 65536 + e.nextTicket.toNat)
    let quiet := s.sever.lineLow = false ∧ isYielded s = false ∧ e.step = none ∧ opensAsSever s = false
    let given := BitVec.ofNat 4 code
    let enters (t : State) : Prop := match code, e.state with
      | 1, .opened => (reOf t r).state = .negClosed ∧ (reOf t r).coilN = true
      | 2, .negClosed => (reOf t r).state = .negClosed ∧ (if ordersFull s r then (reOf t r).step = none ∧ (reOf t r).pre = none
          else (reOf t r).step = some (given, e.nextTicket) ∧ (reOf t r).pre.isSome = true)
      | 3, .precharged => (reOf t r).state = .precharged ∧ (reOf t r).step = some (given, e.nextTicket)
      | 4, .closedPre => (reOf t r).state = .closed ∧ (reOf t r).coilP = false
      | 5, .closed => (reOf t r).state = .opening ∧ (reOf t r).step = some (given, e.nextTicket)
      | 6, .closed => (reOf t r).state = .weldCheck ∧ (reOf t r).coilS = false ∧ (reOf t r).coilP = false ∧ (reOf t r).negOffAt.isSome = true
      | 7, .isolated => (reOf t r).state = (if restartOk s r then .opened else .isolated)
      | 8, .opened => (reOf t r).weld.isSome = true ∧ (reOf t r).step = some (given, e.nextTicket)
      | _, _ => True
    ∀ p ∈ rows, code = p.2 →
      ((hasRegion s r && coversRegion k.scope r.val) = false → Traps p.1 s w 0x02)
        ∧ (hasRegion s r = true → coversRegion k.scope r.val = true → Ends p.1 s fun t =>
            WorkerIs s t w { k with g := gWrite k.g d v, sw := zn k.sw v, pc := k.pc + 4 }
              ∧ (reOf t r).nextTicket = (if e.nextTicket = 0xFFFF then 1 else e.nextTicket + 1)
              ∧ t.mem = s.mem ∧ t.time = s.time ∧ t.wheel = s.wheel
              ∧ (quiet → enters t))

/-- For every state in which a worker issues: qin.count, qin.speed, qin.stat and qin.index give the count, the speed, the state word and the latched index of the input that gs1 names, with Z and N of it; qin.cfg by a chip or pair worker puts the configuration in force and gives it, and by another worker faults with cause SCOPE. Every other input stays as it is. -/
def Obligations.PositionReads : Prop :=
  ∀ (s : State) (w : Worker) (d s1 s2 : GReg), Issues s w →
    let k := wkOf s w
    let n : Fin 8 := Fin.ofNat 8 (gGet k s1).toNat
    let q := qpOf s n
    let reads (i : Instr) (v : Word) : Prop := Gives i s w d v (zn k.sw v)
    let given := gGet k s2
    let kept : Word := given &&& 0xFFEFFFFF
    let v : Word := if kept.getLsbD 23 ∧ kept.getLsbD 22 then kept &&& 0xFF3FFFFF else kept
    reads (.qinCount w d s1) q.count ∧ reads (.qinSpeed w d s1) (qpSpeed s n) ∧ reads (.qinStat w d s1) (qpStat q)
      ∧ reads (.qinIndex w d s1) q.index
      ∧ (chipOrPair k.scope = true → Ends (.qinCfg w d s1 s2) s fun t =>
          OnlyWorker { Logged s t with qp := t.qp, folio := { s.folio with clamp := t.folio.clamp } } t w
            ∧ WorkerIs s t w { k with g := gWrite k.g d v, sw := zn k.sw v, pc := k.pc + 4 }
            ∧ (qpOf t n).cfg = v ∧ ∀ m, m ≠ n → qpOf t m = qpOf s m)
      ∧ (chipOrPair k.scope = false → Traps (.qinCfg w d s1 s2) s w 0x02)

/-- For every state in which a worker issues: CTX of a valid frame on an open port with room queues it behind the port's frames and gives 0, or 2 while the port recovers from bus-off (which of the two in a mirror, whose lead drives the bus, is a free value, log entry 33); with the queue full it gives 1 and queues nothing; an invalid frame or a closed port faults with cause 0x0B. CRX, once the worker's posted stores can drain, with a frame held takes the earliest into scratch and gives 1, CRX.NB without one gives 0 and CRX waits; of a buffer that the host consumes it faults with cause 0x0B. EVT takes the next event number and gives whether the record entered. -/
def Obligations.BusAndLog : Prop :=
  ∀ (s : State) (w : Worker) (d s1 s2 : GReg) (keep : Bool), Issues s w →
    let k := wkOf s w
    let n : Fin 4 := Fin.ofNat 4 (gGet k s1).toNat
    let c := canOf s n
    let a := (gGet k s2).toNat
    let f := frameOfImage (memRead k.scratch (a - 0x40000000) 72)
    let sent : CanFrame := if cfgNat s (0x5002 + 256 * n.val) = 0 then { f with brs := false } else f
    let buf : Option (Fin 64) := if (gGet k s1).getLsbD 16 then none else some (Fin.ofNat 64 ((gGet k s1).toNat / 256 % 256))
    let inScratch (len : Nat) : Prop := a % 8 = 0 ∧ 0x40000000 ≤ a ∧ a + len ≤ 0x40004000
    let clean := badPlace s w (.scratch (a - 0x40000000)) 72 = false
    let ends (i : Instr) (v : Word) (u : State → State) : Prop := Ends i s fun t => OnlyWorker (u t) t w
      ∧ WorkerIs s t w { k with g := gWrite k.g d v, sw := zn k.sw v, pc := k.pc + 4 }
    let mirror : Bool := s.twin.role == .mirror
    let waiting : Bool := if mirror then (Config.freeWord s.free).getLsbD 0 else c.state == .busOff || c.state == .recovering
    let own : Nat := if mirror then s.free + 1 else s.free
    let log := number s
    let u := drainWorker s w
    let code := programCode (gGet k s1) keep
    (chipOrPair k.scope = true → inScratch 72 → clean →
      (badFrame f = false → portOpen c = true → c.tx.length < 32 →
          ends (.ctx w d s1 s2) (if waiting then 2 else 0) (fun t => { Logged s t with can := s.can.set n (canOf t n), free := own + 1 })
            ∧ (Ends (.ctx w d s1 s2) s fun t => (canOf t n).tx = c.tx ++ [⟨sent, BitVec.ofNat 64 own, .ctx, false⟩]))
        ∧ (badFrame f = false → portOpen c = true → 32 ≤ c.tx.length → ends (.ctx w d s1 s2) 1 fun t => Logged s t)
        ∧ (badFrame f = true ∨ portOpen c = false → Traps (.ctx w d s1 s2) s w 0x0B))
      ∧ (inScratch 88 → Drains s w →
        (∀ nb, buf.any (bufHost c) = true → Traps (.crx w d s1 s2 nb) s w 0x0B)
          ∧ (buf.any (bufHost c) = false →
            (∀ e nb, crxFrame c buf = some e → BecomesIn (.crx w d s1 s2 nb) s w { u with can := s.can.set n (consume (showLoss c e.buf) e) }
                { k with scratch := memWrite k.scratch (a - 0x40000000) (imageOf e (lostWith c e)), g := gWrite k.g d 1, sw := zn k.sw (1 : Word), pc := k.pc + 4 })
              ∧ (crxFrame c buf = none →
                BecomesIn (.crx w d s1 s2 true) s w u { k with g := gWrite k.g d 0, sw := zn k.sw (0 : Word), pc := k.pc + 4 })
              ∧ (crxFrame c buf = none → Waits (.crx w d s1 s2 false) s w { u with free := s.free + 1 } k
                  (.can d n buf (gGet k s2) (BitVec.ofNat 64 s.free)))))
      ∧ (ends (.evt w d s1 s2 keep) (if tokenHeld log code then 1 else 0) (fun t => Logged s t)
          ∧ (mramWear log < 80000000 → Ends (.evt w d s1 s2 keep) s fun t => t.arb = log.arb))

/-- For every state in which a pair worker issues: MSTAT gives the twin's presence, LEAD, YIELDED, agreement and the mismatch count; with the twin present, MRECV of a held message writes it to scratch and gives its length, and waits without one; MSEND of a range in scratch sends the bytes and gives 0 while fewer than 8 messages have gone to that worker; MYIELD gives 0 on a module in role LEAD with no hand-over under way, which sends the grant when a healthy mirror can take it and no transfer runs, and 1 in any other role and while a hand-over is under way. Without a twin MSEND, MRECV and MYIELD fault with cause 0x0C, and for a worker of another scope all four with cause SCOPE. -/
def Obligations.PairInstructions : Prop :=
  ∀ (s : State) (w : Worker) (d s1 s2 : GReg), Issues s w →
    let k := wkOf s w
    let bit (b : Bool) (n : Nat) : Nat := if b then n else 0
    let stat : Word := BitVec.ofNat 32 (bit s.twin.present 1 + bit (isLead s) 2 + bit (isYielded s) 4 + bit s.twin.statesMatch 8 + 256 * min 255 s.twin.mismatch)
    let len := clampNat 1 64 (gGet k s2).toNat
    let a := (gGet k s1).toNat
    let inScratch (n : Nat) : Prop := 0x40000000 ≤ a ∧ a + n ≤ 0x40004000
    let ends (i : Instr) (v : Word) (u : State → State) : Prop := Ends i s fun t => OnlyWorker (u t) t w
      ∧ WorkerIs s t w { k with g := gWrite k.g d v, sw := zn k.sw v, pc := k.pc + 4 }
    let all : List Instr := [.msend w d s1 s2, .mrecv w d s1, .myield w d]
    (isPair k.scope = false → Traps (.mstat w d) s w 0x02 ∧ ∀ i ∈ all, Drains s w → Traps i s w 0x02)
      ∧ (isPair k.scope = true → s.twin.present = false → ∀ i ∈ all, Drains s w → Traps i s w 0x0C)
      ∧ (isPair k.scope = true → Gives (.mstat w d) s w d stat (zn k.sw stat))
      ∧ (isPair k.scope = true → s.twin.present = true →
        (inScratch len → badPlace s w (.scratch (a - 0x40000000)) len = false → sentTo s w < 8 →
            ends (.msend w d s1 s2) 0 (fun t => { Logged s t with free := s.free + 1, twin := { s.twin with out := t.twin.out, peerMail := t.twin.peerMail } })
              ∧ Ends (.msend w d s1 s2) s fun t => t.twin.out.getLast? = some (.mirMsg w (memRead k.scratch (a - 0x40000000) len)))
          ∧ (inScratch 64 → Drains s w → ∀ x, (s.twin.mail.find? fun y => y.1 == w) = some x →
              BecomesIn (.mrecv w d s1) s w { drainWorker s w with twin := { s.twin with mail := s.twin.mail.erase x } }
                (let v : Word := BitVec.ofNat 32 x.2.length
                 { k with scratch := memWrite k.scratch (a - 0x40000000) x.2, g := gWrite k.g d v, sw := zn k.sw v, pc := k.pc + 4 }))
          ∧ (inScratch 64 → (s.twin.mail.find? fun y => y.1 == w) = none → Drains s w →
              Waits (.mrecv w d s1) s w (drainWorker s w) k (.twin d (gGet k s1)))
          ∧ (s.twin.role = .lead → s.twin.grant = none →
              ends (.myield w d) 0 (fun t => { Logged s t with twin := { s.twin with out := t.twin.out, grant := t.twin.grant } })
                ∧ Ends (.myield w d) s fun t => t.twin.grant.isSome = (canYield s && !s.twin.xferBusy))
          ∧ (s.twin.role ≠ .lead ∨ s.twin.grant.isSome = true → Gives (.myield w d) s w d 1 (zn k.sw (1 : Word))))

/-- For every state in which a chip or pair worker issues whose posted stores can drain: HASH, SIGN and VERIFY whose ranges are readable and lie, for a result, in scratch, and whose slot may do it, put one request with the bytes read at the end of the engine's queue and wait; a slot that may not faults with cause 0x0D, and VERIFY with the twin's key while there is none with cause 0x0C. CRYPTO_COMPLETE, while the engine's partition serves, of a hash writes the SHA-256 digest to the worker's scratch and releases it, of a verification sets Z to the outcome. -/
def Obligations.Signing : Prop :=
  ∀ (s : State) (w : Worker) (d s1 s2 : GReg) (rest : List CryptoReq) (q : CryptoReq),
    let k := wkOf s w
    let src := (gGet k s1).toNat
    let dst := (gGet k d).toNat
    let len := (gGet k s2).toNat
    let slot : Byte := (gGet k s2).setWidth 8
    let inScratch (a n : Nat) : Prop := 0x40000000 ≤ a ∧ a + n ≤ 0x40004000
    let reads (a n : Nat) : Prop := inScratch a n ∧ badPlace s w (.scratch (a - 0x40000000)) n = false
    let bytes (a n : Nat) : List Byte := memRead k.scratch (a - 0x40000000) n
    let asks (i : Instr) (op : Fin 3) (data sig : List Byte) (slot : Byte) : Prop := Waits i s w
      { drainWorker s w with crypto := s.crypto ++ [⟨some w, decide (k.prio.toNat ≤ 1), s.arb.seq, op, d, gGet k d, data, sig, slot, .sig⟩] } k .crypto
    (Issues s w → chipOrPair k.scope = false → Drains s w →
        Traps (.sigHash w d s1 s2) s w 0x02 ∧ Traps (.sigSign w d s1 s2) s w 0x02 ∧ Traps (.sigVerify w d s1 s2) s w 0x02)
      ∧ (Issues s w → chipOrPair k.scope = true → Drains s w →
        (reads src len → inScratch dst 32 → asks (.sigHash w d s1 s2) 0 (bytes src len) [] 0)
          ∧ (slot = 0x01 ∨ slot = 0x02 → reads src 32 → inScratch dst 384 → asks (.sigSign w d s1 s2) 1 (bytes src 32) [] slot)
          ∧ (slot ≠ 0x01 → slot ≠ 0x02 → Traps (.sigSign w d s1 s2) s w 0x0D)
          ∧ (slot ∈ [(0x01 : Byte), 0x02, 0x10, 0x11] → reads src 32 → reads dst 384 →
              asks (.sigVerify w d s1 s2) 2 (bytes src 32) (bytes dst 384) slot)
          ∧ (slot ∉ [(0x01 : Byte), 0x02, 0x10, 0x11, 0x20] → Traps (.sigVerify w d s1 s2) s w 0x0D)
          ∧ (slot = 0x20 → s.twin.capKey = none → Traps (.sigVerify w d s1 s2) s w 0x0C))
      ∧ (Running s → s.crypto = q :: rest → q.job = .sig → partDown s 6 = true → exec .cryptoComplete s = .next s)
      ∧ (Running s → s.crypto = q :: rest → q.job = .sig → partDown s 6 = false → q.worker = some w → k.state = .waiting →
        (q.op = 0 → Ends .cryptoComplete s fun t =>
            t.crypto = cryptoGrant rest ∧ wkOf t w = { k with
              scratch := memWrite k.scratch (q.dst.toNat % 16384) (sha256 q.data), state := .ready, wait := none, issued := 0 }
              ∧ ∀ v, v ≠ w → wkOf t v = wkOf s v)
          ∧ (q.op = 2 → Ends .cryptoComplete s fun t =>
            t.crypto = cryptoGrant rest ∧ wkOf t w = { k with state := .ready, wait := none, issued := 0, sw := { k.sw with z := (wkOf t w).sw.z } }
              ∧ ((wkOf t w).sw.z = true ↔ ∃ pub, slotKey s q.slot = some pub ∧ Config.rsaVerify pub q.data q.sig = true)))

/-- For every running state: at the end of a cycle the count rises by one, the next cycle begins where the last ended, and its length is nominal in FREE, the measured one in HOLD and within 5 % of nominal in ACQUIRE and LOCKED, and what it corrects leaves the phase error; a pulse on GRIDSYNC as source is accepted in LOCKED when it lies within 5 % of a nominal cycle of the wheel, the error left being what the correction under way does not remove, and counted as rejected otherwise; a phase message within the last second is accepted in LOCKED by the same window, the cycle measured from the last accepted reference, or counted as rejected; the first reference after SRC changes is neither accepted nor rejected; a message whose nanoseconds reach 10^9 is rejected; after the loss time LOCKED and ACQUIRE become HOLD, or FREE when WHEEL_HOLD is 0, and after WHEEL_HOLD HOLD becomes FREE; a write of SRC takes effect and a write of NOMINAL is held for the next cold start. -/
def Obligations.PhaseWheel : Prop :=
  ∀ (s : State) (who : Writer) (src : BitVec 2) (nominal : Bool) (ns : BitVec 32), Running s →
    let v := s.wheel
    let nom : Nat := if v.nominal then 16666667 else 20000000
    let hold := cfgNat s 0x0005
    let leaves (i : Instr) (to' : WheelState) : Prop := Ends i s fun t => t = { Logged s t with wheel := t.wheel } ∧ t.wheel.state = to' ∧ t.wheel.count = v.count
    let e := phaseError s ((nowNs s - 2000 : Nat) : Int)
    let meas (t : Nat) : Nat := match v.ref with
      | some p => measured s p t
      | none => v.meas
    let left (t : Nat) : Int := phaseError s (t : Int) - slipSince v (meas t) (t : Int)
    (v.cycStart + v.cycLen ≤ nowNs s → Ends .wheelCycleBoundary s fun t =>
        t = { s with wheel := t.wheel } ∧ t.wheel.count = v.count + 1 ∧ t.wheel.cycStart = v.cycStart + v.cycLen ∧ t.wheel.state = v.state
          ∧ t.wheel.err = v.err - ((t.wheel.cycLen : Int) - v.meas)
          ∧ (match v.state with
             | .free => t.wheel.cycLen = nom
             | .hold => t.wheel.cycLen = v.meas
             | _ => nom * 95 / 100 ≤ t.wheel.cycLen ∧ t.wheel.cycLen ≤ nom * 105 / 100))
      ∧ (cfgNat s 0x0001 = 1 → v.prev = none → exec .gridsyncPulse s = .next { s with wheel := { v with
            prev := some (nowNs s - 2000), ref := some (nowNs s - 2000) } })
      ∧ (cfgNat s 0x0001 = 1 → v.state = .locked → v.prev ≠ none →
          (20 * e.natAbs ≤ nom → Ends .gridsyncPulse s fun t => t = { Logged s t with wheel := t.wheel } ∧ t.wheel.lastAccept = nowNs s - 2000
              ∧ t.wheel.err = left (nowNs s - 2000) ∧ t.wheel.meas = meas (nowNs s - 2000) ∧ t.wheel.rejects = v.rejects ∧ t.wheel.state = .locked)
            ∧ (nom < 20 * e.natAbs → Ends .gridsyncPulse s fun t => t = { Logged s t with wheel := t.wheel } ∧ t.wheel.lastAccept = v.lastAccept
              ∧ t.wheel.rejects = min 0xFFFF (v.rejects + 1) ∧ t.wheel.acceptRun = 0 ∧ t.wheel.state = .locked))
      ∧ (chipWriter s who = true → cfgNat s 0x0001 = 2 → 1000000000 ≤ ns.toNat →
          Ends (.phaseMessageCommit who ns) s fun t => t = { Logged s t with wheel := t.wheel } ∧ t.wheel.rejects = min 0xFFFF (v.rejects + 1))
      ∧ (let m := messageAt s ns
         let em := phaseError s (m.toNat : Int)
         chipWriter s who = true → cfgNat s 0x0001 = 2 → ns.toNat < 1000000000 → s.time.state = .sync → m ≤ nowNs s → nowNs s ≤ m + 1000000000 →
          v.state = .locked →
            (v.prev = none → exec (.phaseMessageCommit who ns) s = .next { s with wheel := { v with prev := some m.toNat, ref := some m.toNat } })
              ∧ (v.prev ≠ none → 20 * em.natAbs ≤ nom → exec (.phaseMessageCommit who ns) s = .next { s with wheel := { v with
                acceptRun := min 255 (v.acceptRun + 1), prev := some m.toNat, ref := some m.toNat, lastAccept := m.toNat, err := left m.toNat
                meas := meas m.toNat } })
              ∧ (v.prev ≠ none → nom < 20 * em.natAbs → Ends (.phaseMessageCommit who ns) s fun t => t = { Logged s t with wheel := t.wheel }
                ∧ t.wheel.rejects = min 0xFFFF (v.rejects + 1) ∧ t.wheel.ref = v.ref ∧ t.wheel.meas = v.meas ∧ t.wheel.state = .locked))
      ∧ (v.state = .locked ∨ v.state = .acquire → v.lastAccept + lossTime s ≤ nowNs s →
          (hold ≠ 0 → leaves .wheelLossTime .hold) ∧ (hold = 0 → leaves .wheelLossTime .free))
      ∧ (v.state = .hold → v.holdAt + hold * 1000000 ≤ nowNs s → leaves .wheelHoldExpiry .free)
      ∧ (chipWriter s who = true → src ≠ 3 → Ends (.wheelSrcWrite who src) s fun t =>
          t = { Logged s t with cfg := t.cfg, wheel := t.wheel } ∧ cfgNat t 0x0001 = src.toNat
            ∧ (src.toNat ≠ cfgNat s 0x0001 → t.wheel.prev = none ∧ t.wheel.ref = none ∧ t.wheel.state ≠ .locked ∧ t.wheel.state ≠ .acquire))
      ∧ (chipWriter s who = true → exec (.nominalWrite who nominal) s = .next { s with wheel := { v with nominalHeld := some nominal } })

/-- For every running state: TIME_SET with the host as source slews the time by the measured offset when it is below 1 ms and the time is set, without moving the time at once, and steps it otherwise, raising EPOCH when it goes back and moving the periodic network-time slots with it; a change of TIME_SRC empties the window and leaves TRACKING and SYNC for FREE; the end of a slew, the time mark and the latch of a new second take what the rules say and change nothing else. The compare event of a tick domain whose count equals its compare value marks it raised and changes no count; TICK_LOAD_HI by a chip or pair writer makes the domain count the value loaded, leaves the other domains, and arms the compare event again, which is raised at once for a count loaded that equals the compare value. -/
def Obligations.NetworkTimeAndTicks : Prop :=
  ∀ (s : State) (who : Writer) (src : BitVec 2) (ns hi : BitVec 32) (n : Fin 4), Running s →
    let v := s.time
    let given := (v.setHi.toNat % 65536 * 4294967296 + v.setLo.toNat) * 1000000000 + ns.toNat
    let offset : Int := (netNs s : Int) - given
    let steps := v.state = .unset ∨ offset ≤ -1000000 ∨ 1000000 ≤ offset
    (chipWriter s who = true → cfgNat s 0x0006 = 2 → ns.toNat < 1000000000 →
        (¬steps → Ends (.timeSet who ns) s fun t =>
            t = { Logged s t with time := t.time } ∧ t.time.off = v.off ∧ t.time.slewLeft = -offset * 1000 ∧ t.time.epoch = v.epoch)
          ∧ (steps → Ends (.timeSet who ns) s fun t =>
            t.time.off = v.off - offset ∧ t.time.slewLeft = 0 ∧ t.time.epoch = (if 0 < offset then v.epoch + 1 else v.epoch)
              ∧ ((∀ w, waitOf (wkOf s w) = none) → ∀ n : Fin 64, t.slots[n] = (s.slots[n]).map fun x =>
                  if x.net then { x with next := ((x.next : Int) - offset).toNat } else x)
              ∧ t.region = s.region ∧ t.bank = s.bank ∧ t.mem = s.mem ∧ t.can = s.can))
      ∧ (chipWriter s who = true → cfgNat s 0x0006 ≠ 2 → exec (.timeSet who ns) s = .next s)
      ∧ (chipWriter s who = true → src ≠ 3 → Ends (.timeSrcWrite who src) s fun t =>
          t = { Logged s t with cfg := t.cfg, time := t.time, net := t.net } ∧ cfgNat t 0x0006 = src.toNat ∧ t.time.off = v.off
            ∧ (src.toNat ≠ cfgNat s 0x0006 → t.time.good = 0 ∧ t.time.state ≠ .tracking ∧ t.time.state ≠ .sync))
      ∧ (v.slewLeft = 0 → exec .timeSlewEnd s = .next { s with time := { v with slewing := false } })
      ∧ (v.storedAt + 65536000000000 ≤ nowNs s → exec .timeMarkStore s = .next { s with
          time := { v with marks := v.marks.set v.markNext (netNs s), markNext := v.markNext + 1, storedAt := nowNs s } })
      ∧ ((netNow s).sec ≠ s.canLatch.sec ∨ v.epoch ≠ s.canLatch.epoch → exec .canLatchSecond s = .next { s with
          canLatch := ⟨(netNow s).sec, v.epoch, Vector.ofFn fun n => canCounter s n⟩ })
      ∧ ((s.ticks[n]).fired = false → tickCount s n = (s.ticks[n]).cmp → Ends (.tickCompare n) s fun t =>
        t = { Logged s t with ticks := s.ticks.set n { s.ticks[n] with fired := true } })
      ∧ (chipWriter s who = true → 0 < (s.ticks[n]).div → Ends (.tickLoad who n hi) s fun t =>
          t = { Logged s t with ticks := t.ticks, wk := t.wk } ∧ tickCount t n = BitVec.ofNat 64 (hi.toNat * 2 ^ 32 + (s.ticks[n]).loadLo.toNat)
            ∧ (t.ticks[n]).fired = decide (BitVec.ofNat 64 (hi.toNat * 2 ^ 32 + (s.ticks[n]).loadLo.toNat) = (s.ticks[n]).cmp) ∧ (t.ticks[n]).en = (s.ticks[n]).en ∧ ∀ m : Fin 4, m ≠ n → t.ticks[m] = s.ticks[m])

/-- For every state: a transition turns one of QA and QB round, a skip both, and an index edge sets QI, whether or not the decoder runs, and the pass-through outputs show the lines while the logic supply holds, and nothing without it. While the module runs: a transition on an enabled input moves the count by one in the direction that QB and INVERT give, or on a travel input at its limit leaves it and counts HELD; a skip counts, and the one that first exceeds SKIP_MAX in the window sets INVALID; the index edge that the configuration names latches the count; the end of the window empties it, and the speed time-out brings the input to standstill. PRESET by a chip or pair writer loads the count and clears INVALID, CLEAR clears INVALID and the window, a write of the configuration puts it in force. Every other input stays. -/
def Obligations.PositionInputs : Prop :=
  ∀ (s : State) (who : Writer) (n : Fin 8) (up rising : Bool) (v : BitVec 32),
    let q := qpOf s n
    let on := q.cfg.getLsbD 31 = true
    let travel := q.cfg.getLsbD 30
    let neg := up != q.cfg.getLsbD 29
    let one (i : Instr) (P : QpSt → Prop) : Prop := Ends i s fun t =>
      t = { Logged s t with qp := t.qp } ∧ (∀ m, m ≠ n → qpOf t m = qpOf s m) ∧ P (qpOf t n)
    let clamped := travel = true ∧ (if neg then q.count.toInt ≤ q.limLo.toInt else q.limHi.toInt ≤ q.count.toInt)
    let outs (i : Instr) (P : QpSt → Prop) : Prop := Ends i s fun t => P (qpOf t n)
      ∧ passOut t n = (if logicSupply s then ((qpOf t n).qa, (qpOf t n).qb, (qpOf t n).qi) else (false, false, false))
    (outs (.qpTransition n up) (fun x => x.qi = q.qi ∧ ((x.qa = !q.qa ∧ x.qb = q.qb) ∨ (x.qa = q.qa ∧ x.qb = !q.qb)))
        ∧ outs (.qpSkip n) (fun x => x.qa = !q.qa ∧ x.qb = !q.qb ∧ x.qi = q.qi)
        ∧ outs (.qpIndexEdge n rising) (fun x => x.qa = q.qa ∧ x.qb = q.qb ∧ x.qi = rising))
      ∧ (Running s → on → (¬clamped → one (.qpTransition n up) fun x => x.count = (if neg then q.count - 1 else q.count + 1) ∧ x.held = q.held ∧ x.lastAt = some (nowNs s / 50 * 50))
        ∧ (clamped → one (.qpTransition n up) fun x => x.count = q.count ∧ x.held = min 0xFFFF (q.held + 1))
        ∧ one (.qpSkip n) (fun x => x.skipsWin = q.skipsWin + 1 ∧ x.skipFlag = true ∧ x.count = q.count
            ∧ x.invalid = (q.invalid || decide (q.skipsWin = q.cfg.toNat / 65536 % 16)))
        ∧ (rising = !(q.cfg.getLsbD 28) → one (.qpIndexEdge n rising) fun x => x.index = q.count ∧ x.indexSeen = true ∧ x.count = q.count)
        ∧ (rising = q.cfg.getLsbD 28 → one (.qpIndexEdge n rising) fun x => x = { q with qi := rising }))
      ∧ (Running s → ¬on → one (.qpTransition n up) (fun x => x = { q with qa := x.qa, qb := x.qb })
          ∧ one (.qpSkip n) (fun x => x = { q with qa := x.qa, qb := x.qb })
          ∧ one (.qpIndexEdge n rising) (fun x => x = { q with qi := rising }))
      ∧ (Running s → q.winStart + q.time.toNat % 65536 * 1000000 ≤ nowNs s → one (.skipWindowEnd n) fun x =>
          x = { q with skipsWin := 0, winStart := q.winStart + q.time.toNat % 65536 * 1000000 })
      ∧ (∀ u, Running s → q.lastAt = some u → u + q.time.toNat / 65536 * 1000000 ≤ nowNs s → one (.spdTimeoutExpiry n) fun x =>
          x = { q with standstill := true, lastAt := none, intervals := [] })
      ∧ (Running s → chipWriter s who = true →
        (travel = false → one (.qpPreset who n v) fun x => x.count = v ∧ x.invalid = false)
          ∧ (travel = true → q.limLo.toInt ≤ v.toInt → v.toInt ≤ q.limHi.toInt → one (.qpPreset who n v) fun x => x.count = v ∧ x.invalid = false)
          ∧ one (.qpClear who n) (fun x => x = { q with invalid := false, skipsWin := 0, winStart := nowNs s })
          ∧ (v.getLsbD 20 = false → (v.getLsbD 23 && v.getLsbD 22) = false → one (.qpCfgWrite who n v) fun x => x.cfg = v))

/-- For every powered state: an over-current that has held a conducting channel at its limit for 100 µs, or a lamp just switched on for 10 ms, shuts it off, also where a temperature trip cut it in the same clock, counts, and sets the pause before the next attempt, 10 ms doubled with each attempt, or the latch after the last one; a pause that ends makes the attempt, or leaves it waiting while temperature or supply hold the channel; a conduction of 1 s clears the attempts; a temperature trip shuts the channel off and holds it, and its release returns it to its commanded state; a hold of more than 10 s sets HOLD_LONG; an open load is seen only on a channel that is off. No other channel changes. -/
def Obligations.ChannelProtection : Prop :=
  ∀ (s : State) (c : Chan) (ext : Bool), s.power.state ≠ .off →
    let x := chOf s c
    let one (i : Instr) (P : State → ChanSt → Prop) : Prop := Ends i s fun t =>
      t = { Logged s t with bank := { s.bank with ch := t.bank.ch } } ∧ (∀ e, e ≠ c → chOf t e = chOf s e)
        ∧ (chOf t c).cmd = x.cmd ∧ (chOf t c).opt = x.opt ∧ P t (chOf t c)
    let supply : Fin 4 := Fin.ofNat 4 (c.val / 16)
    let heldOff := x.dtHold = true ∨ s.bank.supUv[supply] = true
    let ready := wantsDrive (setCh s c { x with pauseEnd := none, retryDue := false }) c
    let held := x.since + (if isLamp s c ∧ nowNs s < x.since + 60000000 then 10000000 else 100000) ≤ nowNs s
    let shuts (attempt : Option Nat) : Prop :=
      let tried : Nat := match attempt with
        | some k => k + 1
        | none => x.attempts
      let last := (mapOf s c).retryN ≤ tried
      one (.ocShutoff c) fun _ y => y.drive = 0 ∧ y.ocCount = min 0xFFFF (x.ocCount + 1) ∧ y.attempts = x.attempts ∧ y.dtHold = x.dtHold
        ∧ (last → y.latched = true ∧ y.pauseEnd = none)
        ∧ (¬last → y.latched = false ∧ y.pauseEnd = some (nowNs s + 10000000 * 2 ^ x.attempts))
    (held → x.drive ≠ 0 → shuts x.attempt)
      ∧ (∀ a, held → x.drive = 0 → x.dtCut = some a → x.dtHold = true → x.dtSince = nowNs s → shuts a)
      ∧ (¬held → exec (.ocShutoff c) s = .next s)
      ∧ (∀ u, x.pauseEnd = some u → u ≤ nowNs s →
        (heldOff → one (.retryPauseEnd c) fun _ y => y = { x with pauseEnd := none, retryDue := true })
          ∧ (¬heldOff → ready = true → one (.retryPauseEnd c) fun _ y =>
              y.drive ≠ 0 ∧ y.attempts = x.attempts + 1 ∧ y.attempt = some x.attempts ∧ y.pauseEnd = none))
      ∧ (x.drive ≠ 0 → x.since + 1000000000 ≤ nowNs s → one (.attemptCountReset c) fun _ y => y = { x with attempts := 0, attempt := none })
      ∧ (x.dtHold = false → one (.dtTrip c) fun _ y => y.drive = 0 ∧ y.dtHold = true ∧ y.dtSince = nowNs s ∧ y.flags = x.flags ||| 0x04)
      ∧ (x.dtHold = true → x.drive = 0 → x.retryDue = false → one (.dtRelease c) fun t y => y.dtHold = false ∧ (y.drive ≠ 0 ↔ wantsDrive t c = true))
      ∧ (x.dtHold = true → x.dtSince + 10000000000 < nowNs s → one (.holdLongTimer c) fun _ y => y = { x with holdLong := true })
      ∧ (x.opt.getLsbD 2 = true → x.drive = 0 → s.bank.supUv[supply] = false → one (.openLoadDetect c ext) fun _ y =>
          y = { x with openLoad := !ext, extDriven := ext, flags := x.flags ||| 0x02 })
      ∧ one (.openLoadClear c) fun _ y => y = { x with openLoad := false, extDriven := false }

/-- For every powered state: a supply that falls below 16.0 V while it was good turns off every channel it feeds, with the flag kept, and a supply above 17.5 V that was low lets each of them return to its commanded state; a measured supply voltage reshapes the duty of the conducting coils and lamps that it feeds; other channels stay. A keeper refresh toggles TWIN_HB; an expiry turns off every coil-class channel and every lamp or load with EXPIRE_OFF, and keeps how many coils conducted. -/
def Obligations.CoilSupplies : Prop :=
  ∀ (s : State) (n : Fin 4) (v : BitVec 16), s.power.state ≠ .off →
    let feeds (c : Chan) : Prop := c.val / 16 = n.val
    let framed (t : State) : Prop := t = { Logged s t with bank := { s.bank with ch := t.bank.ch, supV := s.bank.supV.set n v, supUv := t.bank.supUv } }
      ∧ (∀ c, ¬feeds c → chOf t c = chOf s c) ∧ ∀ m, m ≠ n → t.bank.supUv[m] = s.bank.supUv[m]
    (v.toNat < 1600 → s.bank.supUv[n] = false → Ends (.coilSupplyUv n v) s fun t =>
        framed t ∧ t.bank.supUv[n] = true
          ∧ ∀ c, feeds c → (chOf t c).drive = 0 ∧ ((chOf s c).drive ≠ 0 → (chOf t c).flags = (chOf s c).flags ||| 0x01))
      ∧ (1750 < v.toNat → s.bank.supUv[n] = true → (∀ c, feeds c → (chOf s c).retryDue = false ∧ (chOf s c).drive = 0) → Ends (.coilSupplyRestore n v) s fun t =>
        framed t ∧ t.bank.supUv[n] = false ∧ ∀ c, feeds c → ((chOf t c).drive ≠ 0 ↔ wantsDrive t c = true) ∧ (chOf t c).cmd = (chOf s c).cmd)
      ∧ (Ends (.coilSupplyPresentChange n v) s fun t => framed t ∧ t.bank.supUv = s.bank.supUv ∧ ∀ c, feeds c →
          let x := chOf s c
          let pulses (hz duty : Nat) : Prop := chOf t c = { x with drive := 3, hz := hz, applied := duty }
          let ohm := x.opt.toNat / 65536
          let vv := v.toNat * v.toNat
          (x.drive = 0 → chOf t c = x) ∧ (x.drive = 1 → chOf t c = { x with hz := 0, applied := 65536 })
            ∧ (x.drive ≠ 0 → x.drive ≠ 1 → 0 < v.toNat →
              (x.cls = 0 → ohm ≠ 0 → pulses 20000 (min 65536 (65536 * (cfgNat s 0x3002 * ohm) / vv)))
                ∧ (x.cls = 0 → ohm = 0 → chOf t c = { x with drive := 2, hz := 0, applied := 65536 })
                ∧ (x.cls = 1 → x.cmd = 2 ∨ 2400 < v.toNat →
                  pulses 400 (min 65536 ((if x.cmd = 2 then x.duty.toNat else 65535) * (2400 * 2400) / vv)))
                ∧ (x.cls = 2 → x.cmd = 2 → (chOf t c).drive = 3 ∧ (chOf t c).applied = x.duty.toNat)
                ∧ (x.cls = 2 → x.cmd ≠ 2 → chOf t c = { x with drive := 2, hz := 0, applied := 65536 })))
      ∧ (Running s → exec .keeperRefresh s = .next { s with
          bank := { s.bank with lastRefresh := nowNs s, holding := false }, twin := { s.twin with hbLevel := !s.twin.hbLevel } })
      ∧ (s.bank.expiryDue = none → s.bank.lastRefresh + cfgNat s 0x3001 * 1000000 ≤ nowNs s → Ends .keeperExpiry s fun t =>
          t = { Logged s t with bank := t.bank } ∧ t.bank.expiryDue = some (coilsOn s) ∧ t.bank.keeperExpired = true
            ∧ ∀ c, if isCoil s c || (chOf s c).opt.getLsbD 3 then (chOf t c).drive = 0 else chOf t c = chOf s c)

/-- For every running state: a changed input takes its level; AUX_TIME of a closed region ends in its emergency open with isolation; the pre-charge relay switches on into PRECHARGING, its time-out and expiry return to NEG_CLOSED with the relay off, and PRE_AUTO_OFF gives CLOSED; the open wait limit switches off into WELD_CHECK; 20 ms later the negative contactor goes off and the weld check starts; the check is judged, after which an open that does not isolate gives OPEN, and a welded result ISOLATED; pull-in, circulating-current watch and start grace end. -/
def Obligations.ContactorTimers : Prop :=
  ∀ (s : State) (r : Region) (c : Chan) (n : Fin 32) (level pos : Bool) (u : Nat), Running s →
    let e := reOf s r
    let past (x : Option Nat) : Prop := x = some u ∧ u ≤ nowNs s
    let ends (i : Instr) (P : Engine → Prop) : Prop := Ends i s fun t =>
      t.mem = s.mem ∧ t.time = s.time ∧ t.wheel = s.wheel ∧ t.folio = s.folio ∧ t.est = s.est ∧ t.net = s.net ∧ P (reOf t r)
    (s.din.getLsbD n.val ≠ level → Ends (.dinChange n level) s fun t => t.din = s.din ^^^ (1 <<< n.val) ∧ t.mem = s.mem ∧ t.time = s.time ∧ t.folio = s.folio)
      ∧ (past (if pos then e.auxPosAt else e.auxNegAt) → e.state = .closed → ends (.auxTimeout r pos) fun x =>
          x.state = .weldCheck ∧ x.isolates.isSome = true ∧ x.verdicts = min 0xFFFF (e.verdicts + 1) ∧ x.coilS = false ∧ x.coilP = false)
      ∧ ((chOf s c).drive = 1 → (chOf s c).pullEnd ≤ nowNs s → (mapOf s c).owner = none →
          exec (.pullinEnd c) s = .next (setCh s c { chOf s c with
            drive := driveOf s c, hz := hzOf s c (driveOf s c), applied := dutyOf s c (driveOf s c) }))
      ∧ (∀ p, e.pre = some p → past p.relayAt → ends (.prechargeRelayOn r) fun x =>
          x.state = .precharging ∧ x.coilP = true ∧ x.pre = some { p with
            relayOn := true, relayAt := none, limit := some (nowNs s + reSet s r 0x0E * 1000000) })
      ∧ (∀ p, e.pre = some p → e.state = .precharging → past p.limit → ends (.prechargeTimeout r) fun x =>
          x.state = .negClosed ∧ x.coilP = false ∧ x.pre = none ∧ x.step = none)
      ∧ (e.state = .precharged → (rgOf s r).streamEnd ≤ nowNs s → ends (.preExpired r) fun x => x.state = .negClosed ∧ x.coilP = false ∧ x.pre = none)
      ∧ (e.state = .closedPre → past e.autoOffAt → ends (.preAutoOff r) fun x => x.state = .closed ∧ x.coilP = false ∧ x.autoOffAt = none)
      ∧ (e.state = .opening → e.openLimit ≤ nowNs s → ends (.openWaitLimit r) fun x =>
          x.state = .weldCheck ∧ x.coilS = false ∧ x.coilP = false ∧ x.negOffAt = some (nowNs s + 20000000))
      ∧ (past e.negOffAt → ends (.negOpenDelay r) fun x => x.coilN = false ∧ x.negOffAt = none ∧ x.weld.isSome = true)
      ∧ (∀ x, e.weld = some x → x.endAt ≤ nowNs s → exec (.weldTimeEnd r) s = .next (setRg s r { rgOf s r with re := { e with weld := some { x with waiting := true } } }))
      ∧ (∀ x, e.weld = some x → weldReady s r x = true → e.state = .weldCheck → e.isolates = none →
          let res := weldVerdict x (reSet s r 0x11)
          ends (.weldCheckJudge r) fun y => y.weld = none ∧ y.state = (if res = 1 then .isolated else .opened)
            ∧ y.welded = (if res = 0 then false else if res = 1 then true else e.welded))
      ∧ (past e.circEnd → exec (.circWatchEnd r) s = .next (setRg s r { rgOf s r with re := { e with circEnd := none } }))
      ∧ (past e.graceEnd → exec (.startGraceEnd r) s = .next (setRg s r { rgOf s r with re := { e with graceEnd := none } }))

/-- For every running state: a DSM0 current at FAST_TRIP or above sets TRIP_LATCH and pulls the line low, after which no coil-class channel conducts; a lower one only becomes the filtered value. ASSERT by a pair writer sets CMD_HOLD and pulls the line low. When the bank observes the line low every coil-class channel is commanded OFF and an open region becomes ISOLATED. CLEAR ends CMD_HOLD, and TRIP_LATCH when the current is below the threshold; the line is let go when nothing holds it and 100 ms have passed, and it rises when this module does not hold it. -/
def Obligations.SeverLine : Prop :=
  ∀ (s : State) (who : Writer) (raw : BitVec 32) (sess : Session) (r : Region) (v : BitVec 32), Running s →
    let x := s.sever
    let coilsOff (t : State) : Prop := ∀ c, isCoil s c = true → (chOf t c).drive = 0
    let framed (t : State) : Prop := t = { Logged s t with sever := t.sever, bank := { s.bank with ch := t.bank.ch } }
    (overTrip s raw = true → x.tripLatch = false → Ends (.fastTrip raw) s fun t =>
        framed t ∧ coilsOff t ∧ t.sever.tripLatch = true ∧ t.sever.lineLow = true ∧ t.sever.ownHold = true ∧ t.sever.filtered = raw
          ∧ t.sever.tripLast.toInt = tripCurrent s raw)
      ∧ (overTrip s raw = false → exec (.fastTrip raw) s = .next { s with sever := { x with filtered := raw } })
      ∧ (pairWriter s who = true → Ends (.severAssert who) s fun t =>
          framed t ∧ coilsOff t ∧ t.sever.cmdHold = true ∧ t.sever.lineLow = true ∧ t.sever.ownHold = true)
      ∧ (x.observed = false → Ends .severLowObserved s fun t =>
          coilsOff t ∧ t.sever.observed = true ∧ t.sever.lineLow = true ∧ (∀ c, isCoil s c = true → (chOf t c).cmd = 0)
            ∧ (∀ q, hasRegion s q = true → (reOf s q).state = .opened → (reOf s q).weld = none → (reOf t q).state = .isolated)
            ∧ (∀ q, hasRegion s q = true → (reOf s q).state = .closed → (reOf t q).state = .weldCheck ∧ (reOf t q).isolates.isSome = true)
            ∧ t.mem = s.mem ∧ t.time = s.time ∧ t.wheel = s.wheel ∧ t.folio = s.folio)
      ∧ (let rises := x.tripLatch = false ∧ x.cmdHold = false ∧ x.assertedAt + 100000000 ≤ nowNs s
         (rises → exec .severMinHoldEnd s = .next { s with sever := { x with ownHold := false } })
           ∧ (¬rises → exec .severMinHoldEnd s = .next s))
      ∧ (x.lineLow = true → x.ownHold = false → Ends .severReleased s fun t =>
          t = { Logged s t with sever := { x with lineLow := false, observed := false, peerHolds := false } })
      ∧ (pairWriter s who = true → Ends (.severClear who) s fun t => t = { s with sever := t.sever } ∧ t.sever.cmdHold = false
          ∧ t.sever.tripLatch = (x.tripLatch && overTrip s x.filtered)
          ∧ (t.sever.ownHold = true ↔ x.ownHold = true ∧ ¬(t.sever.tripLatch = false ∧ x.assertedAt + 100000000 ≤ nowNs s)))
      ∧ (isOperator s sess = true → hasRegion s r = true → v.toNat < 2 ^ 14 →
          (v.toNat % 64 < 32 ∨ v.toNat % 64 = 63) → (v.toNat / 64 % 64 < 32 ∨ v.toNat / 64 % 64 = 63) →
          Ends (.reAuxWrite sess r v) s fun t => (reOf t r).auxCfg = v ∧ t.mem = s.mem ∧ t.time = s.time)

/-- For every running state: a received frame that no filter matches counts as rejected, one that a filter matches is stored behind the held frames of the controller; a sent frame leaves the queue and lowers TEC, an FD frame with the ESI of the error state, a transmit error raises TEC by 8 when R404 says so and keeps the frame unless it was flushed, and after a lost arbitration the winner holds the bus, a receive error raises REC; bus-off goes to recovery on RECOVER and to error-active with both counters 0 when it is done; FLUSH empties a queue with nothing in transmission; the clash table is cleared, modes, at the end of a frame in progress, timings in CONFIG and filter identifiers are taken, or wait for their sweep where a host in a pair writes them, integration ends, and a wake cause wakes a sleeping controller into integration. -/
def Obligations.CanControllers : Prop :=
  ∀ (s : State) (who : Writer) (n : Fin 4) (f : CanFrame) (stamp : BitVec 32) (e : CanTxErr) (re : CanRxErr) (cause : CanWakeCause)
    (mode : BitVec 4) (k : Fin 64) (v : BitVec 32), Running s →
    let c := canOf s n
    let one (i : Instr) (P : State → CanSt → Prop) : Prop := Ends i s fun t =>
      t = { Logged s t with can := s.can.set n (canOf t n), free := t.free } ∧ P t (canOf t n)
    let listens := onBus c = true ∧ (c.modeNow = 1 ∨ c.modeNow = 2)
    let alone := (∃ w, who = .worker w) ∨ s.twin.session = false
    let waits (i : Instr) (off : Nat) (v : BitVec 32) : Prop :=
      let m := settingSweep s
      (∀ l ∈ [s.sweep.fracNext.map (·.1), s.sweep.hushNext.map (·.1), s.sweep.regNext.map (·.1), [m]],
          ∀ x ∈ l, sweepReached s.sweep.nextNum x = false) →
        Ends i s fun t => t = { Logged s t with sweep := { s.sweep with regNext := s.sweep.regNext ++ [(m, some who, canAddr n off, v)] } }
          ∧ t.twin.out.getLast? = some (.forward (.registerAt (BitVec.ofNat 32 (canAddr n off)) v m))
    let up (q : CanSt) : Prop := q.btNom = c.btNom ∧ q.fltId = c.fltId ∧ q.mode = c.mode
    (listens → bufferOf c f = none → one (.canFrameRx n f stamp) fun _ x => up x ∧ x.rx = c.rx ∧ x.rxReject = min 0xFFFF (c.rxReject + 1))
      ∧ (listens → bufferOf c f = some k → hasRoom c k = true → (∀ w, waitOf (wkOf s w) = none) →
          one (.canFrameRx n f stamp) fun _ x => up x ∧ ∃ q, x.rx = c.rx ++ [⟨f, stamp, k, false, q⟩])
      ∧ (∀ q x, c.inTx = some q → (c.tx.find? fun y => y.seq == q) = some x → one (.canTxDone n stamp) fun _ y =>
          y.tx = (c.tx.filter fun z => z.seq != q && !z.doomed) ∧ y.tec = c.tec - 1 ∧ y.lec = 0
            ∧ (x.frame.fdf = true → y.esi = (c.state == .passive)))
      ∧ (∀ q, c.inTx = some q → one (.canTxError n e) fun _ y =>
          y.tx = (c.tx.filter fun z => !(z.doomed && (z.seq == q || e != .arbitration))) ∧ (e = .arbitration → y.inTx = none ∧ y.busy = true) ∧ y.tec = (if tecRises c e then c.tec + 8 else c.tec))
      ∧ (onBus c = true → c.modeNow ≠ 2 → one (.canRxError n re) fun _ y =>
          y.recCnt = min 511 (c.recCnt + match re with | .dominantAfterFlag | .bit _ => 8 | _ => 1))
      ∧ (c.state = .recovering → one (.canRecoveryDone n) fun _ y => y.state = .active ∧ y.tec = 0 ∧ y.recCnt = 0 ∧ y.tx = c.tx)
      ∧ (c.state = .integrating → one (.canIntegrated n) fun _ y => y.state = errState c ∧ y.tx = c.tx)
      ∧ (c.state = .asleep → wakesOn c cause = true → one (.canWake n cause) fun _ y => y.state = .integrating ∧ y.mode = 1)
      ∧ (Ends .canIntegrationStart s fun t => t = { s with can := t.can }
          ∧ ∀ m, canOf t m = if canEnabled s m && !(s.therm.bistOut.getLsbD (8 + m.val)) && (canOf s m).state == .disabled
                && decide (s.power.origin + 150000000 ≤ nowNs s) then { canOf s m with state := .integrating, mode := 1, modeNow := 1 } else canOf s m)
      ∧ (chipWriter s who = true →
        (c.state = .busOff → one (.canRecover who n) fun _ y => y.state = .recovering ∧ y.tx = c.tx)
          ∧ (c.inTx = none → one (.canFlush who n) fun _ y => y.tx = [] ∧ y.state = c.state)
          ∧ one (.canClashClear who n) (fun _ y => y = { c with clash := [] })
          ∧ (alone → c.state = .active → c.mode = 1 → mode = 0 → one (.canModeWrite who n mode) fun _ y =>
              y = (if c.modeNow = 1 ∧ (c.inTx.isSome = true ∨ c.busy = true) then { c with mode := 0 }
                else { c with mode := 0, modeNow := 0, state := .config, inTx := none, busy := false }))
          ∧ (alone → c.state = .config → c.mode = 0 → c.modeNow ≠ 1 → mode = 1 → one (.canModeWrite who n mode) fun _ y =>
              y = { c with mode := 1, modeNow := 1, state := .integrating, inTx := none, busy := false })
          ∧ (∀ h, who = .host h → s.twin.session = true → waits (.canFilterWrite who n k v) (0x100 + 16 * k.val) v ∧ waits (.canBtWrite who n false v) 0x0C v
              ∧ waits (.canModeWrite who n mode) 0 (canCtrl c &&& 0xFFFFFFF0 ||| mode.setWidth 32))
          ∧ (alone → c.state = .config → v.toNat < 2 ^ 30 → v.toNat / 256 % 256 ≠ 0 → v.toNat / 2 ^ 23 ≤ v.toNat / 2 ^ 16 % 128 →
              one (.canBtWrite who n false v) fun _ y => y = { c with btNom := v })
          ∧ (alone → one (.canFilterWrite who n k v) fun _ y => y = { c with fltId := c.fltId.set k (v &&& 0xDFFFFFFF), catching := false }))

/-- For every running state: VERIFY of a staged length of at most 3 MiB, WRITE_SLOT of the length verified and CONFIRM of a TRIAL slot by an OPERATOR session, with no folio command in progress, begin or end as R169 says, and VERIFY, once the RSA unit serves it, and WRITE_SLOT complete with the verification's outcome in FOLIO_RESULT and the slot; ACTIVATE of a VALID slot marks it TRIAL, points ACTIVE at it and restarts the module, or first hands the lead to a healthy mirror, at once or with the hand-over under way or after the transfer that runs. RELOAD of a region whose folios differ in that region's part alone waits for the close of its sweep, and is refused where the other slot is not VALID, where the folios differ elsewhere, and where the twin present runs another folio; the apply puts the other slot in force and leaves workers of other scopes and the maps alone; a chip worker that stays in the segment ends it with CHIP_IN_SEGMENT. -/
def Obligations.FolioCommands : Prop :=
  ∀ (s : State) (k : Session) (r : Region) (m : Word) (stop' : Option Nat), Running s →
    let f := s.folio
    let len := f.stageLen.toNat
    let image := memRead s.mem.dram 0 len
    let good : Bool := !(decide (0 < len) && poisoned s 0 len) && folioHolds s image
    let active := if f.active then f.stB else f.stA
    let other := if f.active then f.stA else f.stB
    let marked (x : FolioSt) (st : SlotState) : FolioSt := if f.active then { x with stA := st } else { x with stB := st }
    let ended (x : FolioSt) (cmd result : Byte) : FolioSt := { x with lastCmd := cmd, result := result }
    let becomes (i : Instr) (x : FolioSt) : Prop := exec i s = .next { s with folio := x }
    let written (st : SlotState) : FolioSt :=
      let v : Word := BitVec.ofNat 32 (natAt image 8 4)
      marked (if f.active then { f with imgA := memWrite [] 0 image, lenA := len, verA := v }
        else { f with imgB := memWrite [] 0 image, lenB := len, verB := v }) st
    let new := slotBytes f (!f.active)
    let comes (w : Worker) : Prop := ∃ e, workerEntry (sect' new 1) w = some e ∧ natAt e 4 2 = (regionScope r).toNat
    (isOperator s k = true → f.busy = .none →
      (len ≤ 3145728 → exec (.folioVerify k) s = .next { s with
          folio := ended { f with busy := .verify, verified := none } 1 0xFF
          crypto := s.crypto ++ [⟨none, false, s.arb.seq, 0, 0, 0, [], [], 0, .folio⟩] })
        ∧ (active ≠ .trial → f.verified = some len → becomes (.writeSlot k) (ended { marked f .writing with busy := .writeSlot } 2 0xFF))
        ∧ (active = .trial → becomes (.folioConfirm k) (ended (if f.active then { f with stB := .valid } else { f with stA := .valid }) 4 0))
        ∧ (other = .valid → Ends (.folioActivate k) s fun t =>
            t.folio = ended { marked f .trial with active := !f.active, activateStart := true, busy := .activate } 3 0
              ∧ (if s.twin.role == .lead && healthyMirror s then
                  t = { Logged s t with folio := t.folio, twin := { s.twin with
                    out := t.twin.out, thenRestart := some 2
                    grant := if s.twin.grant.isSome || s.twin.xferBusy then s.twin.grant else some (grantSweep s) } }
                else t = { s with folio := t.folio, power := { s.power with state := .restarting 2, origin := nowNs s }, bank := { s.bank with holding := true } }))
        ∧ (other = .valid → hasRegion s r = true → s.twin.present = false → withoutRegion new r.val = withoutRegion (slotBytes f f.active) r.val →
            Ends (.reload k r) s fun t => t = { Logged s t with 
              folio := ended { f with busy := .reload r (settingSweep s) none, redo := [] } 5 0xFF, free := s.free + 1 })
        ∧ (other ≠ .valid → hasRegion s r = true → becomes (.reload k r) (ended f 5 0x05))
        ∧ (other = .valid → hasRegion s r = true →
          (withoutRegion new r.val ≠ withoutRegion (slotBytes f f.active) r.val → becomes (.reload k r) (ended f 5 0x06))
            ∧ (withoutRegion new r.val = withoutRegion (slotBytes f f.active) r.val → s.twin.present = true → s.twin.folioDiff = true →
              exec (.reload k r) s = .next { s with folio := ended f 5 0x08, free := s.free + 1 })))
      ∧ (f.busy = .verify → rsaServes s .folio = true → exec .folioVerifyDone s = .next { s with
          folio := { f with busy := .none, result := if good then 0 else 1, verified := if good then some len else none }
          crypto := cryptoGrant s.crypto.tail })
      ∧ (f.busy ≠ .verify ∨ rsaServes s .folio = false → exec .folioVerifyDone s = .next s)
      ∧ (f.busy = .writeSlot → becomes .writeSlotDone
          { written (if folioHolds s image then .valid else .bad) with busy := .none, result := if folioHolds s image then 0 else 1 })
      ∧ (f.busy = .reload r m stop' → regionClosed s r m = true → chipInSegment s r = false → Ends .regionReloadApply s fun t =>
          t.folio.busy = .none ∧ t.folio.result = 0 ∧ t.folio.active = !f.active ∧ t.folio.runVer = BitVec.ofNat 32 (natAt new 8 4)
            ∧ t.folio.codeLen = (sect' new 0).length ∧ t.time = s.time ∧ t.wheel = s.wheel ∧ t.can = s.can
            ∧ (∀ q, (rgOf t q).map = (rgOf s q).map)
            ∧ ∀ w, (wkOf s w).scope ≠ regionScope r → ¬comes w → wkOf t w = wkOf s w)
      ∧ (f.busy = .reload r m stop' → regionClosed s r m = true → chipInSegment s r = true →
          becomes .regionReloadApply { f with busy := .reload r m (if stop' = none then some (nowNs s + 10000000) else stop') })
      ∧ (f.busy = .reload r m stop' → regionClosed s r m = false → exec .regionReloadApply s = .next s)
      ∧ (∀ u, f.busy = .reload r m (some u) → u ≤ nowNs s → chipInSegment s r = true →
          becomes .chipInSegmentTimeout { f with busy := .none, redo := [], result := 0x07 })

/-- For every running state: SET_FIELD_HI of an OPERATOR session is numbered; a field that the checks accept waits with its checked value for the sweep of R176, one that they refuse is clamped into the report and waits for nothing, and SET_REASON shows why. At its sweep a field takes its value and no other field changes; a field that would violate its pair leaves every field as it was; a field 2 holds NOMINAL for the next cold start. SWEEP_FRAC and SWEEP_HUSH take the written value, HUSH within 200 to 2,000, at that sweep: at once when it is the next one and none of its frames has begun, else with its frame. -/
def Obligations.RunSettings : Prop :=
  ∀ (s : State) (k : Session) (who : Writer) (v hi y : Word) (e : Byte) (p : PendingField), Running s →
    let f := s.folio
    let m := settingSweep s
    let given := fieldOf (bytesLE 4 (f.fieldLo[k]).toNat ++ bytesLE 4 hi.toNat)
    let waits (x : FolioSt) (order id : Nat) (a b : Word) (e : Byte) : FolioSt :=
      { x with pendingFields := f.pendingFields ++ [⟨m, id, a, b, e, order⟩] }
    let submits (x : FolioSt) (e : Byte) : FolioSt := { x with setReason := e, submitted := f.submitted + 1 }
    let taken (x : FolioSt) : FolioSt := { x with pendingFields := f.pendingFields.erase p }
    let hush : Word := BitVec.ofNat 32 (clampNat 200 2000 v.toNat)
    let frac : Word := v &&& 0x00FFFFFF
    let comes (t : State) (id : Nat) (x : Word) : Prop :=
      (id = 0x1002 → (nextBegun s = true → t.sweep = { s.sweep with fracNext := s.sweep.fracNext ++ [(m, x.setWidth 24)] })
          ∧ (nextBegun s = false → if sweepReached s.sweep.nextNum m then t.sweep.frac = x.setWidth 24 else (m, x.setWidth 24) ∈ t.sweep.fracNext))
        ∧ (id = 0x1003 → (nextBegun s = true → t.sweep = { s.sweep with hushNext := s.sweep.hushNext ++ [(m, x.toNat)] })
          ∧ (nextBegun s = false → if sweepReached s.sweep.nextNum m then t.sweep.hush = x.toNat else (m, x.toNat) ∈ t.sweep.hushNext))
        ∧ (id ≠ 0x1002 → id ≠ 0x1003 → t.sweep = s.sweep ∧ t.region = s.region)
    let quiet : Prop := nextBegun s = true ∨ ∀ x ∈ s.sweep.regNext, sweepReached s.sweep.nextNum x.1 = false
    let framed (t : State) (id : Nat) (y : FolioSt) : Prop := (id = 0x1002 ∨ id = 0x1003 → quiet) → t = { Logged s t with folio := { y with clamp := t.folio.clamp }, sweep := t.sweep, region := t.region }
    (isOperator s k = true → fieldCheck s given true = (y, true, e) → Ends (.settingsSubmit k hi) s fun t =>
        framed t given.id (waits (submits f e) (f.submitted + 1) given.id given.v y e) ∧ comes t given.id y
          ∧ (given.id ≠ 0x1002 → given.id ≠ 0x1003 → t.arb = (number s).arb ∧ (e = 0 → t.folio.clamp = f.clamp)))
      ∧ (isOperator s k = true → fieldCheck s given true = (y, false, e) → e ≠ 0 → Ends (.settingsSubmit k hi) s fun t =>
        t = { Logged s t with folio := { submits f e with clamp := t.folio.clamp } }
          ∧ t.folio.clamp.runCount = min 0xFFFF (f.clamp.runCount + 1) ∧ t.arb = (number s).arb)
      ∧ (chipWriter s who = true →
        (Ends (.sweepFracWrite who v) s fun t => framed t 0x1002 (waits f 0 0x1002 frac frac 0) ∧ comes t 0x1002 frac)
          ∧ (Ends (.sweepHushWrite who v) s fun t => comes t 0x1003 hush ∧ ∃ e, framed t 0x1003 (waits f 0 0x1003 v hush e) ∧ (hush = v → e = 0)))
      ∧ (fieldDue s = none → exec .settingsFieldApply s = .next s)
      ∧ (fieldDue s = some p →
        let applied (t : State) : Prop := t.folio.pendingFields = f.pendingFields.erase p ∧ cfgGet t p.id = p.value
          ∧ (∀ id, id ≠ p.id → cfgGet t id = cfgGet s id) ∧ t.mem = s.mem ∧ (p.id ≠ 0x3002 → t.bank = s.bank) ∧ t.can = s.can
        (pairOf s p.id = none → p.id = 2 → exec .settingsFieldApply s = .next { s with
            folio := taken f, wheel := { s.wheel with nominalHeld := some (p.value == 1) } })
          ∧ (pairOf s p.id = none → p.id ≠ 2 → Ends .settingsFieldApply s applied)
          ∧ ∀ q, pairOf s p.id = some q →
            let lo := if p.id = q.1 then p.value else cfgGet s q.1
            let hi := if p.id = q.1 then cfgGet s q.2.1 else p.value
            (pairBad q lo.toInt hi.toInt = false → Ends .settingsFieldApply s applied)
              ∧ (pairBad q lo.toInt hi.toInt = true → Ends .settingsFieldApply s fun t =>
                  t = { s with folio := t.folio } ∧ t.folio.pendingFields = f.pendingFields.erase p
                    ∧ t.folio.clamp.runCount = min 0xFFFF (min 0xFFFF (f.clamp.runCount + 1) + 1)))

/-- For every running state: the frame origin that is due begins the frame of the next sweep in its region; its beacon leaves a lead; a relay of the beacon under its MIC counts as the echo where it is the head's, within 2 µs of its slot and with the beacon's fields, and its absence is noted; the command window sends an order with the next broadcast TAG in one packet; a packet whose MIC fails counts in MIC_FAIL and changes nothing else but the receive stamp, whenever it comes; a packet of the head that is accepted in the collection enters the frame, one accepted outside it only has its FC taken; the collection limit closes a sampled frame, whose record becomes the newest held; the sample instant numbers the sweep, builds the pack record, marks the frames of that sweep and places the next instant N cycles on; a re-key draws a new key that no hop has confirmed; a mirror that hears the lead's packets under their MIC takes FE, the announced channel and the flipped key from the beacon, the close from the acknowledgement (over a bypass from that of the head's transfer, log entry 26), and the challenges. -/
def Obligations.FramesAndSampling : Prop :=
  ∀ (s : State) (r : Region) (f g : Frame) (m : RegionMap) (p : UpPacket) (d : Dsm4) (o : Order) (stepOfs : Word)
    (be : BeaconRx) (lp : LeadPacket) (bc : Beacon) (hop : BitVec 5) (b : List Byte) (count : Byte), Running s →
    let x := rgOf s r
    let n := s.sweep.nextNum
    let sets (i : Instr) (y : RegionSt) : Prop := exec i s = .next { s with region := s.region.set r y }
    let placed (w : SweepSt) : SweepSt := { w with cur := n, marks := if (n.toNat % 65536 = 0 ∨ (n = 1 ∧ w.cur = 0xFFFFFFFF)) ∧ w.cur ≠ n then w.marks.put (n.setWidth 64) else w.marks }
    let closes (i : Instr) : Prop := Ends i s fun t =>
      (∃ y, (rgOf t r).frame = some y ∧ y.closed = true ∧ y.sweep = f.sweep) ∧ (rgOf t r).lastSweep = f.sweep
        ∧ (∃ v l, (rgOf t r).held = v :: l ∧ v.sweep = f.sweep ∧ v.complete = sweepComplete s r f ∧ l = x.held.take 7)
        ∧ t.time = s.time ∧ t.wheel = s.wheel ∧ t.folio = s.folio ∧ t.est = s.est
    (originDue s r = true → grantDue s = false → (isLead s && s.twin.sideB && dualLeads s) = false → Ends (.beaconTx r) s fun t =>
        t = { s with
              sweep := placed s.sweep, region := s.region.set r (rgOf t r), air := t.air, free := t.free, crypto := t.crypto
              twin := { s.twin with inService := s.twin.inService || isLead s } }
          ∧ (isLead s = false → t.air = s.air ∧ t.free = s.free ∧ t.crypto = s.crypto)
          ∧ (isLead s = true → radioOut s r = false → ∃ q l, t.air = s.air ++ q :: l ∧ q.region = r ∧ q.type = 1 ∧ q.body.length = 24)
          ∧ ∃ y, (rgOf t r).frame = some y ∧ y.sweep = n ∧ y.origin = stampTime s (nextStamp s) - tLead s r
            ∧ y.sampled = false ∧ y.closed = false ∧ y.commanded = false ∧ y.nodes = [] ∧ y.head = none ∧ y.sent = [])
      ∧ (x.frame = some f → f.closed = false → 2 ≤ mapHops x →
        (f.echo = false → slotAt (mapHops x) 2 + 3250 < sinceF s f → sets (.beaconEchoRx r none) { x with noEcho := min 0xFFFF (x.noEcho + 1) })
          ∧ (x.map = some m → (airAccept s r m f 1 be.hdr (beaconBytes be.beacon) be.mic).2 = some g →
              sets (.beaconEchoRx r (some be)) { x with
                rxStamp := rxStampNow s
                frame := some (if be.hdr.sender = 1 ∧ slotAt (mapHops x) 2 + 1250 ≤ sinceF s f + 2000 ∧ sinceF s f ≤ slotAt (mapHops x) 2 + 3250
                  ∧ echoFits s r f be.beacon = true then { g with echo := true } else g) }))
      ∧ (windowOpen s r = true → transmits s = true → x.frame = some f → f.sent = [] → x.outstanding = [] →
        (x.orders = [] → sets (.commandWindowTx r stepOfs) { x with frame := some { f with commanded := true } })
          ∧ (x.orders = [o] → o.code = 1 ∨ o.code = 2 → o.hops = 0x1F → o.tries = 0 →
            let e : CmdEntry := ⟨x.broadcastTag, 0x1F, o.code, o.arg0, o.arg1⟩
            Ends (.commandWindowTx r stepOfs) s fun t => t = { Logged s t with region := s.region.set r (rgOf t r), air := t.air }
              ∧ (rgOf t r) = { x with
                orders := [], outstanding := [{ o with tries := 1, tag := x.broadcastTag }]
                broadcastTag := if x.broadcastTag = 7 then 1 else x.broadcastTag + 1
                frame := some { f with sent := [e], commanded := true }, fc := (rgOf t r).fc }
              ∧ (x.map.isSome = true → radioOut s r = false → (rgOf t r).fc = x.fc + 1
                ∧ ∃ q, t.air = s.air ++ [q] ∧ q.region = r ∧ q.type = 2 ∧ q.fc = x.fc ∧ q.body = [1, 0] ++ entryBytes e)))
      ∧ (x.map = some m → x.frame = some f →
        (radioOut s r = false → micHolds r m.key m.mapId f f.fe 3 p.hdr (upBody p) p.mic = false →
            sets (.upstreamPacketRx r p) { x with micFail := min 0xFFFF (x.micFail + 1), rxStamp := rxStampNow s })
          ∧ (spanNow s r f ≠ .collection ∨ f.sampled = false ∨ heardSender x p.hdr.sender.toNat = false →
            (airAccept s r m f 3 p.hdr (upBody p) p.mic).2 = some g →
              sets (.upstreamPacketRx r p) { x with rxStamp := rxStampNow s, frame := some g })
          ∧ (∀ a c, spanNow s r f = .collection → f.sampled = true → p.hdr.sender = 1 → (airAccept s r m f 3 p.hdr (upBody p) p.mic).2 = some g → p.counts = some (a, c) → p.recs.length < c.toNat →
            Ends (.upstreamPacketRx r p) s fun t => t.mem = s.mem ∧ t.time = s.time ∧ t.wheel = s.wheel ∧ t.folio = s.folio
              ∧ ∃ y, (rgOf t r).frame = some y ∧ y.heard = true ∧ y.total = some c.toNat ∧ y.got = p.recs.length ∧ y.fcs = g.fcs
                ∧ ∀ q, p.recs = [.node q] → recFits x q = true → (∀ z ∈ g.nodes, z.hop ≠ q.hop) → y.nodes = g.nodes ++ [q]))
      ∧ (x.frame = some f → f.closed = false → f.sampled = true →
        (limitReached s r = true → closes (.collectionLimitReached r))
          ∧ (transmits s = false → x.map = some m → lp.hdr.sender = 0 → lp.body = .ack count →
              (airAccept s r m f 4 lp.hdr [count, 0] lp.mic).2 = some g →
              (x.bypass = none ∨ f.heard = true ∨ f.byAcked = true → closes (.leadPacketHeard r lp))
                ∧ (x.bypass ≠ none → f.heard = false → f.byAcked = false →
                  sets (.leadPacketHeard r lp) { x with rxStamp := rxStampNow s, frame := some { g with byAcked := true } })))
      ∧ (framesRun s = true → stampTime s (nextStamp s) ≤ nowNs s → grantDue s = false → n ≠ 0 → n ≠ 0xFFFFFFFF →
        s.sweep.fracNext = [] → s.sweep.hushNext = [] → s.sweep.regNext = [] → Ends (.sampleInstant d) s fun t =>
          (sweepOpen s n = true → t = { s with sweep := t.sweep, region := t.region })
            ∧ t.sweep.cur = n ∧ t.sweep.nextNum = n + 1 ∧ t.sweep.nextCycle = (s.sweep.nextCycle / s.sweep.n + 1) * s.sweep.n
            ∧ (∃ q, t.sweep.pack = some q ∧ q.sweep = n ∧ q.phase = BitVec.ofNat 64 (nextStamp s) ∧ t.sweep.packs = (q :: s.sweep.packs).take 9)
            ∧ ∀ q, (∀ y, (rgOf s q).frame = some y → y.sweep ≠ n) → rgOf t q = rgOf s q)
      ∧ (transmits s = true → hasMap s r = true → x.rekeyDue = true → Ends (.rekeyStart r) s fun t => t = { Logged s t with
          free := s.free + 1
          region := s.region.set r { x with
            rekeyDue := false, rekeying := true, newKey := some ((List.range 16).map (Config.drawByte s.free))
            hops := x.hops.map fun h => { h with rekeyDone := false } } })
      ∧ (transmits s = false → x.map = some m → x.frame = some f → lp.hdr.sender = 0 →
        (lp.body = .beacon bc →
          let flips := bc.flags.getLsbD 1 ≠ x.keySel
          let next := bc.flags.toNat / 4 % 4
          (airAcceptKey s r (if flips then x.newKey.getD m.key else m.key) m.mapId f bc.fe 1 lp.hdr (beaconBytes bc) lp.mic).2 = some g →
            Ends (.leadPacketHeard r lp) s fun t => t = { s with region := s.region.set r (rgOf t r), free := t.free, crypto := t.crypto }
              ∧ (rgOf t r).frame = some (if g.sweep = bc.sweep then { g with fe := bc.fe } else g)
              ∧ (rgOf t r).announce = (if next ≠ 0 ∧ x.announce = none then some (Fin.ofNat 3 (next - 1), 1) else x.announce)
              ∧ (∀ key, flips → x.newKey = some key → (rgOf t r).keySel = !x.keySel ∧ (rgOf t r).newKey = none
                  ∧ ∃ y, (rgOf t r).map = some y ∧ y.key = key)
              ∧ (¬flips → (rgOf t r).map = x.map ∧ (rgOf t r).keySel = x.keySel))
          ∧ (lp.body = .spareDown hop 0x23 b → (airAccept s r m f 5 lp.hdr ([hop.setWidth 8, 0x23] ++ b) lp.mic).2 = some g →
            sets (.leadPacketHeard r lp) { x with
              rxStamp := rxStampNow s, frame := some g, chalDue := x.chalDue.erase hop.toNat
              chal := some (hop.toNat, b, nowNs s, match x.chal with
                | some (k, _, _, n) => if k = hop.toNat then n + 1 else 1
                | none => 1) }))

/-- For every running state: an order of each of the 13 kinds submitted by a writer of the region goes to the end of its queue when its target is allowed and there is room; with no map its result is NO_MAP, with 16 waiting QUEUE_FULL; PRE_STREAM carries a duration from 100 ms to PRE_TIMEOUT, another taking the nearer bound (log entry 29); CAPTURE takes the next capture number and stands behind the captures before it. The tally timer asks every node with a plan. NFW_LOAD of a valid staged image begins the distribution, NFW_ACTIVATE of a READY image with no contactor closed broadcasts FW_ACTIVATE, NFW_ABORT ends a distribution with its exchange and the firmware orders that wait, and 5 s later the nodes that have not returned are shown failed. -/
def Obligations.NodeOrders : Prop :=
  ∀ (s : State) (who : Writer) (sess : Session) (r : Region) (hops : BitVec 5) (a0 a1 : Word), Running s →
    let x := rgOf s r
    let sets (i : Instr) (y : RegionSt) : Prop := exec i s = .next { s with region := s.region.set r y }
    let rows : List (Instr × Byte) :=
      [(.balCommit who r hops a0 a1, 0x01), (.balHalt who r hops a0 a1, 0x02), (.capture who r hops a0 a1, 0x03),
       (.preStream who r hops a0 a1, 0x04), (.preStop who r hops a0 a1, 0x05), (.orderSleep who r hops a0 a1, 0x06),
       (.fwActivate who r hops a0 a1, 0x07), (.balPlan who r hops a0 a1, 0x10), (.balTally who r hops a0 a1, 0x11),
       (.ordLimits who r hops a0 a1, 0x12), (.capUpload who r hops a0 a1, 0x13), (.fwSeg who r hops a0 a1, 0x14),
       (.fwQuery who r hops a0 a1, 0x15)]
    let inTables : Prop := 0x50000000 ≤ a0.toNat ∧ a0.toNat + 64 ≤ 0x50400000
    let image (code : Byte) : List Byte := if code.toNat < 0x10 then [] else memRead s.mem.tables (a0.toNat - 0x50000000) 64
    let contactors : Bool := x.re.coilN || x.re.coilP || x.re.coilS
    let limit := max 100 (reSet s r 0x0E)
    let stream : Word := BitVec.ofNat 32 (a0.toNat / 65536 * 65536 + min (max 100 (a0.toNat % 65536)) limit)
    let cap := x.capNum + 1
    let captures := x.orders.filter fun y => y.code == 3
    let others := x.orders.filter fun y => y.code != 3
    (regionWriter s r.val who = true → hasRegion s r = true → ∀ p ∈ rows, let code := p.2
      (x.map = none → sets p.1 { x with lastOrder := code, ordResult := 0x03 })
        ∧ (x.map.isSome = true → hopsOk code.toNat hops.toNat = true → (0x10 ≤ code.toNat → inTables) → (code = 6 → contactors = false) →
          (16 ≤ x.orders.length → sets p.1 { x with queueFull := min 0xFFFF (x.queueFull + 1), lastOrder := code, ordResult := 0x02 })
            ∧ (x.orders.length < 16 → code ≠ 3 → sets p.1 { x with
                orders := x.orders ++ [⟨code, hops, if code = 6 then x.watchInt else if code = 4 then stream else a0, a1, image code, 0, 0, 0, []⟩] })
            ∧ (x.orders.length < 16 → code = 3 → x.captures.length < 4 → sets p.1 { x with
                capNum := cap, captures := x.captures ++ [⟨cap, none, s.sweep.cur, [], false, 0, []⟩]
                orders := captures ++ [⟨3, 0x1F, 0, BitVec.ofNat 32 (cap.toNat % 256), [], 0, 0, cap.toNat, []⟩] ++ others })))
      ∧ (x.tallyAt + 10000000000 ≤ nowNs s → sets (.balTallyTimer r) { x with
          tallyAt := nowNs s, hops := x.hops.map fun h => if h.planLeft = 0 then h else { h with tallyDue := true } })
      ∧ (isOperator s sess = true → hasRegion s r = true →
        (∀ head v, x.nfw.step = 0 → (s.folio.stageLen.toNat ≠ 0 → poisoned s 0 s.folio.stageLen.toNat = false) →
            Config.nodeImage (memRead s.mem.dram 0 s.folio.stageLen.toNat) = some (head, v) →
            let len := s.folio.stageLen.toNat
            let nodes := (hopList x).filter fun h => decide (h = 1) == head
            sets (.nfwLoad sess r) { x with nfw := ⟨1, 0, [], nodes.length, v, head, len, List.range ((len + 241) / 242), [], nodes, [], [], 0⟩ })
          ∧ (x.nfw.step = 3 → contactors = false → x.orders.length < 16 → sets (.nfwActivate sess r) { x with
              orders := x.orders ++ [⟨0x07, 0x1F, 0, 0, [], 0, 0, 0, []⟩]
              nfw := { x.nfw with step := 4, result := 0, deadline := nowNs s + 5000000000, back := [], failed := [] } })
          ∧ (x.nfw.step = 3 → contactors = true → sets (.nfwActivate sess r) { x with nfw := { x.nfw with result := 0x02 } })
          ∧ (x.nfw.step ≠ 0 → x.nfw.step ≠ 4 → sets (.nfwAbort sess r) { x with
              orders := x.orders.filter fun o => o.code != 0x14 && o.code != 0x15 && o.code != 0x07
              spare := match x.spare with
                | some (.fwQuery _) => none
                | some (.order o) => if o.code = 0x15 then none else x.spare
                | p => p
              nfw := { x.nfw with step := 0, result := 0, ready := [], total := 0, toSend := [], toQuery := [], waiting := [] } }))
      ∧ (x.nfw.step = 4 → x.nfw.deadline ≤ nowNs s →
          let bad := x.nfw.ready.filter fun h => !(x.nfw.back.contains h)
          sets (.fwActivateTimeout r) { x with nfw := { x.nfw with step := 0, failed := bad, result := if bad.isEmpty then 0 else 0x04 } })

/-- For every running state: every alarm heard takes the receive stamp; one whose MIC checks is counted, latched and recorded, a STEP of the head begins a capture where there is room, one whose MIC does not check is counted in MIC_FAIL alone, and a WAKE burst counts once by its number; the exchange that is first in the order of R206 begins with its packet once the frame is closed and its packet clears the micro-slots and the next F; an accepted answer completes the exchange, and one that does not come in time, micro-slots apart, is not begun again in the frame; a REACH answer bypasses to the hop, and without one the next hop is tried or the frame given up; kept records are taken until none is missing. A capture is uploaded from 250 ms after its step; its segments are collected, and after 20 s it closes into the next capture slot. -/
def Obligations.RegionAir : Prop :=
  ∀ (s : State) (r : Region) (m : RegionMap) (f g : Frame) (p : AlarmPacket) (a : SpareUp) (h j : Nat) (l : List Word) (delay : Half)
    (reach : ReachAnswer) (kept : KeptPacket) (c : Capture) (seg : CapSegment), Running s →
    let x := rgOf s r
    let now := nowNs s
    let sets (i : Instr) (y : RegionSt) : Prop := exec i s = .next { s with region := s.region.set r y }
    let o := p.origin.toNat
    let args : Word := BitVec.ofNat 32 (2048 * o + 256 * p.code.toNat + p.slot.toNat % 256)
    let late (n : Nat) : Prop := x.frame = some f ∧ x.spareAt + n + microTime s r f x.spareAt now ≤ now
    let slots (h : Nat) : Nat := (h + 3) * 1100000
    let heard (type : Nat) (hdr : AirHdr) (body : List Byte) (mic : Word) : Prop :=
      x.map = some m ∧ x.frame = some f ∧ (airAccept s r m f type hdr body mic).2 = some g
    let rejected (type : Nat) (hdr : AirHdr) (body : List Byte) (mic : Word) : Prop :=
      x.map = some m ∧ x.frame = some f ∧ (airAccept s r m f type hdr body mic).2 = none
    let y : RegionSt := { x with rxStamp := rxStampNow s, frame := some g }
    let c' : Capture := { c with segs := c.segs ++ [(seg.hop, seg.index, seg.data)] }
    let put (d : Capture) : List Capture := x.captures.map fun z => if z.num = d.num then d else z
    let begins (q : Spare) (ranged : Bool) : Prop := Ends (.spareExchangeStart r) s fun t =>
      t = { s with region := s.region.set r (rgOf t r), air := t.air }
        ∧ rgOf t r = { x with spare := some q, spareAt := now, ranged := ranged, fc := (rgOf t r).fc }
        ∧ (radioOut s r = false → (rgOf t r).fc = x.fc + 1 ∧ ∃ u, t.air = s.air ++ [u] ∧ u.region = r ∧ u.fc = x.fc
          ∧ u.type = (match q with | .reach _ => 0xB | _ => 5) ∧ u.body.head? = some (BitVec.ofNat 8 h))
    let raised : RegionSt := { x with rxStamp := rxStampNow s, alarms := min 0xFFFF (x.alarms + 1), alarmLast := args }
    (x.map = some m → p.code ≠ 0 → 1 ≤ o → o ≤ m.hops.length → radioOut s r = false →
      (wakeHolds s r m p = false →
        (alarmHolds s r m p = false → sets (.alarmPacketRx r p) { x with rxStamp := rxStampNow s, micFail := min 0xFFFF (x.micFail + 1) })
          ∧ (alarmHolds s r m p = true →
            (p.code ≠ 1 ∨ o ≠ 1 → RegionBecomes (.alarmPacketRx r p) s r raised)
              ∧ (p.code = 1 → o = 1 → Ends (.alarmPacketRx r p) s fun t => OnlyRegion s t r
                ∧ (rgOf t r).alarms = raised.alarms ∧ (rgOf t r).alarmLast = args ∧ (rgOf t r).rxStamp = raised.rxStamp
                ∧ (rgOf t r).capNum = if x.captures.length < 4 ∧ x.orders.length < 16 then x.capNum + 1 else x.capNum)))
        ∧ (wakeHolds s r m p = true →
          (p.slot.toNat ≤ (hopAt x o).burst →
              sets (.alarmPacketRx r p) { x with rxStamp := rxStampNow s, replay := min 0xFFFF (x.replay + 1) })
            ∧ ((hopAt x o).burst < p.slot.toNat →
              RegionBecomes (.alarmPacketRx r p) s r (setHop raised o fun y => { y with burst := p.slot.toNat }))))
      ∧ (spareReady s r = none → exec (.spareExchangeStart r) s = .next s)
      ∧ (∀ q, spareReady s r = some q → sparePick s r = some q ∧ spareFree s r = true ∧ spareWrapped s q = true)
      ∧ (∀ q ∈ [Spare.limits h, .tally h, .reach h, .kept h, .capture h, .fwQuery h], spareReady s r = some q → begins q x.ranged)
      ∧ (spareReady s r = some (.ranging h) → begins (.ranging h) true)
      ∧ (rejected 6 a.hdr (spareBody a) a.mic → Ends (.spareUpRx r a) s fun t => t = { s with region := s.region.set r (rgOf t r) }
          ∧ rgOf t r = { x with rxStamp := (rgOf t r).rxStamp, micFail := (rgOf t r).micFail, replay := (rgOf t r).replay })
      ∧ (heard 6 a.hdr (spareBody a) a.mic → a.hop = h → 1 ≤ h → h ≤ m.hops.length →
          (x.spare = some (.tally h) → a.body = .tally l → sets (.spareUpRx r a) { setHop y h fun z => { z with tally := l, tallyDue := false } with spare := none })
            ∧ (x.spare = some (.ranging h) → a.body = .ranging delay → sets (.spareUpRx r a)
                { setHop y h fun z => { z with delay := some delay } with
                  spare := none, spareTried := .ranging h :: x.spareTried, rangeNext := if m.hops.length ≤ h then 2 else h + 1 })
            ∧ (x.spare = some (.rekey h) → x.rekeying = true → a.body = .keyConfirm →
                sets (.spareUpRx r a) { setHop y h fun z => { z with rekeyDone := true } with spare := none }))
      ∧ (late 2000000 →
        (x.spare = some (.limits h) → sets (.spareAnswerTimeout r) { x with spare := none, spareTried := .limits h :: x.spareTried })
          ∧ (x.spare = some (.tally h) → sets (.spareAnswerTimeout r) { setHop x h fun z => { z with tallyDue := false } with
              spare := none, spareTried := .tally h :: x.spareTried })
          ∧ (x.spare = some (.reach h) → x.reachDue = some j →
            (h = j → j < mapHops x → sets (.reachTimeout r) { x with spare := none, spareTried := .reach h :: x.spareTried })
              ∧ (h ≠ j ∨ mapHops x ≤ j → sets (.reachTimeout r)
                  { setHop x j fun y => { y with reachTries := y.reachTries + 1 } with
                    spare := none, spareTried := .reach h :: x.spareTried, reachDue := none })))
      ∧ (late (slots h) → x.spare = some (.kept h) →
          sets (.spareAnswerTimeout r) { x with spare := none, spareTried := .kept h :: x.spareTried })
      ∧ (heard 0xC reach.hdr (reachBody h reach) reach.mic → x.spare = some (.reach h) → sets (.reachAnswerRx r h reach)
          { setHop y h fun z => { z with delay := some reach.delay, reachTries := 0 } with
            spare := none, reachDue := none, bypass := some h, bypassFrom := x.reachDue.getD h, bypassRun := 0 })
      ∧ (heard 6 kept.hdr (keptBody h kept) kept.mic → x.spare = some (.kept h) → Ends (.keptRecordsRx r h kept) s fun t =>
          let left := (hopAt x h).missed.filter fun n => !(kept.recs.any fun v => v.sweep == n)
          t = { s with mem := t.mem, sweep := { s.sweep with shown := t.sweep.shown }, region := s.region.set r (rgOf t r) }
            ∧ rgOf t r = { setHop y h fun z => { z with missed := left, keptUntil := if left = [] then none else z.keptUntil } with
                spareAt := now, spare := if left = [] then none else x.spare, held := (rgOf t r).held, closedAt := (rgOf t r).closedAt })
      ∧ (uploadDue s r = some c → sets (.captureUploadStart r) { x with captures := put { c with uploading := true, startAt := now } })
      ∧ (x.captures.find? Capture.uploading = some c →
        (heard 6 seg.hdr (segBody seg) seg.mic →
            seg.cap.toNat = c.num.toNat % 256 → 1 ≤ seg.hop → seg.hop ≤ m.hops.length → seg.index < segsOf (sectionLen x seg.hop) →
            (∀ z ∈ c.segs, z.1 ≠ seg.hop ∨ z.2.1 ≠ seg.index) → x.spare ≠ some (.capture seg.hop) →
            (∀ z, x.spare ≠ some (.order z)) → sectionsLeft x c' ≠ [] →
            sets (.captureSegmentRx r seg) { y with captures := put c' })
          ∧ (c.startAt + 20000000000 ≤ now → Ends (.captureUploadTimeout r) s fun t =>
            OnlyRegion { s with mem := t.mem, sweep := { s.sweep with capNext := (s.sweep.capNext + 1) % 1024 } } t r
              ∧ (rgOf t r).captures = (x.captures.filter fun y => y.num != c.num) ∧ (rgOf t r).capLast = c.num
              ∧ (rgOf t r).capSlot = s.sweep.capNext ∧ t.mem.tables = s.mem.tables))

/-- For every running state: the challenge of a hop that is the exchange to start leaves with 32 fresh bytes, the first time or once more; the answer, collected in two packets under their MIC, goes to the RSA unit, whose completion passes the hop and clears its marks when the signature holds under the hop's key, and else fails it with its cause; a time-out before the third sends the challenge again in the next frame, and lists a hop that is absent for its return; the third fails it; the routine round lists the next hop of the chain. Every other region is left alone. -/
def Obligations.NodeChallenges : Prop :=
  ∀ (s : State) (r : Region) (h n : Nat) (c sig : List Byte) (sent : Nat) (m : RegionMap) (v : MapHop) (a : List AirPart)
    (q : CryptoReq) (rest : List CryptoReq), Running s →
    let x := rgOf s r
    let now := nowNs s
    let asks (due : List Nat) (tries : Nat) : Prop := Ends (.nodeChallengeStart r h) s fun t =>
      t = { s with free := s.free + 1, region := s.region.set r (rgOf t r), air := t.air }
        ∧ rgOf t r = { x with
            chal := some (h, (List.range 32).map (Config.drawByte s.free), now, tries), chalDue := due, fc := (rgOf t r).fc }
        ∧ (radioOut s r = false → ∃ u, t.air = s.air ++ [u] ∧ u.region = r ∧ u.type = 5
          ∧ u.body = [BitVec.ofNat 8 h, 0x23] ++ (List.range 32).map (Config.drawByte s.free))
    let fails (i : Instr) (u : State) (y : RegionSt) : Prop := Ends i s fun t =>
      OnlyRegion { u with ident := { s.ident with failed := min 0xFFFF (s.ident.failed + 1) } } t r
        ∧ RegionIs t r (setHop y h fun z => { z with chalIdent := true, failAt := some now })
    let message := c ++ bytesLE 8 (if isLead s then moduleHash else s.twin.peerHash).toNat ++ bytesLE 4 m.mapId.toNat ++ [BitVec.ofNat 8 h]
    let ended : RegionSt := { x with spare := if x.spare = some (.collect h) then none else x.spare }
    (spareReady s r = some (.challenge h) →
      (x.chal = none → asks (x.chalDue.erase h) 1) ∧ (x.chal = some (h, c, sent, n) → asks (x.chalDue.erase h) (n + 1)))
      ∧ (spareReady s r ≠ some (.challenge h) → exec (.nodeChallengeStart r h) s = .next s)
      ∧ (x.chal = some (h, c, sent, n) → x.map = some m → x.spare = some (.collect h) → m.hops[h - 1]? = some v →
        ((takeParts s r h a (some [])).2 = some sig → a.length = 2 → Ends (.nodeChallengeAnswerRx r h a) s fun t =>
            t = { s with region := s.region.set r (rgOf t r), crypto := s.crypto ++ [⟨none, false, s.arb.seq, 0, 0, 0, message, sig, 0, .chal r h v.pub⟩] }
              ∧ (rgOf t r).chal = none ∧ (rgOf t r).spare = none ∧ (rgOf t r).hops = x.hops)
          ∧ ((takeParts s r h a (some [])).2 = none → Ends (.nodeChallengeAnswerRx r h a) s fun t =>
            t = { s with region := s.region.set r (rgOf t r) } ∧ (rgOf t r).chal = x.chal ∧ (rgOf t r).spare = x.spare))
      ∧ (∀ pub, s.crypto = q :: rest → q.job = .chal r h pub → partDown s 6 = false →
        let other := x.chal.filter fun y => y.1 != h
        (sigHolds pub q.data q.sig = true → Ends .cryptoComplete s fun t =>
            OnlyRegion { s with ident := { s.ident with passed := min 0xFFFF (s.ident.passed + 1) }, crypto := cryptoGrant rest } t r
              ∧ RegionIs t r { setHop x h fun y => { y with chalIdent := false, untrusted := false, failAt := none } with chal := other })
          ∧ (sigHolds pub q.data q.sig = false → fails .cryptoComplete { s with crypto := cryptoGrant rest } { x with chal := other }))
      ∧ (x.chal = some (h, c, sent, n) →
        (c ≠ [] → sent + 2000000000 ≤ now →
          (3 ≤ n → fails (.nodeChallengeTimeout r) s { ended with chal := none })
            ∧ (n < 3 → hopPresent x h = true → exec (.nodeChallengeTimeout r) s = .next { s with region := s.region.set r { ended with
                chal := some (h, [], sent, n), spareTried := .challenge h :: x.spareTried } })
            ∧ (n < 3 → hopPresent x h = false → exec (.nodeChallengeTimeout r) s = .next { s with region := s.region.set r { ended with
                chal := none, chalDue := if x.chalDue.contains h then x.chalDue else x.chalDue ++ [h] } }))
          ∧ (c = [] ∨ now < sent + 2000000000 → exec (.nodeChallengeTimeout r) s = .next s))
      ∧ (transmits s = true → hasMap s r = true → x.chalAt + s.ident.chalInt.toNat * 3600000000000 / max 1 (mapHops x) ≤ now →
        let hop := if mapHops x < x.chalNext then 1 else x.chalNext
        exec (.nodeChallengeRoutine r) s = .next { s with region := s.region.set r { x with
          chalAt := now, chalNext := hop + 1, chalDue := if x.chalDue.contains hop then x.chalDue else x.chalDue ++ [hop] } })

/-- For every running state that leads, with every contactor of the region open: START takes the region's map out of force and begins the survey, RESTITCH and RESEW_FROM call again at a hop of the chain, keeping or dropping the deeper hops; CONFIRM sends the key in two packets and FINISH between steps puts the signed map in force, at once where the RSA unit is free, else when it has served their request; REJECT takes the next-strongest answer or calls on; ABANDON puts the map kept before in force, or none where its signature fails. A module that does not lead refuses every one with 0x0A, one with a closed contactor with 0x09. -/
def Obligations.SewingCommands : Prop :=
  ∀ (s : State) (sess : Session) (r : Region) (hop : BitVec 5) (m : RegionMap) (a b : EnrolAnswer),
    Running s → isOperator s sess = true → hasRegion s r = true →
    let x := rgOf s r
    let w := x.sew
    let now := nowNs s
    let contactors : Bool := x.re.coilN || x.re.coilP || x.re.coilS
    let all : List Instr := [.sewStart sess r, .sewConfirm sess r, .sewReject sess r, .sewFinish sess r, .sewAbandon sess r,
      .sewRestitch sess r hop, .sewResewFrom sess r hop]
    let refuses (result : Byte) : Prop := ∀ i ∈ all, exec i s = .next { s with region := s.region.set r { x with sew := { w with result := result } } }
    let fitted (t : State) (free : Nat) : Prop := t = { s with free := free, region := t.region, sweep := { s.sweep with minN := t.sweep.minN } }
      ∧ ∀ q, q ≠ r → (rgOf t q).map = (rgOf s q).map ∧ (rgOf t q).frame = (rgOf s q).frame ∧ (rgOf t q).re = (rgOf s q).re
    let becomes (i : Instr) (y : RegionSt) : Prop := Ends i s fun t =>
      OnlyRegion { s with air := t.air } t r ∧ RegionIs t r { y with fc := (rgOf t r).fc }
    let left (t : State) (free : Nat) : Prop := ((∀ p, s.sweep.pack = some p → s.sweep.archDone = p.sweep) → fitted t free)
      ∧ t.free = free ∧ t.time = s.time ∧ t.wheel = s.wheel ∧ t.folio = s.folio ∧ t.mem.tables = s.mem.tables ∧ t.wk = s.wk ∧ t.bank = s.bank
      ∧ ∀ q, q ≠ r → (rgOf t q).map = (rgOf s q).map ∧ (rgOf t q).frame = (rgOf s q).frame ∧ (rgOf t q).re = (rgOf s q).re
    let calls (i : Instr) (tail : List MapHop) : Prop := Ends i s fun t => left t s.free ∧ (rgOf t r).map = none ∧ (rgOf t r).frame = none
      ∧ (rgOf t r).sew.step = (if hop = 1 then .call else .search)
      ∧ (rgOf t r).sew.deadline = now + (if hop = 1 then 5000000000 else 8000000000) ∧ (rgOf t r).sew.candHop = hop
      ∧ (rgOf t r).sew.draft = some { m with hops := m.hops.take (hop.toNat - 1) }
      ∧ (rgOf t r).sew.tail = tail
    let k := w.candHop.toNat
    let excl := a.idHash :: w.excluded
    (isLead s = false → refuses 0x0A) ∧ (isLead s = true → contactors = true → refuses 0x09)
      ∧ (isLead s = true → contactors = false →
        (Ends (.sewStart sess r) s fun t => left t (s.free + 3) ∧ (rgOf t r).map = none ∧ (rgOf t r).frame = none
            ∧ (rgOf t r).sew.step = .survey ∧ (rgOf t r).sew.deadline = now + 2000000000 ∧ (rgOf t r).sew.excluded = [])
          ∧ (w.step = .prompt → Ends (.sewConfirm sess r) s fun t =>
              OnlyRegion { s with air := t.air, crypto := t.crypto } t r
                ∧ RegionIs t r { x with sew := { w with result := 0, step := .keySent, deadline := now + 1000000000 }, fc := (rgOf t r).fc }
                ∧ (rsaFree s = true → t.crypto = s.crypto ∧ (w.draft = some m → radioOut s r = false → t.air.length = s.air.length + 2))
                ∧ (rsaFree s = false → t.air = s.air ∧ ∃ q, t.crypto = s.crypto ++ [q] ∧ q.worker = none ∧ q.job = .sewKey r))
          ∧ (w.step ≠ .prompt → exec (.sewConfirm sess r) s = .next s ∧ exec (.sewReject sess r) s = .next s)
          ∧ (w.step = .prompt → w.cand = some a → w.answers = [] → becomes (.sewReject sess r) { x with sew := { w with
              excluded := excl, result := 0, step := if k = 1 then .call else .search
              deadline := now + (if k = 1 then 5000000000 else 8000000000), cand := none, callAt := now } })
          ∧ (w.step = .prompt → w.cand = some a → strongest w.answers = some b → becomes (.sewReject sess r) { x with sew := { w with
              excluded := excl, result := 0, step := .challenge, deadline := now + 3000000000, cand := some b, candRssi := b.rssi
              chal := (List.range 32).map (Config.drawByte s.free), answers := w.answers.erase b } })
          ∧ (w.draft = some m → w.step = .between → m.hops ≠ [] → rsaFree s = false → exec (.sewFinish sess r) s = .next { s with
              region := s.region.set r { x with sew := { w with step := .finishing } }
              crypto := s.crypto ++ [⟨none, false, s.arb.seq, 0, 0, 0, [], [], 0, .sewMap r⟩] })
          ∧ (w.draft = some m → w.step = .between → m.hops ≠ [] → rsaFree s = true → Ends (.sewFinish sess r) s fun t =>
              (∃ n, (rgOf t r).map = some n ∧ n.mapId = m.mapId ∧ n.hops = m.hops ∧ n.aa = m.aa ∧ n.primary = m.primary)
                ∧ (rgOf t r).frame = none ∧ (rgOf t r).sew.step = .idle ∧ (rgOf t r).sew.draft = none
                ∧ (∀ q, q ≠ r → (rgOf t q).map = (rgOf s q).map) ∧ t.mem = s.mem ∧ t.time = s.time ∧ t.folio = s.folio)
          ∧ (w.draft = some m → w.step ≠ .between ∨ m.hops = [] → exec (.sewFinish sess r) s = .next { s with
              region := s.region.set r { x with sew := { w with result := 0x0B } } })
          ∧ (w.step ≠ .idle →
            let kept := if x.selB then x.copyB else x.copyA
            (∀ o, kept = some o → mapHolds s o = true → Ends (.sewAbandon sess r) s fun t => fitted t s.free
                ∧ (rgOf t r).map = some o ∧ (rgOf t r).frame = none ∧ (rgOf t r).sew = SewSt.init)
              ∧ (∀ o, kept = some o → mapHolds s o = false →
                RegionBecomes (.sewAbandon sess r) s r { x with sew := SewSt.init, map := none })
              ∧ (kept = none → exec (.sewAbandon sess r) s = .next { s with region := s.region.set r { x with sew := SewSt.init } }))
          ∧ (w.step = .idle ∨ w.step = .between → hop ≠ 0 →
            (w.draft = some m ∨ w.draft = none ∧ x.map = some m → hop.toNat ≤ m.hops.length →
                (w.tail = [] → calls (.sewRestitch sess r hop) (m.hops.drop hop.toNat)) ∧ calls (.sewResewFrom sess r hop) [])
              ∧ (w.draft = some m → hop.toNat = m.hops.length + 1 →
                calls (.sewRestitch sess r hop) w.tail ∧ calls (.sewResewFrom sess r hop) [])))

/-- For every running state: the survey's end takes the quiet channels and calls hop 1; calls go out every 10 ms; every packet of a node takes the receive stamp; an answer of a new identity is held, one that another region of this module holds is refused; at the end of the second of calls, or of the power step, that brought the first answer the strongest is challenged; a challenge answered under its certificate, once the RSA unit judges it, waits for the host, and one failed or late takes the next answer or calls on; the acknowledged key ranges the hop, or the head joins with its antenna delay where no deeper hops are kept, a wrong one counts in MIC_FAIL; a ranged hop joins the chain and the next is searched, hop 17 ends it; before kept hops a node ranges its own link and then that of the first of them, the head the latter alone, and the chain is whole; the steps that run out of time end with the result of R213. -/
def Obligations.SewingSteps : Prop :=
  ∀ (s : State) (r : Region) (energies : List Nat) (a b : EnrolAnswer) (z : ChallengeAnswer) (m : RegionMap) (mic : Word) (delay d : Half), Running s →
    let x := rgOf s r
    let w := x.sew
    let now := nowNs s
    let k := w.candHop.toNat
    let due := sewAsks s r = false ∧ w.deadline ≤ now
    let air := radioOut s r = false
    let heard : RegionSt := { x with rxStamp := rxStampNow s }
    let span := if k = 1 then 5000000000 else 8000000000
    let calling := w.step = .call ∨ w.step = .search
    let sets (i : Instr) (y : RegionSt) (v : SewSt) : Prop := exec i s = .next { s with region := s.region.set r { y with sew := v } }
    let goes (i : Instr) (y : RegionSt) (v : SewSt) : Prop := RegionBecomes i s r { y with sew := v }
    let sends (i : Instr) (y : RegionSt) (type n : Nat) (v : SewSt) : Prop := Ends i s fun t =>
      OnlyRegion { s with air := t.air } t r ∧ RegionIs t r { y with sew := v, fc := (rgOf t r).fc }
        ∧ (v.draft.isSome = true → radioOut s r = false → (rgOf t r).fc = x.fc + 1
          ∧ ∃ u, t.air = s.air ++ [u] ∧ u.region = r ∧ u.type = type ∧ u.fc = x.fc ∧ u.body.length = n)
    let called (v : SewSt) (k : Nat) (result : Byte) : SewSt := { v with
      result := result, step := if k = 1 then .call else .search, deadline := now + (if k = 1 then 5000000000 else 8000000000)
      candHop := BitVec.ofNat 5 k, answers := [], cand := none, callAt := now }
    let challenged (v : SewSt) (result : Byte) : SewSt := { v with
      result := result, step := .challenge, deadline := now + 3000000000, cand := some b, candRssi := b.rssi
      chal := (List.range 32).map (Config.drawByte s.free), answers := w.answers.erase b }
    let stops (result : Byte) : SewSt := { w with result := result, step := .between, deadline := now }
    let excluded : SewSt := { w with excluded := a.idHash :: w.excluded }
    let proven : Bool := hashOf z.pub == a.idHash && sigHolds nodeCa z.cert z.certSig && Config.certKey z.cert == some z.pub
      && sigHolds z.pub (w.chal ++ bytesLE 8 moduleHash.toNat) z.sig
    let c := pickChans s r energies
    let known : Bool := w.excluded.contains a.idHash || w.answers.any (fun y => y.idHash == a.idHash)
      || (match w.draft with
          | some m => (m.hops ++ w.tail).any fun h => h.idHash == a.idHash
          | none => false)
    let joined (d next : Half) : SewSt := { w with
      draft := some { m with hops := m.hops ++ [⟨k == 1, a.idHash, w.candPub, a.cells, a.sensors, d⟩] ++ relink w.tail next }
      cand := none, tail := [], ranged := none }
    let ant : Half := x.antDelay.setWidth 16
    let ends (v : SewSt) (result : Byte) : SewSt := { v with result := result, step := .between, deadline := now }
    (w.step = .survey → w.deadline ≤ now → goes (.sewSurveyEnd r energies) x (called { w with draft := w.draft.map fun m => { m with
          primary := BitVec.ofNat 6 c.1, alt1 := BitVec.ofNat 6 c.2.1, alt2 := BitVec.ofNat 6 c.2.2 } } 1 0))
      ∧ (w.step = .call → w.callAt ≤ now → sends (.enrolCallTx r) x 9 1 { w with callAt := now + 10000000 })
      ∧ (calling → air → a.elsewhere = false → a.head = (w.step == .call) → known = false →
        (heldElsewhere s r a.idHash = false → sets (.enrolAnswerRx r a) heard
            { w with answers := w.answers ++ [a], firstAt := if w.answers = [] then now else w.firstAt })
          ∧ (heldElsewhere s r a.idHash = true → sets (.enrolAnswerRx r a) heard { w with result := 0x07 }))
      ∧ (calling → strongest w.answers = some b → w.answers ≠ [] →
          (w.deadline - span) + ((w.firstAt - (w.deadline - span)) / 1000000000 + 1) * 1000000000 ≤ now →
          sends (.sewAnswerWindowEnd r) x 5 34 (challenged w 0))
      ∧ (due → (w.step = .call → w.answers = [] → goes (.sewNoAnswer r) x (stops 0x01))
          ∧ (w.step = .search → w.answers = [] → goes (.sewSearchTimeout r) x (stops 0x05))
          ∧ (w.step = .prompt → goes (.sewConfirmTimeout r) x (stops 0x03)) ∧ (w.step = .keySent → goes (.sewKeyTimeout r) x (stops 0x04))
          ∧ (w.step = .ranging → goes (.sewLinkFail r) x (stops 0x08))
          ∧ (w.step = .challenge → w.cand = some a →
            (w.answers = [] → goes (.sewChallengeTimeout r) x (called excluded k 0x02))
              ∧ (strongest w.answers = some b → sends (.sewChallengeTimeout r) x 5 34 (challenged excluded 0x02))))
      ∧ (w.step = .challenge → w.cand = some a → air →
        (rsaFree s = false → exec (.challengeAnswerRx r z) s = .next { s with
            region := s.region.set r heard, crypto := s.crypto ++ [⟨none, false, s.arb.seq, 0, 0, 0, [], [], 0, .sewProof r w.chal z⟩] })
          ∧ (rsaFree s = true →
            (proven = true → goes (.challengeAnswerRx r z) heard
                { w with candPub := z.pub, result := 0, step := .prompt, deadline := now + 120000000000 })
              ∧ (proven = false → (w.answers = [] → goes (.challengeAnswerRx r z) heard (called excluded k 0x02))
                ∧ (strongest w.answers = some b → sends (.challengeAnswerRx r z) heard 5 34 (challenged excluded 0x02)))))
      ∧ (w.step = .keySent → w.draft = some m → air →
        let own := Config.airMic m.key (airNonce r (airByte1 s.twin.sideB k) 0 0 0 0 m.mapId) []
        (own = mic → w.candHop ≠ 1 ∨ w.tail ≠ [] →
            goes (.keyAckRx r mic) heard { w with result := 0, step := .ranging, deadline := now + 1000000000 })
          ∧ (own = mic → w.candHop = 1 → w.tail = [] → w.cand = some a → goes (.keyAckRx r mic) heard (called (joined ant 0) 2 0))
          ∧ (own ≠ mic → exec (.keyAckRx r mic) s = .next { s with
              region := s.region.set r { heard with micFail := min 0xFFFF (x.micFail + 1) } }))
      ∧ (w.step = .ranging → w.cand = some a → w.draft = some m →
        let first := joined (if w.candHop = 1 then ant else delay) 0
        (w.tail = [] → k < 17 → goes (.sewRangingDone r delay) x (called first (k + 1) 0))
          ∧ (w.tail = [] → 17 ≤ k → goes (.sewRangingDone r delay) x (ends first 0x06))
          ∧ (w.tail ≠ [] → w.candHop = 1 → goes (.sewRangingDone r delay) x (ends (joined ant delay) 0))
          ∧ (w.tail ≠ [] → w.candHop ≠ 1 → w.ranged = none → sets (.sewRangingDone r delay) x { w with ranged := some delay })
          ∧ (w.tail ≠ [] → w.candHop ≠ 1 → w.ranged = some d → goes (.sewRangingDone r delay) x (ends (joined d delay) 0)))

/-- For every running state: a publish by a chip or pair writer applies the directory words written and begins, is held while another is built, is refused when it is not later or when no cell state table is named; its completion puts the windows of that sweep in force with PUB_LAST. A directory word waits for the next publish. EXPORT is taken while no export runs; the copy's end writes the image without its seal to the next buffer and hands it to the sessions that asked for it, behind what they have still to be sent; the seal follows in both and makes the next serial. RESTORE of a staged capping that fails a check shows the result, one that passes waits for a publish; the check waits for the RSA unit where that is not free. -/
def Obligations.PublishAndCapping : Prop :=
  ∀ (s : State) (who : Writer) (sess : Session) (n : Word) (k : Fin 8) (word : Fin 3) (v : Word) (b : List Byte) (t0 : Nat) (tables : List DirEntry)
    (q : CryptoReq) (rest : List CryptoReq), Running s →
    let e := s.est
    let now := nowNs s
    let dir := dirWith e.dir e.dirNext
    let becomes (i : Instr) (x : EstSt) : Prop := exec i s = .next { s with est := x }
    let named : Bool := dir.toList.any fun d => dirKind d == 1 && dirInside d
    let applied : EstSt := { e with dir := dir, dirNext := [] }
    let rejected (x : EstSt) (result : Byte) : EstSt := { x with rejects := min 0xFFFF (e.rejects + 1), pubResult := result }
    let stale : Bool := e.published && !(sweepAfterOf n e.pubLast)
    let staged := memRead s.mem.dram 0 e.restoreLen.toNat
    let check := restoreCheck s staged
    let bad : Bool := poisoned s 0 e.restoreLen.toNat && decide (0 < e.restoreLen.toNat)
    let idle := e.step = .idle ∧ e.restore = none ∧ rsaAsked s .restore = false ∧ s.folio.busy = .none
    let free := rsaFree s = true
    let place := bufPlace e.bufNext
    (chipWriter s who = true →
      (e.building = none →
        (stale = true → becomes (.estPublish who n) (rejected applied 0x01))
          ∧ (stale = false → named = true → becomes (.estPublish who n) { applied with building := some n, pubResult := 0 })
          ∧ (stale = false → named = false → becomes (.estPublish who n) (rejected applied 0x02)))
        ∧ (∀ m, e.building = some m → e.heldPub = none → becomes (.estPublish who n) { e with heldPub := some n, pubResult := 0x03 })
        ∧ (dirBad { s with est := { e with dirNext := e.dirNext ++ [(k, word, v)] } } (dirWith e.dir (e.dirNext ++ [(k, word, v)])) k = false →
          Ends (.directoryWrite who k word v) s fun t => t = { Logged s t with est := { e with dirNext := e.dirNext ++ [(k, word, v)] } })
        ∧ (e.step = .idle → becomes (.cappingExport who) { e with lastCmd := 1, exportAsked := true, capResult := 0 })
        ∧ (e.step ≠ .idle → becomes (.cappingExport who) { e with lastCmd := 1, capResult := 0x04 }))
      ∧ (e.building = none → exec .publishComplete s = .next s)
      ∧ (e.building = some n → e.restore = none → s.twin.estWait = [] → s.twin.xferStep ≠ 1 → exportDue s = false → e.heldPub = none →
        Ends .publishComplete s fun t =>
          t = { s with free := s.free + 129, net := t.net, region := t.region, est := { e with
                building := none, published := true, pubLast := n, pubAt := now, pubResult := 0
                cell := t.est.cell, summary := t.est.summary, weights := t.est.weights } }
            ∧ (∀ r, t.est.cell[r] = cellWindow s n r) ∧ (∃ w, t.est.summary = some w ∧ w.sweep = n)
            ∧ ∀ r, rgOf t r = { rgOf s r with hops := (rgOf s r).hops.map (settleIdent n) })
      ∧ (e.step = .copying b t0 tables → memoriesWf s → Ends .cappingCopyEnd s fun t =>
        t = { s with est := { e with step := .sealing b }, net := { s.net with sess := t.net.sess }
                     mem := { s.mem with dram := t.mem.dram, poison := t.mem.poison }
                     crypto := s.crypto ++ [⟨none, false, s.arb.seq, 0, 0, 0, [], [], 0, .seal⟩] }
          ∧ Overwrites s.mem.dram t.mem.dram place b
          ∧ ∀ k, sessOf t k = if (sessOf s k).takes then
              { sessOf s k with sending := (sessOf s k).sending ++ [(e.serial + 1, 0, b, false)] } else sessOf s k)
      ∧ (rsaServes s .seal = false → exec .cappingSealed s = .next s)
      ∧ (e.step = .sealing b → s.crypto = q :: rest → q.job = .seal → partDown s 6 = false → memoriesWf s → Ends .cappingSealed s fun t =>
        t = { s with free := s.free + 1, crypto := cryptoGrant rest, mem := { s.mem with dram := t.mem.dram, poison := t.mem.poison }, net := { s.net with sess := t.net.sess }
                     est := { e with step := .idle, serial := e.serial + 1, buf := BitVec.ofNat 32 place, len := BitVec.ofNat 32 (b.length + 400)
                                     bufNext := !e.bufNext, capResult := 0 } }
          ∧ ∃ sig, sig.length = 384 ∧
            let own := bytesLE 4 0x4C414553 ++ bytesLE 4 (e.serial + 1).toNat ++ bytesLE 8 0 ++ sig
            Overwrites s.mem.dram t.mem.dram (place + b.length) own
              ∧ ∀ k, sessOf t k = { sessOf s k with takes := false, sending := (sessOf s k).sending.map fun y =>
                  if y.1 = e.serial + 1 ∧ y.2.2.2 = false then (y.1, y.2.1, y.2.2.1 ++ own, true) else y })
      ∧ (isOperator s sess = true →
        (¬idle → becomes (.cappingRestore sess) { e with lastCmd := 2, capResult := 0x04 })
          ∧ (idle → ¬free → exec (.cappingRestore sess) s = .next { s with
              est := { e with lastCmd := 2 }, crypto := s.crypto ++ [⟨none, false, s.arb.seq, 0, 0, 0, [], [], 0, .restore⟩] })
          ∧ (idle → free → bad = true → becomes (.cappingRestore sess) { e with lastCmd := 2, capResult := 0x01 })
          ∧ (idle → free → bad = false → check.1 ≠ 0 → becomes (.cappingRestore sess) { e with lastCmd := 2, capResult := check.1 })
          ∧ (idle → free → bad = false → check.1 = 0 → Ends (.cappingRestore sess) s fun t =>
              t = { Logged s t with est := { e with lastCmd := 2, capResult := 0, restore := some (staged, now, check.2) } }))

/-- For every running state: HELLO with the module's own fields leaves while no session is open; a HELLO heard, also one that comes while the link of an open session is lost, is judged when the RSA unit serves it: a partner that is not admitted, not certified or of the same SIDE is refused with its result and no role changes but to STANDBY before service; otherwise the module that leads draws the session key, the other joins with its outputs released and numbers its sweeps as the lead does; no HELLO by 190 ms decides ALONE; the key exchange opens the session, or fails and leaves the roles; heartbeats leave ahead of other frames while it is open; of heartbeats and TWIN_HB, one missing alone is a lost link or a fault, both missing are the loss of the twin, after which a mirror or a joiner takes the lead, a joiner without a transfer with its regions OPEN, and a lead goes on ALONE; LINK_HOLD's end releases the mirror's outputs. -/
def Obligations.TwinAttach : Prop :=
  ∀ (s : State) (h : Hello) (m : KeyMsg), Running s →
    let x := s.twin
    let now := nowNs s
    let free := rsaFree s = true
    let up := x.detached = false ∧ x.role ≠ .standby ∧ s.power.origin + 120000000 ≤ now
    let calls := x.session = false ∧ up
    let hears := (x.session = false ∨ x.linkLost = true) ∧ up
    let admitted := (x.peer = 0 ∨ x.peer = h.idHash) ∧ certified h = true
    let same (t : State) : Prop := t.mem = s.mem ∧ t.folio = s.folio ∧ t.est = s.est ∧ t.net = s.net ∧ (cfgNat s 6 ≠ 1 → t.time = s.time)
    let id : Word := BitVec.ofNat 32 (ofBytesLE (unwrap m.block 0 4))
    let first := firstFrom { s with wheel := { s.wheel with count := h.wheel, followsTwin := true } } (now + 1) (h.wheel.toNat / s.sweep.n * s.sweep.n) 2
    let awaited := x.attaching = true ∨ x.session = true
    let ends (i : Instr) (takeovers : Nat) (P : State → Prop) : Prop := Ends i s fun t => t.twin.role = .alone ∧ t.twin.driveEn = true
      ∧ t.twin.session = false ∧ t.twin.present = false ∧ t.twin.takeovers = takeovers ∧ same t ∧ P t
    let lost (i : Instr) : Prop :=
      (x.role = .mirror → ends i (min 0xFFFF (x.takeovers + 1)) fun _ => True)
        ∧ (x.role = .joining → ends i (min 0xFFFF (x.takeovers + 1)) fun t => x.joinedXfer = false →
            ∀ r, hasRegion s r = true → isOpenable (reOf s r).state = true → (reOf t r).state = .opened)
        ∧ (x.role = .lead → ends i x.takeovers fun _ => True)
    (calls → exec .helloTx s = .next { s with twin := { x with out := x.out ++ [.hello (helloOf s)] } })
      ∧ (¬calls → exec .helloTx s = .next s)
      ∧ (¬hears → exec (.helloRx h) s = .next s)
      ∧ (hears → ¬free → Ends (.helloRx h) s fun t =>
          t = { Logged s t with crypto := s.crypto ++ [⟨none, false, t.arb.seq, 0, 0, 0, [], [], 0, .hello h⟩] })
      ∧ (hears → free →
        (¬admitted → x.session = false → TwinBecomes (.helloRx h) s { x with result := 0x06 })
          ∧ (¬admitted → Ends (.helloRx h) s fun t => same t ∧ t.twin.result = 0x06 ∧ t.twin.role = x.role ∧ t.twin.session = false)
          ∧ (admitted → h.sideB = x.sideB → x.result ≠ 0x05 → Ends (.helloRx h) s fun t => same t ∧ t.twin.result = 0x05
              ∧ t.twin.role = if x.inService then x.role else .standby)
          ∧ (admitted → h.sideB ≠ x.sideB → ¬(x.role = .yielded ∧ helloLeads h = false) →
            (decideLead s h = true → Ends (.helloRx h) s fun t => same t ∧ t.twin.attaching = true ∧ t.twin.peerHash = h.idHash
                ∧ t.twin.peer = (if x.peer = 0 then h.idHash else x.peer) ∧ t.twin.role = (if x.role = .undecided then .alone else x.role)
                ∧ t.twin.key = (List.range 32).map (Config.drawByte s.free) ∧ ∃ b, t.twin.out.getLast? = some (.key ⟨true, b⟩))
              ∧ (decideLead s h = false → Ends (.helloRx h) s fun t => same t ∧ t.twin.attaching = true ∧ t.twin.role = .joining
                ∧ t.twin.peerHash = h.idHash ∧ (x.role ≠ .joining ∨ x.attaching = false → t.twin.driveEn = false ∧ t.sweep.cur = h.sweep
                  ∧ t.wheel.count = h.wheel ∧ t.sweep.nextNum = sweepAfter h.sweep ((t.sweep.nextCycle - first) / s.sweep.n)
                  ∧ (isLead s = true → x.inService = true → ∀ c, hasChan s c = true → (chOf t c).cmd = 0)))))
      ∧ (x.role = .undecided → s.power.origin + 190000000 ≤ now → Ends .roleDecisionTimeout s fun t =>
        t = { Logged s t with bank := t.bank, sweep := { s.sweep with nextCycle := t.sweep.nextCycle }, time := t.time, region := t.region
                              twin := { x with role := .alone, driveEn := true, statesMatch := true, out := t.twin.out } }
          ∧ (cfgNat s 6 ≠ 1 → t.time = s.time)
          ∧ ∀ r, rgOf t r = { rgOf s r with frame := (rgOf s r).frame.map fun f => { f with mute := true } })
      ∧ (¬free → exec (.sessionKeyRx m) s = .next { s with crypto := s.crypto ++ [⟨none, false, s.arb.seq, 0, 0, 0, [], [], 0, .twinKey m⟩] })
      ∧ (free → awaited → m.fromLead = false → isLead s = true →
        (m.block.length = 384 → id ≠ x.idOwn → Ends (.sessionKeyRx m) s fun t => same t ∧ t.twin.role = .lead ∧ t.twin.session = true
            ∧ t.twin.attaching = false ∧ t.twin.idPeer = id ∧ t.twin.ctrIn = 0 ∧ t.twin.ctrOut = 0 ∧ t.twin.peerRole = 1
            ∧ .maps (mapsOf s) ∈ t.twin.out)
          ∧ (m.block.length ≠ 384 ∨ id = x.idOwn → TwinBecomes (.sessionKeyRx m) s { x with attaching := false, result := 0x06 }))
      ∧ (free → awaited → m.fromLead = true → x.role = .joining →
        (m.block.length = 384 → Ends (.sessionKeyRx m) s fun t => same t ∧ t.twin.role = .joining
            ∧ t.twin.session = true ∧ t.twin.attaching = false ∧ t.twin.ctrIn = 0 ∧ t.twin.ctrOut = 0 ∧ t.twin.key = unwrap m.block 0 32
            ∧ t.twin.idPeer = BitVec.ofNat 32 (ofBytesLE (unwrap m.block 32 4)) ∧ t.twin.idOwn ≠ t.twin.idPeer ∧ t.twin.peerRole = 3
            ∧ (x.retryAt = none → t.twin.out.getLast? = some .xferRequest))
          ∧ (m.block.length ≠ 384 → TwinBecomes (.sessionKeyRx m) s { x with attaching := false, result := 0x06 }))
      ∧ (x.session = true → exec .heartbeatTx s = .next { s with twin := { x with
          out := x.out.filter goesAhead ++ .heartbeat (heartbeatOf s) :: x.out.filter fun y => !(goesAhead y) } })
      ∧ (x.session = false → exec .heartbeatTx s = .next s ∧ exec .heartbeatLoss s = .next s ∧ exec .twinHbStill s = .next s)
      ∧ (x.session = true → hbMissing s = true → hbStill s = false →
        (x.linkLost = true → exec .heartbeatLoss s = .next s)
          ∧ (x.linkLost = false → x.thenRestart = none → (∀ w, waitOf (wkOf s w) = none) →
            (¬(x.role = .mirror ∧ cfgNat s 6 = 1) → TwinBecomes .heartbeatLoss s { x with
                linkLost := true, linkLostAt := now, present := false, xferBusy := false, xferStep := 0 })
              ∧ (x.role = .mirror → cfgNat s 6 = 1 → Ends .heartbeatLoss s fun t => t.twin.linkLost = true ∧ t.twin.present = false
                ∧ t.time.state ≠ .tracking ∧ t.time.state ≠ .sync)))
      ∧ (x.session = true → hbStill s = true → hbMissing s = false → x.hbFault = false → TwinBecomes .twinHbStill s { x with hbFault := true })
      ∧ (x.session = true → hbStill s = true → hbMissing s = true → x.grant = none → x.thenRestart = none →
          lost .heartbeatLoss ∧ lost .twinHbStill)
      ∧ TwinBecomes .twinHbEdge s { x with edgeAt := now, hbFault := false }
      ∧ (holdOut s = true → Ends .linkHoldExpiry s fun t => same t ∧ t.twin.role = .yielded ∧ t.twin.driveEn = false ∧ t.twin.rejoin = true
        ∧ ∀ c, hasChan s c = true → (chOf t c).cmd = 0)

/-- For every running state: a frame of the session's EtherType that is not accepted under its TYPE, SIDE, CTR and tag counts in GCM_FAIL and changes nothing else, and without a session, or under another EtherType, nothing at all. An accepted heartbeat shows the twin present, and after a lost link brings the mirror to JOINING; equal digests end the run of mismatches and let a joiner become mirror, different ones raise it, the third in a row of a lead with its mirror is a divergence; an open order of a lead, a mirror or a yielded twin opens the region as the twin opens it, a check failure is kept for the step it names; while the link is lost neither crosses; forwarded settings, restores and sleeps wait as the lead's do; frames and orders sent by the lead leave the shadow; records enter the recorder; messages reach their mailbox; a TIME frame is answered by the lead and corrects a mirror and a joiner; maps that verify come into force; transfers begin, arrive, are acknowledged and end; a grant is noted by a mirror alone. -/
def Obligations.TwinFrames : Prop :=
  ∀ (s : State) (f : TwinHdr) (hb : Heartbeat) (d a : Digest) (o : OpenOrder) (fw : Forward) (rt : Retire) (rc : FwdRecord) (w : Worker)
    (bytes : List Byte) (t1 t2 t3 t4 kib : Nat) (maps : List (Region × RegionMap)) (xf : Xfer) (last : Bool) (sweep : Word)
    (r : Region) (m : RegionMap) (port : Fin 4) (e : TxEntry) (p : PackRec), Running s →
    let x := s.twin
    let now := nowNs s
    let ok : TwinSt := { x with ctrIn := f.ctr }
    let all : List (Instr × Nat) := [(.heartbeatRx f hb, 2), (.digestRx f d, 3), (.openOrderRx f o, 4), (.checkFailRx f o, 4),
      (.forwardRx f fw, 5), (.retireRx f rt, 6), (.recordRx f rc, 7), (.mirMsgRx f w bytes, 8), (.timeFrameRx f t1 t2 t3 t4, 0xC),
      (.mapsRx f maps, 0xD), (.stateTransferRequest f, 9), (.xferSegmentRx f xf, 9), (.xferAckRx f kib last, 0xA), (.grantRx f sweep, 0xB)]
    let same (t : State) : Prop := t.mem = s.mem ∧ t.est = s.est ∧ t.net = s.net ∧ (cfgNat s 6 ≠ 1 → t.time = s.time)
    let compared : TwinSt := { ok with digPeer := (d :: x.digPeer).take 3, cmpOwn := some a, cmpPeer := some d }
    let matched : TwinSt := { compared with
      mismatch := 0, divRun := 0, matchRun := min 255 (x.matchRun + 1), xferTimes := if 2 ≤ x.matchRun then [] else x.xferTimes }
    let heeds := (x.peerRole = 2 ∨ x.peerRole = 3 ∨ x.peerRole = 4) ∧ x.linkLost = false
    let kib' (n : Nat) : Nat := min 0xFFFF ((n + 1023) / 1024)
    let lens := xferLens s
    let e0 := reOf s o.region
    (∀ i ∈ all,
      (x.session = true → f.etype = x.etypeNow → ¬FrameHolds s f i.2 →
          exec i.1 s = .next { s with twin := { x with gcmFail := min 0xFFFF (x.gcmFail + 1) } })
        ∧ (x.session = false ∨ f.etype ≠ x.etypeNow → exec i.1 s = .next s))
      ∧ (FrameHolds s f 2 →
        (x.linkLost = false → TwinBecomes (.heartbeatRx f hb) s { ok with
            hbAt := now, present := true, peerRole := hb.role, peerStatus := hb.modStatus
            hbMissed := min 0xFFFF (x.hbMissed + ((now - x.hbAt) / 1000000 - 1)) })
          ∧ (x.linkLost = true → Ends (.heartbeatRx f hb) s fun t => same t ∧ t.twin.linkLost = false ∧ t.twin.present = true
            ∧ (x.role = .mirror → t.twin.role = .joining ∧ t.twin.driveEn = false
              ∧ (x.retryAt = none → t.twin.out.getLast? = some .xferRequest))))
      ∧ (FrameHolds s f 3 → x.linkLost = true → TwinBecomes (.digestRx f d) s ok)
      ∧ (FrameHolds s f 3 → x.linkLost = false → (x.digOwn.find? fun y => y.sweep == d.sweep) = some a →
        (a = d → x.role ≠ .joining ∨ x.afterXfer = false ∨ x.matchRun ≠ 2 → TwinBecomes (.digestRx f d) s matched)
          ∧ (a = d → x.role = .joining → x.afterXfer = true → x.matchRun = 2 → Ends (.digestRx f d) s fun t => same t
              ∧ t.twin.role = .mirror ∧ t.twin.driveEn = true ∧ t.twin.statesMatch = true ∧ t.twin.mismatch = 0)
          ∧ (a ≠ d → x.divRun ≠ 2 → x.afterXfer = false → TwinBecomes (.digestRx f d) s { compared with
              mismatch := min 255 (x.mismatch + 1), divRun := x.divRun + 1, matchRun := 0 })
          ∧ (a ≠ d → x.divRun = 2 → leadAndMirror s = true → Ends (.digestRx f d) s fun t => same t
              ∧ t.twin.divergences = min 0xFFFF (x.divergences + 1) ∧ t.twin.mismatch = min 255 (x.mismatch + 1)))
      ∧ (FrameHolds s f 4 →
        (¬heeds → TwinBecomes (.openOrderRx f o) s ok ∧ TwinBecomes (.checkFailRx f o) s ok)
          ∧ (heeds →
            (isOpenable e0.state = true → Ends (.openOrderRx f o) s fun t => same t ∧ t.folio = s.folio
                ∧ (reOf t o.region).state = .weldCheck ∧ (reOf t o.region).coilS = false ∧ (reOf t o.region).coilP = false
                ∧ (reOf t o.region).negOffAt = some (now + 20000000) ∧ (o.isolate = true → (reOf t o.region).isolates.isSome = true))
              ∧ (isOpenable e0.state = false → o.isolate = false → TwinBecomes (.openOrderRx f o) s ok)
              ∧ ((e0.passed.find? fun y => y.1 == o.ticket) = none → Ends (.checkFailRx f o) s fun t =>
                t = { Logged s t with twin := { ok with out := t.twin.out }, region := s.region.set o.region { rgOf s o.region with
                      re := { e0 with peerFailed := (o.ticket :: e0.peerFailed).take 16 } } })))
      ∧ (FrameHolds s f 5 →
        (∀ len checked, fw = .restore len bytes checked → Ends (.forwardRx f fw) s fun t => t = { Logged s t with
              twin := { ok with out := t.twin.out }
              est := { s.est with restore := some (bytes.take len.toNat, ((checked : Int) - s.time.off).toNat, false) } })
          ∧ (fw = .sleep → canSleep s = true → Ends (.forwardRx f fw) s fun t =>
              t = { Logged s t with twin := { ok with out := t.twin.out }, power := { s.power with result := 0xFF, sleepAt := some (now + 10000000) } })
          ∧ (∀ v y, fw = .setting v sweep → fieldCheck s (fieldOf (bytesLE 8 v.toNat)) true = (y, true, 0) → Ends (.forwardRx f fw) s fun t => same t
              ∧ t.folio.pendingFields = s.folio.pendingFields ++ [⟨sweep, (fieldOf (bytesLE 8 v.toNat)).id, (fieldOf (bytesLE 8 v.toNat)).v, y, 0, 0⟩]
              ∧ t.cfg = s.cfg))
      ∧ (FrameHolds s f 6 →
        (isLead s = true → TwinBecomes (.retireRx f rt) s ok)
          ∧ (∀ id data, isLead s = false → rt = .can port id data →
            ((canOf s port).tx.find? fun y => frameIdWord y.frame == id && y.frame.data == data) = some e → Ends (.retireRx f rt) s fun t =>
              t = { Logged s t with twin := { ok with out := t.twin.out }
                                    can := s.can.set port { canOf s port with tx := (canOf s port).tx.erase e } }))
      ∧ (FrameHolds s f 7 → s.recd.queue.length < 4095 → recDegraded s.recd = false → rc.code &&& 0xDFFF ≠ 0xD642 →
          Ends (.recordRx f rc) s fun t => same t
              ∧ ∃ y, t.recd.queue.getLast? = some y ∧ y.code = rc.code ||| 0x2000 ∧ y.scope = rc.scope ∧ y.args = rc.args ∧ y.seq = t.arb.seq)
      ∧ (FrameHolds s f 8 →
        (waitOf (wkOf s w) = none → (x.mail.filter fun y => y.1 == w).length < 8 →
              TwinBecomes (.mirMsgRx f w bytes) s { ok with mail := x.mail ++ [(w, bytes)] })
          ∧ (∀ g y, (wkOf s w).state = .waiting → (wkOf s w).wait = some (.twin g y) → Ends (.mirMsgRx f w bytes) s fun t =>
              (wkOf t w).state = .ready ∧ (wkOf t w).scratch = memWrite (wkOf s w).scratch (y.toNat % 16384) bytes
                ∧ ∀ v, v ≠ w → wkOf t v = wkOf s v))
      ∧ (FrameHolds s f 0xC →
        (x.role = .mirror ∧ cfgNat s 6 = 1 ∨ x.role = .joining → Ends (.timeFrameRx f t1 t2 t3 t4) s fun t => t.mem = s.mem ∧ t.folio = s.folio
              ∧ t.time.lastOffset = satOffset (-(roundDiv (((t2 : Int) - (t1 + (s.net.lat[2] &&& 0xFFFF).toNat)) - ((t4 : Int) - (s.net.lat[2] >>> 16).toNat - t3)) 2)))
          ∧ (isLead s = true → Ends (.timeFrameRx f t1 t2 t3 t4) s fun t =>
              t = { Logged s t with twin := { ok with out := t.twin.out } } ∧ .time t1 t2 (netNs s) ∈ t.twin.out))
      ∧ (FrameHolds s f 0xD →
        (isLead s = true → TwinBecomes (.mapsRx f maps) s ok)
          ∧ (isLead s = false → maps = [(r, m)] → hasRegion s r = true → mapHolds s m = true → (∀ y, (rgOf s r).map = some y → y.mapId ≠ m.mapId) →
            Ends (.mapsRx f maps) s fun t => (rgOf t r).map = some m ∧ (rgOf t r).frame = none ∧ t.mem = s.mem ∧ t.time = s.time
              ∧ ∀ q, q ≠ r → (rgOf t q).map = (rgOf s q).map))
      ∧ (FrameHolds s f 9 →
        (isLead s = true → x.xferBusy = false → Ends (.stateTransferRequest f) s fun t => same t ∧ t.twin.xferBusy = true
              ∧ t.twin.xferStep = 1 ∧ t.twin.kibDone = 0 ∧ t.twin.kibTotal = kib' lens.sum ∧ ∃ l fs, t.twin.out = l ++
                [.xfer (.header s.sweep.nextNum s.wheel.count s.folio.runVer lens), .xfer (.maps (xferMaps s)), .xfer (.settings fs)])
          ∧ (x.role = .joining ∨ x.role = .mirror →
            (xf = .estimator bytes → TwinBecomes (.xferSegmentRx f xf) s { ok with
                estWait := bytes, xferBytes := x.xferBytes + bytes.length, kibDone := kib' (x.xferBytes + bytes.length) })
              ∧ (xf = .tail [] true → TwinBecomes (.xferSegmentRx f xf) s { ok with
                kibDone := kib' x.xferBytes, xferBusy := false, transfers := min 0xFFFF (x.transfers + 1)
                xferTimes := (now :: x.xferTimes).take 8, afterXfer := true, joinedXfer := true, matchRun := 0, divRun := 0 })))
      ∧ (FrameHolds s f 0xA → isLead s = true → x.xferBusy = true → x.thenRestart = none → TwinBecomes (.xferAckRx f kib last) s (if last then
              { ok with kibDone := kib % 65536, xferBusy := false, divRun := 0, transfers := min 0xFFFF (x.transfers + 1) }
              else { ok with kibDone := kib % 65536 }))
      ∧ (FrameHolds s f 0xB → TwinBecomes (.grantRx f sweep) s (if x.role = .mirror then { ok with grant := some sweep } else ok))
      ∧ (digestDue s = some p → Ends .digestSnapshot s fun t => same t ∧ t.folio = s.folio ∧ t.twin.digOwn = (digestOf s p :: x.digOwn).take 3)
      ∧ (∀ u, x.retryAt = some u → u ≤ now → x.role = .joining → x.session = true → exec .transferRetryTimer s = .next { s with
          twin := { x with retryAt := some (now + 60000000000), out := x.out ++ [.xferRequest] } })

/-- For every running state: YIELD in a lead with a healthy mirror, no transfer and no grant sends the grant of the sweep 5 ms away, and otherwise shows why not; DETACH of a lead that can yield does so first, of a mirror, a joiner or a yielded module ends its session and releases its outputs, and is refused in any other; RESUME of a yielded module joins again while the partner leads; ADMIT and FORGET set the peer. At the frame origin of the sweep granted the lead becomes YIELDED, with every channel commanded OFF, and the mirror LEAD. -/
def Obligations.TwinCommands : Prop :=
  ∀ (s : State) (who : Writer) (sess : Session) (r : Region), Running s →
    let x := s.twin
    let becomes (i : Instr) (y : TwinSt) : Prop := exec i s = .next { s with twin := y }
    let shows (cmd result : Byte) : TwinSt := { x with lastCmd := cmd, result := result }
    let refusal : Byte := if isLead s = false ∨ x.grant ≠ none then 0x01 else if x.xferBusy = true then 0x04 else 0x02
    let can := canYield s = true ∧ x.xferBusy = false
    let granted : List TwinOut := if x.session then x.out ++ [.grant (grantSweep s)] else x.out
    let released (t : State) : Prop := t.twin.role = .yielded ∧ t.twin.driveEn = false ∧ ∀ c, hasChan s c = true → (chOf t c).cmd = 0
    let same (t : State) : Prop := t.mem = s.mem ∧ t.folio = s.folio ∧ t.est = s.est ∧ t.net = s.net ∧ (cfgNat s 6 ≠ 1 → t.time = s.time)
    let leaves := x.role = .mirror ∨ x.role = .yielded ∨ x.role = .joining
    (pairWriter s who = true →
      (can → becomes (.twinYield who) { shows 0x01 0xFF with grant := some (grantSweep s), out := granted })
        ∧ (¬can → becomes (.twinYield who) (shows 0x01 refusal))
        ∧ (can → becomes (.twinDetach who) { shows 0x02 0xFF with thenDetach := true, grant := some (grantSweep s), out := granted })
        ∧ (isLead s = true → ¬can → becomes (.twinDetach who) (shows 0x02 (if refusal = 0x04 then 0x04 else 0x02)))
        ∧ (leaves → Ends (.twinDetach who) s fun t => same t ∧ released t ∧ t.twin.session = false
            ∧ t.twin.present = false ∧ t.twin.detached = true ∧ t.twin.lastCmd = 0x02 ∧ t.twin.result = 0)
        ∧ (isLead s = false → ¬leaves → becomes (.twinDetach who) (shows 0x02 0x03))
        ∧ (x.role ≠ .yielded ∨ (x.peerRole ≠ 0 ∧ x.peerRole ≠ 3) → becomes (.twinResume who) (shows 0x03 0x02))
        ∧ (x.role = .yielded → x.peerRole = 0 ∨ x.peerRole = 3 →
          (x.session = false → becomes (.twinResume who) { shows 0x03 0 with detached := false })
            ∧ (x.session = true → Ends (.twinResume who) s fun t => same t ∧ t.twin.role = .joining ∧ t.twin.driveEn = false
              ∧ t.twin.lastCmd = 0x03 ∧ t.twin.result = 0 ∧ t.twin.out.getLast? = some .xferRequest)))
      ∧ (isOperator s sess = true →
        becomes (.twinAdmit sess) { shows 0x04 0 with peer := BitVec.ofNat 64 (x.admitHi.toNat * 4294967296 + x.admitLo.toNat) }
          ∧ becomes (.twinForget sess) { shows 0x05 0 with peer := 0 })
      ∧ (originDue s r = true → grantDue s = true → (x.sideB && dualLeads s) = false →
        (x.role = .mirror → Ends (.beaconTx r) s fun t => same t ∧ t.twin.role = .lead ∧ t.twin.driveEn = true ∧ t.twin.grant = none
            ∧ t.twin.peerRole = 4 ∧ ∃ f, (rgOf t r).frame = some f ∧ f.sweep = s.sweep.nextNum)
          ∧ (x.role = .lead → x.thenRestart = none → x.thenDetach = false → (∀ w, (wkOf s w).actDue = false) → Ends (.beaconTx r) s fun t => same t ∧ released t
            ∧ t.twin.grant = none ∧ t.twin.yields = min 0xFFFF (x.yields + 1) ∧ t.twin.peerRole = 3
            ∧ ∃ f, (rgOf t r).frame = some f ∧ f.sweep = s.sweep.nextNum))
      ∧ (originDue s r = true → grantDue s = false → isLead s = true → x.sideB = true → dualLeads s = true → x.thenRestart = none →
          x.thenDetach = false → (∀ w, (wkOf s w).actDue = false) → Ends (.beaconTx r) s fun t => same t ∧ released t ∧ t.air = s.air)

/-- For every state in which the switch runs, and for PTP and addresses in every running state: a link takes its speed; the first Announce of a domain makes its sender the master, its Sync corrects network time and asks for the delay, the delay measured is taken, and silence returns to listening; Pdelay_Req is answered in the power profile; the transparent clock forwards with the residence time on two 1000BASE-T ports; a bridged frame teaches its source and leaves by the other port, an entry of 300 s leaves the table; ARP and ICMP requests for the address in force are answered, and a DHCP lease sets it. -/
def Obligations.EthernetAndPtp : Prop :=
  ∀ (s : State) (port3' : Fin 3) (speed : BitVec 3) (port : Fin 2) (a : PtpAnnounce) (y : PtpSync) (domain : Byte) (delay target : Word) (kind : PtpEvent)
    (residence : Nat) (src dst : BitVec 48) (lease : Option Word) (icmp : Bool),
    let n := s.net
    let net (i : Instr) (x : NetSt) : Prop := exec i s = .next { s with net := x }
    let nets (i : Instr) (x : NetSt) : Prop := Ends i s fun t => t = { Logged s t with net := x }
    let v : BitVec 4 := if speed = 0 then 0 else BitVec.ofNat 4 (8 + speed.toNat)
    let ours (p : Fin 2) (d : Byte) : Prop := ptpOn s = true ∧ ptpUses s p = true ∧ d.toNat = ptpDomain s
    let other := port + 1
    let two := gigabit s port = true ∧ gigabit s other = true
    let corrects := n.tcEn = true ∧ two ∧ partDown s 5 = false
    let between := residence + bitsOf n.lat[port3 other] 15 0 + bitsOf n.lat[port3 port] 31 16
    let forwards (x : NetSt) (added : Nat) : NetSt := { x with out := n.out ++ [.ptpForward other kind added] }
    let learned : List (BitVec 48 × Fin 2 × Nat) :=
      let rest := n.bridge.filter fun z => z.1 != src
      if rest.length < 1024 ∧ src.getLsbD 0 = false then (src, port, nowNs s) :: rest else n.bridge
    (switchRuns s = true → speed.toNat < 4 →
      (n.link[port3'] = v ∨ (port3' = 2 ∧ speed ≠ 0 ∧ speed ≠ 3) → exec (.ethLinkChange port3' speed) s = .next s)
        ∧ (n.link[port3'] ≠ v → port3'.val < 2 ∨ speed = 0 ∨ speed = 3 →
          (2 ≤ port3'.val ∨ v = 0xB ∨ ptpPort s ≠ 2 → nets (.ethLinkChange port3' speed) { n with link := n.link.set port3' v })
            ∧ (port3'.val < 2 → v ≠ 0xB → ptpPort s = 2 → Ends (.ethLinkChange port3' speed) s fun t =>
              t = { Logged s t with time := { s.time with utc := t.time.utc }, net := { n with
                  link := n.link.set port3' v, masters := n.masters.filter fun m => m.port.val != port3'.val
                  gmClass := t.net.gmClass, gm := t.net.gm, ptpState := t.net.ptpState, slavePort := t.net.slavePort } })))
      ∧ (switchRuns s = true → linkUp s other = false ∨ kind = .pdelay → exec (.tcForward port kind residence) s = .next s)
      ∧ (switchRuns s = true → linkUp s other = true → kind = .delayReq ∨ kind = .sync false →
        (corrects → net (.tcForward port kind residence) (forwards { n with corrected := min 0xFFFF (n.corrected + 1) } between))
          ∧ (¬corrects → net (.tcForward port kind residence) (forwards { n with uncorr := min 0xFFFF (n.uncorr + 1) } 0)))
      ∧ (switchRuns s = true → linkUp s other = true → kind = .sync true → corrects →
          net (.tcForward port kind residence) (forwards { n with residence := n.residence.set port (some between) } 0))
      ∧ (switchRuns s = true → linkUp s other = true → kind = .sync true → ¬corrects → net (.tcForward port kind residence)
          (forwards { n with uncorr := min 0xFFFF (n.uncorr + 1), residence := n.residence.set port none } 0))
      ∧ (switchRuns s = true → linkUp s other = true → kind = .followUp → n.residence[port] = none →
          net (.tcForward port kind residence) (forwards n 0))
      ∧ (∀ z, switchRuns s = true → linkUp s other = true → kind = .followUp → n.residence[port] = some z → net (.tcForward port kind residence)
          (forwards { n with corrected := min 0xFFFF (n.corrected + 1), residence := n.residence.set port none } z))
      ∧ (switchRuns s = true → linkUp s other = true → dst ≠ Config.mac → (learned.find? fun z => z.1 == dst) = none →
          net (.bridgeFrameRx port src dst) { n with bridge := learned, out := n.out ++ [.bridged other src dst] })
      ∧ (switchRuns s = true → net (.bridgeAddressAgeOut src) { n with
          bridge := n.bridge.filter fun z => !(z.1 == src && decide (z.2.2 + 300000000000 ≤ nowNs s)) })
      ∧ (Running s →
        (ours a.port a.domain → n.masters = [] → Ends (.ptpAnnounceRx a) s fun t => t = { Logged s t with
            time := { s.time with utc := a.utc }
            net := { n with masters := [a], gmClass := a.clockClass, gm := a.gm, ptpState := 2, slavePort := a.port } })
          ∧ (∀ b, bestMaster n.masters = some b → b.sender = y.sender → b.port = y.port → ours y.port y.domain → Ends (.ptpSyncRx y) s fun t =>
              t.net = { n with ptpState := 3, slavePort := y.port, out := n.out ++ [.delayReq y.port] } ∧ t.mem = s.mem ∧ t.folio = s.folio
                ∧ t.time.lastOffset = satOffset ((netNs s : Int) - y.age - bitsOf n.lat[port3 y.port] 31 16 - (y.origin + y.corr + n.path.toNat)))
          ∧ (ours port domain → n.slavePort = port → 2 ≤ n.ptpState.toNat → net (.ptpDelayRespRx port domain delay) { n with
              path := BitVec.ofInt 32 (roundDiv (2 * (delay.toNat : Int) - bitsOf n.lat[port3 port] 31 16 - bitsOf n.lat[port3 port] 15 0) 2) })
          ∧ (ptpOn s = true → ptpPower s = true → gigabit s port = true → partDown s 5 = false → net (.ptpPdelayReqRx port) { n with out := n.out ++ [.pdelayResp port] })
          ∧ (ptpOn s = false ∨ ptpPower s = false ∨ gigabit s port = false ∨ partDown s 5 = true → exec (.ptpPdelayReqRx port) s = .next s)
          ∧ (¬ours y.port y.domain ∨ bestMaster n.masters = none → exec (.ptpSyncRx y) s = .next s)
          ∧ (ptpOn s = false ∨ n.ptpState.toNat < 2 → exec .ptpAnnounceTimeout s = .next s)
          ∧ (ptpOn s = true → 2 ≤ n.ptpState.toNat → Ends .ptpAnnounceTimeout s fun t =>
              t = { Logged s t with time := { s.time with state := t.time.state, good := 0 }, net := { n with masters := [], gmClass := 0, gm := 0, ptpState := 1 } }
                ∧ t.time.state ≠ .tracking ∧ t.time.state ≠ .sync)
          ∧ (target = n.ipNow → target ≠ 0 → s.therm.bistOut.getLsbD 5 = false → net (.arpIcmpRequest icmp target) { n with
              out := n.out ++ [if icmp then .icmpReply target else .arpReply target] })
          ∧ (target ≠ n.ipNow ∨ s.therm.bistOut.getLsbD 5 = true → exec (.arpIcmpRequest icmp target) s = .next s)
          ∧ (bitsOf n.ctrlNow 1 0 = 1 → s.therm.bistOut.getLsbD 5 = false → net (.dhcpv4Lease lease) { n with ipNow := lease.getD 0 })
          ∧ (bitsOf n.ctrlNow 1 0 ≠ 1 ∨ s.therm.bistOut.getLsbD 5 = true → exec (.dhcpv4Lease lease) s = .next s))

/-- For every running state: a connection takes the lowest free TLS slot once the window is ready and is reset otherwise; a handshake with an admitted certificate opens the session with its role, any other end of it, and 5 s without one, frees the slot and counts; nothing of these comes while the Ethernet partition is out of service; CLOSE, 60 s without a message and a disconnected USB free the slot of an open session with everything it held; USB enumerates as MONITOR, UNLOCK draws a challenge, VERIFY proves it or draws another, once the RSA unit is granted, LOCK and 15 minutes without a message take the role away; 2 s of a full queue abandon a capping. -/
def Obligations.HostSessions : Prop :=
  ∀ (s : State) (slot : Fin 8) (k : Session) (i : Fin 16) (op : Bool) (cert : List Byte) (alert : Byte) (tag : BitVec 16) (t0 : Nat), Running s →
    let n := s.net
    let now := nowNs s
    let h := tlsSession slot
    let usb := sessOf s 8
    let x := sessOf s k
    let failed : NetSt := { n with tlsFail := min 0xFFFF (n.tlsFail + 1) }
    let sets (c : Instr) (q : Session) (y : SessSt) : Prop := Ends c s fun t => t = { Logged s t with net := { n with sess := n.sess.set q y } }
    let fresh : SessSt := { SessSt.init with state := .opened, lastMsg := now }
    let frees (c : Instr) (q : Session) : Prop := Ends c s fun t => SessionFreed s t q n
    let chal : List Byte := n.chal.toList.flatMap fun v => bytesLE 4 v.toNat
    let proves : Bool := n.unlocking && !(poisoned s 0 384) && Config.rsaVerify s.ident.serviceKey (sha256 chal) (memRead s.mem.dram 0 384)
    let heard : SessSt := { usb with lastMsg := now }
    let drawn (t : State) : Prop := t.net.chal.toList.flatMap (fun v => bytesLE 4 v.toNat) = (List.range 32).map (Config.drawByte s.free)
    let eth := s.therm.bistOut.getLsbD 5 = false
    (s.power.hostReady = true → eth → (sessOf s h).state = .closed → (∀ j : Fin 8, j < slot → (sessOf s (tlsSession j)).state ≠ .closed) →
        exec .tcpConnect s = .next { s with net := { n with sess := n.sess.set h { SessSt.init with state := .handshake now } } })
      ∧ (eth → s.power.hostReady = false ∨ (∀ j : Fin 8, (sessOf s (tlsSession j)).state ≠ .closed) →
        exec .tcpConnect s = .next { s with net := { n with out := n.out ++ [.tcpReset], refused := min 0xFFFF (n.refused + 1) } })
      ∧ ((sessOf s h).state = .handshake t0 →
        (eth → s.ident.trust[i] = some (op, cert) → (∀ j : Fin 16, j < i → ∀ o, s.ident.trust[j] ≠ some (o, cert)) →
          sets (.tlsHandshakeDone slot (.done cert)) h { fresh with operator := op, entry := some i })
          ∧ (eth → (∀ j : Fin 16, ∀ o, s.ident.trust[j] ≠ some (o, cert)) →
            Ends (.tlsHandshakeDone slot (.done cert)) s fun t => SessionFreed { s with free := s.free + 1 } t h failed)
          ∧ (eth → Ends (.tlsHandshakeDone slot (.fail alert)) s fun t => SessionFreed s t h failed)
          ∧ (t0 + 5000000000 ≤ now → Ends (.tlsHandshakeTimeout slot) s fun t => SessionFreed s t h failed)
          ∧ (now < t0 + 5000000000 → exec (.tlsHandshakeTimeout slot) s = .next s))
      ∧ ((sessOf s h).state = .closed ∨ (sessOf s h).state = .opened → exec (.tlsHandshakeDone slot (.done cert)) s = .next s
        ∧ exec (.tlsHandshakeDone slot (.fail alert)) s = .next s ∧ exec (.tlsHandshakeTimeout slot) s = .next s)
      ∧ (¬eth → exec .tcpConnect s = .next s ∧ (∀ y, exec (.tlsHandshakeDone slot y) s = .next s) ∧ (k.val < 8 → exec (.hostClose k tag) s = .next s))
      ∧ (x.state = .opened → (k.val = 8 ∨ eth → frees (.hostClose k tag) k) ∧ (k.val < 8 → x.lastMsg + 60000000000 ≤ now → frees (.sessionIdleTimeout k) k))
      ∧ (x.state ≠ .opened → exec (.hostClose k tag) s = .next s ∧ exec (.sessionIdleTimeout k) s = .next s)
      ∧ (k.val = 8 ∨ now < x.lastMsg + 60000000000 → exec (.sessionIdleTimeout k) s = .next s)
      ∧ (x.stallSince = some t0 → t0 + 2000000000 ≤ now → exec (.cappingQueueStall k) s = .next { s with net := { n with
          abandoned := min 0xFFFF (n.abandoned + 1), sess := n.sess.set k { x with sending := x.sending.drop 1, stallSince := none } } })
      ∧ (x.stallSince = none ∨ (x.stallSince = some t0 ∧ now < t0 + 2000000000) → exec (.cappingQueueStall k) s = .next s)
      ∧ (s.power.hostReady = true → usb.state = .closed → sets .usbEnumerate 8 fresh)
      ∧ (s.power.hostReady = false ∨ usb.state ≠ .closed → exec .usbEnumerate s = .next s)
      ∧ (usb.state ≠ .opened → ∀ c ∈ [Instr.usbDisconnect, .usbUnlock, .usbVerify, .usbLock, .usbRoleLapse], exec c s = .next s)
      ∧ (usb.state = .opened → frees .usbDisconnect 8
        ∧ (usb.revoked = false →
          (Ends .usbUnlock s fun t => drawn t ∧ t = { s with
              free := s.free + 1, net := { n with sess := n.sess.set 8 heard, chal := t.net.chal, unlocking := true } })
            ∧ (rsaFree s = false → exec .usbVerify s = .next { s with
              net := { n with sess := n.sess.set 8 heard }, crypto := s.crypto ++ [⟨none, false, s.arb.seq, 0, 0, 0, [], [], 0, .usb⟩] })
            ∧ (rsaFree s = true → proves = true → Ends .usbVerify s fun t => t = { Logged s t with
              net := { n with sess := n.sess.set 8 { heard with operator := true }, unlocking := false } })
            ∧ (rsaFree s = true → proves = false → Ends .usbVerify s fun t => drawn t ∧ t = { Logged s t with
              free := s.free + 1, net := { n with sess := n.sess.set 8 heard, chal := t.net.chal, unlocking := true } })
            ∧ (usb.operator = true → sets .usbLock 8 { heard with operator := false })
            ∧ (usb.operator = false → exec .usbLock s = .next { s with net := { n with sess := n.sess.set 8 heard } }))
        ∧ (usb.operator = true → usb.lastMsg + 900000000000 ≤ now → sets .usbRoleLapse 8 { usb with operator := false })
        ∧ (usb.operator = false ∨ now < usb.lastMsg + 900000000000 → exec .usbRoleLapse s = .next s))

/-- For every running state: a message of a session that is not open changes nothing, nor one of a TLS session while the Ethernet partition is out of service, one of a session that lost its trust entry closes it. Of an open session, every message restarts its 60 s; READ answers with the words of a register or the bytes of DRAM under a descriptor, or with the status of what is wrong with its range; WRITE from a MONITOR is denied, from an OPERATOR it stores to the staging area or writes the register, and answers whether the value stands, was clamped or was ignored; DESC and SUBSCRIBE take effect and answer; PING answers with network time; a type that R423 does not define is answered as such, and a length beyond the limit closes the session. -/
def Obligations.HostMessages : Prop :=
  ∀ (s : State) (k : Session) (tag : BitVec 16) (addr bytes base len mask mlen v : Word) (ws : List Word) (idx type : Byte) (wr : Bool), Running s →
    let x := sessOf s k
    let heard : SessSt := { x with lastMsg := nowNs s }
    let put (y : SessSt) : NetSt := { s.net with sess := s.net.sess.set k y }
    let said (m : HostMsg) : SessSt := { heard with out := x.out ++ [m] }
    let u : State := { s with net := put heard }
    let answers (c : Instr) (m : HostMsg) : Prop := exec c s = .next { s with net := put (said m) }
    let all : List Instr := [.hostRead k tag addr bytes, .hostWrite k tag addr ws, .hostDesc k tag idx wr base len, .hostSubscribe k tag mask,
      .hostPing k tag, .badType k tag type mlen]
    let a := addr.toNat
    let read := Instr.hostRead k tag addr bytes
    let write := Instr.hostWrite k tag addr ws
    let one := Instr.hostWrite k tag addr [v]
    let shaped (b : Nat) := 4 ≤ b ∧ b ≤ 65536 ∧ a % 4 = 0 ∧ b % 4 = 0
    let covers (b : Nat) (w : Bool) : Prop := ∃ j : Fin 4, ∃ d, x.desc[j] = some d ∧ d.base ≤ a - 0x20000000 ∧ a - 0x20000000 + b ≤ d.base + d.len ∧ (w = true → d.wr = true)
    let hole (b : Nat) : Prop := ∃ i, i < b / 4 ∧ hostMapped (a + 4 * i) = false
    let faulty (c : Instr) (b : Nat) (m : Byte → HostMsg) : Prop :=
      (b < 4 ∨ 65536 < b → answers c (m 0x08))
        ∧ (4 ≤ b → b ≤ 65536 → a % 4 ≠ 0 ∨ b % 4 ≠ 0 → answers c (m 0x05))
        ∧ (shaped b → a < 0x20000000 → 0x20000000 < a + b → answers c (m 0x08))
        ∧ (shaped b → 0x20000000 ≤ a → ¬covers b false → answers c (m 0x06))
        ∧ (shaped b → a + b ≤ 0x20000000 → hole b → answers c (m 0x04))
    let lone := a % 4 = 0 ∧ a < 0x20000000 ∧ hostMapped a = true ∧ winOf a = none ∧ structOf s a = none
    let busy := s.folio.busy ≠ .none ∨ (∃ r, (rgOf s r).nfw.step ≠ 0 ∧ (rgOf s r).nfw.step ≠ 3) ∨ s.est.restore ≠ none ∨ rsaAsked s .restore = true
    let wrote (status : Byte) (clamped : Nat) (first : Word) : NetSt := put (said (.writeResp tag status clamped first))
    let low : Nat := bitsOf v 13 0
    let reached := k.val = 8 ∨ s.therm.bistOut.getLsbD 5 = false
    (x.state ≠ .opened ∨ ¬reached → ∀ c ∈ all, exec c s = .next s)
      ∧ (x.state = .opened → reached → x.revoked = true → ∀ c ∈ all, Ends c s fun t => SessionFreed s t k s.net)
      ∧ (x.state = .opened → reached → x.revoked = false →
        answers (.hostPing k tag) (.pong tag (netNow s))
        ∧ faulty read bytes.toNat (fun b => .readResp tag b [])
        ∧ (shaped bytes.toNat → 0x20000000 ≤ a → covers bytes.toNat false → s.mem.hostPoison ≤ 0xFFFF → poisoned s (a - 0x20000000) bytes.toNat = false →
          answers read (.readResp tag 0 (memRead s.mem.dram (a - 0x20000000) bytes.toNat)))
        ∧ (lone → (regAcc s a ≠ .wo → answers (.hostRead k tag addr 4) (.readResp tag 0 (bytesLE 4 (liveWord u a).toNat)))
          ∧ (regAcc s a = .wo → answers (.hostRead k tag addr 4) (.readResp tag 0x02 [])))
        ∧ (65544 < 4 + 4 * ws.length → Ends write s fun t => SessionFreed s t k s.net)
        ∧ (4 + 4 * ws.length ≤ 65544 →
          (x.operator = false → k ≠ 8 → answers write (.writeResp tag 0x03 0 0))
          ∧ (x.operator = true → faulty write (4 * ws.length) (fun b => .writeResp tag b 0 0)
            ∧ (shaped (4 * ws.length) → 0x20000000 ≤ a → covers (4 * ws.length) false →
              (¬covers (4 * ws.length) true → answers write (.writeResp tag 0x03 0 0))
              ∧ (covers (4 * ws.length) true →
                (busy → answers write (.writeResp tag 0x07 0 0))
                ∧ (¬busy → s.mem.poison = [] → memoriesWf s → Ends write s fun t =>
                  t = { Logged s t with mem := { s.mem with dram := t.mem.dram }, net := wrote 0 0 0xFFFFFFFF }
                    ∧ Overwrites s.mem.dram t.mem.dram (a - 0x20000000) (ws.flatMap fun y => bytesLE 4 y.toNat))))))
        ∧ (x.operator = true →
          (a = 0xB0030 → Ends one s fun t => t = { Logged s t with
              mem := { s.mem with zeroBase := BitVec.ofNat 32 (v.toNat / 64 * 64) }, net := wrote 0 0 0xFFFFFFFF })
          ∧ (a = 0x90110 → 500 ≤ low → low ≤ 10000 → Ends one s fun t => t = { Logged s t with
              power := { s.power with grace := BitVec.ofNat 32 low }, net := wrote 0 0 0xFFFFFFFF })
          ∧ (a = 0x90110 → low < 500 → Ends one s fun t => t = { Logged s t with
              power := { s.power with grace := 500 }, net := wrote 0x01 1 0
              folio := { s.folio with clamp := { s.folio.clamp with
                ring := (⟨t.arb.seq, 0x90110, v, 500, 0x6000, 0x03, 0x02⟩ :: s.folio.clamp.ring).take 1024
                runCount := min 0xFFFF (s.folio.clamp.runCount + 1) } } })
          ∧ (a % 4 = 0 → a < 0x20000000 → hostMapped a = true → a ≠ 0x60070 → regAcc s a = .ro ∨ regAcc s a = .hole → Ends one s fun t =>
              t = { Logged s t with net := wrote 0x02 0 0 }))
        ∧ (let desc := Instr.hostDesc k tag idx wr base len
           let b := base.toNat
           let l := len.toNat
           let shape := idx.toNat ≤ 3 ∧ b % 64 = 0 ∧ l % 64 = 0
           let ring := l ≠ 0 ∧ b < 0x18000000 + s.mem.recRing * 1048576 ∧ 0x18000000 < b + l ∧ s.mem.recRing ≠ 0
           let may := wr = true → b + l ≤ 0x04000000 ∧ (x.operator = true ∨ (k = 8 ∧ idx = 0 ∧ b = 0 ∧ l = 384))
           (3 < idx.toNat → answers desc (.descResp tag 0x03))
           ∧ (idx.toNat ≤ 3 → b % 64 ≠ 0 ∨ l % 64 ≠ 0 → answers desc (.descResp tag 0x05))
           ∧ (shape → 0xE0000000 < b + l → answers desc (.descResp tag 0x04))
           ∧ (shape → b + l ≤ 0xE0000000 → ring ∨ ¬may → answers desc (.descResp tag 0x03))
           ∧ (shape → b + l ≤ 0xE0000000 → ¬ring → may → Ends desc s fun t => t = { Logged s t with
               net := put { said (.descResp tag 0) with desc := x.desc.set (Fin.ofNat 4 idx.toNat) (some ⟨wr, b, l⟩) } }))
        ∧ (Ends (.hostSubscribe k tag mask) s fun t => t = { Logged s t with net := put { said (.subResp tag 0) with mask := mask.setWidth 3 } })
        ∧ (65544 < mlen.toNat → Ends (.badType k tag type mlen) s fun t => SessionFreed s t k s.net)
        ∧ (mlen.toNat ≤ 65544 →
          (type.toNat ∈ [0x01, 0x02, 0x03, 0x04, 0x07, 0x08] → exec (.badType k tag type mlen) s = .next u)
          ∧ (type.toNat ∉ [0x01, 0x02, 0x03, 0x04, 0x07, 0x08] → answers (.badType k tag type mlen) (.badType tag))))

/-- For every running state: an unaligned write, a write to the result windows, a write to the host block that does not come from an OPERATOR and a write by a writer whose scope or role may not are ignored; a chip or pair worker and an OPERATOR set the fields they may; a worker's STW does the same or traps on its scope, its LDW reads the register. A read of the first word of a structure of registers or of a result window takes a snapshot of it, the read of its last word releases it, and 1 s drops a snapshot of the host. -/
def Obligations.RegistersAndSnapshots : Prop :=
  ∀ (s : State) (who : Writer) (rd : Reader) (q : Session) (a v : Word) (w : Worker) (d s1 : GReg) (imm : BitVec 16) (lo hi base tail : Nat) (x : Win), Running s →
    let becomes (t : State) : Prop := exec (.registerWrite who a v) s = .next t
    let k := wkOf s w
    let e : Word := gGet k s1 + imm.signExtend 32
    let stw := Instr.stw w d s1 imm
    let ldw := Instr.ldw w d s1 imm
    let may (r : Reader) : Prop := ∀ j, r = .host j → (sessOf s j).state = .opened
    let others (r : Reader) (b : Nat) : List Snap := s.snaps.filter fun p => !(p.reader == r && p.addr == b)
    let wheel : List (Nat × Word) := (List.range 5).map fun i => (0x10020 + 4 * i, timeRead s (0x10020 + 4 * i))
    (a.toNat % 4 ≠ 0 ∨ 0x100000 ≤ a.toNat → becomes s)
      ∧ (a.toNat < 0x10000 → (∀ j, who = .host j → isOperator s j = false) → becomes s)
      ∧ (chipWriter s who = false → a.toNat ∈ [0x10120, 0x10040, 0x72014, 0x90110, 0x90120, 0x90124, 0xB0030, 0xB0034] →
        Barred (.registerWrite who a v) s who a.toNat)
      ∧ (a = 0x60070 → who ≠ .host 8 → becomes s)
      ∧ (chipWriter s who = true →
        (a = 0x10120 → becomes { s with time := { s.time with setLo := v } })
        ∧ (a = 0x10040 → becomes { s with wheel := { s.wheel with msgLo := v } })
        ∧ (a = 0x72014 → becomes { s with recd := { s.recd with recCan := v &&& 0x80001FFF } })
        ∧ (a = 0x90110 → 500 ≤ bitsOf v 13 0 → bitsOf v 13 0 ≤ 10000 → becomes { s with power := { s.power with grace := BitVec.ofNat 32 (bitsOf v 13 0) } })
        ∧ (a = 0x90120 → becomes { s with power := { s.power with wakeDin := v } })
        ∧ (a = 0x90124 → becomes { s with power := { s.power with wakeGrid := v.getLsbD 1, wakeRegion := v.getLsbD 0 } })
        ∧ (a = 0xB0030 → becomes { s with mem := { s.mem with zeroBase := BitVec.ofNat 32 (v.toNat / 64 * 64) } })
        ∧ (a = 0xB0034 → becomes { s with mem := { s.mem with zeroLen := BitVec.ofNat 32 (v.toNat / 64 * 64) } }))
      ∧ (Issues s w →
        (e.toNat % 4 = 0 → e.toNat < 0x10000 ∨ (0x100000 ≤ e.toNat ∧ e.toNat < 0x200000) → Becomes stw s w { k with pc := k.pc + 4 })
        ∧ (e = 0xB0030 → chipOrPair k.scope = true → BecomesIn stw s w
            { s with mem := { s.mem with zeroBase := BitVec.ofNat 32 ((gGet k d).toNat / 64 * 64) } } { k with pc := k.pc + 4 })
        ∧ (e = 0xB0030 → chipOrPair k.scope = false → Traps stw s w 0x02)
        ∧ (e = 0x60014 → Gives ldw s w d s.net.ipAddr k.sw)
        ∧ (e = 0x10020 → BecomesIn ldw s w { s with snaps := ⟨.worker w, 0x10020, wheel, nowNs s⟩ :: others (.worker w) 0x10020 }
            { k with g := gWrite k.g d (s.wheel.count.setWidth 32), pc := k.pc + 4 })
        ∧ (e.toNat % 4 ≠ 0 → Traps stw s w 0x04 ∧ Traps ldw s w 0x04))
      ∧ (may rd → winOf a.toNat = none → structOf s a.toNat = some (lo, hi) → lo < hi →
        (a.toNat = lo → exec (.snapshotTake rd a) s = .next { s with snaps :=
            ⟨rd, lo, (List.range ((hi - lo) / 4 + 1)).map fun i => (lo + 4 * i, liveWord s (lo + 4 * i)), nowNs s⟩ :: others rd lo })
        ∧ (a.toNat = hi → exec (.snapshotRelease rd a) s = .next { s with snaps := others rd lo }))
      ∧ (may rd → winOf a.toNat = some (x, base, tail) → (∀ n j, x ≠ .can n j) → (∀ j, x ≠ .ribbon j) → 0 < tail →
        (a.toNat = base → Ends (.snapshotTake rd a) s fun t => t = { s with snaps := t.snaps, sweep := { s.sweep with shown := t.sweep.shown } }
            ∧ t.snaps = ⟨rd, base, wordsAt base (BitVec.ofNat 32 (resultState s rd base x) :: resultWords s x), nowNs s⟩ :: others rd base)
        ∧ (a.toNat = base + tail → exec (.snapshotRelease rd a) s = .next { s with snaps := others rd base }))
      ∧ (isRs s a.toNat = false → exec (.snapshotTake rd a) s = .next s)
      ∧ (isRl s a.toNat = false → exec (.snapshotRelease rd a) s = .next s)
      ∧ (rd = .host q → ((snapOf s rd a.toNat).any fun p => decide (p.taken + 1000000000 ≤ nowNs s)) = true →
        exec (.snapshotTimeout rd a) s = .next { s with snaps := others rd a.toNat })
      ∧ (rd = .worker w ∨ ((snapOf s rd a.toNat).all fun p => decide (nowNs s < p.taken + 1000000000)) = true → exec (.snapshotTimeout rd a) s = .next s)

/-- For every running state: the queue moves to the DRAM ring, whose oldest records give way, and its keep-class records to the durable ring; a faulty store is left and recorded first in the last-word bank; a bucket refills, and full again or 60 s after its first suppression, it records how many were suppressed; the read of RB_TAIL moves the cursor past the records shown and RB_SEEK places it; EXECUTE of REC_CLR_CMD checks the message and its signature, draws a new nonce and clears the records up to the SEQ it names, at once where the RSA unit is free and else when the operation granted to it ends. -/
def Obligations.Recorder : Prop :=
  ∀ (s : State) (code : Half) (b : Bucket) (rd : Reader) (k : Fin 4) (p : Snap) (who : Writer) (hi : Word) (r : Rec) (sess : Session)
    (q : CryptoReq) (rest : List CryptoReq), Running s →
    let c := s.recd
    let now := nowNs s
    let cap := s.mem.recRing * 32768
    let due := keepDue c
    let room := c.durable.length + c.tornSlots + due.length ≤ 196608
    let depth := (limitOf c b.code).1
    let refill := (limitOf c b.code).2
    let full : Bucket := { b with tokens := min depth (b.tokens + (now * refill / 1000000000 - b.since * refill / 1000000000)), since := now }
    let bucket (y : Bucket) : List Bucket := y :: c.buckets.filter fun z => decide (z.code ≠ b.code)
    let summed (i : Instr) : Prop := Ends i s fun t => t = Logged s t ∧ t.arb.seq = s.arb.seq + 1 ∧ t.recd.buckets = bucket { full with suppressed := 0 }
      ∧ (c.queue.length < 4096 → t.recd.queue = c.queue ++
        [⟨s.arb.seq + 1, netNow s, 0x4640, b.scope, BitVec.ofNat 32 (b.code.toNat * 65536 + min b.suppressed 0xFFFF), false⟩])
    let y := c.ribbons[k]
    let src : List Rec := if y.source = 1 then c.durable else if c.ringFail then c.queue else c.ring
    let seek : Nat := hi.toNat * 4294967296 + y.seekLo.toNat
    let at' (x : DWord) : RecorderSt := { c with ribbons := c.ribbons.set k { y with cursor := x, shown := none, gap := false } }
    let base := 0x70000 + 0x200 * k.val
    let msg := bytes4 c.clrMsg.toList
    let sig := memRead s.mem.dram 0 384
    let target := byteAt msg 4
    let signed : Bool := sigHolds s.ident.serviceKey msg sig || (target != 1 && (match s.ident.folioKey with
      | some f => sigHolds f msg sig
      | none => false))
    let why : Byte := if !signed then 0x01 else if natAt msg 16 8 ≠ c.clrNonce.toNat then 0x02 else if natAt msg 24 8 ≠ moduleHash.toNat then 0x03
      else if 1 < target ∨ natAt msg 0 4 ≠ 0x52434C52 ∨ natAt msg 5 3 ≠ 0 then 0x04 else 0
    let above (l : List Rec) : List Rec := l.filter fun x => decide (natAt msg 8 8 < x.seq.toNat)
    (s.mem.trained = true → c.ringFail = false → c.durFail = false → c.lostNow = 0 →
        (c.ring.length ≤ cap → room → Ends (.recorderRingWrite false false) s fun t => t = { s with recd := { c with
            queue := [], ring := (c.ring ++ c.queue).drop (c.ring.length + c.queue.length - cap), durable := c.durable ++ due, ribbons := t.recd.ribbons } }
          ∧ ∀ j : Fin 4, t.recd.ribbons[j] = { c.ribbons[j] with gap := t.recd.ribbons[j].gap })
        ∧ (room → Ends (.recorderRingWrite true false) s fun t => t.mem = s.mem ∧ t.recd.ringFail = true ∧ t.recd.ring = []
          ∧ t.recd.durable = c.durable ++ due ∧ ∃ x l, t.recd.bank = x :: l ∧ x.code = 0xD642 ∧ x.scope = 0x6000 ∧ x.seq = s.arb.seq + 1))
      ∧ (s.mem.trained = false → c.durFail = false → c.lostNow = 0 → room →
        exec (.recorderRingWrite false false) s = .next { s with recd := { c with durable := c.durable ++ due } })
      ∧ ((c.buckets.find? fun z => z.code == code &&& 0xCFFF) = some b →
        (b.suppressed ≠ 0 → full.tokens = depth → summed (.tokenRefill code))
        ∧ (b.suppressed = 0 ∨ full.tokens ≠ depth → exec (.tokenRefill code) s = .next { s with recd := { c with buckets := bucket full } })
        ∧ (b.suppressed ≠ 0 → b.firstAt + 60000000000 ≤ now → summed (.suppressionSummaryTimer code))
        ∧ (b.suppressed = 0 ∨ now < b.firstAt + 60000000000 → exec (.suppressionSummaryTimer code) s = .next s))
      ∧ ((c.buckets.find? fun z => z.code == code &&& 0xCFFF) = none →
        exec (.tokenRefill code) s = .next s ∧ exec (.suppressionSummaryTimer code) s = .next s)
      ∧ (snapOf s rd base = some p → y.source ≠ 2 → snapSeqs p k ≠ [] → exec (.ribbonTailRead rd k) s = .next { s with
          recd := at' (BitVec.ofNat 64 ((snapSeqs p k).foldl max 0 + 1)), snaps := s.snaps.filter fun z => !(z.reader == rd && z.addr == base) })
      ∧ (snapOf s rd base = none → exec (.ribbonTailRead rd k) s = .next s)
      ∧ (chipWriter s who = false → Barred (.ribbonSeek who k hi) s who (0x71008 + 0x20 * k.val))
      ∧ (chipWriter s who = true → y.source ≠ 2 →
        ((src.find? fun z => decide (seek ≤ z.seq.toNat)) = some r → exec (.ribbonSeek who k hi) s = .next { s with recd := at' r.seq })
        ∧ ((∀ z ∈ src, z.seq.toNat < seek) → exec (.ribbonSeek who k hi) s = .next { s with recd := at' (BitVec.ofNat 64 seek) }))
      ∧ (isOperator s sess = false → exec (.recordClear sess) s = .next s)
      ∧ (isOperator s sess = true → rsaAsked s .clear = true → exec (.recordClear sess) s = .next { s with recd := { c with clrResult := 0x05 } })
      ∧ (isOperator s sess = true → rsaAsked s .clear = false → rsaFree s = false → exec (.recordClear sess) s = .next { s with
          recd := { c with clrResult := 0xFF }, crypto := s.crypto ++ [⟨none, false, s.arb.seq, 0, 0, 0, [], [], 0, .clear⟩] })
      ∧ (isOperator s sess = true → s.crypto = q :: rest → q.job = .clear → partDown s 6 = false →
          ∃ u, exec (.recordClear sess) { s with crypto := [] } = .next u ∧ exec .cryptoComplete s = .next { u with crypto := cryptoGrant rest })
      ∧ (isOperator s sess = true → rsaAsked s .clear = false → rsaFree s = true → Ends (.recordClear sess) s fun t => t = { Logged s t with free := s.free + 1 }
          ∧ t.recd.clrResult = why ∧ t.recd.clrNonce = Config.draw s.free
          ∧ (why ≠ 0 → t.recd.ring = c.ring ∧ t.recd.durable = c.durable)
          ∧ (why = 0 → target = 1 → t.recd.ring = c.ring ∧ t.recd.durable = above c.durable)
          ∧ (why = 0 → target = 0 → c.ringFail = false → t.recd.ring = above c.ring ∧ t.recd.durable = c.durable))

/-- For every running state: ZERO of a range clear of the recorder ring begins, every other is refused with its result; its end, while DRAM serves, reads zero in the whole range and nowhere else changed; the scrubber goes on from line to line while DRAM is in service, counts what it corrects and poisons what it cannot; an uncorrectable word of scratch or of the tables is zeroed and counted; training lets the recorder use its ring and the initialiser begin. -/
def Obligations.MemoryAndScrubber : Prop :=
  ∀ (s : State) (who : Writer) (base len : Nat) (tag : Bool) (w : Worker) (i : Nat), Running s → memoriesWf s →
    let m := s.mem
    let becomes (c : Instr) (x : MemSt) : Prop := exec c s = .next { s with mem := x }
    let b := m.zeroBase.toNat
    let l := m.zeroLen.toNat
    let allowed := b + l ≤ 0xE0000000 ∧ (l = 0 ∨ m.recRing = 0 ∨ b + l ≤ 0x18000000 ∨ 0x18000000 + m.recRing * 1048576 ≤ b)
    let next (x : MemSt) : MemSt := if x.scrubPos + 1 < 58720256 then { x with scrubPos := x.scrubPos + 1 }
      else { x with scrubPos := 0, scrubPasses := (x.scrubPasses + 1) % 4294967296 }
    let walks := m.trained = true ∧ m.dramOut = false
    (chipWriter s who = false → Barred (.memZero who) s who 0xB0038)
      ∧ (chipWriter s who = true →
        (m.zeroing ≠ none → becomes (.memZero who) { m with memResult := 0x02 })
        ∧ (m.zeroing = none → allowed → becomes (.memZero who) { m with zeroing := some (b, l), memResult := 0xFF })
        ∧ (m.zeroing = none → ¬allowed → becomes (.memZero who) { m with memResult := 0x01 }))
      ∧ (m.zeroing = none ∨ dramHeld s = true → exec .memZeroDone s = .next s)
      ∧ (m.zeroing = some (base, len) → dramHeld s = false → Ends .memZeroDone s fun t =>
        t = { s with mem := { m with dram := t.mem.dram, poison := m.poison.filter fun x => !(decide (base ≤ 64 * x ∧ 64 * x + 64 ≤ base + len))
                                     zeroing := none, memResult := 0 } }
          ∧ memWf t.mem.dram = true ∧ ∀ j, memGet t.mem.dram j = if base ≤ j ∧ j < base + len then 0 else memGet m.dram j)
      ∧ (¬walks → ∀ o, exec (.scrubLine o) s = .next s)
      ∧ (walks → becomes (.scrubLine .clean) (next m)
        ∧ (Ends (.scrubLine .corrected) s fun t => t = { Logged s t with mem := next { m with eccCorr := min 0xFFFF (m.eccCorr + 1) } })
        ∧ (64 * m.scrubPos < 0x04000000 ∨ 0x18000000 + m.recRing * 1048576 ≤ 64 * m.scrubPos → Ends (.scrubLine (.uncorrectable tag)) s fun t =>
          t = { Logged s t with mem := next { m with
              poison := t.mem.poison, eccUncorr := min 0xFFFF (m.eccUncorr + 1), lastUe := BitVec.ofNat 32 (64 * m.scrubPos)
              lastUeSeq := (s.arb.seq + 1).setWidth 32, tagFail := if tag then min 0xFFFF (m.tagFail + 1) else m.tagFail } }
            ∧ ∀ x, x ∈ t.mem.poison ↔ x = m.scrubPos ∨ x ∈ m.poison))
      ∧ exec (.sramScrub .clean) s = .next s
      ∧ (Ends (.sramScrub .corrected) s fun t => t = { Logged s t with free := s.free + 1, mem := { m with sramCorr := min 0xFFFF (m.sramCorr + 1) } })
      ∧ (i < 2048 → Ends (.sramScrub (.badScratch w i)) s fun t =>
        t = { Logged s t with wk := s.wk.set w { wkOf s w with scratch := (wkOf t w).scratch }
                              mem := { m with badScratch := m.badScratch.filter fun x => x != (w, i), sramUncorr := min 0xFFFF (m.sramUncorr + 1) } }
          ∧ ∀ j, memGet (wkOf t w).scratch j = if 8 * i ≤ j ∧ j < 8 * i + 8 then 0 else memGet (wkOf s w).scratch j)
      ∧ (i < 524288 → Ends (.sramScrub (.badTable i)) s fun t =>
        t = { Logged s t with mem := { m with
            tables := t.mem.tables, badTable := m.badTable.filter fun x => x != i, sramUncorr := min 0xFFFF (m.sramUncorr + 1) } }
          ∧ ∀ j, memGet t.mem.tables j = if 8 * i ≤ j ∧ j < 8 * i + 8 then 0 else memGet m.tables j)
      ∧ (2048 ≤ i → exec (.sramScrub (.badScratch w i)) s = .next s)
      ∧ (524288 ≤ i → exec (.sramScrub (.badTable i)) s = .next s)
      ∧ (m.trained = true → becomes .checkStoreInit { m with initDone := true, initPos := 58720256 } ∧ becomes .dramTrainingDone m)
      ∧ (m.trained = false → exec .checkStoreInit s = .next s ∧ becomes .dramTrainingDone { m with trained := true, initPos := 0 })

/-- For every running state: a session without the OPERATOR role changes nothing. ATTEST is numbered and asks for a signature of the statement with the module's identity, the nonce given and the number; once the RSA unit has made it, the statement and the signature are written out, and until then every other ID_CMD shows BUSY, as while a service command waits for the unit; CERTS writes out the three certificates; a service command whose message is not signed by the service key, has an old nonce, names another module, is not of the list or has another payload shows its result; a good one sets the key, the trust entry or the adopted key; good or bad, a new nonce is drawn. -/
def Obligations.IdentityCommands : Prop :=
  ∀ (s : State) (sess : Session) (key : List Byte) (op : Byte) (q : CryptoReq) (rest : List CryptoReq), Running s → memoriesWf s →
    let i := s.ident
    let msg : List Byte := i.svcMsg.toList.flatMap fun x => bytesLE 4 x.toNat
    let cmd := natAt msg 4 1
    let arg := natAt msg 5 1
    let rows : List (Nat × Instr) := [(1, .setFolioKey sess), (2, .setServiceKey sess), (3, .trustAdd sess), (4, .trustRemove sess), (5, .newAppKey sess), (6, .adopt sess)]
    let signed : Bool := !(poisoned s 0 384) && sigHolds i.serviceKey msg (memRead s.mem.dram 0 384)
    let len := natAt msg 24 4
    let b := memRead s.mem.dram 0x10000 len
    let payload : Bool := decide (len ≤ 65536) && (decide (len = 0) || !(poisoned s 0x10000 len)) && decide (sha256 b = msg.drop 32)
    let listed := natAt msg 0 4 = 0x56435253 ∧ 1 ≤ cmd ∧ cmd ≤ 6 ∧ (arg = 0 ∨ ((cmd = 3 ∨ cmd = 4) ∧ arg < 16))
    let good := signed = true ∧ natAt msg 8 8 = i.nonce.toNat ∧ natAt msg 16 8 = moduleHash.toNat ∧ listed ∧ payload = true
      ∧ ¬(cmd = 1 ∧ folioKeyRefused s.folio = true)
    let done (x : IdentSt) (result : Byte) : IdentSt := { x with
      nonce := Config.draw s.free, lastCmd := 0x03, result := result, svcCmd := BitVec.ofNat 8 cmd, svcArg := BitVec.ofNat 8 arg }
    let fails (result : Byte) : Prop := ∀ x ∈ rows, x.1 = cmd → exec x.2 s = .next { s with free := s.free + 1, ident := done i result }
    let sets (c : Instr) (x : IdentSt) : Prop := exec c s = .next { s with free := s.free + 1, ident := done x 0 }
    let wrote (c : Byte) (n : Nat) (t : State) : Prop :=
      t = { s with free := t.free, crypto := t.crypto, mem := { s.mem with dram := t.mem.dram, poison := t.mem.poison }
                   ident := { i with lastCmd := c, result := 0, outLen := BitVec.ofNat 32 n } }
        ∧ (∀ j, j < 0x3000000 ∨ 0x3000000 + n ≤ j → memGet t.mem.dram j = memGet s.mem.dram j)
    let certs : List Byte := moduleCert 0 ++ moduleCert 1 ++ moduleCert (2 + i.appKeys)
    (isOperator s sess = false → ∀ c ∈ [Instr.attest sess, .certs sess, .setFolioKey sess, .setServiceKey sess, .trustAdd sess, .trustRemove sess, .newAppKey sess, .adopt sess],
        exec c s = .next s)
      ∧ (s.crypto = q :: rest → q.job = .attest → partDown s 6 = false → Ends .cryptoComplete s fun t =>
          wrote 0x01 (q.data.length + 384) t ∧ t.free = s.free + 1 ∧ t.crypto = cryptoGrant rest
            ∧ memRead t.mem.dram 0x3000000 q.data.length = q.data
            ∧ memRead t.mem.dram (0x3000000 + q.data.length) 384 = signDigest identityKey (sha256 q.data) s.free)
      ∧ (isOperator s sess = true → (∃ x ∈ s.crypto, x.job = .attest ∨ ∃ y, x.job = .service y) →
        let busy (c : Byte) : State := { s with ident := { i with lastCmd := c, result := 0x05 } }
        exec (.attest sess) s = .next (busy 0x01) ∧ exec (.certs sess) s = .next (busy 0x02)
          ∧ ∀ x ∈ rows, x.1 = cmd → exec x.2 s = .next (busy 0x03))
      ∧ (isOperator s sess = true → s.crypto = q :: rest → q.job = .service sess → partDown s 6 = false → ∀ x ∈ rows, x.1 = cmd →
          ∃ u, exec x.2 { s with crypto := [] } = .next u ∧ exec .cryptoComplete s = .next { u with crypto := cryptoGrant rest })
      ∧ (isOperator s sess = true → (∀ x ∈ s.crypto, x.job ≠ .attest ∧ ∀ y, x.job ≠ .service y) →
        (Ends (.attest sess) s fun t => ∃ m,
          t = { s with arb := (number s).arb, ident := { i with lastCmd := 0x01, result := 0xFF }
                       crypto := s.crypto ++ [⟨none, false, s.arb.seq + 1, 0, 0, 0, m, [], 0, .attest⟩] }
            ∧ m.length = 216 ∧ m.take 4 = [0x41, 0x54, 0x53, 0x54] ∧ (m.drop 8).take 8 = bytesLE 8 moduleHash.toNat
            ∧ (m.drop 16).take 32 = i.attNonce.toList.flatMap (fun x => bytesLE 4 x.toNat)
            ∧ (m.drop 48).take 12 = netBytes (netNow s) ∧ (m.drop 60).take 8 = bytesLE 8 (s.arb.seq + 1).toNat)
        ∧ (Ends (.certs sess) s fun t => wrote 0x02 certs.length t ∧ t.free = s.free ∧ t.crypto = s.crypto
            ∧ memRead t.mem.dram 0x3000000 certs.length = certs)
        ∧ (∀ x ∈ rows, x.1 ≠ cmd → exec x.2 s = .next s)
        ∧ (rsaFree s = false → ∀ x ∈ rows, x.1 = cmd → exec x.2 s = .next { s with
            ident := { i with lastCmd := 0x03, result := 0xFF }, crypto := s.crypto ++ [⟨none, false, s.arb.seq, 0, 0, 0, [], [], 0, .service sess⟩] })
        ∧ (rsaFree s = true → signed = false → fails 0x01)
        ∧ (rsaFree s = true → signed = true →
          (natAt msg 8 8 ≠ i.nonce.toNat → fails 0x02)
          ∧ (natAt msg 8 8 = i.nonce.toNat →
            (natAt msg 16 8 ≠ moduleHash.toNat → fails 0x03)
            ∧ (natAt msg 16 8 = moduleHash.toNat →
              (¬listed → fails 0x07)
              ∧ (listed → payload = false → fails 0x04)
              ∧ (listed → payload = true → cmd = 1 → folioKeyRefused s.folio = true → fails 0x06))))
        ∧ (rsaFree s = true → good →
          (cmd = 1 → sets (.setFolioKey sess) { i with folioKey := some b })
          ∧ (cmd = 2 → sets (.setServiceKey sess) { i with serviceKey := b })
          ∧ (cmd = 3 → b = op :: key → (op.toNat ≤ 1 → Config.certKey key ≠ none →
              sets (.trustAdd sess) { i with trust := i.trust.set (Fin.ofNat 16 arg) (some (op == 1, key)) })
            ∧ (1 < op.toNat ∨ Config.certKey key = none → fails 0x04))
          ∧ (cmd = 3 → b = [] → fails 0x04)
          ∧ (cmd = 4 → (sessOf s sess).entry ≠ some (Fin.ofNat 16 arg) → sets (.trustRemove sess) { i with trust := i.trust.set (Fin.ofNat 16 arg) none })
          ∧ (cmd = 4 → (sessOf s sess).entry = some (Fin.ofNat 16 arg) → exec (.trustRemove sess) s = .next { s with
              free := s.free + 1, ident := done { i with trust := i.trust.set (Fin.ofNat 16 arg) none } 0
              net := { s.net with sess := s.net.sess.set sess { sessOf s sess with revoked := true } } })
          ∧ (cmd = 5 → sets (.newAppKey sess) { i with appKeys := i.appKeys + 1 })
          ∧ (cmd = 6 → Config.cappingCert b = some key → sets (.adopt sess) { i with adopted := some key })
          ∧ (cmd = 6 → Config.cappingCert b = none → fails 0x04)))

/-- For every state: the loss of the logic supply switches off with every channel OFF, and only from off does a valid supply start the module cold; a restart ends in a warm start 40 ms after it began; the chip watchdog, the release of a thermal shutdown, the recovery of a supply, RESTART and a wake source that is selected begin a restart with its cause; a brown-out and a thermal shutdown are counted and stop the module; from any of these on the bank is holding; 200 ms after the start the workers with START set become READY, 250 ms after it the host window. -/
def Obligations.StartsAndSupplies : Prop :=
  ∀ (s : State) (sideB b present : Bool) (c : BitVec 4) (who : Writer) (n : Fin 32) (r : Region),
    let p := s.power
    let now := nowNs s
    let becomes (i : Instr) (x : PowerSt) : Prop := exec i s = .next { s with power := x }
    let held : BankSt := { s.bank with holding := true }
    let ends (i : Instr) (x : PowerSt) : Prop := exec i s = .next { s with power := x, bank := held }
    let restarts (i : Instr) (cause : BitVec 4) : Prop := ends i { p with state := .restarting cause, origin := now }
    let stays (i : Instr) : Prop := exec i s = .next s
    let started (i : Instr) (cause : BitVec 4) (origin : Nat) : Prop := Ends i s fun t => t.power.state = .running ∧ t.power.cause = cause
      ∧ t.power.origin = origin ∧ t.power.workersReady = false ∧ t.power.hostReady = false ∧ t.mem.dram = [] ∧ t.twin.role = .undecided
      ∧ t.twin.session = false ∧ t.pending = s.pending ∧ t.nReg = s.nReg
    let quiet : RecorderSt := { s.recd with queue := [] }
    let woken (k : BitVec 3) (i : BitVec 5) : PowerSt := { p with wakeSource := k, wakeIndex := i, state := .restarting 5, origin := now }
    let image := sect' (slotBytes s.folio s.folio.active) 1
    (p.state = .off → started (.coldStart sideB) 0 0)
      ∧ (p.state ≠ .off → stays (.coldStart sideB))
      ∧ (p.state = .restarting c → p.origin + 40000000 ≤ now → c ≠ 0 → started .warmRestart c p.origin)
      ∧ ((∀ x, p.state ≠ .restarting x) ∨ now < p.origin + 40000000 → stays .warmRestart)
      ∧ (Ends .logicSupplyLoss s fun t => t = { s with power := { p with state := .off }, bank := t.bank, sever := { SeverSt.init with lineLow := s.sever.peerHolds, peerHolds := s.sever.peerHolds } }
        ∧ ∀ x, chOf t x = { ChanSt.init with opt := (chOf s x).opt })
      ∧ (p.state = .off → stays (.logicSupplyInputChange b present))
      ∧ (p.state ≠ .off → becomes (.logicSupplyInputChange true present) { p with logicB := present }
        ∧ becomes (.logicSupplyInputChange false present) { p with logicA := present })
      ∧ (p.state = .brownout → p.warnAt + 50000000 ≤ now → restarts .supplyRecovery 4)
      ∧ (p.state ≠ .brownout ∨ now < p.warnAt + 50000000 → stays .supplyRecovery)
      ∧ (p.state = .thermal → restarts .thermalRelease 3)
      ∧ (p.state ≠ .thermal → stays .thermalRelease)
      ∧ (p.state = .restarting c → exec .brownoutWarning s = .next { s with
            bank := held, recd := quiet, power := { p with state := .brownout, brownouts := min 0xFFFF (p.brownouts + 1), warnAt := now } }
        ∧ exec .thermalShutdown s = .next { s with bank := held, recd := quiet, power := { p with state := .thermal } })
      ∧ (p.state ∈ [.off, .brownout, .thermal, .asleep] → stays .brownoutWarning ∧ stays .thermalShutdown)
      ∧ (p.state = .asleep →
        (p.wakeGrid = true → ends (.wakeFromSleep .grid) (woken 1 0))
        ∧ (p.wakeGrid = false → stays (.wakeFromSleep .grid))
        ∧ (p.wakeDin.getLsbD n.val = true → ends (.wakeFromSleep (.din n)) (woken 2 (BitVec.ofNat 5 n.val)))
        ∧ (p.wakeDin.getLsbD n.val = false → stays (.wakeFromSleep (.din n)))
        ∧ (p.wakeRegion = true → hasMap s r = true → ends (.wakeFromSleep (.region r)) (woken 3 (BitVec.ofNat 5 r.val)))
        ∧ (p.wakeRegion = false ∨ hasMap s r = false → stays (.wakeFromSleep (.region r))))
      ∧ (p.state ≠ .asleep → ∀ x, stays (.wakeFromSleep x))
      ∧ (Running s →
        (Ends .brownoutWarning s fun t => t.recd.queue = [] ∧ t = { Logged s t with
            bank := held, power := { p with state := .brownout, brownouts := min 0xFFFF (p.brownouts + 1), warnAt := now } })
        ∧ (s.recd.durable.length + s.recd.tornSlots < 196608 → Ends .thermalShutdown s fun t => t.recd.queue = [] ∧ t.arb.seq = s.arb.seq + 1
            ∧ t.recd.durable = s.recd.durable ++ [⟨s.arb.seq + 1, netNow s, 0xD6C4, 0x6000, BitVec.ofNat 32 (min 0xFFFF (s.therm.shutdowns + 1)), false⟩]
            ∧ t = { Logged s t with bank := held, power := { p with state := .thermal }, therm := { s.therm with shutdowns := min 0xFFFF (s.therm.shutdowns + 1) } })
        ∧ (s.bank.lastRefresh + 50000000 ≤ now → restarts .chipWatchdog 6)
        ∧ (now < s.bank.lastRefresh + 50000000 → stays .chipWatchdog)
        ∧ (chipWriter s who = false → Barred (.pwrRestart who) s who 0x90104)
        ∧ (chipWriter s who = true → pairWriter s who = false → stays (.pwrRestart who))
        ∧ (pairWriter s who = true →
          (s.twin.grant ≠ none → becomes (.pwrRestart who) { p with result := 0x02 })
          ∧ (s.twin.grant = none → ¬(s.twin.role = .lead ∧ healthyMirror s = true) →
            ends (.pwrRestart who) { p with result := 0xFF, state := .restarting 1, origin := now })
          ∧ (s.twin.grant = none → s.twin.role = .lead → healthyMirror s = true → s.twin.xferBusy = true → exec (.pwrRestart who) s = .next { s with
              power := { p with result := 0xFF }, twin := { s.twin with thenRestart := some 1 } })
          ∧ (s.twin.grant = none → s.twin.role = .lead → healthyMirror s = true → s.twin.xferBusy = false → exec (.pwrRestart who) s = .next { s with
              power := { p with result := 0xFF }, twin := { s.twin with
                thenRestart := some 1, grant := some (grantSweep s)
                out := s.twin.out ++ (if s.twin.session then [.grant (grantSweep s)] else []) } }))
        ∧ (p.workersReady = false → p.origin + 200000000 ≤ now → Ends .startWorkersReady s fun t =>
          t = { s with wk := t.wk, power := { p with workersReady := true } }
            ∧ ∀ w, (s.folio.noFolio = false → (wkOf s w).state = .stopped → (∃ e, workerEntry image w = some e ∧ (byteAt e 6).testBit 7 = true) →
                wkOf t w = atEntry (wkOf s w))
              ∧ (s.folio.noFolio = true ∨ (wkOf s w).state ≠ .stopped → wkOf t w = wkOf s w))
        ∧ (p.workersReady = true ∨ now < p.origin + 200000000 → stays .startWorkersReady)
        ∧ (p.origin + 250000000 ≤ now → becomes .hostWindowReady { p with hostReady := true })
        ∧ (now < p.origin + 250000000 → stays .hostWindowReady))

/-- For every running state: a trip is counted and, by MODE, asks for less load with a grace or is enforced at once; the end of the grace enforces it; a release ends all of it. SLEEP is taken when no contactor channel is driven and every region is OPEN or ISOLATED, goes to the twin, and is carried out after a sweep has closed; a region no longer open keeps the module awake. RUN of a partition in service starts its test, takes a core out of service, or is refused; the result follows the signature, the rows repaired and the golden value, and a partition that failed stays out of service. -/
def Obligations.ThrottleSleepSelftest : Prop :=
  ∀ (s : State) (who : Writer) (p : Fin 32) (t0 : Nat) (sig : DWord) (rows : Byte) (rowFail : Bool), Running s →
    let h := s.therm
    let w := s.power
    let now := nowNs s
    let stays (i : Instr) : Prop := exec i s = .next s
    let thermal (i : Instr) (x : ThermSt) : Prop := Ends i s fun t => t = { Logged s t with therm := x }
    let power (i : Instr) (x : PowerSt) : Prop := exec i s = .next { s with power := x }
    let tripped : ThermSt := { h with tripped := true, throttles := min 0xFFFF (h.throttles + 1) }
    let open' := (∀ c, (mapOf s c).role = 0 ∨ (chOf s c).drive = 0) ∧ ∀ r, (reOf s r).state = .opened ∨ (reOf s r).state = .isolated
    let closed := (∀ r, hasMap s r = false) ∨ ∃ r, hasMap s r = true ∧ t0 ≤ (rgOf s r).closedAt
    let refused := (p.val < 4 ∧ ∃ k : Fin 4, k.val ≠ p.val ∧ (coreOf s k).inService = false) ∨ (p.val = 7 ∧ isLead s = true ∧ holdsClosed s = true)
      ∨ (8 ≤ p.val ∧ p.val < 12 ∧ (canOf s (Fin.ofNat 4 (p.val - 8))).state ≠ .config ∧ (canOf s (Fin.ofNat 4 (p.val - 8))).state ≠ .disabled)
      ∨ (12 ≤ p.val ∧ p.val < 16) ∨ (16 ≤ p.val ∧ s.nReg ≤ p.val - 16)
    let started : ThermSt := { h with bistBusy := true, bistPart := p, bistRows := 0 }
    let part := h.bistPart
    let result : Byte := if rowFail then 0x04 else if golden s part = none then 0x02
      else if golden s part ≠ some sig.toNat then 0x03 else if rows = 0 then 0x00 else 0x01
    let bit : Word := BitVec.ofNat 32 (2 ^ part.val)
    (h.tripped = true → stays .throttleTrip)
      ∧ (h.tripped = false →
        (cfgNat s 0x7003 = 0 → thermal .throttleTrip { tripped with request := true, graceEnd := some (h.graceEnd.getD (now + cfgNat s 0x7004 * 1000000000)) })
        ∧ (cfgNat s 0x7003 ≠ 0 → thermal .throttleTrip { tripped with enforced := true })
        ∧ stays .throttleRelease ∧ stays .throttleGraceEnd)
      ∧ (h.tripped = true → thermal .throttleRelease { h with tripped := false, request := false, enforced := false, graceEnd := none })
      ∧ (h.tripped = true → h.enforced = false → cfgNat s 0x7003 = 0 → h.graceEnd = some t0 → t0 ≤ now → thermal .throttleGraceEnd { h with enforced := true })
      ∧ (h.enforced = true ∨ cfgNat s 0x7003 ≠ 0 ∨ h.graceEnd = none ∨ (h.graceEnd = some t0 ∧ now < t0) → stays .throttleGraceEnd)
      ∧ (chipWriter s who = false → Barred (.pwrSleep who) s who 0x90104)
      ∧ (chipWriter s who = true → pairWriter s who = false → stays (.pwrSleep who))
      ∧ (pairWriter s who = true →
        (w.sleepAt ≠ none → power (.pwrSleep who) { w with result := 0x02 })
        ∧ (w.sleepAt = none → open' → exec (.pwrSleep who) s = .next { s with
            power := { w with result := 0xFF, sleepAt := some (now + 10000000) }
            twin := { s.twin with out := s.twin.out ++ (if s.twin.session then [.forward .sleep] else []) } })
        ∧ (w.sleepAt = none → ¬open' → power (.pwrSleep who) { w with result := 0x01 }))
      ∧ (w.sleepAt = none ∨ (w.sleepAt = some t0 ∧ (now < t0 ∨ ¬closed)) → stays .sleepEnter)
      ∧ (w.sleepAt = some t0 → t0 ≤ now → closed →
        (open' → Ends .sleepEnter s fun t => t.power = { w with state := .asleep, sleepAt := none, result := 0 } ∧ t.recd.queue = []
          ∧ t.twin.session = false ∧ t.mem = s.mem ∧ ∀ c, hasChan s c = true → (chOf t c).cmd = 0 ∧ (chOf t c).drive = 0)
        ∧ (¬open' → power .sleepEnter { w with sleepAt := none, result := 0x01 }))
      ∧ (chipWriter s who = false → Barred (.bistRun who p) s who 0x90200)
      ∧ (chipWriter s who = true →
        (h.bistBusy = true → exec (.bistRun who p) s = .next { s with therm := { h with bistResult := 0x06 } })
        ∧ (h.bistBusy = false →
          (refused → exec (.bistRun who p) s = .next { s with therm := { h with bistPart := p, bistResult := 0x05 } })
          ∧ (¬refused → 4 ≤ p.val → exec (.bistRun who p) s = .next { s with therm := started })
          ∧ (¬refused → ∀ k : Fin 4, k.val = p.val → Ends (.bistRun who p) s fun t => t.therm = started ∧ (coreOf t k).inService = false
              ∧ (coreOf t k).selftest = true ∧ (coreOf t k).failed = false ∧ (∀ j : Fin 4, j ≠ k → (coreOf t j).inService = true)
              ∧ ∀ v, (wkOf s v).core = k → (wkOf t v).core ≠ k)))
      ∧ (h.bistBusy = false → stays (.bistDone sig rows rowFail))
      ∧ (h.bistBusy = true → Ends (.bistDone sig rows rowFail) s fun t =>
          t.therm = { h with bistBusy := false, bistResult := result, bistRows := rows, bistSig := sig, repairs := t.therm.repairs
                             bistOut := if result.toNat ≤ 2 then h.bistOut &&& ~~~bit else h.bistOut ||| bit }
            ∧ (∀ k : Fin 4, k.val = part.val → (coreOf t k).inService = decide (result.toNat ≤ 2)))

/-- State.reset is the module right after a cold start (R491, R492, R497): it runs with no command waiting, every worker is EMPTY, every region OPEN, every channel commanded OFF, the phase wheel FREE at the nominal length, network time UNSET, the role undecided with no session of the twin, every host session closed and every memory empty and in its canonical form. (That the model's reset is this moment, after the cold start's first actions, is its own choice, log entry 34.) -/
def Obligations.ResetState : Prop :=
  let s := State.reset
  s.pending = [] ∧ Running s ∧ s.power.cause = 0 ∧ memoriesWf s ∧ s.mem.dram = [] ∧ s.mem.tables = []
    ∧ (∀ w, (wkOf s w).state = .empty ∧ (wkOf s w).scratch = []) ∧ (∀ r, (reOf s r).state = .opened) ∧ (∀ c, (chOf s c).cmd = 0 ∧ (chOf s c).drive = 0)
    ∧ s.wheel.state = .free ∧ s.wheel.cycLen = 20000000 ∧ s.time.state = .unset ∧ s.twin.role = .undecided ∧ s.twin.session = false
    ∧ ∀ k, (sessOf s k).state = .closed

/-- For every state in which DRAM, the shared tables, the two folio slots and every worker's scratch are in their canonical form (addresses strictly rising, no byte listed that an unlisted address reads as), every step ends in a state in which they are. -/
def Obligations.StepKeepsMemories : Prop :=
  ∀ s t : State, memoriesWf s → step s = .next t → memoriesWf t
end

