-- ==== Sys2Proof/Laws/State.lean ====
section
/-! SUPPORT. What each named update of the state leaves alone, one lemma per field, and reading back what was written. -/
namespace Sys2Proof.Machine

/-! ## setWk -/

@[simp] theorem setWk_pending (s : State) (w : Worker) (k : WorkerSt) : (setWk s w k).pending = s.pending := rfl
@[simp] theorem setWk_free (s : State) (w : Worker) (k : WorkerSt) : (setWk s w k).free = s.free := rfl
@[simp] theorem setWk_nReg (s : State) (w : Worker) (k : WorkerSt) : (setWk s w k).nReg = s.nReg := rfl
@[simp] theorem setWk_cfg (s : State) (w : Worker) (k : WorkerSt) : (setWk s w k).cfg = s.cfg := rfl
@[simp] theorem setWk_power (s : State) (w : Worker) (k : WorkerSt) : (setWk s w k).power = s.power := rfl
@[simp] theorem setWk_therm (s : State) (w : Worker) (k : WorkerSt) : (setWk s w k).therm = s.therm := rfl
@[simp] theorem setWk_arb (s : State) (w : Worker) (k : WorkerSt) : (setWk s w k).arb = s.arb := rfl
@[simp] theorem setWk_wheel (s : State) (w : Worker) (k : WorkerSt) : (setWk s w k).wheel = s.wheel := rfl
@[simp] theorem setWk_time (s : State) (w : Worker) (k : WorkerSt) : (setWk s w k).time = s.time := rfl
@[simp] theorem setWk_ticks (s : State) (w : Worker) (k : WorkerSt) : (setWk s w k).ticks = s.ticks := rfl
@[simp] theorem setWk_canLatch (s : State) (w : Worker) (k : WorkerSt) : (setWk s w k).canLatch = s.canLatch := rfl
@[simp] theorem setWk_cores (s : State) (w : Worker) (k : WorkerSt) : (setWk s w k).cores = s.cores := rfl
@[simp] theorem setWk_quantum (s : State) (w : Worker) (k : WorkerSt) : (setWk s w k).quantum = s.quantum := rfl
@[simp] theorem setWk_slots (s : State) (w : Worker) (k : WorkerSt) : (setWk s w k).slots = s.slots := rfl
@[simp] theorem setWk_comb (s : State) (w : Worker) (k : WorkerSt) : (setWk s w k).comb = s.comb := rfl
@[simp] theorem setWk_crypto (s : State) (w : Worker) (k : WorkerSt) : (setWk s w k).crypto = s.crypto := rfl
@[simp] theorem setWk_region (s : State) (w : Worker) (k : WorkerSt) : (setWk s w k).region = s.region := rfl
@[simp] theorem setWk_sweep (s : State) (w : Worker) (k : WorkerSt) : (setWk s w k).sweep = s.sweep := rfl
@[simp] theorem setWk_air (s : State) (w : Worker) (k : WorkerSt) : (setWk s w k).air = s.air := rfl
@[simp] theorem setWk_bank (s : State) (w : Worker) (k : WorkerSt) : (setWk s w k).bank = s.bank := rfl
@[simp] theorem setWk_sever (s : State) (w : Worker) (k : WorkerSt) : (setWk s w k).sever = s.sever := rfl
@[simp] theorem setWk_din (s : State) (w : Worker) (k : WorkerSt) : (setWk s w k).din = s.din := rfl
@[simp] theorem setWk_folio (s : State) (w : Worker) (k : WorkerSt) : (setWk s w k).folio = s.folio := rfl
@[simp] theorem setWk_recd (s : State) (w : Worker) (k : WorkerSt) : (setWk s w k).recd = s.recd := rfl
@[simp] theorem setWk_mem (s : State) (w : Worker) (k : WorkerSt) : (setWk s w k).mem = s.mem := rfl
@[simp] theorem setWk_twin (s : State) (w : Worker) (k : WorkerSt) : (setWk s w k).twin = s.twin := rfl
@[simp] theorem setWk_can (s : State) (w : Worker) (k : WorkerSt) : (setWk s w k).can = s.can := rfl
@[simp] theorem setWk_snaps (s : State) (w : Worker) (k : WorkerSt) : (setWk s w k).snaps = s.snaps := rfl
@[simp] theorem setWk_est (s : State) (w : Worker) (k : WorkerSt) : (setWk s w k).est = s.est := rfl
@[simp] theorem setWk_net (s : State) (w : Worker) (k : WorkerSt) : (setWk s w k).net = s.net := rfl
@[simp] theorem setWk_ident (s : State) (w : Worker) (k : WorkerSt) : (setWk s w k).ident = s.ident := rfl
@[simp] theorem setWk_qp (s : State) (w : Worker) (k : WorkerSt) : (setWk s w k).qp = s.qp := rfl

/-! ## modWk -/

@[simp] theorem modWk_pending (s : State) (w : Worker) (f : WorkerSt → WorkerSt) : (modWk s w f).pending = s.pending := rfl
@[simp] theorem modWk_free (s : State) (w : Worker) (f : WorkerSt → WorkerSt) : (modWk s w f).free = s.free := rfl
@[simp] theorem modWk_nReg (s : State) (w : Worker) (f : WorkerSt → WorkerSt) : (modWk s w f).nReg = s.nReg := rfl
@[simp] theorem modWk_cfg (s : State) (w : Worker) (f : WorkerSt → WorkerSt) : (modWk s w f).cfg = s.cfg := rfl
@[simp] theorem modWk_power (s : State) (w : Worker) (f : WorkerSt → WorkerSt) : (modWk s w f).power = s.power := rfl
@[simp] theorem modWk_therm (s : State) (w : Worker) (f : WorkerSt → WorkerSt) : (modWk s w f).therm = s.therm := rfl
@[simp] theorem modWk_arb (s : State) (w : Worker) (f : WorkerSt → WorkerSt) : (modWk s w f).arb = s.arb := rfl
@[simp] theorem modWk_wheel (s : State) (w : Worker) (f : WorkerSt → WorkerSt) : (modWk s w f).wheel = s.wheel := rfl
@[simp] theorem modWk_time (s : State) (w : Worker) (f : WorkerSt → WorkerSt) : (modWk s w f).time = s.time := rfl
@[simp] theorem modWk_ticks (s : State) (w : Worker) (f : WorkerSt → WorkerSt) : (modWk s w f).ticks = s.ticks := rfl
@[simp] theorem modWk_canLatch (s : State) (w : Worker) (f : WorkerSt → WorkerSt) : (modWk s w f).canLatch = s.canLatch := rfl
@[simp] theorem modWk_cores (s : State) (w : Worker) (f : WorkerSt → WorkerSt) : (modWk s w f).cores = s.cores := rfl
@[simp] theorem modWk_quantum (s : State) (w : Worker) (f : WorkerSt → WorkerSt) : (modWk s w f).quantum = s.quantum := rfl
@[simp] theorem modWk_slots (s : State) (w : Worker) (f : WorkerSt → WorkerSt) : (modWk s w f).slots = s.slots := rfl
@[simp] theorem modWk_comb (s : State) (w : Worker) (f : WorkerSt → WorkerSt) : (modWk s w f).comb = s.comb := rfl
@[simp] theorem modWk_crypto (s : State) (w : Worker) (f : WorkerSt → WorkerSt) : (modWk s w f).crypto = s.crypto := rfl
@[simp] theorem modWk_region (s : State) (w : Worker) (f : WorkerSt → WorkerSt) : (modWk s w f).region = s.region := rfl
@[simp] theorem modWk_sweep (s : State) (w : Worker) (f : WorkerSt → WorkerSt) : (modWk s w f).sweep = s.sweep := rfl
@[simp] theorem modWk_air (s : State) (w : Worker) (f : WorkerSt → WorkerSt) : (modWk s w f).air = s.air := rfl
@[simp] theorem modWk_bank (s : State) (w : Worker) (f : WorkerSt → WorkerSt) : (modWk s w f).bank = s.bank := rfl
@[simp] theorem modWk_sever (s : State) (w : Worker) (f : WorkerSt → WorkerSt) : (modWk s w f).sever = s.sever := rfl
@[simp] theorem modWk_din (s : State) (w : Worker) (f : WorkerSt → WorkerSt) : (modWk s w f).din = s.din := rfl
@[simp] theorem modWk_folio (s : State) (w : Worker) (f : WorkerSt → WorkerSt) : (modWk s w f).folio = s.folio := rfl
@[simp] theorem modWk_recd (s : State) (w : Worker) (f : WorkerSt → WorkerSt) : (modWk s w f).recd = s.recd := rfl
@[simp] theorem modWk_mem (s : State) (w : Worker) (f : WorkerSt → WorkerSt) : (modWk s w f).mem = s.mem := rfl
@[simp] theorem modWk_twin (s : State) (w : Worker) (f : WorkerSt → WorkerSt) : (modWk s w f).twin = s.twin := rfl
@[simp] theorem modWk_can (s : State) (w : Worker) (f : WorkerSt → WorkerSt) : (modWk s w f).can = s.can := rfl
@[simp] theorem modWk_snaps (s : State) (w : Worker) (f : WorkerSt → WorkerSt) : (modWk s w f).snaps = s.snaps := rfl
@[simp] theorem modWk_est (s : State) (w : Worker) (f : WorkerSt → WorkerSt) : (modWk s w f).est = s.est := rfl
@[simp] theorem modWk_net (s : State) (w : Worker) (f : WorkerSt → WorkerSt) : (modWk s w f).net = s.net := rfl
@[simp] theorem modWk_ident (s : State) (w : Worker) (f : WorkerSt → WorkerSt) : (modWk s w f).ident = s.ident := rfl
@[simp] theorem modWk_qp (s : State) (w : Worker) (f : WorkerSt → WorkerSt) : (modWk s w f).qp = s.qp := rfl

/-! ## setRg -/

@[simp] theorem setRg_pending (s : State) (r : Region) (x : RegionSt) : (setRg s r x).pending = s.pending := rfl
@[simp] theorem setRg_free (s : State) (r : Region) (x : RegionSt) : (setRg s r x).free = s.free := rfl
@[simp] theorem setRg_nReg (s : State) (r : Region) (x : RegionSt) : (setRg s r x).nReg = s.nReg := rfl
@[simp] theorem setRg_cfg (s : State) (r : Region) (x : RegionSt) : (setRg s r x).cfg = s.cfg := rfl
@[simp] theorem setRg_power (s : State) (r : Region) (x : RegionSt) : (setRg s r x).power = s.power := rfl
@[simp] theorem setRg_therm (s : State) (r : Region) (x : RegionSt) : (setRg s r x).therm = s.therm := rfl
@[simp] theorem setRg_arb (s : State) (r : Region) (x : RegionSt) : (setRg s r x).arb = s.arb := rfl
@[simp] theorem setRg_wheel (s : State) (r : Region) (x : RegionSt) : (setRg s r x).wheel = s.wheel := rfl
@[simp] theorem setRg_time (s : State) (r : Region) (x : RegionSt) : (setRg s r x).time = s.time := rfl
@[simp] theorem setRg_ticks (s : State) (r : Region) (x : RegionSt) : (setRg s r x).ticks = s.ticks := rfl
@[simp] theorem setRg_canLatch (s : State) (r : Region) (x : RegionSt) : (setRg s r x).canLatch = s.canLatch := rfl
@[simp] theorem setRg_wk (s : State) (r : Region) (x : RegionSt) : (setRg s r x).wk = s.wk := rfl
@[simp] theorem setRg_cores (s : State) (r : Region) (x : RegionSt) : (setRg s r x).cores = s.cores := rfl
@[simp] theorem setRg_quantum (s : State) (r : Region) (x : RegionSt) : (setRg s r x).quantum = s.quantum := rfl
@[simp] theorem setRg_slots (s : State) (r : Region) (x : RegionSt) : (setRg s r x).slots = s.slots := rfl
@[simp] theorem setRg_comb (s : State) (r : Region) (x : RegionSt) : (setRg s r x).comb = s.comb := rfl
@[simp] theorem setRg_crypto (s : State) (r : Region) (x : RegionSt) : (setRg s r x).crypto = s.crypto := rfl
@[simp] theorem setRg_sweep (s : State) (r : Region) (x : RegionSt) : (setRg s r x).sweep = s.sweep := rfl
@[simp] theorem setRg_air (s : State) (r : Region) (x : RegionSt) : (setRg s r x).air = s.air := rfl
@[simp] theorem setRg_bank (s : State) (r : Region) (x : RegionSt) : (setRg s r x).bank = s.bank := rfl
@[simp] theorem setRg_sever (s : State) (r : Region) (x : RegionSt) : (setRg s r x).sever = s.sever := rfl
@[simp] theorem setRg_din (s : State) (r : Region) (x : RegionSt) : (setRg s r x).din = s.din := rfl
@[simp] theorem setRg_folio (s : State) (r : Region) (x : RegionSt) : (setRg s r x).folio = s.folio := rfl
@[simp] theorem setRg_recd (s : State) (r : Region) (x : RegionSt) : (setRg s r x).recd = s.recd := rfl
@[simp] theorem setRg_mem (s : State) (r : Region) (x : RegionSt) : (setRg s r x).mem = s.mem := rfl
@[simp] theorem setRg_twin (s : State) (r : Region) (x : RegionSt) : (setRg s r x).twin = s.twin := rfl
@[simp] theorem setRg_can (s : State) (r : Region) (x : RegionSt) : (setRg s r x).can = s.can := rfl
@[simp] theorem setRg_snaps (s : State) (r : Region) (x : RegionSt) : (setRg s r x).snaps = s.snaps := rfl
@[simp] theorem setRg_est (s : State) (r : Region) (x : RegionSt) : (setRg s r x).est = s.est := rfl
@[simp] theorem setRg_net (s : State) (r : Region) (x : RegionSt) : (setRg s r x).net = s.net := rfl
@[simp] theorem setRg_ident (s : State) (r : Region) (x : RegionSt) : (setRg s r x).ident = s.ident := rfl
@[simp] theorem setRg_qp (s : State) (r : Region) (x : RegionSt) : (setRg s r x).qp = s.qp := rfl

/-! ## modRg -/

@[simp] theorem modRg_pending (s : State) (r : Region) (f : RegionSt → RegionSt) : (modRg s r f).pending = s.pending := rfl
@[simp] theorem modRg_free (s : State) (r : Region) (f : RegionSt → RegionSt) : (modRg s r f).free = s.free := rfl
@[simp] theorem modRg_nReg (s : State) (r : Region) (f : RegionSt → RegionSt) : (modRg s r f).nReg = s.nReg := rfl
@[simp] theorem modRg_cfg (s : State) (r : Region) (f : RegionSt → RegionSt) : (modRg s r f).cfg = s.cfg := rfl
@[simp] theorem modRg_power (s : State) (r : Region) (f : RegionSt → RegionSt) : (modRg s r f).power = s.power := rfl
@[simp] theorem modRg_therm (s : State) (r : Region) (f : RegionSt → RegionSt) : (modRg s r f).therm = s.therm := rfl
@[simp] theorem modRg_arb (s : State) (r : Region) (f : RegionSt → RegionSt) : (modRg s r f).arb = s.arb := rfl
@[simp] theorem modRg_wheel (s : State) (r : Region) (f : RegionSt → RegionSt) : (modRg s r f).wheel = s.wheel := rfl
@[simp] theorem modRg_time (s : State) (r : Region) (f : RegionSt → RegionSt) : (modRg s r f).time = s.time := rfl
@[simp] theorem modRg_ticks (s : State) (r : Region) (f : RegionSt → RegionSt) : (modRg s r f).ticks = s.ticks := rfl
@[simp] theorem modRg_canLatch (s : State) (r : Region) (f : RegionSt → RegionSt) : (modRg s r f).canLatch = s.canLatch := rfl
@[simp] theorem modRg_wk (s : State) (r : Region) (f : RegionSt → RegionSt) : (modRg s r f).wk = s.wk := rfl
@[simp] theorem modRg_cores (s : State) (r : Region) (f : RegionSt → RegionSt) : (modRg s r f).cores = s.cores := rfl
@[simp] theorem modRg_quantum (s : State) (r : Region) (f : RegionSt → RegionSt) : (modRg s r f).quantum = s.quantum := rfl
@[simp] theorem modRg_slots (s : State) (r : Region) (f : RegionSt → RegionSt) : (modRg s r f).slots = s.slots := rfl
@[simp] theorem modRg_comb (s : State) (r : Region) (f : RegionSt → RegionSt) : (modRg s r f).comb = s.comb := rfl
@[simp] theorem modRg_crypto (s : State) (r : Region) (f : RegionSt → RegionSt) : (modRg s r f).crypto = s.crypto := rfl
@[simp] theorem modRg_sweep (s : State) (r : Region) (f : RegionSt → RegionSt) : (modRg s r f).sweep = s.sweep := rfl
@[simp] theorem modRg_air (s : State) (r : Region) (f : RegionSt → RegionSt) : (modRg s r f).air = s.air := rfl
@[simp] theorem modRg_bank (s : State) (r : Region) (f : RegionSt → RegionSt) : (modRg s r f).bank = s.bank := rfl
@[simp] theorem modRg_sever (s : State) (r : Region) (f : RegionSt → RegionSt) : (modRg s r f).sever = s.sever := rfl
@[simp] theorem modRg_din (s : State) (r : Region) (f : RegionSt → RegionSt) : (modRg s r f).din = s.din := rfl
@[simp] theorem modRg_folio (s : State) (r : Region) (f : RegionSt → RegionSt) : (modRg s r f).folio = s.folio := rfl
@[simp] theorem modRg_recd (s : State) (r : Region) (f : RegionSt → RegionSt) : (modRg s r f).recd = s.recd := rfl
@[simp] theorem modRg_mem (s : State) (r : Region) (f : RegionSt → RegionSt) : (modRg s r f).mem = s.mem := rfl
@[simp] theorem modRg_twin (s : State) (r : Region) (f : RegionSt → RegionSt) : (modRg s r f).twin = s.twin := rfl
@[simp] theorem modRg_can (s : State) (r : Region) (f : RegionSt → RegionSt) : (modRg s r f).can = s.can := rfl
@[simp] theorem modRg_snaps (s : State) (r : Region) (f : RegionSt → RegionSt) : (modRg s r f).snaps = s.snaps := rfl
@[simp] theorem modRg_est (s : State) (r : Region) (f : RegionSt → RegionSt) : (modRg s r f).est = s.est := rfl
@[simp] theorem modRg_net (s : State) (r : Region) (f : RegionSt → RegionSt) : (modRg s r f).net = s.net := rfl
@[simp] theorem modRg_ident (s : State) (r : Region) (f : RegionSt → RegionSt) : (modRg s r f).ident = s.ident := rfl
@[simp] theorem modRg_qp (s : State) (r : Region) (f : RegionSt → RegionSt) : (modRg s r f).qp = s.qp := rfl

/-! ## modRe -/

@[simp] theorem modRe_pending (s : State) (r : Region) (f : Engine → Engine) : (modRe s r f).pending = s.pending := rfl
@[simp] theorem modRe_free (s : State) (r : Region) (f : Engine → Engine) : (modRe s r f).free = s.free := rfl
@[simp] theorem modRe_nReg (s : State) (r : Region) (f : Engine → Engine) : (modRe s r f).nReg = s.nReg := rfl
@[simp] theorem modRe_cfg (s : State) (r : Region) (f : Engine → Engine) : (modRe s r f).cfg = s.cfg := rfl
@[simp] theorem modRe_power (s : State) (r : Region) (f : Engine → Engine) : (modRe s r f).power = s.power := rfl
@[simp] theorem modRe_therm (s : State) (r : Region) (f : Engine → Engine) : (modRe s r f).therm = s.therm := rfl
@[simp] theorem modRe_arb (s : State) (r : Region) (f : Engine → Engine) : (modRe s r f).arb = s.arb := rfl
@[simp] theorem modRe_wheel (s : State) (r : Region) (f : Engine → Engine) : (modRe s r f).wheel = s.wheel := rfl
@[simp] theorem modRe_time (s : State) (r : Region) (f : Engine → Engine) : (modRe s r f).time = s.time := rfl
@[simp] theorem modRe_ticks (s : State) (r : Region) (f : Engine → Engine) : (modRe s r f).ticks = s.ticks := rfl
@[simp] theorem modRe_canLatch (s : State) (r : Region) (f : Engine → Engine) : (modRe s r f).canLatch = s.canLatch := rfl
@[simp] theorem modRe_wk (s : State) (r : Region) (f : Engine → Engine) : (modRe s r f).wk = s.wk := rfl
@[simp] theorem modRe_cores (s : State) (r : Region) (f : Engine → Engine) : (modRe s r f).cores = s.cores := rfl
@[simp] theorem modRe_quantum (s : State) (r : Region) (f : Engine → Engine) : (modRe s r f).quantum = s.quantum := rfl
@[simp] theorem modRe_slots (s : State) (r : Region) (f : Engine → Engine) : (modRe s r f).slots = s.slots := rfl
@[simp] theorem modRe_comb (s : State) (r : Region) (f : Engine → Engine) : (modRe s r f).comb = s.comb := rfl
@[simp] theorem modRe_crypto (s : State) (r : Region) (f : Engine → Engine) : (modRe s r f).crypto = s.crypto := rfl
@[simp] theorem modRe_sweep (s : State) (r : Region) (f : Engine → Engine) : (modRe s r f).sweep = s.sweep := rfl
@[simp] theorem modRe_air (s : State) (r : Region) (f : Engine → Engine) : (modRe s r f).air = s.air := rfl
@[simp] theorem modRe_bank (s : State) (r : Region) (f : Engine → Engine) : (modRe s r f).bank = s.bank := rfl
@[simp] theorem modRe_sever (s : State) (r : Region) (f : Engine → Engine) : (modRe s r f).sever = s.sever := rfl
@[simp] theorem modRe_din (s : State) (r : Region) (f : Engine → Engine) : (modRe s r f).din = s.din := rfl
@[simp] theorem modRe_folio (s : State) (r : Region) (f : Engine → Engine) : (modRe s r f).folio = s.folio := rfl
@[simp] theorem modRe_recd (s : State) (r : Region) (f : Engine → Engine) : (modRe s r f).recd = s.recd := rfl
@[simp] theorem modRe_mem (s : State) (r : Region) (f : Engine → Engine) : (modRe s r f).mem = s.mem := rfl
@[simp] theorem modRe_twin (s : State) (r : Region) (f : Engine → Engine) : (modRe s r f).twin = s.twin := rfl
@[simp] theorem modRe_can (s : State) (r : Region) (f : Engine → Engine) : (modRe s r f).can = s.can := rfl
@[simp] theorem modRe_snaps (s : State) (r : Region) (f : Engine → Engine) : (modRe s r f).snaps = s.snaps := rfl
@[simp] theorem modRe_est (s : State) (r : Region) (f : Engine → Engine) : (modRe s r f).est = s.est := rfl
@[simp] theorem modRe_net (s : State) (r : Region) (f : Engine → Engine) : (modRe s r f).net = s.net := rfl
@[simp] theorem modRe_ident (s : State) (r : Region) (f : Engine → Engine) : (modRe s r f).ident = s.ident := rfl
@[simp] theorem modRe_qp (s : State) (r : Region) (f : Engine → Engine) : (modRe s r f).qp = s.qp := rfl

/-! ## setCh -/

@[simp] theorem setCh_pending (s : State) (c : Chan) (x : ChanSt) : (setCh s c x).pending = s.pending := rfl
@[simp] theorem setCh_free (s : State) (c : Chan) (x : ChanSt) : (setCh s c x).free = s.free := rfl
@[simp] theorem setCh_nReg (s : State) (c : Chan) (x : ChanSt) : (setCh s c x).nReg = s.nReg := rfl
@[simp] theorem setCh_cfg (s : State) (c : Chan) (x : ChanSt) : (setCh s c x).cfg = s.cfg := rfl
@[simp] theorem setCh_power (s : State) (c : Chan) (x : ChanSt) : (setCh s c x).power = s.power := rfl
@[simp] theorem setCh_therm (s : State) (c : Chan) (x : ChanSt) : (setCh s c x).therm = s.therm := rfl
@[simp] theorem setCh_arb (s : State) (c : Chan) (x : ChanSt) : (setCh s c x).arb = s.arb := rfl
@[simp] theorem setCh_wheel (s : State) (c : Chan) (x : ChanSt) : (setCh s c x).wheel = s.wheel := rfl
@[simp] theorem setCh_time (s : State) (c : Chan) (x : ChanSt) : (setCh s c x).time = s.time := rfl
@[simp] theorem setCh_ticks (s : State) (c : Chan) (x : ChanSt) : (setCh s c x).ticks = s.ticks := rfl
@[simp] theorem setCh_canLatch (s : State) (c : Chan) (x : ChanSt) : (setCh s c x).canLatch = s.canLatch := rfl
@[simp] theorem setCh_wk (s : State) (c : Chan) (x : ChanSt) : (setCh s c x).wk = s.wk := rfl
@[simp] theorem setCh_cores (s : State) (c : Chan) (x : ChanSt) : (setCh s c x).cores = s.cores := rfl
@[simp] theorem setCh_quantum (s : State) (c : Chan) (x : ChanSt) : (setCh s c x).quantum = s.quantum := rfl
@[simp] theorem setCh_slots (s : State) (c : Chan) (x : ChanSt) : (setCh s c x).slots = s.slots := rfl
@[simp] theorem setCh_comb (s : State) (c : Chan) (x : ChanSt) : (setCh s c x).comb = s.comb := rfl
@[simp] theorem setCh_crypto (s : State) (c : Chan) (x : ChanSt) : (setCh s c x).crypto = s.crypto := rfl
@[simp] theorem setCh_region (s : State) (c : Chan) (x : ChanSt) : (setCh s c x).region = s.region := rfl
@[simp] theorem setCh_sweep (s : State) (c : Chan) (x : ChanSt) : (setCh s c x).sweep = s.sweep := rfl
@[simp] theorem setCh_air (s : State) (c : Chan) (x : ChanSt) : (setCh s c x).air = s.air := rfl
@[simp] theorem setCh_sever (s : State) (c : Chan) (x : ChanSt) : (setCh s c x).sever = s.sever := rfl
@[simp] theorem setCh_din (s : State) (c : Chan) (x : ChanSt) : (setCh s c x).din = s.din := rfl
@[simp] theorem setCh_folio (s : State) (c : Chan) (x : ChanSt) : (setCh s c x).folio = s.folio := rfl
@[simp] theorem setCh_recd (s : State) (c : Chan) (x : ChanSt) : (setCh s c x).recd = s.recd := rfl
@[simp] theorem setCh_mem (s : State) (c : Chan) (x : ChanSt) : (setCh s c x).mem = s.mem := rfl
@[simp] theorem setCh_twin (s : State) (c : Chan) (x : ChanSt) : (setCh s c x).twin = s.twin := rfl
@[simp] theorem setCh_can (s : State) (c : Chan) (x : ChanSt) : (setCh s c x).can = s.can := rfl
@[simp] theorem setCh_snaps (s : State) (c : Chan) (x : ChanSt) : (setCh s c x).snaps = s.snaps := rfl
@[simp] theorem setCh_est (s : State) (c : Chan) (x : ChanSt) : (setCh s c x).est = s.est := rfl
@[simp] theorem setCh_net (s : State) (c : Chan) (x : ChanSt) : (setCh s c x).net = s.net := rfl
@[simp] theorem setCh_ident (s : State) (c : Chan) (x : ChanSt) : (setCh s c x).ident = s.ident := rfl
@[simp] theorem setCh_qp (s : State) (c : Chan) (x : ChanSt) : (setCh s c x).qp = s.qp := rfl

/-! ## modCh -/

@[simp] theorem modCh_pending (s : State) (c : Chan) (f : ChanSt → ChanSt) : (modCh s c f).pending = s.pending := rfl
@[simp] theorem modCh_free (s : State) (c : Chan) (f : ChanSt → ChanSt) : (modCh s c f).free = s.free := rfl
@[simp] theorem modCh_nReg (s : State) (c : Chan) (f : ChanSt → ChanSt) : (modCh s c f).nReg = s.nReg := rfl
@[simp] theorem modCh_cfg (s : State) (c : Chan) (f : ChanSt → ChanSt) : (modCh s c f).cfg = s.cfg := rfl
@[simp] theorem modCh_power (s : State) (c : Chan) (f : ChanSt → ChanSt) : (modCh s c f).power = s.power := rfl
@[simp] theorem modCh_therm (s : State) (c : Chan) (f : ChanSt → ChanSt) : (modCh s c f).therm = s.therm := rfl
@[simp] theorem modCh_arb (s : State) (c : Chan) (f : ChanSt → ChanSt) : (modCh s c f).arb = s.arb := rfl
@[simp] theorem modCh_wheel (s : State) (c : Chan) (f : ChanSt → ChanSt) : (modCh s c f).wheel = s.wheel := rfl
@[simp] theorem modCh_time (s : State) (c : Chan) (f : ChanSt → ChanSt) : (modCh s c f).time = s.time := rfl
@[simp] theorem modCh_ticks (s : State) (c : Chan) (f : ChanSt → ChanSt) : (modCh s c f).ticks = s.ticks := rfl
@[simp] theorem modCh_canLatch (s : State) (c : Chan) (f : ChanSt → ChanSt) : (modCh s c f).canLatch = s.canLatch := rfl
@[simp] theorem modCh_wk (s : State) (c : Chan) (f : ChanSt → ChanSt) : (modCh s c f).wk = s.wk := rfl
@[simp] theorem modCh_cores (s : State) (c : Chan) (f : ChanSt → ChanSt) : (modCh s c f).cores = s.cores := rfl
@[simp] theorem modCh_quantum (s : State) (c : Chan) (f : ChanSt → ChanSt) : (modCh s c f).quantum = s.quantum := rfl
@[simp] theorem modCh_slots (s : State) (c : Chan) (f : ChanSt → ChanSt) : (modCh s c f).slots = s.slots := rfl
@[simp] theorem modCh_comb (s : State) (c : Chan) (f : ChanSt → ChanSt) : (modCh s c f).comb = s.comb := rfl
@[simp] theorem modCh_crypto (s : State) (c : Chan) (f : ChanSt → ChanSt) : (modCh s c f).crypto = s.crypto := rfl
@[simp] theorem modCh_region (s : State) (c : Chan) (f : ChanSt → ChanSt) : (modCh s c f).region = s.region := rfl
@[simp] theorem modCh_sweep (s : State) (c : Chan) (f : ChanSt → ChanSt) : (modCh s c f).sweep = s.sweep := rfl
@[simp] theorem modCh_air (s : State) (c : Chan) (f : ChanSt → ChanSt) : (modCh s c f).air = s.air := rfl
@[simp] theorem modCh_sever (s : State) (c : Chan) (f : ChanSt → ChanSt) : (modCh s c f).sever = s.sever := rfl
@[simp] theorem modCh_din (s : State) (c : Chan) (f : ChanSt → ChanSt) : (modCh s c f).din = s.din := rfl
@[simp] theorem modCh_folio (s : State) (c : Chan) (f : ChanSt → ChanSt) : (modCh s c f).folio = s.folio := rfl
@[simp] theorem modCh_recd (s : State) (c : Chan) (f : ChanSt → ChanSt) : (modCh s c f).recd = s.recd := rfl
@[simp] theorem modCh_mem (s : State) (c : Chan) (f : ChanSt → ChanSt) : (modCh s c f).mem = s.mem := rfl
@[simp] theorem modCh_twin (s : State) (c : Chan) (f : ChanSt → ChanSt) : (modCh s c f).twin = s.twin := rfl
@[simp] theorem modCh_can (s : State) (c : Chan) (f : ChanSt → ChanSt) : (modCh s c f).can = s.can := rfl
@[simp] theorem modCh_snaps (s : State) (c : Chan) (f : ChanSt → ChanSt) : (modCh s c f).snaps = s.snaps := rfl
@[simp] theorem modCh_est (s : State) (c : Chan) (f : ChanSt → ChanSt) : (modCh s c f).est = s.est := rfl
@[simp] theorem modCh_net (s : State) (c : Chan) (f : ChanSt → ChanSt) : (modCh s c f).net = s.net := rfl
@[simp] theorem modCh_ident (s : State) (c : Chan) (f : ChanSt → ChanSt) : (modCh s c f).ident = s.ident := rfl
@[simp] theorem modCh_qp (s : State) (c : Chan) (f : ChanSt → ChanSt) : (modCh s c f).qp = s.qp := rfl

/-! ## modCore -/

@[simp] theorem modCore_pending (s : State) (k : Fin 4) (f : CoreSt → CoreSt) : (modCore s k f).pending = s.pending := rfl
@[simp] theorem modCore_free (s : State) (k : Fin 4) (f : CoreSt → CoreSt) : (modCore s k f).free = s.free := rfl
@[simp] theorem modCore_nReg (s : State) (k : Fin 4) (f : CoreSt → CoreSt) : (modCore s k f).nReg = s.nReg := rfl
@[simp] theorem modCore_cfg (s : State) (k : Fin 4) (f : CoreSt → CoreSt) : (modCore s k f).cfg = s.cfg := rfl
@[simp] theorem modCore_power (s : State) (k : Fin 4) (f : CoreSt → CoreSt) : (modCore s k f).power = s.power := rfl
@[simp] theorem modCore_therm (s : State) (k : Fin 4) (f : CoreSt → CoreSt) : (modCore s k f).therm = s.therm := rfl
@[simp] theorem modCore_arb (s : State) (k : Fin 4) (f : CoreSt → CoreSt) : (modCore s k f).arb = s.arb := rfl
@[simp] theorem modCore_wheel (s : State) (k : Fin 4) (f : CoreSt → CoreSt) : (modCore s k f).wheel = s.wheel := rfl
@[simp] theorem modCore_time (s : State) (k : Fin 4) (f : CoreSt → CoreSt) : (modCore s k f).time = s.time := rfl
@[simp] theorem modCore_ticks (s : State) (k : Fin 4) (f : CoreSt → CoreSt) : (modCore s k f).ticks = s.ticks := rfl
@[simp] theorem modCore_canLatch (s : State) (k : Fin 4) (f : CoreSt → CoreSt) : (modCore s k f).canLatch = s.canLatch := rfl
@[simp] theorem modCore_wk (s : State) (k : Fin 4) (f : CoreSt → CoreSt) : (modCore s k f).wk = s.wk := rfl
@[simp] theorem modCore_quantum (s : State) (k : Fin 4) (f : CoreSt → CoreSt) : (modCore s k f).quantum = s.quantum := rfl
@[simp] theorem modCore_slots (s : State) (k : Fin 4) (f : CoreSt → CoreSt) : (modCore s k f).slots = s.slots := rfl
@[simp] theorem modCore_comb (s : State) (k : Fin 4) (f : CoreSt → CoreSt) : (modCore s k f).comb = s.comb := rfl
@[simp] theorem modCore_crypto (s : State) (k : Fin 4) (f : CoreSt → CoreSt) : (modCore s k f).crypto = s.crypto := rfl
@[simp] theorem modCore_region (s : State) (k : Fin 4) (f : CoreSt → CoreSt) : (modCore s k f).region = s.region := rfl
@[simp] theorem modCore_sweep (s : State) (k : Fin 4) (f : CoreSt → CoreSt) : (modCore s k f).sweep = s.sweep := rfl
@[simp] theorem modCore_air (s : State) (k : Fin 4) (f : CoreSt → CoreSt) : (modCore s k f).air = s.air := rfl
@[simp] theorem modCore_bank (s : State) (k : Fin 4) (f : CoreSt → CoreSt) : (modCore s k f).bank = s.bank := rfl
@[simp] theorem modCore_sever (s : State) (k : Fin 4) (f : CoreSt → CoreSt) : (modCore s k f).sever = s.sever := rfl
@[simp] theorem modCore_din (s : State) (k : Fin 4) (f : CoreSt → CoreSt) : (modCore s k f).din = s.din := rfl
@[simp] theorem modCore_folio (s : State) (k : Fin 4) (f : CoreSt → CoreSt) : (modCore s k f).folio = s.folio := rfl
@[simp] theorem modCore_recd (s : State) (k : Fin 4) (f : CoreSt → CoreSt) : (modCore s k f).recd = s.recd := rfl
@[simp] theorem modCore_mem (s : State) (k : Fin 4) (f : CoreSt → CoreSt) : (modCore s k f).mem = s.mem := rfl
@[simp] theorem modCore_twin (s : State) (k : Fin 4) (f : CoreSt → CoreSt) : (modCore s k f).twin = s.twin := rfl
@[simp] theorem modCore_can (s : State) (k : Fin 4) (f : CoreSt → CoreSt) : (modCore s k f).can = s.can := rfl
@[simp] theorem modCore_snaps (s : State) (k : Fin 4) (f : CoreSt → CoreSt) : (modCore s k f).snaps = s.snaps := rfl
@[simp] theorem modCore_est (s : State) (k : Fin 4) (f : CoreSt → CoreSt) : (modCore s k f).est = s.est := rfl
@[simp] theorem modCore_net (s : State) (k : Fin 4) (f : CoreSt → CoreSt) : (modCore s k f).net = s.net := rfl
@[simp] theorem modCore_ident (s : State) (k : Fin 4) (f : CoreSt → CoreSt) : (modCore s k f).ident = s.ident := rfl
@[simp] theorem modCore_qp (s : State) (k : Fin 4) (f : CoreSt → CoreSt) : (modCore s k f).qp = s.qp := rfl

/-! ## modCan -/

@[simp] theorem modCan_pending (s : State) (n : Fin 4) (f : CanSt → CanSt) : (modCan s n f).pending = s.pending := rfl
@[simp] theorem modCan_free (s : State) (n : Fin 4) (f : CanSt → CanSt) : (modCan s n f).free = s.free := rfl
@[simp] theorem modCan_nReg (s : State) (n : Fin 4) (f : CanSt → CanSt) : (modCan s n f).nReg = s.nReg := rfl
@[simp] theorem modCan_cfg (s : State) (n : Fin 4) (f : CanSt → CanSt) : (modCan s n f).cfg = s.cfg := rfl
@[simp] theorem modCan_power (s : State) (n : Fin 4) (f : CanSt → CanSt) : (modCan s n f).power = s.power := rfl
@[simp] theorem modCan_therm (s : State) (n : Fin 4) (f : CanSt → CanSt) : (modCan s n f).therm = s.therm := rfl
@[simp] theorem modCan_arb (s : State) (n : Fin 4) (f : CanSt → CanSt) : (modCan s n f).arb = s.arb := rfl
@[simp] theorem modCan_wheel (s : State) (n : Fin 4) (f : CanSt → CanSt) : (modCan s n f).wheel = s.wheel := rfl
@[simp] theorem modCan_time (s : State) (n : Fin 4) (f : CanSt → CanSt) : (modCan s n f).time = s.time := rfl
@[simp] theorem modCan_ticks (s : State) (n : Fin 4) (f : CanSt → CanSt) : (modCan s n f).ticks = s.ticks := rfl
@[simp] theorem modCan_canLatch (s : State) (n : Fin 4) (f : CanSt → CanSt) : (modCan s n f).canLatch = s.canLatch := rfl
@[simp] theorem modCan_wk (s : State) (n : Fin 4) (f : CanSt → CanSt) : (modCan s n f).wk = s.wk := rfl
@[simp] theorem modCan_cores (s : State) (n : Fin 4) (f : CanSt → CanSt) : (modCan s n f).cores = s.cores := rfl
@[simp] theorem modCan_quantum (s : State) (n : Fin 4) (f : CanSt → CanSt) : (modCan s n f).quantum = s.quantum := rfl
@[simp] theorem modCan_slots (s : State) (n : Fin 4) (f : CanSt → CanSt) : (modCan s n f).slots = s.slots := rfl
@[simp] theorem modCan_comb (s : State) (n : Fin 4) (f : CanSt → CanSt) : (modCan s n f).comb = s.comb := rfl
@[simp] theorem modCan_crypto (s : State) (n : Fin 4) (f : CanSt → CanSt) : (modCan s n f).crypto = s.crypto := rfl
@[simp] theorem modCan_region (s : State) (n : Fin 4) (f : CanSt → CanSt) : (modCan s n f).region = s.region := rfl
@[simp] theorem modCan_sweep (s : State) (n : Fin 4) (f : CanSt → CanSt) : (modCan s n f).sweep = s.sweep := rfl
@[simp] theorem modCan_air (s : State) (n : Fin 4) (f : CanSt → CanSt) : (modCan s n f).air = s.air := rfl
@[simp] theorem modCan_bank (s : State) (n : Fin 4) (f : CanSt → CanSt) : (modCan s n f).bank = s.bank := rfl
@[simp] theorem modCan_sever (s : State) (n : Fin 4) (f : CanSt → CanSt) : (modCan s n f).sever = s.sever := rfl
@[simp] theorem modCan_din (s : State) (n : Fin 4) (f : CanSt → CanSt) : (modCan s n f).din = s.din := rfl
@[simp] theorem modCan_folio (s : State) (n : Fin 4) (f : CanSt → CanSt) : (modCan s n f).folio = s.folio := rfl
@[simp] theorem modCan_recd (s : State) (n : Fin 4) (f : CanSt → CanSt) : (modCan s n f).recd = s.recd := rfl
@[simp] theorem modCan_mem (s : State) (n : Fin 4) (f : CanSt → CanSt) : (modCan s n f).mem = s.mem := rfl
@[simp] theorem modCan_twin (s : State) (n : Fin 4) (f : CanSt → CanSt) : (modCan s n f).twin = s.twin := rfl
@[simp] theorem modCan_snaps (s : State) (n : Fin 4) (f : CanSt → CanSt) : (modCan s n f).snaps = s.snaps := rfl
@[simp] theorem modCan_est (s : State) (n : Fin 4) (f : CanSt → CanSt) : (modCan s n f).est = s.est := rfl
@[simp] theorem modCan_net (s : State) (n : Fin 4) (f : CanSt → CanSt) : (modCan s n f).net = s.net := rfl
@[simp] theorem modCan_ident (s : State) (n : Fin 4) (f : CanSt → CanSt) : (modCan s n f).ident = s.ident := rfl
@[simp] theorem modCan_qp (s : State) (n : Fin 4) (f : CanSt → CanSt) : (modCan s n f).qp = s.qp := rfl

/-! ## modTwin -/

@[simp] theorem modTwin_pending (s : State) (f : TwinSt → TwinSt) : (modTwin s f).pending = s.pending := rfl
@[simp] theorem modTwin_free (s : State) (f : TwinSt → TwinSt) : (modTwin s f).free = s.free := rfl
@[simp] theorem modTwin_nReg (s : State) (f : TwinSt → TwinSt) : (modTwin s f).nReg = s.nReg := rfl
@[simp] theorem modTwin_cfg (s : State) (f : TwinSt → TwinSt) : (modTwin s f).cfg = s.cfg := rfl
@[simp] theorem modTwin_power (s : State) (f : TwinSt → TwinSt) : (modTwin s f).power = s.power := rfl
@[simp] theorem modTwin_therm (s : State) (f : TwinSt → TwinSt) : (modTwin s f).therm = s.therm := rfl
@[simp] theorem modTwin_arb (s : State) (f : TwinSt → TwinSt) : (modTwin s f).arb = s.arb := rfl
@[simp] theorem modTwin_wheel (s : State) (f : TwinSt → TwinSt) : (modTwin s f).wheel = s.wheel := rfl
@[simp] theorem modTwin_time (s : State) (f : TwinSt → TwinSt) : (modTwin s f).time = s.time := rfl
@[simp] theorem modTwin_ticks (s : State) (f : TwinSt → TwinSt) : (modTwin s f).ticks = s.ticks := rfl
@[simp] theorem modTwin_canLatch (s : State) (f : TwinSt → TwinSt) : (modTwin s f).canLatch = s.canLatch := rfl
@[simp] theorem modTwin_wk (s : State) (f : TwinSt → TwinSt) : (modTwin s f).wk = s.wk := rfl
@[simp] theorem modTwin_cores (s : State) (f : TwinSt → TwinSt) : (modTwin s f).cores = s.cores := rfl
@[simp] theorem modTwin_quantum (s : State) (f : TwinSt → TwinSt) : (modTwin s f).quantum = s.quantum := rfl
@[simp] theorem modTwin_slots (s : State) (f : TwinSt → TwinSt) : (modTwin s f).slots = s.slots := rfl
@[simp] theorem modTwin_comb (s : State) (f : TwinSt → TwinSt) : (modTwin s f).comb = s.comb := rfl
@[simp] theorem modTwin_crypto (s : State) (f : TwinSt → TwinSt) : (modTwin s f).crypto = s.crypto := rfl
@[simp] theorem modTwin_region (s : State) (f : TwinSt → TwinSt) : (modTwin s f).region = s.region := rfl
@[simp] theorem modTwin_sweep (s : State) (f : TwinSt → TwinSt) : (modTwin s f).sweep = s.sweep := rfl
@[simp] theorem modTwin_air (s : State) (f : TwinSt → TwinSt) : (modTwin s f).air = s.air := rfl
@[simp] theorem modTwin_bank (s : State) (f : TwinSt → TwinSt) : (modTwin s f).bank = s.bank := rfl
@[simp] theorem modTwin_sever (s : State) (f : TwinSt → TwinSt) : (modTwin s f).sever = s.sever := rfl
@[simp] theorem modTwin_din (s : State) (f : TwinSt → TwinSt) : (modTwin s f).din = s.din := rfl
@[simp] theorem modTwin_folio (s : State) (f : TwinSt → TwinSt) : (modTwin s f).folio = s.folio := rfl
@[simp] theorem modTwin_recd (s : State) (f : TwinSt → TwinSt) : (modTwin s f).recd = s.recd := rfl
@[simp] theorem modTwin_mem (s : State) (f : TwinSt → TwinSt) : (modTwin s f).mem = s.mem := rfl
@[simp] theorem modTwin_can (s : State) (f : TwinSt → TwinSt) : (modTwin s f).can = s.can := rfl
@[simp] theorem modTwin_snaps (s : State) (f : TwinSt → TwinSt) : (modTwin s f).snaps = s.snaps := rfl
@[simp] theorem modTwin_est (s : State) (f : TwinSt → TwinSt) : (modTwin s f).est = s.est := rfl
@[simp] theorem modTwin_net (s : State) (f : TwinSt → TwinSt) : (modTwin s f).net = s.net := rfl
@[simp] theorem modTwin_ident (s : State) (f : TwinSt → TwinSt) : (modTwin s f).ident = s.ident := rfl
@[simp] theorem modTwin_qp (s : State) (f : TwinSt → TwinSt) : (modTwin s f).qp = s.qp := rfl

/-! ## twinSend -/

@[simp] theorem twinSend_pending (s : State) (x : TwinOut) : (twinSend s x).pending = s.pending := rfl
@[simp] theorem twinSend_free (s : State) (x : TwinOut) : (twinSend s x).free = s.free := rfl
@[simp] theorem twinSend_nReg (s : State) (x : TwinOut) : (twinSend s x).nReg = s.nReg := rfl
@[simp] theorem twinSend_cfg (s : State) (x : TwinOut) : (twinSend s x).cfg = s.cfg := rfl
@[simp] theorem twinSend_power (s : State) (x : TwinOut) : (twinSend s x).power = s.power := rfl
@[simp] theorem twinSend_therm (s : State) (x : TwinOut) : (twinSend s x).therm = s.therm := rfl
@[simp] theorem twinSend_arb (s : State) (x : TwinOut) : (twinSend s x).arb = s.arb := rfl
@[simp] theorem twinSend_wheel (s : State) (x : TwinOut) : (twinSend s x).wheel = s.wheel := rfl
@[simp] theorem twinSend_time (s : State) (x : TwinOut) : (twinSend s x).time = s.time := rfl
@[simp] theorem twinSend_ticks (s : State) (x : TwinOut) : (twinSend s x).ticks = s.ticks := rfl
@[simp] theorem twinSend_canLatch (s : State) (x : TwinOut) : (twinSend s x).canLatch = s.canLatch := rfl
@[simp] theorem twinSend_wk (s : State) (x : TwinOut) : (twinSend s x).wk = s.wk := rfl
@[simp] theorem twinSend_cores (s : State) (x : TwinOut) : (twinSend s x).cores = s.cores := rfl
@[simp] theorem twinSend_quantum (s : State) (x : TwinOut) : (twinSend s x).quantum = s.quantum := rfl
@[simp] theorem twinSend_slots (s : State) (x : TwinOut) : (twinSend s x).slots = s.slots := rfl
@[simp] theorem twinSend_comb (s : State) (x : TwinOut) : (twinSend s x).comb = s.comb := rfl
@[simp] theorem twinSend_crypto (s : State) (x : TwinOut) : (twinSend s x).crypto = s.crypto := rfl
@[simp] theorem twinSend_region (s : State) (x : TwinOut) : (twinSend s x).region = s.region := rfl
@[simp] theorem twinSend_sweep (s : State) (x : TwinOut) : (twinSend s x).sweep = s.sweep := rfl
@[simp] theorem twinSend_air (s : State) (x : TwinOut) : (twinSend s x).air = s.air := rfl
@[simp] theorem twinSend_bank (s : State) (x : TwinOut) : (twinSend s x).bank = s.bank := rfl
@[simp] theorem twinSend_sever (s : State) (x : TwinOut) : (twinSend s x).sever = s.sever := rfl
@[simp] theorem twinSend_din (s : State) (x : TwinOut) : (twinSend s x).din = s.din := rfl
@[simp] theorem twinSend_folio (s : State) (x : TwinOut) : (twinSend s x).folio = s.folio := rfl
@[simp] theorem twinSend_recd (s : State) (x : TwinOut) : (twinSend s x).recd = s.recd := rfl
@[simp] theorem twinSend_mem (s : State) (x : TwinOut) : (twinSend s x).mem = s.mem := rfl
@[simp] theorem twinSend_can (s : State) (x : TwinOut) : (twinSend s x).can = s.can := rfl
@[simp] theorem twinSend_snaps (s : State) (x : TwinOut) : (twinSend s x).snaps = s.snaps := rfl
@[simp] theorem twinSend_est (s : State) (x : TwinOut) : (twinSend s x).est = s.est := rfl
@[simp] theorem twinSend_net (s : State) (x : TwinOut) : (twinSend s x).net = s.net := rfl
@[simp] theorem twinSend_ident (s : State) (x : TwinOut) : (twinSend s x).ident = s.ident := rfl
@[simp] theorem twinSend_qp (s : State) (x : TwinOut) : (twinSend s x).qp = s.qp := rfl

/-! ## modFolio -/

@[simp] theorem modFolio_pending (s : State) (f : FolioSt → FolioSt) : (modFolio s f).pending = s.pending := rfl
@[simp] theorem modFolio_free (s : State) (f : FolioSt → FolioSt) : (modFolio s f).free = s.free := rfl
@[simp] theorem modFolio_nReg (s : State) (f : FolioSt → FolioSt) : (modFolio s f).nReg = s.nReg := rfl
@[simp] theorem modFolio_cfg (s : State) (f : FolioSt → FolioSt) : (modFolio s f).cfg = s.cfg := rfl
@[simp] theorem modFolio_power (s : State) (f : FolioSt → FolioSt) : (modFolio s f).power = s.power := rfl
@[simp] theorem modFolio_therm (s : State) (f : FolioSt → FolioSt) : (modFolio s f).therm = s.therm := rfl
@[simp] theorem modFolio_arb (s : State) (f : FolioSt → FolioSt) : (modFolio s f).arb = s.arb := rfl
@[simp] theorem modFolio_wheel (s : State) (f : FolioSt → FolioSt) : (modFolio s f).wheel = s.wheel := rfl
@[simp] theorem modFolio_time (s : State) (f : FolioSt → FolioSt) : (modFolio s f).time = s.time := rfl
@[simp] theorem modFolio_ticks (s : State) (f : FolioSt → FolioSt) : (modFolio s f).ticks = s.ticks := rfl
@[simp] theorem modFolio_canLatch (s : State) (f : FolioSt → FolioSt) : (modFolio s f).canLatch = s.canLatch := rfl
@[simp] theorem modFolio_wk (s : State) (f : FolioSt → FolioSt) : (modFolio s f).wk = s.wk := rfl
@[simp] theorem modFolio_cores (s : State) (f : FolioSt → FolioSt) : (modFolio s f).cores = s.cores := rfl
@[simp] theorem modFolio_quantum (s : State) (f : FolioSt → FolioSt) : (modFolio s f).quantum = s.quantum := rfl
@[simp] theorem modFolio_slots (s : State) (f : FolioSt → FolioSt) : (modFolio s f).slots = s.slots := rfl
@[simp] theorem modFolio_comb (s : State) (f : FolioSt → FolioSt) : (modFolio s f).comb = s.comb := rfl
@[simp] theorem modFolio_crypto (s : State) (f : FolioSt → FolioSt) : (modFolio s f).crypto = s.crypto := rfl
@[simp] theorem modFolio_region (s : State) (f : FolioSt → FolioSt) : (modFolio s f).region = s.region := rfl
@[simp] theorem modFolio_sweep (s : State) (f : FolioSt → FolioSt) : (modFolio s f).sweep = s.sweep := rfl
@[simp] theorem modFolio_air (s : State) (f : FolioSt → FolioSt) : (modFolio s f).air = s.air := rfl
@[simp] theorem modFolio_bank (s : State) (f : FolioSt → FolioSt) : (modFolio s f).bank = s.bank := rfl
@[simp] theorem modFolio_sever (s : State) (f : FolioSt → FolioSt) : (modFolio s f).sever = s.sever := rfl
@[simp] theorem modFolio_din (s : State) (f : FolioSt → FolioSt) : (modFolio s f).din = s.din := rfl
@[simp] theorem modFolio_recd (s : State) (f : FolioSt → FolioSt) : (modFolio s f).recd = s.recd := rfl
@[simp] theorem modFolio_mem (s : State) (f : FolioSt → FolioSt) : (modFolio s f).mem = s.mem := rfl
@[simp] theorem modFolio_twin (s : State) (f : FolioSt → FolioSt) : (modFolio s f).twin = s.twin := rfl
@[simp] theorem modFolio_can (s : State) (f : FolioSt → FolioSt) : (modFolio s f).can = s.can := rfl
@[simp] theorem modFolio_snaps (s : State) (f : FolioSt → FolioSt) : (modFolio s f).snaps = s.snaps := rfl
@[simp] theorem modFolio_est (s : State) (f : FolioSt → FolioSt) : (modFolio s f).est = s.est := rfl
@[simp] theorem modFolio_net (s : State) (f : FolioSt → FolioSt) : (modFolio s f).net = s.net := rfl
@[simp] theorem modFolio_ident (s : State) (f : FolioSt → FolioSt) : (modFolio s f).ident = s.ident := rfl
@[simp] theorem modFolio_qp (s : State) (f : FolioSt → FolioSt) : (modFolio s f).qp = s.qp := rfl

/-! ## modRec -/

@[simp] theorem modRec_pending (s : State) (f : RecorderSt → RecorderSt) : (modRec s f).pending = s.pending := rfl
@[simp] theorem modRec_free (s : State) (f : RecorderSt → RecorderSt) : (modRec s f).free = s.free := rfl
@[simp] theorem modRec_nReg (s : State) (f : RecorderSt → RecorderSt) : (modRec s f).nReg = s.nReg := rfl
@[simp] theorem modRec_cfg (s : State) (f : RecorderSt → RecorderSt) : (modRec s f).cfg = s.cfg := rfl
@[simp] theorem modRec_power (s : State) (f : RecorderSt → RecorderSt) : (modRec s f).power = s.power := rfl
@[simp] theorem modRec_therm (s : State) (f : RecorderSt → RecorderSt) : (modRec s f).therm = s.therm := rfl
@[simp] theorem modRec_arb (s : State) (f : RecorderSt → RecorderSt) : (modRec s f).arb = s.arb := rfl
@[simp] theorem modRec_wheel (s : State) (f : RecorderSt → RecorderSt) : (modRec s f).wheel = s.wheel := rfl
@[simp] theorem modRec_time (s : State) (f : RecorderSt → RecorderSt) : (modRec s f).time = s.time := rfl
@[simp] theorem modRec_ticks (s : State) (f : RecorderSt → RecorderSt) : (modRec s f).ticks = s.ticks := rfl
@[simp] theorem modRec_canLatch (s : State) (f : RecorderSt → RecorderSt) : (modRec s f).canLatch = s.canLatch := rfl
@[simp] theorem modRec_wk (s : State) (f : RecorderSt → RecorderSt) : (modRec s f).wk = s.wk := rfl
@[simp] theorem modRec_cores (s : State) (f : RecorderSt → RecorderSt) : (modRec s f).cores = s.cores := rfl
@[simp] theorem modRec_quantum (s : State) (f : RecorderSt → RecorderSt) : (modRec s f).quantum = s.quantum := rfl
@[simp] theorem modRec_slots (s : State) (f : RecorderSt → RecorderSt) : (modRec s f).slots = s.slots := rfl
@[simp] theorem modRec_comb (s : State) (f : RecorderSt → RecorderSt) : (modRec s f).comb = s.comb := rfl
@[simp] theorem modRec_crypto (s : State) (f : RecorderSt → RecorderSt) : (modRec s f).crypto = s.crypto := rfl
@[simp] theorem modRec_region (s : State) (f : RecorderSt → RecorderSt) : (modRec s f).region = s.region := rfl
@[simp] theorem modRec_sweep (s : State) (f : RecorderSt → RecorderSt) : (modRec s f).sweep = s.sweep := rfl
@[simp] theorem modRec_air (s : State) (f : RecorderSt → RecorderSt) : (modRec s f).air = s.air := rfl
@[simp] theorem modRec_bank (s : State) (f : RecorderSt → RecorderSt) : (modRec s f).bank = s.bank := rfl
@[simp] theorem modRec_sever (s : State) (f : RecorderSt → RecorderSt) : (modRec s f).sever = s.sever := rfl
@[simp] theorem modRec_din (s : State) (f : RecorderSt → RecorderSt) : (modRec s f).din = s.din := rfl
@[simp] theorem modRec_folio (s : State) (f : RecorderSt → RecorderSt) : (modRec s f).folio = s.folio := rfl
@[simp] theorem modRec_mem (s : State) (f : RecorderSt → RecorderSt) : (modRec s f).mem = s.mem := rfl
@[simp] theorem modRec_twin (s : State) (f : RecorderSt → RecorderSt) : (modRec s f).twin = s.twin := rfl
@[simp] theorem modRec_can (s : State) (f : RecorderSt → RecorderSt) : (modRec s f).can = s.can := rfl
@[simp] theorem modRec_snaps (s : State) (f : RecorderSt → RecorderSt) : (modRec s f).snaps = s.snaps := rfl
@[simp] theorem modRec_est (s : State) (f : RecorderSt → RecorderSt) : (modRec s f).est = s.est := rfl
@[simp] theorem modRec_net (s : State) (f : RecorderSt → RecorderSt) : (modRec s f).net = s.net := rfl
@[simp] theorem modRec_ident (s : State) (f : RecorderSt → RecorderSt) : (modRec s f).ident = s.ident := rfl
@[simp] theorem modRec_qp (s : State) (f : RecorderSt → RecorderSt) : (modRec s f).qp = s.qp := rfl

/-! ## modMem -/

@[simp] theorem modMem_pending (s : State) (f : MemSt → MemSt) : (modMem s f).pending = s.pending := rfl
@[simp] theorem modMem_free (s : State) (f : MemSt → MemSt) : (modMem s f).free = s.free := rfl
@[simp] theorem modMem_nReg (s : State) (f : MemSt → MemSt) : (modMem s f).nReg = s.nReg := rfl
@[simp] theorem modMem_cfg (s : State) (f : MemSt → MemSt) : (modMem s f).cfg = s.cfg := rfl
@[simp] theorem modMem_power (s : State) (f : MemSt → MemSt) : (modMem s f).power = s.power := rfl
@[simp] theorem modMem_therm (s : State) (f : MemSt → MemSt) : (modMem s f).therm = s.therm := rfl
@[simp] theorem modMem_arb (s : State) (f : MemSt → MemSt) : (modMem s f).arb = s.arb := rfl
@[simp] theorem modMem_wheel (s : State) (f : MemSt → MemSt) : (modMem s f).wheel = s.wheel := rfl
@[simp] theorem modMem_time (s : State) (f : MemSt → MemSt) : (modMem s f).time = s.time := rfl
@[simp] theorem modMem_ticks (s : State) (f : MemSt → MemSt) : (modMem s f).ticks = s.ticks := rfl
@[simp] theorem modMem_canLatch (s : State) (f : MemSt → MemSt) : (modMem s f).canLatch = s.canLatch := rfl
@[simp] theorem modMem_wk (s : State) (f : MemSt → MemSt) : (modMem s f).wk = s.wk := rfl
@[simp] theorem modMem_cores (s : State) (f : MemSt → MemSt) : (modMem s f).cores = s.cores := rfl
@[simp] theorem modMem_quantum (s : State) (f : MemSt → MemSt) : (modMem s f).quantum = s.quantum := rfl
@[simp] theorem modMem_slots (s : State) (f : MemSt → MemSt) : (modMem s f).slots = s.slots := rfl
@[simp] theorem modMem_comb (s : State) (f : MemSt → MemSt) : (modMem s f).comb = s.comb := rfl
@[simp] theorem modMem_crypto (s : State) (f : MemSt → MemSt) : (modMem s f).crypto = s.crypto := rfl
@[simp] theorem modMem_region (s : State) (f : MemSt → MemSt) : (modMem s f).region = s.region := rfl
@[simp] theorem modMem_sweep (s : State) (f : MemSt → MemSt) : (modMem s f).sweep = s.sweep := rfl
@[simp] theorem modMem_air (s : State) (f : MemSt → MemSt) : (modMem s f).air = s.air := rfl
@[simp] theorem modMem_bank (s : State) (f : MemSt → MemSt) : (modMem s f).bank = s.bank := rfl
@[simp] theorem modMem_sever (s : State) (f : MemSt → MemSt) : (modMem s f).sever = s.sever := rfl
@[simp] theorem modMem_din (s : State) (f : MemSt → MemSt) : (modMem s f).din = s.din := rfl
@[simp] theorem modMem_folio (s : State) (f : MemSt → MemSt) : (modMem s f).folio = s.folio := rfl
@[simp] theorem modMem_recd (s : State) (f : MemSt → MemSt) : (modMem s f).recd = s.recd := rfl
@[simp] theorem modMem_twin (s : State) (f : MemSt → MemSt) : (modMem s f).twin = s.twin := rfl
@[simp] theorem modMem_can (s : State) (f : MemSt → MemSt) : (modMem s f).can = s.can := rfl
@[simp] theorem modMem_snaps (s : State) (f : MemSt → MemSt) : (modMem s f).snaps = s.snaps := rfl
@[simp] theorem modMem_est (s : State) (f : MemSt → MemSt) : (modMem s f).est = s.est := rfl
@[simp] theorem modMem_net (s : State) (f : MemSt → MemSt) : (modMem s f).net = s.net := rfl
@[simp] theorem modMem_ident (s : State) (f : MemSt → MemSt) : (modMem s f).ident = s.ident := rfl
@[simp] theorem modMem_qp (s : State) (f : MemSt → MemSt) : (modMem s f).qp = s.qp := rfl

/-! ## modNet -/

@[simp] theorem modNet_pending (s : State) (f : NetSt → NetSt) : (modNet s f).pending = s.pending := rfl
@[simp] theorem modNet_free (s : State) (f : NetSt → NetSt) : (modNet s f).free = s.free := rfl
@[simp] theorem modNet_nReg (s : State) (f : NetSt → NetSt) : (modNet s f).nReg = s.nReg := rfl
@[simp] theorem modNet_cfg (s : State) (f : NetSt → NetSt) : (modNet s f).cfg = s.cfg := rfl
@[simp] theorem modNet_power (s : State) (f : NetSt → NetSt) : (modNet s f).power = s.power := rfl
@[simp] theorem modNet_therm (s : State) (f : NetSt → NetSt) : (modNet s f).therm = s.therm := rfl
@[simp] theorem modNet_arb (s : State) (f : NetSt → NetSt) : (modNet s f).arb = s.arb := rfl
@[simp] theorem modNet_wheel (s : State) (f : NetSt → NetSt) : (modNet s f).wheel = s.wheel := rfl
@[simp] theorem modNet_time (s : State) (f : NetSt → NetSt) : (modNet s f).time = s.time := rfl
@[simp] theorem modNet_ticks (s : State) (f : NetSt → NetSt) : (modNet s f).ticks = s.ticks := rfl
@[simp] theorem modNet_canLatch (s : State) (f : NetSt → NetSt) : (modNet s f).canLatch = s.canLatch := rfl
@[simp] theorem modNet_wk (s : State) (f : NetSt → NetSt) : (modNet s f).wk = s.wk := rfl
@[simp] theorem modNet_cores (s : State) (f : NetSt → NetSt) : (modNet s f).cores = s.cores := rfl
@[simp] theorem modNet_quantum (s : State) (f : NetSt → NetSt) : (modNet s f).quantum = s.quantum := rfl
@[simp] theorem modNet_slots (s : State) (f : NetSt → NetSt) : (modNet s f).slots = s.slots := rfl
@[simp] theorem modNet_comb (s : State) (f : NetSt → NetSt) : (modNet s f).comb = s.comb := rfl
@[simp] theorem modNet_crypto (s : State) (f : NetSt → NetSt) : (modNet s f).crypto = s.crypto := rfl
@[simp] theorem modNet_region (s : State) (f : NetSt → NetSt) : (modNet s f).region = s.region := rfl
@[simp] theorem modNet_sweep (s : State) (f : NetSt → NetSt) : (modNet s f).sweep = s.sweep := rfl
@[simp] theorem modNet_air (s : State) (f : NetSt → NetSt) : (modNet s f).air = s.air := rfl
@[simp] theorem modNet_bank (s : State) (f : NetSt → NetSt) : (modNet s f).bank = s.bank := rfl
@[simp] theorem modNet_sever (s : State) (f : NetSt → NetSt) : (modNet s f).sever = s.sever := rfl
@[simp] theorem modNet_din (s : State) (f : NetSt → NetSt) : (modNet s f).din = s.din := rfl
@[simp] theorem modNet_folio (s : State) (f : NetSt → NetSt) : (modNet s f).folio = s.folio := rfl
@[simp] theorem modNet_recd (s : State) (f : NetSt → NetSt) : (modNet s f).recd = s.recd := rfl
@[simp] theorem modNet_mem (s : State) (f : NetSt → NetSt) : (modNet s f).mem = s.mem := rfl
@[simp] theorem modNet_twin (s : State) (f : NetSt → NetSt) : (modNet s f).twin = s.twin := rfl
@[simp] theorem modNet_can (s : State) (f : NetSt → NetSt) : (modNet s f).can = s.can := rfl
@[simp] theorem modNet_snaps (s : State) (f : NetSt → NetSt) : (modNet s f).snaps = s.snaps := rfl
@[simp] theorem modNet_est (s : State) (f : NetSt → NetSt) : (modNet s f).est = s.est := rfl
@[simp] theorem modNet_ident (s : State) (f : NetSt → NetSt) : (modNet s f).ident = s.ident := rfl
@[simp] theorem modNet_qp (s : State) (f : NetSt → NetSt) : (modNet s f).qp = s.qp := rfl

/-! ## modSess -/

@[simp] theorem modSess_pending (s : State) (k : Session) (f : SessSt → SessSt) : (modSess s k f).pending = s.pending := rfl
@[simp] theorem modSess_free (s : State) (k : Session) (f : SessSt → SessSt) : (modSess s k f).free = s.free := rfl
@[simp] theorem modSess_nReg (s : State) (k : Session) (f : SessSt → SessSt) : (modSess s k f).nReg = s.nReg := rfl
@[simp] theorem modSess_cfg (s : State) (k : Session) (f : SessSt → SessSt) : (modSess s k f).cfg = s.cfg := rfl
@[simp] theorem modSess_power (s : State) (k : Session) (f : SessSt → SessSt) : (modSess s k f).power = s.power := rfl
@[simp] theorem modSess_therm (s : State) (k : Session) (f : SessSt → SessSt) : (modSess s k f).therm = s.therm := rfl
@[simp] theorem modSess_arb (s : State) (k : Session) (f : SessSt → SessSt) : (modSess s k f).arb = s.arb := rfl
@[simp] theorem modSess_wheel (s : State) (k : Session) (f : SessSt → SessSt) : (modSess s k f).wheel = s.wheel := rfl
@[simp] theorem modSess_time (s : State) (k : Session) (f : SessSt → SessSt) : (modSess s k f).time = s.time := rfl
@[simp] theorem modSess_ticks (s : State) (k : Session) (f : SessSt → SessSt) : (modSess s k f).ticks = s.ticks := rfl
@[simp] theorem modSess_canLatch (s : State) (k : Session) (f : SessSt → SessSt) : (modSess s k f).canLatch = s.canLatch := rfl
@[simp] theorem modSess_wk (s : State) (k : Session) (f : SessSt → SessSt) : (modSess s k f).wk = s.wk := rfl
@[simp] theorem modSess_cores (s : State) (k : Session) (f : SessSt → SessSt) : (modSess s k f).cores = s.cores := rfl
@[simp] theorem modSess_quantum (s : State) (k : Session) (f : SessSt → SessSt) : (modSess s k f).quantum = s.quantum := rfl
@[simp] theorem modSess_slots (s : State) (k : Session) (f : SessSt → SessSt) : (modSess s k f).slots = s.slots := rfl
@[simp] theorem modSess_comb (s : State) (k : Session) (f : SessSt → SessSt) : (modSess s k f).comb = s.comb := rfl
@[simp] theorem modSess_crypto (s : State) (k : Session) (f : SessSt → SessSt) : (modSess s k f).crypto = s.crypto := rfl
@[simp] theorem modSess_region (s : State) (k : Session) (f : SessSt → SessSt) : (modSess s k f).region = s.region := rfl
@[simp] theorem modSess_sweep (s : State) (k : Session) (f : SessSt → SessSt) : (modSess s k f).sweep = s.sweep := rfl
@[simp] theorem modSess_air (s : State) (k : Session) (f : SessSt → SessSt) : (modSess s k f).air = s.air := rfl
@[simp] theorem modSess_bank (s : State) (k : Session) (f : SessSt → SessSt) : (modSess s k f).bank = s.bank := rfl
@[simp] theorem modSess_sever (s : State) (k : Session) (f : SessSt → SessSt) : (modSess s k f).sever = s.sever := rfl
@[simp] theorem modSess_din (s : State) (k : Session) (f : SessSt → SessSt) : (modSess s k f).din = s.din := rfl
@[simp] theorem modSess_folio (s : State) (k : Session) (f : SessSt → SessSt) : (modSess s k f).folio = s.folio := rfl
@[simp] theorem modSess_recd (s : State) (k : Session) (f : SessSt → SessSt) : (modSess s k f).recd = s.recd := rfl
@[simp] theorem modSess_mem (s : State) (k : Session) (f : SessSt → SessSt) : (modSess s k f).mem = s.mem := rfl
@[simp] theorem modSess_twin (s : State) (k : Session) (f : SessSt → SessSt) : (modSess s k f).twin = s.twin := rfl
@[simp] theorem modSess_can (s : State) (k : Session) (f : SessSt → SessSt) : (modSess s k f).can = s.can := rfl
@[simp] theorem modSess_snaps (s : State) (k : Session) (f : SessSt → SessSt) : (modSess s k f).snaps = s.snaps := rfl
@[simp] theorem modSess_est (s : State) (k : Session) (f : SessSt → SessSt) : (modSess s k f).est = s.est := rfl
@[simp] theorem modSess_ident (s : State) (k : Session) (f : SessSt → SessSt) : (modSess s k f).ident = s.ident := rfl
@[simp] theorem modSess_qp (s : State) (k : Session) (f : SessSt → SessSt) : (modSess s k f).qp = s.qp := rfl

/-! ## modIdent -/

@[simp] theorem modIdent_pending (s : State) (f : IdentSt → IdentSt) : (modIdent s f).pending = s.pending := rfl
@[simp] theorem modIdent_free (s : State) (f : IdentSt → IdentSt) : (modIdent s f).free = s.free := rfl
@[simp] theorem modIdent_nReg (s : State) (f : IdentSt → IdentSt) : (modIdent s f).nReg = s.nReg := rfl
@[simp] theorem modIdent_cfg (s : State) (f : IdentSt → IdentSt) : (modIdent s f).cfg = s.cfg := rfl
@[simp] theorem modIdent_power (s : State) (f : IdentSt → IdentSt) : (modIdent s f).power = s.power := rfl
@[simp] theorem modIdent_therm (s : State) (f : IdentSt → IdentSt) : (modIdent s f).therm = s.therm := rfl
@[simp] theorem modIdent_arb (s : State) (f : IdentSt → IdentSt) : (modIdent s f).arb = s.arb := rfl
@[simp] theorem modIdent_wheel (s : State) (f : IdentSt → IdentSt) : (modIdent s f).wheel = s.wheel := rfl
@[simp] theorem modIdent_time (s : State) (f : IdentSt → IdentSt) : (modIdent s f).time = s.time := rfl
@[simp] theorem modIdent_ticks (s : State) (f : IdentSt → IdentSt) : (modIdent s f).ticks = s.ticks := rfl
@[simp] theorem modIdent_canLatch (s : State) (f : IdentSt → IdentSt) : (modIdent s f).canLatch = s.canLatch := rfl
@[simp] theorem modIdent_wk (s : State) (f : IdentSt → IdentSt) : (modIdent s f).wk = s.wk := rfl
@[simp] theorem modIdent_cores (s : State) (f : IdentSt → IdentSt) : (modIdent s f).cores = s.cores := rfl
@[simp] theorem modIdent_quantum (s : State) (f : IdentSt → IdentSt) : (modIdent s f).quantum = s.quantum := rfl
@[simp] theorem modIdent_slots (s : State) (f : IdentSt → IdentSt) : (modIdent s f).slots = s.slots := rfl
@[simp] theorem modIdent_comb (s : State) (f : IdentSt → IdentSt) : (modIdent s f).comb = s.comb := rfl
@[simp] theorem modIdent_crypto (s : State) (f : IdentSt → IdentSt) : (modIdent s f).crypto = s.crypto := rfl
@[simp] theorem modIdent_region (s : State) (f : IdentSt → IdentSt) : (modIdent s f).region = s.region := rfl
@[simp] theorem modIdent_sweep (s : State) (f : IdentSt → IdentSt) : (modIdent s f).sweep = s.sweep := rfl
@[simp] theorem modIdent_air (s : State) (f : IdentSt → IdentSt) : (modIdent s f).air = s.air := rfl
@[simp] theorem modIdent_bank (s : State) (f : IdentSt → IdentSt) : (modIdent s f).bank = s.bank := rfl
@[simp] theorem modIdent_sever (s : State) (f : IdentSt → IdentSt) : (modIdent s f).sever = s.sever := rfl
@[simp] theorem modIdent_din (s : State) (f : IdentSt → IdentSt) : (modIdent s f).din = s.din := rfl
@[simp] theorem modIdent_folio (s : State) (f : IdentSt → IdentSt) : (modIdent s f).folio = s.folio := rfl
@[simp] theorem modIdent_recd (s : State) (f : IdentSt → IdentSt) : (modIdent s f).recd = s.recd := rfl
@[simp] theorem modIdent_mem (s : State) (f : IdentSt → IdentSt) : (modIdent s f).mem = s.mem := rfl
@[simp] theorem modIdent_twin (s : State) (f : IdentSt → IdentSt) : (modIdent s f).twin = s.twin := rfl
@[simp] theorem modIdent_can (s : State) (f : IdentSt → IdentSt) : (modIdent s f).can = s.can := rfl
@[simp] theorem modIdent_snaps (s : State) (f : IdentSt → IdentSt) : (modIdent s f).snaps = s.snaps := rfl
@[simp] theorem modIdent_est (s : State) (f : IdentSt → IdentSt) : (modIdent s f).est = s.est := rfl
@[simp] theorem modIdent_net (s : State) (f : IdentSt → IdentSt) : (modIdent s f).net = s.net := rfl
@[simp] theorem modIdent_qp (s : State) (f : IdentSt → IdentSt) : (modIdent s f).qp = s.qp := rfl

/-! ## Reading back -/

@[simp] theorem wkOf_setWk (s : State) (w : Worker) (x : WorkerSt) : wkOf (setWk s w x) w = x := by simp [wkOf, setWk]
theorem wkOf_setWk_ne (s : State) (w j : Worker) (x : WorkerSt) (h : j ≠ w) : wkOf (setWk s w x) j = wkOf s j := by
  simp [wkOf, setWk, Fin.val_ne_of_ne h.symm]
@[simp] theorem wkOf_modWk (s : State) (w : Worker) (f : WorkerSt → WorkerSt) : wkOf (modWk s w f) w = f (wkOf s w) := by simp [modWk]
theorem wkOf_modWk_ne (s : State) (w j : Worker) (f : WorkerSt → WorkerSt) (h : j ≠ w) : wkOf (modWk s w f) j = wkOf s j := by
  simp [modWk, wkOf_setWk_ne, h]
@[simp] theorem rgOf_setRg (s : State) (r : Region) (x : RegionSt) : rgOf (setRg s r x) r = x := by simp [rgOf, setRg]
theorem rgOf_setRg_ne (s : State) (r j : Region) (x : RegionSt) (h : j ≠ r) : rgOf (setRg s r x) j = rgOf s j := by
  simp [rgOf, setRg, Fin.val_ne_of_ne h.symm]
@[simp] theorem rgOf_modRg (s : State) (r : Region) (f : RegionSt → RegionSt) : rgOf (modRg s r f) r = f (rgOf s r) := by simp [modRg]
theorem rgOf_modRg_ne (s : State) (r j : Region) (f : RegionSt → RegionSt) (h : j ≠ r) : rgOf (modRg s r f) j = rgOf s j := by
  simp [modRg, rgOf_setRg_ne, h]
@[simp] theorem chOf_setCh (s : State) (c : Chan) (x : ChanSt) : chOf (setCh s c x) c = x := by simp [chOf, setCh]
theorem chOf_setCh_ne (s : State) (c j : Chan) (x : ChanSt) (h : j ≠ c) : chOf (setCh s c x) j = chOf s j := by
  simp [chOf, setCh, Fin.val_ne_of_ne h.symm]
@[simp] theorem chOf_modCh (s : State) (c : Chan) (f : ChanSt → ChanSt) : chOf (modCh s c f) c = f (chOf s c) := by simp [modCh]
theorem chOf_modCh_ne (s : State) (c j : Chan) (f : ChanSt → ChanSt) (h : j ≠ c) : chOf (modCh s c f) j = chOf s j := by
  simp [modCh, chOf_setCh_ne, h]
@[simp] theorem coreOf_modCore (s : State) (n : Fin 4) (f : CoreSt → CoreSt) : coreOf (modCore s n f) n = f (coreOf s n) := by simp [coreOf, modCore]
theorem coreOf_modCore_ne (s : State) (n j : Fin 4) (f : CoreSt → CoreSt) (h : j ≠ n) : coreOf (modCore s n f) j = coreOf s j := by
  simp [coreOf, modCore, Fin.val_ne_of_ne h.symm]
@[simp] theorem canOf_modCan (s : State) (n : Fin 4) (f : CanSt → CanSt) : canOf (modCan s n f) n = f (canOf s n) := by simp [canOf, modCan]
theorem canOf_modCan_ne (s : State) (n j : Fin 4) (f : CanSt → CanSt) (h : j ≠ n) : canOf (modCan s n f) j = canOf s j := by
  simp [canOf, modCan, Fin.val_ne_of_ne h.symm]
@[simp] theorem sessOf_modSess (s : State) (k : Session) (f : SessSt → SessSt) : sessOf (modSess s k f) k = f (sessOf s k) := by simp [sessOf, modSess]
theorem sessOf_modSess_ne (s : State) (k j : Session) (f : SessSt → SessSt) (h : j ≠ k) : sessOf (modSess s k f) j = sessOf s j := by
  simp [sessOf, modSess, Fin.val_ne_of_ne h.symm]

end Sys2Proof.Machine
end

