-- ==== Sys2Proof/Laws/Air.lean ====
section
/-! SUPPORT. What accepting a packet on a region's air does (R209). -/
namespace Sys2Proof.Machine

/-- Acceptance touches the region's receive stamp and its MIC_FAIL and REPLAY counts alone, and nothing under test or out of
service. -/
theorem airAcceptKey_spec (s : State) (r : Region) (key : List Byte) (mapId : Word) (f : Frame) (fe : Half) (type : Nat) (h : AirHdr)
    (body : List Byte) (mic : Word) :
    (radioOut s r = true → airAcceptKey s r key mapId f fe type h body mic = (s, none))
      ∧ (radioOut s r = false → ∃ n m, (airAcceptKey s r key mapId f fe type h body mic).1
          = modRg s r fun x => { x with rxStamp := rxStampNow s, micFail := n, replay := m }) := by
  refine ⟨fun h1 => by simp [airAcceptKey, h1], fun h1 => ?_⟩
  simp only [airAcceptKey, h1, Bool.false_eq_true, if_false]
  have base : modRg s r (fun x => { x with rxStamp := rxStampNow s })
      = modRg s r fun x => { x with rxStamp := rxStampNow s, micFail := (rgOf s r).micFail, replay := (rgOf s r).replay } := rfl
  repeat' split
  · exact ⟨(rgOf s r).micFail, inc16 (rgOf s r).replay, by simp [modRg, setRg, rgOf, Vector.set_set]⟩
  · exact ⟨_, _, base⟩
  · exact ⟨(rgOf s r).micFail, inc16 (rgOf s r).replay, by simp [modRg, setRg, rgOf, Vector.set_set]⟩
  · exact ⟨_, _, base⟩
  · exact ⟨inc16 (rgOf s r).micFail, (rgOf s r).replay, by simp [modRg, setRg, rgOf, Vector.set_set]⟩

/-- A packet under its MIC from a sender not heard before in the frame is accepted, and its FC noted. -/
theorem airAccept_new (s : State) (r : Region) (m : RegionMap) (f : Frame) (type : Nat) (h : AirHdr) (body : List Byte) (mic : Word)
    (h1 : radioOut s r = false) (h2 : micHolds r m.key m.mapId f f.fe type h body mic = true) (h3 : f.fcs = []) :
    (airAccept s r m f type h body mic).2 = some { f with fcs := [(h.sender.toNat, h.fc.toNat)] } := by
  simp [airAccept, airAcceptKey, h1, h2, h3, lastFc]

/-- A packet whose MIC does not hold is not accepted. -/
theorem airAccept_bad (s : State) (r : Region) (m : RegionMap) (f : Frame) (type : Nat) (h : AirHdr) (body : List Byte) (mic : Word)
    (h2 : micHolds r m.key m.mapId f f.fe type h body mic = false) : (airAccept s r m f type h body mic).2 = none := by
  simp [airAccept, airAcceptKey, h2]
  split <;> rfl

end Sys2Proof.Machine
end

