-- ==== Sys2Proof/Laws/Memory.lean ====
section
/-! SUPPORT. Byte memory: what reads as before, reads after writes, and that every operation keeps the canonical form. -/
namespace Sys2Proof.Machine

@[simp] theorem memGet_nil (a : Nat) : memGet [] a = 0 := rfl

/-- The form above a bound holds above any smaller bound. -/
theorem memWfFrom_mono (m : Mem) (lo lo' : Nat) (h : lo' ≤ lo) (hm : memWfFrom lo m = true) : memWfFrom lo' m = true := by
  cases m with
  | nil => rfl
  | cons c t =>
    obtain ⟨k, v⟩ := c
    simp only [memWfFrom, Bool.and_eq_true, decide_eq_true_eq] at hm ⊢
    exact ⟨⟨by omega, hm.1.2⟩, hm.2⟩

/-- Below the bound nothing is listed. -/
theorem memGet_below (m : Mem) (lo a : Nat) (hm : memWfFrom lo m = true) (h : a < lo) : memGet m a = 0 := by
  induction m generalizing lo with
  | nil => rfl
  | cons c t ih =>
    obtain ⟨k, v⟩ := c
    simp only [memWfFrom, Bool.and_eq_true, decide_eq_true_eq] at hm
    have hk : k ≠ a := by omega
    simp only [memGet, hk, if_false]
    exact ih (k + 1) hm.2 (by omega)

/-- Putting a byte keeps the form. -/
theorem memSet_wfFrom (m : Mem) (lo a : Nat) (v : Byte) (hm : memWfFrom lo m = true) (ha : lo ≤ a) :
    memWfFrom lo (memSet m a v) = true := by
  induction m generalizing lo with
  | nil =>
    unfold memSet
    split
    · rfl
    · simp only [memWfFrom, Bool.and_eq_true, decide_eq_true_eq, and_true]
      exact ⟨ha, by assumption⟩
  | cons c t ih =>
    obtain ⟨k, x⟩ := c
    simp only [memWfFrom, Bool.and_eq_true, decide_eq_true_eq] at hm
    unfold memSet
    split
    · split
      · simp only [memWfFrom, Bool.and_eq_true, decide_eq_true_eq]
        exact hm
      · simp only [memWfFrom, Bool.and_eq_true, decide_eq_true_eq]
        exact ⟨⟨ha, by assumption⟩, ⟨by omega, hm.1.2⟩, hm.2⟩
    · split
      · split
        · exact memWfFrom_mono t (k + 1) lo (by omega) hm.2
        · simp only [memWfFrom, Bool.and_eq_true, decide_eq_true_eq]
          subst a
          exact ⟨⟨ha, by assumption⟩, hm.2⟩
      · simp only [memWfFrom, Bool.and_eq_true, decide_eq_true_eq]
        exact ⟨hm.1, ih (k + 1) hm.2 (by omega)⟩

theorem memSet_wf (m : Mem) (a : Nat) (v : Byte) (hm : memWf m = true) : memWf (memSet m a v) = true :=
  memSet_wfFrom m 0 a v hm (Nat.zero_le a)

/-- Writing bytes keeps the form. -/
theorem memWrite_wf (b : List Byte) (m : Mem) (a : Nat) (hm : memWf m = true) : memWf (memWrite m a b) = true := by
  induction b generalizing m a with
  | nil => exact hm
  | cons x t ih => exact ih _ _ (memSet_wf m a x hm)

/-- Dropping entries keeps the form. -/
theorem filter_wfFrom (p : Host.Cell → Bool) (m : Mem) (lo : Nat) (hm : memWfFrom lo m = true) :
    memWfFrom lo (m.filter p) = true := by
  induction m generalizing lo with
  | nil => rfl
  | cons c t ih =>
    obtain ⟨k, v⟩ := c
    simp only [memWfFrom, Bool.and_eq_true, decide_eq_true_eq] at hm
    rw [List.filter_cons]
    split
    · simp only [memWfFrom, Bool.and_eq_true, decide_eq_true_eq]
      exact ⟨hm.1, ih (k + 1) hm.2⟩
    · exact memWfFrom_mono _ (k + 1) lo (by omega) (ih (k + 1) hm.2)

/-- Clearing a range keeps the form. -/
theorem memClear_wf (m : Mem) (a n : Nat) (hm : memWf m = true) : memWf (memClear m a n) = true :=
  filter_wfFrom _ m 0 hm

/-- The empty memory is canonical. -/
@[simp] theorem memWf_nil : memWf [] = true := rfl

/-- A byte put is read back, in a canonical memory. -/
theorem memGet_memSet_from (m : Mem) (lo a : Nat) (v : Byte) (hm : memWfFrom lo m = true) (ha : lo ≤ a) : memGet (memSet m a v) a = v := by
  induction m generalizing lo with
  | nil =>
    unfold memSet
    split
    · simp [*]
    · simp [memGet]
  | cons c t ih =>
    obtain ⟨k, x⟩ := c
    simp only [memWfFrom, Bool.and_eq_true, decide_eq_true_eq] at hm
    unfold memSet
    split
    · split
      · have hk : k ≠ a := by omega
        simp only [memGet, hk, if_false]
        rw [memGet_below t (k + 1) a hm.2 (by omega)]
        exact Eq.symm ‹_›
      · simp [memGet]
    · split
      · split
        · rw [memGet_below t (k + 1) a hm.2 (by omega)]
          exact Eq.symm ‹_›
        · simp [memGet]
      · have hk : k ≠ a := by omega
        simp only [memGet, hk, if_false]
        exact ih (k + 1) hm.2 (by omega)

theorem memGet_memSet (m : Mem) (a : Nat) (v : Byte) (hm : memWf m = true) : memGet (memSet m a v) a = v :=
  memGet_memSet_from m 0 a v hm (Nat.zero_le a)

/-- Every other byte reads as before. -/
theorem memGet_memSet_ne (m : Mem) (a b : Nat) (v : Byte) (h : b ≠ a) : memGet (memSet m a v) b = memGet m b := by
  induction m with
  | nil =>
    unfold memSet
    split
    · rfl
    · simp [memGet, h.symm]
  | cons c t ih =>
    obtain ⟨k, x⟩ := c
    unfold memSet
    split
    · split
      · rfl
      · simp [memGet, h.symm]
    · split
      · split
        · have hk : k ≠ b := by omega
          simp [memGet, hk]
        · have hk : k ≠ b := by omega
          simp [memGet, hk, h.symm]
      · simp only [memGet, ih]

/-- Bytes outside a written range read as before. -/
theorem memGet_memWrite_out (b : List Byte) (m : Mem) (a x : Nat) (h : x < a ∨ a + b.length ≤ x) :
    memGet (memWrite m a b) x = memGet m x := by
  induction b generalizing m a with
  | nil => rfl
  | cons y t ih =>
    simp only [List.length_cons] at h
    rw [memWrite, ih _ _ (by omega), memGet_memSet_ne _ _ _ _ (by omega)]

/-- Bytes written are read back. -/
theorem memGet_memWrite_in (b : List Byte) (m : Mem) (a i : Nat) (hm : memWf m = true) (h : i < b.length) :
    memGet (memWrite m a b) (a + i) = b[i] := by
  induction b generalizing m a i with
  | nil => simp at h
  | cons y t ih =>
    cases i with
    | zero =>
      rw [memWrite, memGet_memWrite_out t _ _ _ (by omega)]
      exact memGet_memSet m a y hm
    | succ j =>
      have e : a + (j + 1) = a + 1 + j := by omega
      rw [memWrite, e, ih _ _ _ (memSet_wf m a y hm) (by simpa using h)]
      simp

/-- A cleared range reads zero, and the rest as before. -/
theorem memGet_memClear (m : Mem) (a n x : Nat) : memGet (memClear m a n) x = if a ≤ x ∧ x < a + n then 0 else memGet m x := by
  induction m with
  | nil => simp [memClear]
  | cons c t ih =>
    obtain ⟨k, v⟩ := c
    unfold memClear at ih ⊢
    rw [List.filter_cons]
    by_cases hx : k = x
    · subst hx
      by_cases hr : a ≤ k ∧ k < a + n
      · have hp : (decide (k < a) || decide (a + n ≤ k)) = false := by simp; omega
        simp [hp, ih, hr]
      · have hp : (decide (k < a) || decide (a + n ≤ k)) = true := by simp; omega
        simp [hp, memGet, hr]
    · split <;> simp [memGet, hx, ih]

end Sys2Proof.Machine
end

