-- ==== Sys2Proof/Laws/Worker.lean ====
section
/-! SUPPORT. What issuing an instruction does around the instruction's own effect, and registers that read and write. -/
namespace Sys2Proof.Machine

/-! ## General registers and accumulators -/

@[simp] theorem gGet_zero (k : WorkerSt) : gGet k 0 = 0 := by simp [gGet]
theorem gGet_gSet (k : WorkerSt) (n : GReg) (v : Word) : gGet (gSet k n v) n = if n = 0 then 0 else v := by
  unfold gGet gSet
  split <;> simp_all
theorem gGet_gSet_ne (k : WorkerSt) (n m : GReg) (v : Word) (h : m ≠ n) : gGet (gSet k n v) m = gGet k m := by
  unfold gGet gSet
  split
  · rfl
  · split
    · rfl
    · simp [Fin.val_ne_of_ne h.symm]
@[simp] theorem aGet_aSet (k : WorkerSt) (n : AReg) (v : DWord) : aGet (aSet k n v) n = v := by simp [aGet, aSet]
theorem aGet_aSet_ne (k : WorkerSt) (n m : AReg) (v : DWord) (h : m ≠ n) : aGet (aSet k n v) m = aGet k m := by
  simp [aGet, aSet, Fin.val_ne_of_ne h.symm]

/-! ## The state apart from workers and cores -/

/-- Only the records of workers and cores differ. -/
def SameBut (s t : State) : Prop := t = { s with wk := t.wk, cores := t.cores }

theorem SameBut.refl (s : State) : SameBut s s := rfl
theorem SameBut.trans {s t u : State} (h : SameBut s t) (g : SameBut t u) : SameBut s u := by
  unfold SameBut at *
  rw [g]
  simp only
  rw [h]
theorem SameBut.modWk (s : State) (w : Worker) (f : WorkerSt → WorkerSt) : SameBut s (modWk s w f) := rfl
theorem SameBut.modCore (s : State) (c : Fin 4) (f : CoreSt → CoreSt) : SameBut s (modCore s c f) := rfl

@[simp] theorem wkOf_modCore (s : State) (c : Fin 4) (f : CoreSt → CoreSt) (w : Worker) : wkOf (modCore s c f) w = wkOf s w := rfl

/-- A fold over workers that changes at most the place of each. -/
theorem foldl_place (l : List Worker) (p : State → Worker → Prop) [∀ s v, Decidable (p s v)] (s : State) :
    let t := l.foldl (fun s v => if p s v then modWk s v fun k => { k with state := .ready } else s) s
    SameBut s t ∧ t.cores = s.cores ∧ ∀ v, wkOf t v = { wkOf s v with state := (wkOf t v).state } := by
  induction l generalizing s with
  | nil => exact ⟨rfl, rfl, fun _ => rfl⟩
  | cons x l ih =>
    simp only [List.foldl_cons]
    obtain ⟨h1, h2, h3⟩ := ih (if p s x then modWk s x fun k => { k with state := .ready } else s)
    refine ⟨SameBut.trans ?_ h1, ?_, ?_⟩
    · split
      · exact SameBut.modWk s x _
      · exact SameBut.refl s
    · rw [h2]
      split <;> rfl
    · intro v
      rw [h3 v]
      split
      · by_cases e : v = x
        · subst e
          simp
        · simp [wkOf_modWk_ne s x v _ e]
      · rfl

/-- Taking the core changes at most places of workers. -/
theorem takeCore_spec (s : State) (w : Worker) :
    SameBut s (takeCore s w) ∧ ∀ v, wkOf (takeCore s w) v = { wkOf s v with state := (wkOf (takeCore s w) v).state } := by
  obtain ⟨h1, -, h3⟩ := foldl_place (List.finRange 160)
    (fun t v => (wkOf t v).state = .running ∧ (wkOf t v).core = (wkOf s w).core) s
  unfold takeCore forWorkers
  simp only [wkOf_modCore]
  exact ⟨SameBut.trans h1 (SameBut.modCore _ _ _), h3⟩

/-- Counting the issue. -/
theorem countIssue_wk (s : State) (w : Worker) :
    wkOf (countIssue s w) w = { wkOf s w with
      state := .running, issued := (wkOf s w).issued + 1, run := (wkOf s w).run + 1, sw := { (wkOf s w).sw with lead := isLead s } } := by
  simp [countIssue]

/-- Losing the quantum changes cores alone. -/
theorem loseQuantum_spec (s : State) (w : Worker) : SameBut s (loseQuantum s w) ∧ ∀ v, wkOf (loseQuantum s w) v = wkOf s v :=
  ⟨rfl, fun _ => rfl⟩

/-- Moving a worker changes of the workers its core alone. -/
theorem moveTo_spec (s : State) (w : Worker) (c : Fin 4) :
    SameBut s (moveTo s w c) ∧ (∀ v, v ≠ w → wkOf (moveTo s w c) v = wkOf s v)
      ∧ wkOf (moveTo s w c) w = { wkOf s w with core := c } := by
  unfold moveTo
  simp only
  obtain ⟨h1, h2⟩ := loseQuantum_spec s w
  generalize loseQuantum s w = u at h1 h2 ⊢
  refine ⟨SameBut.trans (SameBut.trans (SameBut.trans h1 (SameBut.modCore _ _ _)) (SameBut.modCore _ _ _)) (SameBut.modWk _ _ _),
    fun v h => ?_, ?_⟩
  · rw [wkOf_modWk_ne _ _ _ _ h, wkOf_modCore, wkOf_modCore, h2]
  · rw [wkOf_modWk, wkOf_modCore, wkOf_modCore, h2]

/-- Going home changes at most the worker's core. -/
theorem goHome_spec (s : State) (w : Worker) :
    SameBut s (goHome s w) ∧ (∀ v, v ≠ w → wkOf (goHome s w) v = wkOf s v)
      ∧ wkOf (goHome s w) w = { wkOf s w with core := (wkOf (goHome s w) w).core } := by
  unfold goHome
  simp only
  split
  · obtain ⟨h1, h2, h3⟩ := moveTo_spec s w (WorkerSt.init w).core
    exact ⟨h1, h2, by rw [h3]⟩
  · exact ⟨rfl, fun _ _ => rfl, rfl⟩

/-- The end of an issue changes at most the worker's place and core. -/
theorem quantumEnd_spec (s : State) (w : Worker) :
    SameBut s (quantumEnd s w) ∧ (∀ v, v ≠ w → wkOf (quantumEnd s w) v = wkOf s v)
      ∧ wkOf (quantumEnd s w) w = { wkOf s w with
          state := (wkOf (quantumEnd s w) w).state, core := (wkOf (quantumEnd s w) w).core } := by
  unfold quantumEnd
  simp only
  split
  · split
    · obtain ⟨h1, h2, h3⟩ := goHome_spec (modWk (loseQuantum s w) w fun k => { k with state := if k.state = .running then .ready else k.state }) w
      refine ⟨SameBut.trans (SameBut.trans (SameBut.modCore _ _ _) (SameBut.modWk _ _ _)) h1, fun v h => ?_, ?_⟩
      · rw [h2 v h, wkOf_modWk_ne _ _ _ _ h]
        rfl
      · rw [h3]
        simp [loseQuantum]
    · exact ⟨rfl, fun _ _ => rfl, rfl⟩
  · exact ⟨rfl, fun _ _ => rfl, rfl⟩

/-- What an instruction's effect sees when it is issued: the worker counted, nothing else changed. -/
theorem issue_seen (s : State) (w : Worker) :
    SameBut s (countIssue (takeCore s w) w)
      ∧ (∀ v, v ≠ w → wkOf (countIssue (takeCore s w) w) v = { wkOf s v with state := (wkOf (countIssue (takeCore s w) w) v).state })
      ∧ wkOf (countIssue (takeCore s w) w) w = { wkOf s w with
          state := .running, issued := (wkOf s w).issued + 1, run := (wkOf s w).run + 1, sw := { (wkOf s w).sw with lead := isLead s } } := by
  obtain ⟨h1, h2⟩ := takeCore_spec s w
  generalize takeCore s w = u at h1 h2 ⊢
  have hl : isLead u = isLead s := by rw [h1]; rfl
  refine ⟨SameBut.trans h1 (show SameBut u (countIssue u w) from rfl), fun v h => ?_, ?_⟩
  · unfold countIssue
    rw [wkOf_modWk_ne _ _ _ _ h]
    exact h2 v
  · rw [countIssue_wk, h2 w, hl]

/-- An issue answers a next state: the effect on the worker counted, then the end of the issue. -/
theorem issue_eq (s : State) (w : Worker) (f : State → State) (h : Issues s w) :
    issue s w f = .next (quantumEnd (f (countIssue (takeCore s w) w)) w) := by
  obtain ⟨h1, h2, h3⟩ := h
  simp only [issue, run, Running] at *
  simp [h1, h2, h3]

/-- An instruction that acts on its worker alone: the worker's record is its effect, and nothing else changes. -/
theorem issueK_spec (s : State) (w : Worker) (f : WorkerSt → WorkerSt) (h : Issues s w) :
    ∃ t, issueK s w f = .next t ∧ OnlyWorker s t w
      ∧ wkOf t w = { nextPc (f (wkOf (countIssue (takeCore s w) w) w)) with state := (wkOf t w).state, core := (wkOf t w).core } := by
  obtain ⟨a1, a2, -⟩ := issue_seen s w
  have e := issue_eq s w (fun s => modWk s w fun k => nextPc (f k)) h
  unfold issueK
  rw [e]
  clear e
  generalize countIssue (takeCore s w) w = u at a1 a2 ⊢
  refine ⟨_, rfl, ?_⟩
  obtain ⟨q1, q2, q3⟩ := quantumEnd_spec (modWk u w fun k => nextPc (f k)) w
  generalize quantumEnd (modWk u w fun k => nextPc (f k)) w = t at q1 q2 q3 ⊢
  refine ⟨⟨SameBut.trans (SameBut.trans a1 (SameBut.modWk _ _ _)) q1, fun v hv => ?_⟩, ?_⟩
  · rw [q2 v hv, wkOf_modWk_ne _ _ _ _ hv]
    exact a2 v hv
  · rw [q3, wkOf_modWk]

end Sys2Proof.Machine
end

