-- ==== Sys2Proof/WellFormed.lean ====
section
/-! DEFINITION. Operands that the spec's encodings and packets can carry. A command whose operands are outside them has no
counterpart on the hardware; what exec answers for it is of no meaning. -/
namespace Sys2Proof

/-- Bytes of data that a DLC stands for in an FD frame (R391). -/
def fdLength (dlc : Nat) : Nat :=
  if dlc ≤ 8 then dlc
  else match dlc with
    | 9 => 12
    | 10 => 16
    | 11 => 20
    | 12 => 24
    | 13 => 32
    | 14 => 48
    | _ => 64

/-- A frame in a format of R391: an 11-bit or 29-bit identifier, no remote or bit-rate switch where the format has none,
the data that its DLC gives. -/
def CanFrame.wf (f : CanFrame) : Bool :=
  (f.ide || decide (f.id.toNat < 2048)) && (f.fdf || !f.brs) && !(f.fdf && f.rtr)
    && decide (f.data.length = if f.rtr then 0 else if f.fdf then fdLength f.dlc.toNat else min 8 f.dlc.toNat)

/-- A network time stamp below 10^9 ns (R49). -/
def NetTime.wf (t : NetTime) : Bool := decide (t.ns.toNat < 1000000000)

/-- A node record: hop 2-17, 8-24 cells with a code each, at most 8 sensors (R5, R200). -/
def NodeRec.wf (r : NodeRec) : Bool :=
  decide (2 ≤ r.hop ∧ r.hop ≤ 17 ∧ 8 ≤ r.volts.length ∧ r.volts.length ≤ 24 ∧ r.codes.length = r.volts.length ∧ r.temps.length ≤ 8)

/-- The records of an upstream packet. -/
def UpPacket.wf (p : UpPacket) : Bool := p.recs.all fun x => match x with
  | .node r => r.wf
  | .head _ => true
  | .stream _ => true

/-- An enrolment answer of a head or of a block node with 8-24 cells and at most 8 sensors. -/
def EnrolAnswer.wf (a : EnrolAnswer) : Bool := a.head || decide (8 ≤ a.cells ∧ a.cells ≤ 24 ∧ a.sensors ≤ 8)

/-- Hops 1-17 of a chain (R5). -/
def hopWf (h : Nat) : Bool := decide (1 ≤ h ∧ h ≤ 17)

/-- The command's operands are ones that its packet, register or instruction can carry. -/
def Instr.wf : Instr → Bool
  | .registerWrite _ addr _ => decide (addr.toNat % 4 = 0)
  | .canFrameRx _ f _ => f.wf
  | .canWake _ (.frame f) => f.wf
  | .upstreamPacketRx _ p => p.wf
  | .spareUpRx _ a => hopWf a.hop
  | .reachAnswerRx _ hop _ => hopWf hop
  | .keptRecordsRx _ hop k => hopWf hop && k.recs.all fun x => x.record.wf
  | .nodeChallengeAnswerRx _ hop _ => hopWf hop
  | .sewSurveyEnd _ energies => decide (energies.length = 37)
  | .enrolAnswerRx _ a => a.wf
  | .captureSegmentRx _ seg => hopWf seg.hop
  | .ethLinkChange port speed => decide (speed.toNat ≤ 3) && (port != 2 || speed == 0 || speed == 3)
  | .hostWrite _ _ _ words => !words.isEmpty
  | .mirMsgRx _ _ bytes => decide (1 ≤ bytes.length ∧ bytes.length ≤ 64)
  | _ => true

end Sys2Proof
end

