-- ==== Sys2Proof/Tests/Slice0.lean ====
section
/-! SUPPORT. Tests: ill-formed commands are refused by the checks, single steps on small states, and a witness for the
hypotheses of each statement. -/
namespace Sys2Proof.Tests

open Sys2Proof.Machine
set_option Elab.async false

/-! ## Checks of operands -/

/-- A CAN frame with 3 bytes in a DLC of 2. -/
theorem test_wf_can_length : (Instr.canFrameRx 0 ⟨false, false, false, 5, 2, false, [1, 2, 3]⟩ 0).wf = false := by decide
theorem test_wf_can_good : (Instr.canFrameRx 0 ⟨false, false, false, 5, 2, false, [1, 2]⟩ 0).wf = true := by decide
/-- An identifier of 12 bits in a base frame. -/
theorem test_wf_can_id : (Instr.canFrameRx 0 ⟨false, false, false, 0x800, 0, false, []⟩ 0).wf = false := by decide
theorem test_wf_wake : (Instr.canWake 0 (.frame ⟨false, false, true, 5, 0, false, []⟩)).wf = false := by decide
theorem test_wf_address : (Instr.registerWrite (.host 0) 0x10402 0).wf = false := by decide
/-- A node of 7 cells. -/
theorem test_wf_node :
    (Instr.upstreamPacketRx 0 ⟨⟨false, 2, 0⟩, none, false, [.node ⟨0, 2, 0, List.replicate 7 0, List.replicate 7 0, []⟩], 0⟩).wf = false := by
  decide
theorem test_wf_spare : (Instr.spareUpRx 0 ⟨⟨false, 1, 0⟩, 18, .keyConfirm, 0⟩).wf = false := by decide
theorem test_wf_reach : (Instr.reachAnswerRx 0 0 ⟨⟨false, 1, 0⟩, 5, 0⟩).wf = false := by decide
theorem test_wf_kept : (Instr.keptRecordsRx 0 3 ⟨⟨false, 1, 0⟩, [⟨0, ⟨0, 1, 0, [], [], []⟩⟩], 0⟩).wf = false := by decide
theorem test_wf_survey : (Instr.sewSurveyEnd 0 [1, 2]).wf = false := by decide
theorem test_wf_enrol : (Instr.enrolAnswerRx 0 ⟨false, 0, 25, 2, 0, false⟩).wf = false := by decide
theorem test_wf_segment : (Instr.captureSegmentRx 0 ⟨⟨false, 1, 0⟩, 0, 0, 0, [], 0⟩).wf = false := by decide
theorem test_wf_speed : (Instr.ethLinkChange 0 5).wf = false := by decide
theorem test_wf_words : (Instr.hostWrite 0 0 0 []).wf = false := by decide
theorem test_wf_message : (Instr.mirMsgRx ⟨0x88B5, true, 0, 0, []⟩ 0 []).wf = false := by decide

/-! ## Instruction words, written out from the layouts of R102 and the tables of R104, R107-R124 and R132 -/

def spells (x : Word) (i : Instr) : Bool := decodeWord (WorkerSt.init 0) 3 1 2 x == some i
theorem test_word_zero : spells 0b00000000000000000000000000000000 (.add 3 0 0 0) = true := by decide +kernel
theorem test_word_sub : spells 0b00000000101000010001000000000001 (.sub 3 5 1 2) = true := by decide +kernel
theorem test_word_addi : spells 0b00000100001000001111111111111111 (.addi 3 1 0 0xFFFF) = true := by decide +kernel
theorem test_word_shi : spells 0b00100000010000010000000001000101 (.shiSra 3 2 1 5) = true := by decide +kernel
theorem test_word_mac : spells 0b00110000111000110010000000000000 (.mac 3 7 3 4) = true := by decide +kernel
theorem test_word_ldx : spells 0b01001000010000010001100000001011 (.ldx 3 2 1 3 .halfU true) = true := by decide +kernel
theorem test_word_bc : spells 0b01101010001000000000000000001000 (.bc 3 true 1 8) = true := by decide +kernel
/-- AT with LATE 01 and ALAT 5; EVERY with CANCEL. -/
theorem test_word_at : spells 0b01110000000000110000001001010000 (.waitAt 3 3 1 5) = true := by decide +kernel
theorem test_word_cancel : spells 0b01111000110000000000000010000000 (.everyCancel 3 6) = true := by decide +kernel
theorem test_word_qin : spells 0b10111000101000010000000000000011 (.qinIndex 3 5 1) = true := by decide +kernel
theorem test_word_trap : spells 0b11111100000000000000000010000101 (.trap 3 5) = true := by decide +kernel
/-- A reserved opcode, an ALU fn beyond the table, an accumulator field of 8, a reserved fn bit of FENCE. -/
theorem test_word_illegal : legalWord 0b11011100000000000000000000000000 = false ∧ legalWord 0b00000000000000000000000000011001 = false
    ∧ legalWord 0b00110001000000110010000000000000 = false ∧ legalWord 0b01011100000000000000010000000000 = false := by decide +kernel


/-! ## A running module to test on: worker 3 READY with pair scope, an OPERATOR on session 0 and on USB -/

/-- The module after its start: a folio of 4,096 bytes in force, worker 3 READY, an aperture of 64 KiB of it. -/
def base : State :=
  let s := State.reset
  { s with
    wk := s.wk.set 3 { s.wk[3] with state := .ready, scope := 0x8000, pc := 16, dramBase := 0xDFFF0001, dramLen := 0x10000 }
    time := { s.time with clk := 1000000000, state := .sync }
    power := { s.power with hostReady := true, workersReady := true }
    mem := { s.mem with trained := true, initDone := true }
    folio := { s.folio with codeLen := 4096, noFolio := false }
    net := { s.net with
      sess := (s.net.sess.set 0 { s.net.sess[0] with state := .opened, operator := true }).set 8 { s.net.sess[8] with state := .opened, operator := true } } }

/-- `s` with another record of worker 3. -/
def withK (s : State) (f : WorkerSt → WorkerSt) : State := setWk s 3 (f (wkOf s 3))
/-- `base` with general registers of worker 3 set. -/
def withG (l : List (GReg × Word)) : State := withK base fun k => { k with g := l.foldl (fun g p => g.set p.1 p.2) k.g }
/-- Accumulators of worker 3 set. -/
def withA (s : State) (l : List (AReg × DWord)) : State := withK s fun k => { k with a := l.foldl (fun a p => a.set p.1 p.2) k.a }
/-- Bytes in the scratch of worker 3. -/
def withS (s : State) (off : Nat) (b : List Byte) : State := withK s fun k => { k with scratch := memWrite k.scratch off b }
/-- The address of an immediate access. -/
def at' (s : State) (r : GReg) (imm : BitVec 16) : Nat := (gGet (wkOf s 3) r + imm.signExtend 32).toNat
/-- A map of a head and two blocks of 24 cells. -/
def aMap : RegionMap :=
  ⟨5, 1, 2, 3, 0x8E89BED6, 0x555555, List.replicate 16 7, [⟨true, 100, [1], 0, 0, 40⟩, ⟨false, 101, [2], 24, 8, 50⟩, ⟨false, 102, [3], 24, 8, 60⟩], 0, 0, [9]⟩
/-- `s` with region 0 changed. -/
def inR (s : State) (f : RegionSt → RegionSt) : State := { s with region := s.region.set 0 (f s.region[0]) }
/-- `base` with region 0 mapped. -/
def mapped : State := inR base fun x => { x with map := some aMap }
/-- A closed sweep. -/
def aSweep (n : Word) (complete : Bool) : SweepRec :=
  let b : Block := ⟨0, 24, false, false, false, false, false, List.replicate 24 3700, List.replicate 24 0, 8, List.replicate 8 2500⟩
  ⟨n, 0, 100000000, complete, false, false, false, false, 2, 2, 0, 7, ⟨5, 0, 0⟩, 0, 0, 0, 10, 20, 30, 0, false, [b], [b], false⟩
/-- `s` with a setting in force. -/
def withCfg (s : State) (l : List (Nat × Word)) : State := { s with cfg := l }
/-- `s` with another wheel, time, switch bank, engine of region 0. -/
def wheelIs (s : State) (f : Wheel → Wheel) : State := { s with wheel := f s.wheel }
def inE (s : State) (f : Engine → Engine) : State := inR s fun x => { x with re := f x.re }
def inCh (s : State) (c : Chan) (f : ChanSt → ChanSt) : State := setCh s c (f (chOf s c))
def inCan (s : State) (f : CanSt → CanSt) : State := { s with can := s.can.set 1 (f s.can[1]) }

/-! ## Witnesses: for each statement, states and operands that meet its hypotheses, clause by clause -/

theorem base_issues : Issues base 3 := by
  unfold Issues Running
  and_intros <;> decide +kernel
theorem witness_AluRegister : Issues base 3 := base_issues
theorem witness_AddSubtractFlags : Issues base 3 := base_issues
theorem witness_Products : Issues base 3 := base_issues
theorem witness_Immediates : Issues base 3 := base_issues
theorem witness_FixedPoint : Issues base 3 := base_issues
theorem witness_Accumulators : Issues base 3 := base_issues
/-- A divisor of 1, and g0 as the divisor 0. -/
theorem witness_Division : Issues (withG [(1, 1)]) 3 ∧ gGet (wkOf (withG [(1, 1)]) 3) 1 ≠ 0 ∧ gGet (wkOf (withG [(1, 1)]) 3) 0 = 0 := by
  unfold Issues Running
  and_intros <;> decide +kernel
/-- g1 holds the code's last word, g2 the first address beyond it, g3 no multiple of 4. -/
def wBranch : State := withG [(1, 4092), (2, 4096), (3, 4094)]
theorem witness_Branches : Issues wBranch 3
    ∧ gGet (wkOf wBranch 3) 1 ≠ gGet (wkOf wBranch 3) 2 ∧ condHolds (wkOf wBranch 3).sw 1 = true ∧ condHolds (wkOf wBranch 3).sw 0 = false
    ∧ ((wkOf wBranch 3).pc + 4 * (1019 : BitVec 16).signExtend 32).toNat < wBranch.folio.codeLen
    ∧ ¬((wkOf wBranch 3).pc + 4 * (1020 : BitVec 16).signExtend 32).toNat < wBranch.folio.codeLen
    ∧ (gGet (wkOf wBranch 3) 1).toNat % 4 = 0 ∧ (gGet (wkOf wBranch 3) 1).toNat < wBranch.folio.codeLen
    ∧ (gGet (wkOf wBranch 3) 2).toNat % 4 = 0 ∧ ¬(gGet (wkOf wBranch 3) 2).toNat < wBranch.folio.codeLen
    ∧ (gGet (wkOf wBranch 3) 3).toNat % 4 ≠ 0 := by
  unfold Issues Running
  and_intros <;> decide +kernel
/-- The triple at g1 has the greatest nanoseconds, that at g4 one more. -/
def wTriple : State := withG [(1, 5), (2, 0), (3, 999999999), (4, 5), (5, 0), (6, 1000000000)]
theorem witness_TimeOperands : Issues wTriple 3 ∧ (gGet (wkOf wTriple 3) 3).toNat < 1000000000 ∧ 1000000000 ≤ (gGet (wkOf wTriple 3) 6).toNat := by
  unfold Issues Running
  and_intros <;> decide +kernel
/-- g1 holds the last word of scratch, g2 its last double word, g3 the last word of the tables. -/
def wAccess : State := withG [(1, 0x40003FFC), (2, 0x40003FF8), (3, 0x503FFFFC), (4, 0x40003FFE), (5, 0x40003FFF), (6, 0x50000000)]
theorem witness_Loads : Issues wAccess 3
    ∧ at' wAccess 1 0 % 4 = 0 ∧ Holds wAccess 3 (at' wAccess 1 0) 4 0 ∧ at' wAccess 2 0 % 8 = 0 ∧ Holds wAccess 3 (at' wAccess 2 0) 8 0
    ∧ at' wAccess 3 0 % 4 = 0 ∧ Holds wAccess 3 (at' wAccess 3 0) 4 0
    ∧ (gGet (wkOf wAccess 3) 4 + gGet (wkOf wAccess 3) 0 * 2).toNat % 2 = 0 ∧ Holds wAccess 3 (gGet (wkOf wAccess 3) 4 + gGet (wkOf wAccess 3) 0 * 2).toNat 2 0
    ∧ Holds wAccess 3 (gGet (wkOf wAccess 3) 5 + gGet (wkOf wAccess 3) 0).toNat 1 0 := by
  unfold Issues Running Holds
  and_intros <;> decide +kernel
theorem base_memories : memoriesWf base := by
  unfold memoriesWf
  and_intros <;> decide +kernel
theorem witness_StoresToMemory : Issues wAccess 3 ∧ memoriesWf wAccess
    ∧ at' wAccess 1 0 % 4 = 0 ∧ 0x40000000 ≤ at' wAccess 1 0 ∧ at' wAccess 1 0 + 4 ≤ 0x40004000 ∧ at' wAccess 2 0 % 8 = 0
    ∧ at' wAccess 2 0 + 8 ≤ 0x40004000 ∧ 0x50000000 ≤ at' wAccess 3 0 ∧ at' wAccess 3 0 + 4 ≤ 0x50400000
    ∧ segmentsOk (wkOf wAccess 3) (at' wAccess 3 0 - 0x50000000) 4 = true ∧ at' wAccess 4 0 % 2 = 0 ∧ at' wAccess 4 0 + 2 ≤ 0x40004000
    ∧ at' wAccess 5 0 + 1 ≤ 0x40004000 := by
  unfold Issues Running memoriesWf
  and_intros <;> decide +kernel
theorem witness_Atomics : Issues wAccess 3 ∧ memoriesWf wAccess ∧ hasPosted wAccess 3 = false
    ∧ (gGet (wkOf wAccess 3) 1).toNat % 4 = 0 ∧ Holds wAccess 3 (gGet (wkOf wAccess 3) 1).toNat 4 0
    ∧ (gGet (wkOf wAccess 3) 1).toNat + 4 ≤ 0x40004000 ∧ Holds wAccess 3 (gGet (wkOf wAccess 3) 3).toNat 4 0
    ∧ segmentsOk (wkOf wAccess 3) ((gGet (wkOf wAccess 3) 3).toNat - 0x50000000) 4 = true := by
  unfold Issues Running memoriesWf Holds
  and_intros <;> decide +kernel
/-- A worker of region 1 with addresses that fault: misaligned, just beyond scratch, in the segment of region 0. -/
def wFault : State := withK (withG [(1, 0x40000001), (2, 0x40004000), (3, 0x5003FFFC)]) fun k => { k with scope := 0x4001 }
theorem witness_MemoryFaults : Issues wFault 3 ∧ at' wFault 1 0 % 4 ≠ 0 ∧ at' wFault 2 0 % 8 = 0 ∧ Nowhere wFault 3 (at' wFault 2 0) 8
    ∧ at' wFault 3 0 % 4 = 0 ∧ 0x50000000 ≤ at' wFault 3 0 ∧ segmentsOk (wkOf wFault 3) (at' wFault 3 0 - 0x50000000) 4 = false := by
  unfold Issues Running Nowhere
  and_intros <;> decide +kernel
/-- g1 holds the last word of the aperture, g2 its last double word; a store of the worker is posted. -/
def wDram : State := withG [(1, 0x2000FFFC), (2, 0x2000FFF8), (3, 0x2000FFFF)]
/-- A load of g5 in flight, and one of a1. -/
def wFlight (f : Flight) : State := withK wDram fun k => { k with flight := f }
/-- A poisoned line; a line that the initialiser has yet to reach. -/
def lost (s : State) (l : Nat) : State := { s with mem := { s.mem with poison := [l] } }
def unset (s : State) : State := { s with mem := { s.mem with initDone := false, initPos := 0 } }
def wPosted : State := { base with cores := base.cores.set 0 { base.cores[0] with storeQ := [(3, 0x20000000, [1, 2, 3, 4])] } }
theorem witness_DramAccess : Issues wDram 3
    ∧ at' wDram 1 0 % 4 = 0 ∧ InAperture wDram 3 (at' wDram 1 0) 4 0xDFFFFFFC ∧ at' wDram 2 0 % 8 = 0 ∧ InAperture wDram 3 (at' wDram 2 0) 8 0xDFFFFFF8
    ∧ (xAddr (wkOf wDram 3) 3 0 .byteS true).toNat % xBytes .byteS = 0
    ∧ InAperture wDram 3 (xAddr (wkOf wDram 3) 3 0 .byteS true).toNat (xBytes .byteS) 0xDFFFFFFF
    ∧ (wkOf wDram 3).dramBase.getLsbD 0 = true ∧ (coreOf wDram (wkOf wDram 3).core).storeQ.length < 8
    ∧ storable wDram 0xDFFFFFFC 4 = true ∧ poisoned wDram 0xDFFFFFFC 4 = false
    ∧ Running (wFlight (.loadG 5 0xDFFFFFFF .byteS)) ∧ (wkOf (wFlight (.loadG 5 0xDFFFFFFF .byteS)) 3).flight = .loadG 5 0xDFFFFFFF .byteS
    ∧ poisoned (wFlight (.loadG 5 0xDFFFFFFF .byteS)) 0xDFFFFFFF 1 = false
    ∧ (wkOf (wFlight (.loadA 1 0xDFFFFFF8)) 3).flight = .loadA 1 0xDFFFFFF8 := by
  unfold Issues Running InAperture
  and_intros <;> decide +kernel
/-- What a codeword shows is a free value (log entry 4); every other hypothesis holds. -/
theorem witness_DramAccess_lines : lineFresh (wFlight (.loadG 5 0xDFFFFFFF .byteS)) (0xDFFFFFFF / 64) = false
    ∧ lineFresh (unset (wFlight (.loadG 5 0xDFFFFFFF .byteS))) (0xDFFFFFFF / 64) = true
    ∧ (lost (wFlight (.loadG 5 0xDFFFFFFF .byteS)) 0x37FFFFF).mem.poison.contains (0xDFFFFFFF / 64) = true
    ∧ (wFlight (.loadA 1 0xDFFFFFF8)).mem.poison.contains (0xDFFFFFF8 / 64) = false ∧ poisoned (lost wPosted 0x800000) 0x20000000 4 = true
    ∧ dramHeld wPosted = false ∧ dramHeld { wPosted with mem := { wPosted.mem with dramOut := true } } = true := by
  and_intros <;> decide +kernel
theorem witness_DramAccess_drain : Running wPosted ∧ memoriesWf wPosted ∧ (wkOf wPosted 3).flight = .none
    ∧ ((coreOf wPosted (wkOf wPosted 3).core).storeQ.find? fun q => q.1 == 3) = some (3, 0x20000000, [1, 2, 3, 4])
    ∧ poisoned wPosted 0x20000000 4 = false := by
  unfold Running memoriesWf
  and_intros <;> decide +kernel
/-- a1 holds the phase stamp now, a2 the next one; g1-g3 a time far ahead, g4-g6 a bad triple. -/
def wTime : State :=
  withA (withG [(1, 0xFFFFFFFF), (2, 0), (3, 0), (6, 1000000000), (7, 0)]) [(1, phaseNow base), (2, phaseNow base + 1), (3, 65536), (4, 100000)]
def wDue : State := withK base fun k => { k with state := .waiting, wait := some (.time ⟨.dur 9999999999, 0, 2, none, none⟩) }
theorem witness_Schedule : Issues wTime 3 ∧ hasPosted wTime 3 = false
    ∧ (phaseNow wTime).toNat < (aGet (wkOf wTime 3) 2).toNat ∧ (aGet (wkOf wTime 3) 1).toNat ≤ (phaseNow wTime).toNat
    ∧ badTriple (wkOf wTime 3) 1 = false ∧ netNs wTime < tripleCount (wkOf wTime 3) 1 ∧ badTriple (wkOf wTime 3) 4 = true
    ∧ (wTime.ticks[(0 : Fin 4)]).en = false
    ∧ Running wDue ∧ (wkOf wDue 3).state = .waiting ∧ (wkOf wDue 3).wait = some (.time ⟨.dur 9999999999, 0, 2, none, none⟩)
    ∧ reached wDue (.dur 9999999999) = true := by
  unfold Issues Running
  and_intros <;> decide +kernel
/-- Slot 0 free, slot 0 held by the worker, every slot held by another. -/
def wSlotHeld : State := { withG [(1, 1)] with slots := (State.reset).slots.set 0 (some ⟨3, false, 0, 65536⟩) }
def wSlotsFull : State := { base with slots := Vector.replicate 64 (some ⟨5, false, 0, 65536⟩) }
theorem witness_Periodic : Issues wTime 3 ∧ hasPosted wTime 3 = false ∧ (∀ m : Fin 64, (gGet (wkOf wTime 3) 7).toNat % 128 ≠ m.val + 1)
    ∧ wTime.slots[(0 : Fin 64)] = none ∧ (∀ m : Fin 64, m < 0 → wTime.slots[m] ≠ none)
    ∧ 65536 ≤ (aGet (wkOf wTime 3) 3).toNat ∧ (aGet (wkOf wTime 3) 3).toNat ≤ 281474976710656 ∧ (phaseNow wTime).toNat < (aGet (wkOf wTime 3) 2).toNat
    ∧ 100000 ≤ (aGet (wkOf wTime 3) 4).toNat ∧ (aGet (wkOf wTime 3) 4).toNat ≤ 86400000000000 ∧ badTriple (wkOf wTime 3) 1 = false
    ∧ netNs wTime < tripleCount (wkOf wTime 3) 1 := by
  unfold Issues Running
  and_intros <;> decide +kernel
theorem witness_Periodic_handles : Issues wSlotsFull 3 ∧ (∀ m : Fin 64, (gGet (wkOf wSlotsFull 3) 7).toNat % 128 ≠ m.val + 1)
    ∧ (∀ m : Fin 64, wSlotsFull.slots[m] ≠ none) ∧ Issues wSlotHeld 3 ∧ (gGet (wkOf wSlotHeld 3) 1).toNat % 128 = (0 : Fin 64).val + 1
    ∧ wSlotHeld.slots[(0 : Fin 64)] = some ⟨3, false, 0, 65536⟩ := by
  unfold Issues Running
  and_intros <;> decide +kernel
def wWorker (st : WkState) : State := withK base fun k => { k with state := st, restartAt := some 10000000000 }
theorem witness_WorkerCommands : Running (wWorker .stopped) ∧ wkAllowed (wWorker .stopped) (.host 0) 3 = true ∧ (wkOf (wWorker .stopped) 3).state = .stopped
    ∧ wkAllowed (wWorker .trapped) (.host 0) 3 = true ∧ (wkOf (wWorker .trapped) 3).state = .trapped
    ∧ due (wWorker .trapped) (wkOf (wWorker .trapped) 3).restartAt = true
    ∧ Issues (lost wPosted 0x800000) 3 ∧ (postedBad (lost wPosted 0x800000) 3).isSome = true ∧ postedBad base 3 = none
    ∧ eligible (wkOf (withK base fun k => { k with scope := 0x4001 }) 3) = true
    ∧ wkAllowed (withK base fun k => { k with scope := 0x4001 }) (.worker 3) 5 = false
    ∧ Issues base 3 ∧ legalWord 0xFFFFFFFF = false ∧ base.therm.measEnd ≤ nowNs base ∧ nowNs base < 10000000001 := by
  unfold Issues Running
  and_intros <;> decide +kernel

/-- Region 0 mapped, with sweep 131073 closed and one event; g1 names region 0 in a mask, g2 a sweep reached and g3 one not, g4 scratch. -/
def wSweep : State :=
  withK (inR (withG [(1, 1), (2, 131073), (3, 131074), (4, 0x40003FF0), (5, 0), (6, 0x40000000)]) fun x => { x with
    map := some aMap, lastSweep := 131073, held := [aSweep 131073 true], events := [⟨7, 0x5001, 0, 3⟩] }) fun k => k
/-- The same on a module of 8 regions with a mask that names region 8. -/
def wVariant : State := { wSweep with nReg := 8, wk := wSweep.wk.set 3 { wSweep.wk[3] with g := wSweep.wk[3].g.set 1 0x0100 } }
theorem witness_SweepWaits : Issues wSweep 3 ∧ hasPosted wSweep 3 = false ∧ gGet (wkOf wSweep 3) 2 ≠ 0
    ∧ (∀ r < 16, ((gGet (wkOf wSweep 3) 1).setWidth 16 : BitVec 16).getLsbD r = true → r < wSweep.nReg)
    ∧ maskMapped wSweep ((gGet (wkOf wSweep 3) 1).setWidth 16) = [0]
    ∧ regionReached wSweep 0 (gGet (wkOf wSweep 3) 2) = true ∧ regionReached wSweep 0 (gGet (wkOf wSweep 3) 3) = false
    ∧ Issues wVariant 3 ∧ ((gGet (wkOf wVariant 3) 1).setWidth 16 : BitVec 16).getLsbD 8 = true ∧ wVariant.nReg = 8 := by
  unfold Issues Running
  and_intros <;> decide +kernel
theorem witness_SweepWaits_fetch : (gGet (wkOf wSweep 3) 4).toNat % 8 = 0 ∧ (gGet (wkOf wSweep 3) 4).toNat + 16 ≤ 0x40004000
    ∧ (revtDeliver wSweep 3 7 0 (gGet (wkOf wSweep 3) 4)).isSome = true ∧ memoriesWf wSweep
    ∧ revtDeliver (withS wSweep 0x3FF0 [7]) 3 7 0 (gGet (wkOf wSweep 3) 4) = none
    ∧ (selRegion (gGet (wkOf wSweep 3) 5)).val < wSweep.nReg ∧ (gGet (wkOf wSweep 3) 6).toNat % 8 = 0
    ∧ (gGet (wkOf wSweep 3) 6).toNat + (fetchBlocks wSweep (gGet (wkOf wSweep 3) 5) 0).length ≤ 0x40004000
    ∧ (gGet (wkOf wSweep 3) 6).toNat + (fetchPackBytes wSweep (gGet (wkOf wSweep 3) 5)).length ≤ 0x40004000 := by
  unfold memoriesWf
  and_intros <;> decide +kernel
/-- A descriptor of a vector sum of 4 elements in the tables. -/
def aDescriptor : List Byte := [0x20, 0, 0, 0, 0, 0, 4, 0, 0, 0, 0, 0x50, 0, 1, 0, 0x50, 0, 2, 0, 0x50, 0, 0, 0, 0, 0, 0, 0, 0, 0, 0, 0, 0]
/-- A launch of worker 3. -/
def aLaunch (kernel : Byte) : Launch :=
  { ticket := 0x03000001, worker := 3, prio := 0, seq := 5, kernel := kernel, temp := false, first := 0, count := 4, srcA := 0x50000000
    srcB := 0x50000100, dst := 0x50000200, param0 := 0x50001000, param1 := 0, aperture := 0, seg := 0, excluded := 0, acc := [], target := none }
def wComb : State := withS (withG [(1, 0x40003FE0), (2, 0x40000000), (3, 0x03000001), (4, 0x03000002)]) 0x3FE0 aDescriptor
def wCombFull : State := { wComb with comb := ⟨List.replicate 32 (aLaunch 0x20), false⟩ }
def wDone : State := withK wComb fun k => { k with done := [(0x03000001, 0x00010000)], tickets := [0x03000002], launched := true }
def wAllDone : State := withK wDone fun k => { k with tickets := [] }
theorem witness_CombLaunches : Issues wComb 3 ∧ (gGet (wkOf wComb 3) 1).toNat = 0x40003FE0 ∧ badPlace wComb 3 (.scratch 0x3FE0) 32 = false
    ∧ badDescriptor (memRead (wkOf wComb 3).scratch 0x3FE0 32) (launchOf wComb 3 (memRead (wkOf wComb 3).scratch 0x3FE0 32) 0x03000001) = false
    ∧ rangeOk wComb (wkOf wComb 3).scope (launchOf wComb 3 (memRead (wkOf wComb 3).scratch 0x3FE0 32) 0x03000001) = true
    ∧ badTable wComb 3 (launchOf wComb 3 (memRead (wkOf wComb 3).scratch 0x3FE0 32) 0x03000001) = none
    ∧ ticketOf 3 (wkOf wComb 3).launches = 0x03000001 ∧ entryFree wComb (wkOf wComb 3) = true
    ∧ Issues wCombFull 3 ∧ entryFree wCombFull (wkOf wCombFull 3) = false
    ∧ badPlace wComb 3 (.scratch 0) 32 = false
    ∧ badDescriptor (memRead (wkOf wComb 3).scratch 0 32) (launchOf wComb 3 (memRead (wkOf wComb 3).scratch 0 32) 0x03000001) = true := by
  unfold Issues Running
  and_intros <;> decide +kernel
theorem witness_CombLaunches_cmbw : Issues wDone 3
    ∧ ((wkOf wDone 3).done.find? fun x => x.1 == gGet (wkOf wDone 3) 3) = some (0x03000001, 0x00010000)
    ∧ ((wkOf wDone 3).done.find? fun x => x.1 == gGet (wkOf wDone 3) 4) = none ∧ gGet (wkOf wDone 3) 4 ∈ (wkOf wDone 3).tickets
    ∧ hasPosted wDone 3 = false ∧ Issues wAllDone 3 ∧ (wkOf wAllDone 3).tickets = [] ∧ (wkOf wAllDone 3).launched = true := by
  unfold Issues Running
  and_intros <;> decide +kernel
/-- One launch queued, tables with two different elements. -/
def wKernel (kernel : Byte) : State :=
  { base with comb := ⟨[aLaunch kernel], false⟩, mem := { base.mem with tables := memWrite [] 0 [5, 0, 0, 0, 0xFE, 0xFF, 0xFF, 0xFF] } }
def allKernels : List Byte :=
  [0x01, 0x02, 0x03, 0x04, 0x05, 0x06, 0x07, 0x08, 0x09, 0x20, 0x21, 0x22, 0x23, 0x24, 0x25, 0x26]
theorem witness_KernelsComplete : ∀ k ∈ allKernels, (wKernel k).power.state = .running ∧ granted (wKernel k) = some (aLaunch k) := by
  and_intros <;> decide +kernel
theorem witness_VectorKernels : ∀ k ∈ [(0x20 : Byte), 0x21, 0x22],
    (wKernel k).power.state = .running ∧ granted (wKernel k) = some (aLaunch k) ∧ memWf (wKernel k).mem.tables = true ∧ (wKernel k).mem.badTable = []
      ∧ 0x50000000 ≤ (aLaunch k).srcA.toNat ∧ 0x50000000 ≤ (aLaunch k).srcB.toNat
      ∧ (aLaunch k).srcA.toNat + 4 * (aLaunch k).count ≤ (aLaunch k).dst.toNat ∧ (aLaunch k).srcB.toNat + 4 * (aLaunch k).count ≤ (aLaunch k).dst.toNat := by
  and_intros <;> decide +kernel
theorem witness_ExtremeKernels : ∀ k ∈ [(0x23 : Byte), 0x24],
    (wKernel k).power.state = .running ∧ granted (wKernel k) = some (aLaunch k) ∧ memWf (wKernel k).mem.tables = true ∧ (wKernel k).mem.badTable = []
      ∧ 0x50000000 ≤ (aLaunch k).srcA.toNat ∧ 0x50000000 ≤ (aLaunch k).dst.toNat ∧ 0 < (aLaunch k).count ∧ (aLaunch k).param1.getLsbD 1 = false := by
  and_intros <;> decide +kernel
/-- g1 names channel 0, g2 holds the command; the lowest scope owns no channel of the chip. -/
def wOut (cmd : Nat) : State := withG [(1, 0), (2, BitVec.ofNat 32 cmd)]
def wOutNot : State := withK (wOut 1) fun k => { k with scope := 0x4001 }
theorem witness_SwitchOutputs : (∀ c ∈ [0, 1, 2, 3], Running (wOut c) ∧ canIssue (wOut c) 3 = true ∧ overBudget (wkOf (wOut c) 3) = false
      ∧ hasChan (wOut c) 0 = true ∧ ownsChan (wOut c) (wkOf (wOut c) 3).scope 0 = true ∧ (gGet (wkOf (wOut c) 3) 2).toNat % 4 = c)
    ∧ (hasChan wOutNot 0 && ownsChan wOutNot (wkOf wOutNot 3).scope 0) = false ∧ (gGet (wkOf wOutNot 3) 2).toNat % 4 = 1
    ∧ isOperator base 0 = true ∧ hasChan base 63 = true := by
  unfold Running
  and_intros <;> decide +kernel
/-- g1 names region 0, g2 the step; the region's engine in a state, with its contactors mapped. -/
def wStep (code : Word) (st : ReState) : State :=
  inR (withG [(1, 0), (2, code)]) fun x => { x with map := some aMap, re := { x.re with state := st }, held := [aSweep 131073 true] }
abbrev stepTaken (code : Word) (st : ReState) : Prop :=
  let s := wStep code st
  s.power.state = .running ∧ canIssue s 3 = true ∧ overBudget (wkOf s 3) = false ∧ (gGet (wkOf s 3) 2).toNat % 16 = code.toNat
    ∧ hasRegion s 0 = true ∧ coversRegion (wkOf s 3).scope 0 = true ∧ s.sever.lineLow = false ∧ isYielded s = false
    ∧ (reOf s 0).step = none ∧ opensAsSever s = false ∧ (reOf s 0).state = st
theorem witness_ContactorSteps_early : stepTaken 1 .opened ∧ stepTaken 2 .negClosed ∧ stepTaken 3 .precharged := by
  and_intros <;> decide +kernel
theorem witness_ContactorSteps_late : stepTaken 4 .closedPre ∧ stepTaken 5 .closed ∧ stepTaken 6 .closed := by
  and_intros <;> decide +kernel
theorem witness_ContactorSteps_open : stepTaken 7 .isolated ∧ stepTaken 8 .opened ∧ coversRegion 0x4001 0 = false := by
  and_intros <;> decide +kernel
def wQin : State := withG [(1, 7), (2, 0x03C40000)]
theorem witness_PositionReads : Issues wQin 3 ∧ chipOrPair (wkOf wQin 3).scope = true
    ∧ Issues (withK wQin fun k => { k with scope := 0x4001 }) 3
    ∧ chipOrPair (wkOf (withK wQin fun k => { k with scope := 0x4001 }) 3).scope = false := by
  unfold Issues Running
  and_intros <;> decide +kernel
/-- A base frame of identifier 5 with two bytes, as an image of the transmit queue. -/
def aFrame : CanFrame := ⟨false, false, false, 5, 2, false, [1, 2]⟩
def wCan (st : CanState) (n : Nat) (rx : List RxEntry) : State :=
  { withS (withG [(1, 1), (2, 0x40003FB8), (3, 0x10001), (4, 0x40003FA8), (5, 0x60000005)]) 0x3FB8 [5, 0, 0, 0, 2, 0, 0, 0, 1, 2] with
    can := State.reset.can.set 1 { CanSt.init with state := st, tx := List.replicate n ⟨aFrame, 7, .ctx, false⟩, rx := rx } }
/-- A frame in buffer 2, which is consumed by the host. -/
def wHosted : State :=
  let s := withG [(4, 0x40003FA8), (6, 0x201)]
  { s with can := s.can.set 1 { CanSt.init with state := .active, bufCfg := CanSt.init.bufCfg.set 2 1, rx := [⟨aFrame, 9, 5, false, 2⟩] } }
theorem witness_BusAndLog : Issues (wCan .active 31 []) 3 ∧ chipOrPair (wkOf (wCan .active 31 []) 3).scope = true
    ∧ (gGet (wkOf (wCan .active 31 []) 3) 2).toNat = 0x40003FB8 ∧ badPlace (wCan .active 31 []) 3 (.scratch 0x3FB8) 72 = false
    ∧ frameOfImage (memRead (wkOf (wCan .active 31 []) 3).scratch 0x3FB8 72) = aFrame ∧ badFrame aFrame = false
    ∧ portOpen (canOf (wCan .active 31 []) 1) = true ∧ (canOf (wCan .active 31 []) 1).tx.length < 32
    ∧ portOpen (canOf (wCan .busOff 0 []) 1) = true ∧ 32 ≤ (canOf (wCan .active 32 []) 1).tx.length ∧ portOpen (canOf (wCan .active 32 []) 1) = true
    ∧ portOpen (canOf (wCan .disabled 0 []) 1) = false
    ∧ crxFrame (canOf (wCan .active 0 [⟨aFrame, 9, 5, false, 3⟩]) 1) none = some ⟨aFrame, 9, 5, false, 3⟩
    ∧ crxFrame (canOf (wCan .active 0 []) 1) none = none ∧ (gGet (wkOf (wCan .active 0 []) 3) 4).toNat + 88 ≤ 0x40004000
    ∧ mramWear (number (wCan .active 0 [])) < 80000000 := by
  unfold Issues Running
  and_intros <;> decide +kernel
/-- A lead with its twin; worker 3 has a message. -/
def wPair : State :=
  { withG [(1, 0x40003FC0), (2, 64)] with twin := { State.reset.twin with role := .lead, present := true, mail := [(3, [1, 2])] } }
def wNoTwin : State := { wPair with twin := { wPair.twin with present := false } }
def wNoMail : State := { wPair with twin := { wPair.twin with mail := [], grant := some 5 } }
theorem witness_PairInstructions : Issues wPair 3 ∧ isPair (wkOf wPair 3).scope = true ∧ wPair.twin.present = true
    ∧ (gGet (wkOf wPair 3) 1).toNat + clampNat 1 64 (gGet (wkOf wPair 3) 2).toNat ≤ 0x40004000
    ∧ badPlace wPair 3 (.scratch ((gGet (wkOf wPair 3) 1).toNat - 0x40000000)) 64 = false ∧ sentTo wPair 3 < 8
    ∧ (wPair.twin.mail.find? fun y => y.1 == 3) = some (3, [1, 2]) ∧ wPair.twin.role = .lead ∧ wPair.twin.grant = none
    ∧ Issues wNoTwin 3 ∧ wNoTwin.twin.present = false ∧ Issues wNoMail 3 ∧ (wNoMail.twin.mail.find? fun y => y.1 == 3) = none
    ∧ hasPosted wNoMail 3 = false ∧ wNoMail.twin.grant ≠ none
    ∧ Issues { wPair with twin := { wPair.twin with role := .mirror } } 3
    ∧ Issues (withK wPair fun k => { k with scope := 0x4001 }) 3 ∧ isPair (wkOf (withK wPair fun k => { k with scope := 0x4001 }) 3).scope = false := by
  unfold Issues Running
  and_intros <;> decide +kernel
/-- g1 holds the source, g2 length and slot, g3 the place of the result. -/
def wCrypto (slot : Nat) : State := withG [(1, 0x40000000), (2, BitVec.ofNat 32 slot), (3, 0x40003E80)]
def aRequest (op : Fin 3) : CryptoReq := ⟨some 3, true, 5, op, 3, 0x40003E80, List.replicate 32 1, List.replicate 384 2, 0x11, .sig⟩
def wAsked (op : Fin 3) : State := { withK base fun k => { k with state := .waiting, wait := some .crypto } with crypto := [aRequest op] }
/-- The crypto partition out of service. -/
def cryptoOut (s : State) : State := { s with therm := { s.therm with bistOut := 0x40 } }
theorem witness_Signing : (∀ v ∈ [0x01, 0x02, 0x10, 0x11], Running (wCrypto v) ∧ canIssue (wCrypto v) 3 = true ∧ overBudget (wkOf (wCrypto v) 3) = false
      ∧ hasPosted (wCrypto v) 3 = false ∧ chipOrPair (wkOf (wCrypto v) 3).scope = true ∧ ((gGet (wkOf (wCrypto v) 3) 2).setWidth 8 : Byte) = BitVec.ofNat 8 v
      ∧ (gGet (wkOf (wCrypto v) 3) 1).toNat = 0x40000000 ∧ badPlace (wCrypto v) 3 (.scratch 0) 32 = false
      ∧ badPlace (wCrypto v) 3 (.scratch 0) (gGet (wkOf (wCrypto v) 3) 2).toNat = false
      ∧ (gGet (wkOf (wCrypto v) 3) 3).toNat + 384 ≤ 0x40004000 ∧ badPlace (wCrypto v) 3 (.scratch 0x3E80) 384 = false)
    ∧ ((gGet (wkOf (wCrypto 0) 3) 2).setWidth 8 : Byte) ∉ [(0x01 : Byte), 0x02, 0x10, 0x11, 0x20]
    ∧ chipOrPair (wkOf (withK (wCrypto 1) fun k => { k with scope := 0x4001 }) 3).scope = false := by
  unfold Running
  and_intros <;> decide +kernel
theorem witness_Signing_complete : Running (wAsked 0) ∧ (wAsked 0).crypto = [aRequest 0] ∧ (aRequest 0).worker = some 3
    ∧ Running (wAsked 2) ∧ (wAsked 2).crypto = [aRequest 2] ∧ (aRequest 2).op = 2 ∧ (aRequest 2).job = .sig
    ∧ partDown (wAsked 2) 6 = false ∧ partDown (cryptoOut (wAsked 2)) 6 = true ∧ (wkOf (wAsked 2) 3).state = .waiting := by
  unfold Running
  and_intros <;> decide +kernel

/-- A locked wheel on GRIDSYNC whose cycle begins so that the pulse lies 5 % of a cycle from it, and 1 ns more. -/
def wWheel (start : Nat) (src : Word) : State := withCfg (wheelIs base fun v => { v with state := .locked, cycStart := start, msgLo := 65546 }) [(1, src)]
def wHold (st : WheelState) (hold : Word) : State := withCfg (wheelIs base fun v => { v with state := st }) [(5, hold)]
theorem witness_PhaseWheel : Running base ∧ base.wheel.cycStart + base.wheel.cycLen ≤ nowNs base
    ∧ cfgNat (wWheel 9998998000 1) 0x0001 = 1 ∧ (wWheel 9998998000 1).wheel.state = .locked
    ∧ 20 * (phaseError (wWheel 9998998000 1) 9999998000).natAbs ≤ 20000000 ∧ 20000000 < 20 * (phaseError (wWheel 9998997999 1) 9999998000).natAbs
    ∧ chipWriter (wWheel 9999000000 2) (.host 8) = true ∧ cfgNat (wWheel 9999000000 2) 0x0001 = 2 ∧ (wWheel 9999000000 2).time.state = .sync
    ∧ messageAt (wWheel 9999000000 2) 0 = nowNs (wWheel 9999000000 2) ∧ (wWheel 9999000000 2).wheel.state = .locked
    ∧ 20 * (phaseError (wWheel 9999000000 2) 10000000000).natAbs ≤ 20000000
    ∧ (wHold .locked 0).wheel.lastAccept + lossTime (wHold .locked 0) ≤ nowNs (wHold .locked 0) ∧ cfgNat (wHold .locked 0) 0x0005 = 0
    ∧ cfgNat (wHold .acquire 1) 0x0005 = 1 ∧ (wHold .hold 10000).wheel.holdAt + 10000 * 1000000 ≤ nowNs (wHold .hold 10000)
    ∧ cfgNat (wHold .hold 10000) 0x0005 = 10000 := by
  unfold Running
  and_intros <;> decide +kernel
/-- Network time set by the host to the second of now; tick domain 0 at its compare value; the time mark due. -/
def wSet (st : TimeState) : State := withCfg { base with time := { base.time with setLo := 65546, state := st } } [(6, 2)]
def wTick : State := { base with ticks := base.ticks.set 0 ⟨true, 100, 5, 1000000000, 100, 5, 7, false⟩ }
def wMark : State := { base with time := { base.time with clk := 6553600000000 } }
theorem witness_NetworkTimeAndTicks : Running (wSet .sync) ∧ chipWriter (wSet .sync) (.host 0) = true ∧ cfgNat (wSet .sync) 0x0006 = 2
    ∧ netNs (wSet .sync) = 65546000000000 ∧ (wSet .sync).time.setLo = 65546 ∧ (wSet .unset).time.state = .unset ∧ cfgNat wTick 0x0006 ≠ 2
    ∧ base.time.slewLeft = 0 ∧ wMark.time.storedAt + 65536000000000 ≤ nowNs wMark ∧ (netNow base).sec ≠ base.canLatch.sec
    ∧ (wTick.ticks[(0 : Fin 4)]).en = true ∧ (wTick.ticks[(0 : Fin 4)]).fired = false ∧ tickCount wTick 0 = (wTick.ticks[(0 : Fin 4)]).cmp
    ∧ chipWriter wTick (.worker 3) = true ∧ 0 < (wTick.ticks[(0 : Fin 4)]).div := by
  unfold Running
  and_intros <;> decide +kernel
/-- Input 2 enabled: plain, and a travel input at its upper limit, with the window and the speed time-out past. -/
def wInput (cfg count : Word) : State :=
  { base with qp := base.qp.set 2 { QpSt.init with cfg := cfg, count := count, limLo := 0, limHi := 5, lastAt := some 9000000000, skipsWin := 4 } }
theorem witness_PositionInputs : Running base ∧ (qpOf (wInput 0x83040000 0x7FFFFFFF) 2).cfg.getLsbD 31 = true
    ∧ (qpOf (wInput 0x83040000 0x7FFFFFFF) 2).cfg.getLsbD 30 = false
    ∧ (qpOf (wInput 0xC3040000 5) 2).cfg.getLsbD 30 = true ∧ (qpOf (wInput 0xC3040000 5) 2).limHi.toInt ≤ (qpOf (wInput 0xC3040000 5) 2).count.toInt
    ∧ (qpOf (wInput 0xC3040000 5) 2).cfg.getLsbD 28 = false
    ∧ (qpOf (wInput 0x03040000 5) 2).cfg.getLsbD 31 = false
    ∧ (qpOf (wInput 0x03040000 5) 2).winStart + (qpOf (wInput 0x03040000 5) 2).time.toNat % 65536 * 1000000 ≤ nowNs (wInput 0x03040000 5)
    ∧ (qpOf (wInput 0x03040000 5) 2).lastAt = some 9000000000
    ∧ 9000000000 + (qpOf (wInput 0x03040000 5) 2).time.toNat / 65536 * 1000000 ≤ nowNs (wInput 0x03040000 5)
    ∧ chipWriter (wInput 0xC3040000 5) (.host 0) = true ∧ (qpOf (wInput 0xC3040000 5) 2).limLo.toInt ≤ (5 : Word).toInt
    ∧ (5 : Word).toInt ≤ (qpOf (wInput 0xC3040000 5) 2).limHi.toInt ∧ (5 : Word).getLsbD 20 = false := by
  unfold Running
  and_intros <;> decide +kernel
/-- Channel 0 as given, with drive enabled and its supply good. -/
def wChan (f : ChanSt → ChanSt) : State := inCh { base with twin := { base.twin with driveEn := true } } 0 f
theorem witness_ChannelProtection : base.power.state ≠ .off
    ∧ (chOf (wChan fun x => { x with drive := 2, cmd := 1, attempts := 5 }) 0).drive ≠ 0
    ∧ (mapOf (wChan fun x => { x with drive := 2, cmd := 1, attempts := 5 }) 0).retryN = 5
    ∧ (chOf (wChan fun x => { x with cmd := 1, pauseEnd := some 10000000000 }) 0).pauseEnd = some (nowNs base)
    ∧ (wChan fun x => { x with cmd := 1, pauseEnd := some 10000000000 }).bank.supUv[(0 : Fin 4)] = false
    ∧ wantsDrive (setCh (wChan fun x => { x with cmd := 1, pauseEnd := some 10000000000 }) 0
        { chOf (wChan fun x => { x with cmd := 1, pauseEnd := some 10000000000 }) 0 with pauseEnd := none, retryDue := false }) 0 = true
    ∧ (chOf (wChan fun x => { x with drive := 2, cmd := 1, since := 9000000000 }) 0).since + 1000000000 ≤ nowNs base
    ∧ (chOf (wChan fun x => { x with cmd := 1, dtHold := true }) 0).dtHold = true
    ∧ (0 : Nat) + 10000000000 < nowNs { base with time := { base.time with clk := 1000000001 } }
    ∧ (chOf (wChan fun x => { x with opt := 0x14 }) 0).opt.getLsbD 2 = true := by
  and_intros <;> decide +kernel
def wSupply (uv : Bool) : State := { wChan (fun x => { x with cmd := 1, drive := if uv then 0 else 2 }) with
  bank := { (wChan fun x => { x with cmd := 1, drive := if uv then 0 else 2 }).bank with supUv := Vector.replicate 4 uv } }
theorem witness_CoilSupplies : (wSupply false).power.state ≠ .off ∧ (wSupply false).bank.supUv[(0 : Fin 4)] = false
    ∧ (wSupply true).bank.supUv[(0 : Fin 4)] = true ∧ (∀ c : Chan, (chOf (wSupply true) c).retryDue = false) ∧ Running base
    ∧ base.bank.expiryDue = none ∧ base.bank.lastRefresh + cfgNat base 0x3001 * 1000000 ≤ nowNs base := by
  unfold Running
  and_intros <;> decide +kernel
/-- Pre-charge and weld check of region 0. -/
def aPre : PreSt := ⟨7, none, some 10000000000, false, some 10000000000, none, false, none, none, 0, 0, false, none, []⟩
def aWeld : WeldSt := ⟨7, 0, 10000000000, false, false, none, some (0, true), false, 3⟩
theorem witness_ContactorTimers : Running mapped ∧ mapped.din.getLsbD 31 ≠ true
    ∧ (reOf (inE mapped fun e => { e with state := .closed, auxPosAt := some 10000000000 }) 0).auxPosAt = some (nowNs mapped)
    ∧ (reOf (inE mapped fun e => { e with state := .closed, auxPosAt := some 10000000000 }) 0).state = .closed
    ∧ (chOf (inCh base 0 fun x => { x with drive := 1, pullEnd := 10000000000 }) 0).drive = 1
    ∧ (chOf (inCh base 0 fun x => { x with drive := 1, pullEnd := 10000000000 }) 0).pullEnd ≤ nowNs base ∧ (mapOf base 0).owner = none
    ∧ (reOf (inE mapped fun e => { e with state := .precharging, pre := some aPre }) 0).pre = some aPre
    ∧ aPre.relayAt = some (nowNs mapped) ∧ aPre.limit = some (nowNs mapped)
    ∧ (reOf (inE mapped fun e => { e with state := .precharged }) 0).state = .precharged ∧ (rgOf mapped 0).streamEnd ≤ nowNs mapped
    ∧ (reOf (inE mapped fun e => { e with state := .closedPre, autoOffAt := some 10000000000 }) 0).autoOffAt = some (nowNs mapped)
    ∧ (reOf (inE mapped fun e => { e with state := .opening, openLimit := 10000000000 }) 0).openLimit ≤ nowNs mapped
    ∧ (reOf (inE mapped fun e => { e with negOffAt := some 10000000000, circEnd := some 10000000000, graceEnd := some 10000000000 }) 0).negOffAt
        = some (nowNs mapped)
    ∧ aWeld.endAt ≤ nowNs mapped ∧ weldReady mapped 0 aWeld = true
    ∧ (reOf (inE mapped fun e => { e with state := .weldCheck, weld := some aWeld }) 0).isolates = none := by
  unfold Running
  and_intros <;> decide +kernel
def wSever : State := { base with sever := { base.sever with lineLow := true, cmdHold := true, tripLatch := true } }
def wLetGo : State := { base with sever := { base.sever with lineLow := true, observed := true, assertedAt := 9900000000 } }
theorem witness_SeverLine : Running base ∧ overTrip base 0x7FFFFFFF = true ∧ base.sever.tripLatch = false ∧ overTrip base 0 = false
    ∧ pairWriter base (.worker 3) = true ∧ base.sever.observed = false ∧ wLetGo.sever.assertedAt + 100000000 ≤ nowNs wLetGo
    ∧ wLetGo.sever.lineLow = true ∧ wLetGo.sever.ownHold = false ∧ isOperator base 0 = true ∧ hasRegion base 15 = true
    ∧ (0xFFF : Word).toNat < 2 ^ 14 ∧ (0xFFF : Word).toNat % 64 = 63 ∧ (0xFFF : Word).toNat / 64 % 64 = 63 := by
  unfold Running
  and_intros <;> decide +kernel
def wPort (st : CanState) (f : CanSt → CanSt) : State := inCan base fun c => f { c with state := st, catching := false }
def sending (c : CanSt) : CanSt := { c with tx := [⟨aFrame, 7, .ctx, true⟩], inTx := some 7, tec := 130 }
theorem witness_CanControllers : Running (wPort .active id) ∧ onBus (canOf (wPort .active id) 1) = true ∧ (canOf (wPort .active id) 1).mode = 1
    ∧ bufferOf (canOf (wPort .active id) 1) aFrame = none ∧ bufferOf (canOf base 1) aFrame = some 1 ∧ hasRoom (canOf base 1) 1 = true
    ∧ (∀ w : Worker, (wkOf base w).state ≠ .waiting)
    ∧ (canOf (wPort .active sending) 1).inTx = some 7
    ∧ ((canOf (wPort .active sending) 1).tx.find? fun y => y.seq == 7) = some ⟨aFrame, 7, .ctx, true⟩
    ∧ (canOf (wPort .recovering id) 1).state = .recovering ∧ (canOf (wPort .asleep id) 1).state = .asleep ∧ wakesOn (canOf (wPort .asleep id) 1) .pattern = true
    ∧ chipWriter (wPort .busOff id) (.host 0) = true ∧ (canOf (wPort .busOff id) 1).inTx = none
    ∧ (canOf (wPort .config fun c => { c with mode := 0 }) 1).mode = 0 ∧ (0x3F7FFFFF : Word).toNat < 2 ^ 30 ∧ (0x3F7FFFFF : Word).toNat / 256 % 256 ≠ 0
    ∧ (0x3F7FFFFF : Word).toNat / 2 ^ 23 ≤ (0x3F7FFFFF : Word).toNat / 2 ^ 16 % 128 := by
  unfold Running
  and_intros <;> decide +kernel
def inFolio (f : FolioSt → FolioSt) : State := { base with folio := f base.folio }
theorem witness_FolioCommands : Running (inFolio id) ∧ isOperator (inFolio id) 0 = true ∧ (inFolio id).folio.busy = .none
    ∧ (inFolio fun f => { f with stageLen := 3145728 }).folio.stageLen.toNat ≤ 3145728 ∧ (inFolio id).folio.stA ≠ .trial
    ∧ (inFolio fun f => { f with stageLen := 5, verified := some 5 }).folio.verified = some (5 : Word).toNat
    ∧ (inFolio fun f => { f with active := true, stB := .trial }).folio.stB = .trial
    ∧ (inFolio fun f => { f with stB := .valid }).folio.stB = .valid ∧ hasRegion (inFolio id) 15 = true ∧ (inFolio id).twin.present = false
    ∧ (inFolio fun f => { f with busy := .verify }).folio.busy = .verify ∧ (inFolio fun f => { f with busy := .writeSlot }).folio.busy = .writeSlot
    ∧ regionClosed (inFolio fun f => { f with busy := .reload 0 131072 none }) 0 131072 = true
    ∧ chipInSegment (inFolio fun f => { f with busy := .reload 0 131072 none }) 0 = false
    ∧ chipInSegment (withK (inFolio fun f => { f with busy := .reload 0 131072 (some 10000000000) }) fun k => { k with pc := 0x100000 }) 0 = true
    ∧ rsaServes { base with crypto := [⟨none, false, 5, 0, 0, 0, [], [], 0, .folio⟩] } .folio = true ∧ rsaServes base .folio = false := by
  unfold Running
  and_intros <;> decide +kernel
/-- Two slots of the same bytes differ in no region's part. -/
theorem witness_FolioCommands_reload : withoutRegion (slotBytes (inFolio id).folio true) 15 = withoutRegion (slotBytes (inFolio id).folio false) 15 := rfl

/-- A good field for SWEEP_N, a field of a reserved identifier, fields due. -/
def fieldWords (id ty : Nat) (v : Word) : Word × Word :=
  let b := fieldBytes id ty v
  (BitVec.ofNat 32 (natAt b 0 4), BitVec.ofNat 32 (natAt b 4 4))
def wField (id ty : Nat) (v : Word) : State := inFolio fun f => { f with fieldLo := f.fieldLo.set 0 (fieldWords id ty v).1 }
def wDueField (id : Nat) (v : Word) : State := inFolio fun f => { f with pendingFields := [⟨131072, id, v, v, 0, 1⟩] }
theorem witness_RunSettings : Running base ∧ isOperator (wField 0x0005 1 5) 0 = true
    ∧ fieldCheck (wField 0x0005 1 5) (fieldOf (bytesLE 4 ((wField 0x0005 1 5).folio.fieldLo[(0 : Session)]).toNat
        ++ bytesLE 4 (fieldWords 0x0005 1 5).2.toNat)) true = (5, true, 0)
    ∧ fieldCheck (wField 0x0FFF 0 5) (fieldOf (bytesLE 4 ((wField 0x0FFF 0 5).folio.fieldLo[(0 : Session)]).toNat
        ++ bytesLE 4 (fieldWords 0x0FFF 0 5).2.toNat)) true = (0, false, 7)
    ∧ chipWriter base (.host 0) = true ∧ fieldDue base = none
    ∧ fieldDue (wDueField 2 1) = some ⟨131072, 2, 1, 1, 0, 1⟩ ∧ pairOf (wDueField 2 1) 2 = none ∧ pairOf (wDueField 5 1) 5 = none
    ∧ fieldDue (wDueField 8194 60000) = some ⟨131072, 8194, 60000, 60000, 0, 1⟩ ∧ pairOf (wDueField 8194 60000) 8194 = some (8194, 8193, false)
    ∧ pairBad (8194, 8193, false) (60000 : Word).toInt (cfgGet (wDueField 8194 60000) 8193).toInt = true
    ∧ pairBad (8194, 8193, false) (1 : Word).toInt (cfgGet (wDueField 8194 1) 8193).toInt = false := by
  unfold Running
  and_intros <;> decide +kernel
/-- A frame of sweep 131071 that began at 9.9 s. -/
def aFrameOf (sampled closed : Bool) : Frame :=
  { sweep := 131071, origin := 9900000000, originTime := ⟨65545, 0, 0⟩, sAt := 9902000000, stamp := 5, wheel := 2, timeSt := 2, sTime := ⟨65545, 5, 0⟩
    sampled := sampled, fe := 1, echo := false, heard := false, closed := closed, total := none, got := 0, head := none, nodes := [], stream := []
    fcs := [], sent := [], commanded := false, otherSide := false, mute := false, closeAt := if closed then 9950000000 else 0, byTotal := none, byAcked := false
    byGot := 0, neighbour := false, onBus := false }
/-- Region 0 mapped on a module in a pair role. -/
def inRole (role : Role) (f : RegionSt → RegionSt) : State := inR { mapped with twin := { base.twin with role := role } } f
def framed (role : Role) (fr : Frame) : State := inRole role fun x => { x with frame := some fr }
def anOrder : Order := ⟨1, 0x1F, 3, 4, [], 0, 0, 0, []⟩
def ordered : State := inRole .lead fun x => { x with frame := some (aFrameOf false false), orders := [anOrder] }
/-- A packet of the head with a block record of hop 2; its integrity code holds when `good`. -/
def aNode (hop : Nat) : NodeRec := ⟨0, hop, 0, List.replicate 24 3700, List.replicate 24 0, List.replicate 8 2500⟩
def aPacket (good : Bool) : UpPacket :=
  let p : UpPacket := ⟨⟨false, 1, 1⟩, some (1, 3), false, [.node (aNode 2)], 0⟩
  let mic := airMicOf 0 aMap.key aMap.mapId 3 (airByte1 false 1) 1 131071 1 (upBody p)
  { p with mic := if good then mic else mic + 1 }
def aDsm : Dsm4 := ⟨1, 2, 3, 4⟩
/-- The frame is `t` ns old; the next sample instant lies ahead. -/
def aged (s : State) (t : Nat) : State := { s with time := { s.time with clk := (9900000000 + t) / 10 } }
def ahead (s : State) : State := { s with sweep := { s.sweep with nextCycle := 505 } }
/-- The MIC of a packet in that frame under the map's key. -/
def micOf (type : Nat) (h : AirHdr) (body : List Byte) : Word :=
  airMicOf 0 aMap.key aMap.mapId type (airByte1 h.sideB h.sender.toNat) h.fc.toNat 131071 1 body
def fromHead : AirHdr := ⟨false, 1, 1⟩
def fromLead : AirHdr := ⟨true, 0, 1⟩
/-- The frame once a packet of a sender is accepted. -/
def took (f : Frame) (sender : Nat) : Frame := { f with fcs := [(sender, 1)] }
/-- A beacon as the head relays it, and one of the lead with its flags. -/
def aBeacon (flags : Byte) : Beacon := ⟨131071, 65545, 0, 0, 2584000, flags, 2548, 1⟩
def anEcho : BeaconRx := ⟨fromHead, aBeacon 0, micOf 1 fromHead (beaconBytes (aBeacon 0))⟩
def newKeyOf : List Byte := List.replicate 16 9
def leadBeacon (flags : Byte) : LeadPacket :=
  let key := if flags.getLsbD 1 then newKeyOf else aMap.key
  ⟨fromLead, .beacon (aBeacon flags), airMicOf 0 key 5 1 (airByte1 true 0) 1 131071 1 (beaconBytes (aBeacon flags))⟩
def leadAck : LeadPacket := ⟨fromLead, .ack 3, micOf 4 fromLead [3, 0]⟩
def leadChal : LeadPacket := ⟨fromLead, .spareDown 2 0x23 [7], micOf 5 fromLead [2, 0x23, 7]⟩
def open' : Frame := aFrameOf false false
def collecting : Frame := aFrameOf true false
def mirrorNew : State := inRole .mirror fun x => { x with frame := some open', newKey := some newKeyOf }
def rekeying : State := inRole .lead fun x => { x with rekeyDue := true }
theorem witness_FramesAndSampling : Running (inRole .lead id) ∧ originDue (inRole .lead id) 0 = true ∧ grantDue (inRole .lead id) = false
    ∧ (isLead (inRole .lead id) && (inRole .lead id).twin.sideB && decide (2 ≤ (rgOf (inRole .lead id) 0).dualRun)) = false
    ∧ radioOut (inRole .lead id) 0 = false ∧ isLead (inRole .mirror id) = false
    ∧ (rgOf (framed .lead open') 0).frame = some open' ∧ mapHops (rgOf (framed .lead open') 0) = 3
    ∧ slotAt 3 2 + 2000 < sinceF (aged (framed .lead open') 202010) open'
    ∧ sinceF (aged (framed .lead open') 370000) open' ≤ slotAt 3 2 + 2000 + packetAir 24
    ∧ windowOpen (aged (framed .lead open') 600000) 0 = true ∧ transmits (framed .lead open') = true
    ∧ (rgOf (framed .lead open') 0).outstanding = [] ∧ (rgOf (framed .lead open') 0).orders = []
    ∧ windowOpen (aged ordered 799990) 0 = true ∧ (rgOf ordered 0).orders = [anOrder] ∧ (rgOf ordered 0).outstanding = []
    ∧ limitReached (framed .lead collecting) 0 = true ∧ transmits (framed .mirror collecting) = false
    ∧ framesRun (inRole .lead id) = true ∧ stampTime (inRole .lead id) (nextStamp (inRole .lead id)) ≤ nowNs (inRole .lead id)
    ∧ (inRole .lead id).sweep.nextNum = 131072 ∧ (inRole .lead id).sweep.fracNext = [] ∧ (inRole .lead id).sweep.hushNext = []
    ∧ (inRole .lead id).sweep.regNext = [] ∧ hasMap (inRole .lead id) 0 = true ∧ (rgOf rekeying 0).rekeyDue = true := by
  unfold Running
  and_intros <;> decide +kernel
/-- A packet whose code holds is accepted, one whose code is another is not. -/
theorem witness_FramesAndSampling_packet : (rgOf (framed .lead collecting) 0).map = some aMap
    ∧ spanNow (framed .lead collecting) 0 collecting = .collection ∧ (aPacket true).hdr.sender = 1 ∧ (aPacket true).counts = some (1, 3)
    ∧ (aPacket true).recs.length < (3 : Byte).toNat ∧ recFits (rgOf (framed .lead collecting) 0) (aNode 2) = true := by
  and_intros <;> decide +kernel
theorem witness_FramesAndSampling_code :
    (airAccept (framed .lead collecting) 0 aMap collecting 3 (aPacket true).hdr (upBody (aPacket true)) (aPacket true).mic).2 = some (took collecting 1)
    ∧ micHolds 0 aMap.key aMap.mapId collecting collecting.fe 3 (aPacket false).hdr (upBody (aPacket false)) (aPacket false).mic = false :=
  ⟨airAccept_new _ _ _ _ _ _ _ _ (by decide +kernel) (beq_self_eq_true _) rfl, by simp [micHolds, aPacket, upBody, aMap, collecting, aFrameOf]⟩
theorem witness_FramesAndSampling_echo :
    (airAccept (framed .lead open') 0 aMap open' 1 anEcho.hdr (beaconBytes anEcho.beacon) anEcho.mic).2 = some (took open' 1) :=
  airAccept_new _ _ _ _ _ _ _ _ (by decide +kernel) (beq_self_eq_true _) rfl
theorem witness_FramesAndSampling_lead :
    (airAccept (framed .mirror collecting) 0 aMap collecting 4 leadAck.hdr [3, 0] leadAck.mic).2 = some (took collecting 0)
    ∧ (airAccept (framed .mirror open') 0 aMap open' 5 leadChal.hdr ([(2 : BitVec 5).setWidth 8, 0x23] ++ [7]) leadChal.mic).2 = some (took open' 0)
    ∧ (airAccept (framed .mirror open') 0 aMap open' 1 fromLead (beaconBytes (aBeacon 4)) (leadBeacon 4).mic).2 = some (took open' 0)
    ∧ (airAccept mirrorNew 0 { aMap with key := newKeyOf } open' 1 fromLead (beaconBytes (aBeacon 2)) (leadBeacon 2).mic).2 = some (took open' 0) :=
  ⟨airAccept_new _ _ _ _ _ _ _ _ (by decide +kernel) (beq_self_eq_true _) rfl, airAccept_new _ _ _ _ _ _ _ _ (by decide +kernel) (beq_self_eq_true _) rfl,
    airAccept_new _ _ _ _ _ _ _ _ (by decide +kernel) (beq_self_eq_true _) rfl, airAccept_new _ _ _ _ _ _ _ _ (by decide +kernel) (beq_self_eq_true _) rfl⟩

theorem witness_FolioCommands_frame : regionClosed { framed .lead open' with folio := { base.folio with busy := .reload 0 131072 none } } 0 131072 = false := by
  decide +kernel
/-- Region 0 on a lead, with 15 or 16 orders waiting; without a map; with a node image, ready or being activated. -/
def wQueue (n : Nat) : State := inRole .lead fun x => { x with orders := List.replicate n anOrder }
def wNoMap : State := inRole .lead fun x => { x with map := none }
def wNfw (step : Nat) (coil : Bool) : State :=
  inRole .lead fun x => { x with re := { x.re with coilN := coil }, nfw := { x.nfw with step := step, ready := [2, 3], back := [2], deadline := 10000000000 } }
theorem witness_NodeOrders : Running (wQueue 15) ∧ regionWriter (wQueue 15) 0 (.host 0) = true ∧ hasRegion (wQueue 15) 0 = true
    ∧ (∀ code ∈ [1, 2, 3, 6, 7, 0x14], hopsOk code 0x1F = true) ∧ hopsOk 4 1 = true ∧ hopsOk 5 1 = true
    ∧ (∀ code ∈ [0x10, 0x11, 0x12, 0x13, 0x15], hopsOk code 2 = true)
    ∧ (0x50000000 : Word).toNat ≤ (0x503FFFC0 : Word).toNat ∧ (0x503FFFC0 : Word).toNat + 64 ≤ 0x50400000
    ∧ (rgOf (wQueue 15) 0).map.isSome = true ∧ (rgOf (wQueue 15) 0).orders.length < 16 ∧ (rgOf (wQueue 15) 0).captures.length < 4
    ∧ (rgOf (wQueue 15) 0).re.coilN = false ∧ 16 ≤ (rgOf (wQueue 16) 0).orders.length ∧ (rgOf wNoMap 0).map = none
    ∧ (rgOf (wQueue 15) 0).tallyAt + 10000000000 ≤ nowNs (wQueue 15) := by
  unfold Running
  and_intros <;> decide +kernel
/-- What a staged node image says is the free constant's to answer (log entry 29); every other hypothesis holds. -/
theorem witness_NodeOrders_firmware : Running (wNfw 0 false) ∧ isOperator (wNfw 0 false) 0 = true ∧ (rgOf (wNfw 0 false) 0).nfw.step = 0
    ∧ (wNfw 0 false).folio.stageLen.toNat = 0 ∧ (rgOf (wNfw 3 false) 0).nfw.step = 3 ∧ (rgOf (wNfw 3 false) 0).re.coilN = false
    ∧ (rgOf (wNfw 3 true) 0).re.coilN = true ∧ (rgOf (wNfw 3 false) 0).spare = none
    ∧ (rgOf (wNfw 4 true) 0).nfw.step = 4 ∧ (rgOf (wNfw 4 true) 0).nfw.deadline ≤ nowNs (wNfw 4 true) := by
  unfold Running
  and_intros <;> decide +kernel
/-- An alarm of hop 2 in the first micro-slot after the close, answers of hop 2 and a capture segment of the head, each with the code
that holds. -/
def anAlarm : AlarmPacket :=
  let p : AlarmPacket := ⟨2, 3, 15, 0⟩
  { p with mic := Config.airMic aMap.key (airNonce 0 (airByte1 false 1) 0xF0 15 131071 1 5) (alarmBody p) }
def shut : Frame := aFrameOf true true
/-- An alarm of another hop and code in the same micro-slot, and the seventh WAKE burst of hop 2, which sleeps under sweep 131000. -/
def alarmOf (hop : BitVec 5) (code : BitVec 3) : AlarmPacket :=
  let p : AlarmPacket := ⟨hop, code, 15, 0⟩
  { p with mic := Config.airMic aMap.key (airNonce 0 (airByte1 false 1) 0xF0 15 131071 1 5) (alarmBody p) }
def aWake : AlarmPacket :=
  let p : AlarmPacket := ⟨2, 6, 7, 0⟩
  { p with mic := Config.airMic aMap.key (airNonce 0 (airByte1 false 2) 0xF0 7 131000 1 5) (alarmBody p) }
def spared (x' : Spare) (f : RegionSt → RegionSt) : State :=
  inRole .lead fun x => f { x with frame := some shut, spare := some x', spareAt := 9994500000 }
def aSpare (body : SpareBody) : SpareUp :=
  let a : SpareUp := ⟨fromHead, 2, body, 0⟩
  { a with mic := micOf 6 fromHead (spareBody a) }
def aReach : ReachAnswer :=
  let a : ReachAnswer := ⟨fromHead, 77, 0⟩
  { a with mic := micOf 0xC fromHead (reachBody 2 a) }
def aKept : KeptPacket :=
  let a : KeptPacket := ⟨fromHead, [⟨131070, aNode 2⟩], 0⟩
  { a with mic := micOf 6 fromHead (keptBody 2 a) }
def aCapture (up : Bool) : Capture := ⟨5, some (⟨5, 0, 0⟩, 9750000000), 131071, [], up, 0, []⟩
def aSegment : CapSegment :=
  let a : CapSegment := ⟨fromHead, 1, 5, 0, [7], 0⟩
  { a with mic := micOf 6 fromHead (segBody a) }
def captured (up : Bool) (at' : Nat) : State := { inRole .lead fun x => { x with frame := some shut, captures := [aCapture up] } with
  time := { base.time with clk := at' } }
/-- The exchange that is due: ranging of hop 2, or what `f` makes due. -/
def wSpare (f : RegionSt → RegionSt) : State := ahead (inRole .lead fun x => f { x with frame := some shut, ranged := true })
def hop2 (f : HopSt → HopSt) : RegionSt → RegionSt := fun x => setHop x 2 f
def wDueList : List (State × Spare) :=
  [(wSpare fun x => { x with ranged := false }, .ranging 2), (wSpare (hop2 fun y => { y with limitsDue := true }), .limits 2),
    (wSpare (hop2 fun y => { y with tallyDue := true }), .tally 2), (wSpare fun x => { x with reachDue := some 2 }, .reach 2),
    (wSpare (hop2 fun y => { y with missed := [131070], keptUntil := some 20000000000 }), .kept 2),
    (wSpare fun x => { x with nfw := { x.nfw with step := 2, toQuery := [2] } }, .fwQuery 2)]
def wAlarm : State := aged (framed .lead shut) 97600000
def asleep1 (burst : Nat) : State := { wAlarm with region := wAlarm.region.set 0 (setHop wAlarm.region[0] 2 fun y => { y with slept := [131000], burst := burst }) }
theorem witness_RegionAir : Running wAlarm ∧ (rgOf wAlarm 0).map = some aMap ∧ (rgOf wAlarm 0).frame = some shut
    ∧ anAlarm.code ≠ 0 ∧ 1 ≤ anAlarm.origin.toNat ∧ anAlarm.origin.toNat ≤ aMap.hops.length
    ∧ (hopAt (rgOf wAlarm 0) 2).watching = false ∧ alarmSlot wAlarm 0 shut = some 15
    ∧ spareReady (wSpare id) 0 = none ∧ (∀ x ∈ wDueList, spareReady x.1 0 = some x.2)
    ∧ spareReady (wSpare fun x => { x with captures := [aCapture true] }) 0 = some (.capture 3)
    ∧ radioOut (wSpare id) 0 = false
    ∧ (rgOf (spared (.limits 2) id) 0).spareAt + 2000000 ≤ nowNs (spared (.limits 2) id)
    ∧ (rgOf (spared (.limits 2) id) 0).spare = some (.limits 2)
    ∧ (rgOf (spared (.reach 2) fun x => { x with reachDue := some 2 }) 0).reachDue = some 2 ∧ mapHops (rgOf (spared (.reach 2) id) 0) = 3
    ∧ (rgOf (spared (.kept 2) id) 0).spare = some (.kept 2) ∧ (rgOf (spared (.kept 2) id) 0).spareAt + (2 + 3) * 1100000 ≤ nowNs (spared (.kept 2) id)
    ∧ uploadDue (captured false 1000000000) 0 = some (aCapture false)
    ∧ (rgOf (captured true 1000000000) 0).captures.find? Capture.uploading = some (aCapture true)
    ∧ aSegment.cap.toNat = (aCapture true).num.toNat % 256 ∧ aSegment.index < segsOf (sectionLen (rgOf (captured true 1000000000) 0) 1)
    ∧ (aCapture true).segs = [] ∧ (rgOf (captured true 1000000000) 0).spare = none
    ∧ sectionsLeft (rgOf (captured true 1000000000) 0) { aCapture true with segs := [(1, 0, [7])] } ≠ []
    ∧ (aCapture true).startAt + 20000000000 ≤ nowNs (captured true 2000000000) := by
  unfold Running
  and_intros <;> decide +kernel
theorem witness_RegionAir_alarms : alarmHolds wAlarm 0 aMap anAlarm = true
    ∧ alarmHolds wAlarm 0 aMap { anAlarm with mic := anAlarm.mic + 1 } = false := by
  have h (p : AlarmPacket) (hs : p.slot = 15) (ho : p.origin = 2) (hc : p.code = 3) :
      alarmHolds wAlarm 0 aMap p = (anAlarm.mic == p.mic) := by
    have a : alarmSlot wAlarm 0 shut = some 15 := by decide +kernel
    have b : (hopList (rgOf wAlarm 0)).filter (heardSender (rgOf wAlarm 0)) = [1] := by decide +kernel
    have c : ∀ (l : List Nat) (q u : Nat → Bool), (l.any fun h => q h && u h) = (l.filter q).any u := fun l q u => List.any_filter.symm
    have f : (rgOf wAlarm 0).frame = some shut := rfl
    have e : alarmMic wAlarm 0 aMap p 1 shut.sweep shut.fe = (anAlarm.mic == p.mic) := by
      unfold alarmMic
      rw [hs]
      have g : alarmBody p = alarmBody anAlarm := by
        have ho' : anAlarm.origin = 2 := rfl
        have hc' : anAlarm.code = 3 := rfl
        unfold alarmBody; rw [ho, hc, ho', hc']
      rw [g]
      rfl
    unfold alarmHolds
    simp only [f, hs]
    rw [c, b]
    simp only [List.any_cons, List.any_nil, Bool.or_false, e, a]
    rfl
  constructor
  · rw [h anAlarm rfl rfl rfl]; exact beq_self_eq_true _
  · rw [h { anAlarm with mic := anAlarm.mic + 1 } rfl rfl rfl]
    have h : ∀ x : Word, (x == x + 1) = false := by simp
    exact h _
theorem witness_RegionAir_codes :
    (airAccept (spared (.rekey 2) id) 0 aMap shut 6 (aSpare .keyConfirm).hdr (spareBody (aSpare .keyConfirm)) (aSpare .keyConfirm).mic).2
      = some (took shut 1)
    ∧ (airAccept (spared (.reach 2) id) 0 aMap shut 0xC aReach.hdr (reachBody 2 aReach) aReach.mic).2 = some (took shut 1)
    ∧ (airAccept (spared (.kept 2) id) 0 aMap shut 6 aKept.hdr (keptBody 2 aKept) aKept.mic).2 = some (took shut 1)
    ∧ (airAccept (captured true 1000000000) 0 aMap shut 6 aSegment.hdr (segBody aSegment) aSegment.mic).2 = some (took shut 1) :=
  ⟨airAccept_new _ _ _ _ _ _ _ _ (by decide +kernel) (beq_self_eq_true _) rfl, airAccept_new _ _ _ _ _ _ _ _ (by decide +kernel) (beq_self_eq_true _) rfl,
    airAccept_new _ _ _ _ _ _ _ _ (by decide +kernel) (beq_self_eq_true _) rfl, airAccept_new _ _ _ _ _ _ _ _ (by decide +kernel) (beq_self_eq_true _) rfl⟩

def wChal (sent n : Nat) (role : Role) : State :=
  inRole role fun x => { x with frame := some shut, chal := some (2, [1], sent, n), spare := some (.collect 2), spareAt := 9994500000 }
def wWanted : State := wSpare fun x => { x with chalDue := [2] }
/-- Hop 2 challenged twice, and due again. -/
def wAgain : State := wSpare fun x => { x with chal := some (2, [], 8000000000, 2) }
/-- The signature in two packets that the head relays, and the same with a code that does not hold. -/
def aSigPart (fc : BitVec 16) (data : List Byte) : AirPart := ⟨⟨false, 1, fc⟩, data, micOf 6 ⟨false, 1, fc⟩ (sigBody 2 data)⟩
def aSigAnswer : List AirPart := [aSigPart 1 [3], aSigPart 2 [4]]
def aBadAnswer : List AirPart := [{ aSigPart 1 [3] with mic := (aSigPart 1 [3]).mic + 1 }, aSigPart 2 [4]]
def aChalReq : CryptoReq := ⟨none, false, 5, 0, 0, 0, [1], [3], 0, .chal 0 2 [1, 2]⟩
def wJudged : State := { inRole .lead id with crypto := [aChalReq] }
def wRound : State := { inRole .lead fun x => { x with chalNext := 4 } with time := { base.time with clk := 2880000000000 } }
/-- Whether a signature holds is the verification's to say (log entry 5); every other hypothesis holds. -/
theorem witness_NodeChallenges : Running wWanted ∧ (rgOf wWanted 0).chal = none ∧ spareReady wWanted 0 = some (.challenge 2)
    ∧ radioOut wWanted 0 = false ∧ spareReady wAgain 0 = some (.challenge 2) ∧ (rgOf wAgain 0).chal = some (2, [], 8000000000, 2)
    ∧ spareReady wRound 0 ≠ some (.challenge 2) ∧ transmits wRound = true ∧ wJudged.crypto = aChalReq :: [] ∧ aChalReq.job = .chal 0 2 [1, 2]
    ∧ partDown wJudged 6 = false ∧ (rgOf (wChal 8000000000 2 .lead) 0).spare = some (.collect 2) ∧ aSigAnswer.length = 2
    ∧ (rgOf (wChal 8000000000 3 .lead) 0).chal = some (2, [1], 8000000000, 3) ∧ (rgOf (wChal 8000000000 3 .lead) 0).map = some aMap
    ∧ aMap.hops[2 - 1]? = some ⟨false, 101, [2], 24, 8, 50⟩ ∧ 8000000000 + 2000000000 ≤ nowNs (wChal 8000000000 3 .lead)
    ∧ nowNs (wChal 8000000001 2 .mirror) < 8000000001 + 2000000000
    ∧ hopPresent (rgOf (wChal 8000000000 2 .lead) 0) 2 = true
    ∧ hopPresent (setHop (rgOf (wChal 8000000000 2 .lead) 0) 2 fun y => { y with absentAt := some 5 }) 2 = false
    ∧ hasMap wRound 0 = true ∧ (rgOf wRound 0).chalAt + wRound.ident.chalInt.toNat * 3600000000000 / max 1 (mapHops (rgOf wRound 0)) ≤ nowNs wRound := by
  unfold Running
  and_intros <;> decide +kernel
/-- Sewing of region 0 at a step. -/
def anAnswer (id : DWord) (rssi : Byte) (head : Bool) : EnrolAnswer := ⟨head, id, if head then 0 else 24, if head then 0 else 8, rssi, false⟩
def sews (role : Role) (coil : Bool) (f : SewSt → SewSt) : State :=
  inRole role fun x => { x with map := none, copyA := some aMap, re := { x.re with coilP := coil }, sew := f { x.sew with draft := some aMap, candHop := 1 } }
/-- The map kept has this signature; whether it holds is the verification's to say (log entry 5). -/
def signed (b : List Byte) (s : State) : State := inR s fun x => { x with copyA := some { aMap with sig := b } }
def shorter : RegionMap := { aMap with hops := aMap.hops.take 2 }
theorem witness_SewingCommands_next : (3 : BitVec 5).toNat = shorter.hops.length + 1 ∧ (3 : BitVec 5) ≠ 0
    ∧ (rgOf (sews .alone false fun w => { w with step := .between, draft := some shorter }) 0).sew.step = .between
    ∧ (rgOf (sews .alone false fun w => { w with step := .between, draft := some shorter }) 0).sew.draft = some shorter := by
  and_intros <;> decide +kernel
theorem witness_SewingCommands : Running (sews .lead false id) ∧ isOperator (sews .lead false id) 0 = true ∧ hasRegion (sews .lead false id) 0 = true
    ∧ isLead (sews .mirror false id) = false ∧ isLead (sews .lead true id) = true ∧ (rgOf (sews .lead true id) 0).re.coilP = true
    ∧ isLead (sews .lead false id) = true ∧ (rgOf (sews .lead false id) 0).re.coilP = false ∧ (rgOf (sews .lead false id) 0).re.coilN = false
    ∧ (rgOf (sews .lead false id) 0).sew.step = .idle ∧ (rgOf (sews .lead false id) 0).sew.draft = some aMap
    ∧ (rgOf (sews .lead false fun w => { w with step := .prompt, cand := some (anAnswer 5 9 true) }) 0).sew.cand = some (anAnswer 5 9 true)
    ∧ strongest [anAnswer 7 7 true, anAnswer 6 8 true] = some (anAnswer 6 8 true) ∧ aMap.hops ≠ [] ∧ (3 : BitVec 5).toNat ≤ aMap.hops.length
    ∧ (rgOf (inRole .alone id) 0).sew.draft = none ∧ (rgOf (inRole .alone id) 0).map = some aMap ∧ isLead (inRole .alone id) = true := by
  unfold Running
  and_intros <;> decide +kernel
def stepped (st : SewStep) (f : SewSt → SewSt) : State := sews .lead false fun w => f { w with step := st, deadline := 10000000000 }
def ackOf (hop : Nat) : Word := Config.airMic aMap.key (airNonce 0 (airByte1 false hop) 0 0 0 0 5) []
def anAck : Word := ackOf 2
def aProof : ChallengeAnswer := ⟨[1], [2, 3], [4], [5]⟩
/-- A proof is the verification's to accept (log entry 5); every other hypothesis holds. -/
theorem witness_SewingSteps : Running (stepped .survey id) ∧ (rgOf (stepped .survey id) 0).sew.step = .survey
    ∧ (rgOf (stepped .survey id) 0).sew.deadline ≤ nowNs (stepped .survey id) ∧ (rgOf (stepped .call id) 0).sew.callAt ≤ nowNs (stepped .call id)
    ∧ (anAnswer 5 9 true).elsewhere = false ∧ (anAnswer 5 9 true).head = true ∧ heldElsewhere (stepped .call id) 0 5 = false
    ∧ (rgOf (stepped .call id) 0).sew.excluded = [] ∧ (rgOf (stepped .call id) 0).sew.answers = [] ∧ (aMap.hops.any fun h => h.idHash == 5) = false
    ∧ strongest [anAnswer 6 8 true] = some (anAnswer 6 8 true) ∧ (rgOf (stepped .call id) 0).sew.deadline ≤ 10000000000 + 5000000000 - 1000000000
    ∧ (rgOf (stepped .challenge fun w => { w with cand := some (anAnswer 5 9 false) }) 0).sew.cand = some (anAnswer 5 9 false)
    ∧ (rgOf (stepped .keySent fun w => { w with candHop := 2 }) 0).sew.candHop ≠ 1 ∧ (rgOf (stepped .keySent id) 0).sew.draft = some aMap
    ∧ (rgOf (stepped .ranging fun w => { w with candHop := 16 }) 0).sew.candHop.toNat < 17
    ∧ 17 ≤ (rgOf (stepped .ranging fun w => { w with candHop := 17 }) 0).sew.candHop.toNat ∧ (rgOf (stepped .ranging id) 0).sew.tail = [] := by
  unfold Running
  and_intros <;> decide +kernel
theorem witness_SewingSteps_ack : Config.airMic aMap.key (airNonce 0 (airByte1 base.twin.sideB (2 : BitVec 5).toNat) 0 0 0 0 aMap.mapId) [] = anAck
    ∧ Config.airMic aMap.key (airNonce 0 (airByte1 base.twin.sideB (2 : BitVec 5).toNat) 0 0 0 0 aMap.mapId) [] ≠ anAck + 1 := by
  refine ⟨rfl, fun h => ?_⟩
  rw [show Config.airMic aMap.key (airNonce 0 (airByte1 base.twin.sideB (2 : BitVec 5).toNat) 0 0 0 0 aMap.mapId) [] = anAck from rfl] at h
  simp at h

/-- The estimator as given; a directory that names a cell state table; a staged capping with a seal. -/
def inEst (f : EstSt → EstSt) : State := { base with est := f base.est }
def aDir (e : EstSt) : EstSt := { e with dir := e.dir.set 0 ⟨1, 0x00180000, 0x50000000⟩ }
def aSealReq : CryptoReq := ⟨none, false, 5, 0, 0, 0, [], [], 0, .seal⟩
def wSeal : State := { inEst (fun e => { e with step := .sealing [1, 2] }) with crypto := [aSealReq] }
def staged (seal' : Bool) : State :=
  let b := bytesLE 4 0x474E5043 ++ [1, 0, 16] ++ List.replicate 33 0 ++ bytesLE 4 528 ++ List.replicate 84 0 ++ bytesLE 4 0x4C414553 ++ List.replicate 396 0
  { base with mem := { base.mem with dram := memWrite [] 0 (if seal' then b else b.take 500) }, est := { base.est with restoreLen := if seal' then 528 else 500 } }
/-- A seal is the verification's to accept (log entry 5); every other hypothesis holds. -/
theorem witness_PublishAndCapping : Running (inEst id) ∧ chipWriter (inEst id) (.host 0) = true ∧ (inEst id).est.building = none
    ∧ (inEst fun e => { aDir e with published := true, pubLast := 5 }).est.published = true ∧ sweepAfterOf 5 5 = false ∧ sweepAfterOf 5 4 = true
    ∧ (dirWith (inEst aDir).est.dir []).toList.any (fun d => dirKind d == 1 && dirInside d) = true
    ∧ (dirWith (inEst id).est.dir []).toList.any (fun d => dirKind d == 1 && dirInside d) = false
    ∧ (inEst fun e => { aDir e with building := some 1, auto := false }).est.building = some 1 ∧ (inEst aDir).est.heldPub = none
    ∧ dirBad (inEst fun e => { e with dirNext := [(7, 2, 1)] }) (dirWith (inEst id).est.dir [(7, 2, 1)]) 7 = false ∧ (inEst id).est.step = .idle
    ∧ (inEst fun e => { e with step := .sealing [1, 2] }).est.step ≠ .idle ∧ wSeal.est.step = .sealing [1, 2] ∧ wSeal.crypto = aSealReq :: []
    ∧ aSealReq.job = .seal ∧ partDown wSeal 6 = false ∧ memWf wSeal.mem.dram = true ∧ rsaServes (inEst id) .seal = false
    ∧ (inEst aDir).est.restore = none ∧ (inEst aDir).twin.estWait = [] ∧ (inEst aDir).twin.xferStep ≠ 1
    ∧ exportDue (inEst fun e => { aDir e with building := some 1, auto := false }) = false
    ∧ (inEst fun e => { e with step := .copying [1, 2] 7 [] }).est.step = .copying [1, 2] 7 [] ∧ memoriesWf wSeal
    ∧ isOperator (staged false) 0 = true ∧ (staged false).folio.busy = .none ∧ poisoned (staged false) 0 500 = false
    ∧ (restoreCheck (staged false) (memRead (staged false).mem.dram 0 500)).1 = 2
    ∧ poisoned { staged true with mem := { (staged true).mem with poison := [3] } } 0 528 = true := by
  unfold Running memoriesWf
  and_intros <;> decide +kernel
/-- The twin block as given, the module's start 120 ms or 190 ms ago. -/
def inTwin (f : TwinSt → TwinSt) : State := { base with twin := f base.twin }
def started (ago : Nat) (f : TwinSt → TwinSt) : State := { inTwin f with power := { base.power with origin := 10000000000 - ago } }
/-- A HELLO; in the tests' reading of the free constants its certificate holds. -/
def aHello (sideB : Bool) (serves : Bool) : Hello := ⟨sideB, if serves then 3 else 0, hashOf [0, 2, 3], serves, false, 7, 131080, 9, [0, 2, 3], [0, 2, 3, 4], [0]⟩
/-- A certificate is the verification's to accept (log entry 5); every other hypothesis holds. -/
theorem witness_TwinAttach : Running (started 120000000 fun x => { x with role := .alone })
    ∧ (started 120000000 fun x => { x with role := .alone }).power.origin + 120000000 ≤ nowNs base
    ∧ ¬(started 119999999 fun x => { x with role := .alone }).power.origin + 120000000 ≤ nowNs base
    ∧ (started 120000000 fun x => { x with role := .alone, peer := 1 }).twin.peer ≠ 0 ∧ (base.twin.peer = 0 ∧ base.twin.result ≠ 0x05)
    ∧ (aHello true true).sideB ≠ base.twin.sideB ∧ (aHello false true).sideB = base.twin.sideB
    ∧ decideLead (started 190000000 fun x => { x with role := .alone }) (aHello true false) = true
    ∧ decideLead (started 190000000 fun x => { x with role := .alone }) (aHello true true) = false
    ∧ (started 190000000 id).power.origin + 190000000 ≤ nowNs base ∧ (started 190000000 id).twin.role = .undecided
    ∧ isLead (inTwin fun x => { x with role := .alone, attaching := true }) = true
    ∧ (inTwin fun x => { x with role := .joining, attaching := true }).twin.role = .joining
    ∧ hbMissing (inTwin fun x => { x with hbAt := 9996500000, edgeAt := 9996500001 }) = true
    ∧ hbStill (inTwin fun x => { x with hbAt := 9996500000, edgeAt := 9996500001 }) = false
    ∧ hbStill (inTwin fun x => { x with hbAt := 9996500001, edgeAt := 9996500000 }) = true
    ∧ hbMissing (inTwin fun x => { x with hbAt := 9996500001, edgeAt := 9996500000 }) = false
    ∧ hbMissing base = true ∧ hbStill base = true ∧ base.twin.grant = none ∧ (∀ w : Worker, (wkOf base w).state ≠ .waiting)
    ∧ holdOut (inTwin fun x => { x with role := .mirror, linkLost := true, linkHold := 10 }) = true := by
  unfold Running
  and_intros <;> decide +kernel
/-- A frame of the session that holds, and one that does not. -/
def hdrOf (type : Nat) : TwinHdr := ⟨base.twin.etypeNow, true, 1, twinTag [] 0 type true 1 [], []⟩
def linked (role : Role) (f : TwinSt → TwinSt) : State := inTwin fun x => f { x with role := role, session := true }
def aDigest (n : Word) (v : Half) : Digest := ⟨n, Vector.replicate 64 0, Vector.replicate 16 0, v, 5⟩
def aRecord : FwdRecord := ⟨0xC801, 0x4001, 9, 77⟩
def aFwd (id ty : Nat) (v : Word) : BitVec 64 := BitVec.ofNat 64 (natAt (fieldBytes id ty v) 0 8)
def orderOf (iso : Bool) : OpenOrder := ⟨0, iso, 5, 0, 7⟩
def aPack (n : Word) : PackRec := ⟨n, 15, 1, 5, ⟨5, 0, 0⟩, 0, Vector.replicate 4 0⟩
def queued1 (s : State) : State := { s with can := s.can.set 1 { s.can[1] with tx := [⟨aFrame, 7, .ctx, false⟩] } }
/-- A map's signature is the verification's to accept (log entry 5); every other hypothesis holds. -/
theorem witness_TwinFrames : Running (linked .lead id) ∧ (linked .lead id).twin.session = true ∧ base.twin.session = false
    ∧ (linked .lead fun x => { x with digOwn := [aDigest 5 0] }).twin.linkLost = false
    ∧ ((linked .lead fun x => { x with digOwn := [aDigest 5 0] }).twin.digOwn.find? fun y => y.sweep == (aDigest 5 0).sweep) = some (aDigest 5 0)
    ∧ aDigest 5 0 ≠ aDigest 5 1 ∧ (linked .joining fun x => { x with afterXfer := true, matchRun := 2 }).twin.matchRun = 2
    ∧ (linked .mirror id).twin.peerRole ≠ 1 ∧ (linked .mirror fun x => { x with peerRole := 1 }).twin.peerRole = 1
    ∧ isOpenable (reOf (inR (linked .mirror id) fun x => { x with re := { x.re with state := .closed } }) 0).state = true
    ∧ isOpenable (reOf (linked .mirror id) 0).state = false ∧ ((reOf (linked .mirror id) 0).passed.find? fun y => y.1 == 7) = none
    ∧ canSleep (linked .lead id) = true ∧ isLead (linked .lead id) = true ∧ isLead (linked .mirror id) = false
    ∧ fieldCheck (linked .lead id) (fieldOf (bytesLE 8 (aFwd 5 1 5).toNat)) true = (5, true, 0)
    ∧ ((canOf (queued1 (linked .mirror id)) 1).tx.find? fun y => frameIdWord y.frame == 5 && y.frame.data == [1, 2]) = some ⟨aFrame, 7, .ctx, false⟩
    ∧ (linked .lead id).recd.queue.length < 4095 ∧ recDegraded (linked .lead id).recd = false ∧ aRecord.code &&& 0xDFFF ≠ 0xD642
    ∧ (wkOf (linked .lead id) 3).state ≠ .waiting ∧ cfgNat (withCfg (linked .mirror id) [(6, 1)]) 6 = 1 ∧ hasRegion (linked .mirror id) 0 = true
    ∧ (rgOf (linked .mirror id) 0).map = none ∧ (linked .lead id).twin.xferBusy = false
    ∧ digestDue { linked .mirror id with sweep := { base.sweep with pack := some (aPack 131071) } } = some (aPack 131071) := by
  unfold Running
  and_intros <;> decide +kernel
theorem witness_TwinFrames_holds (n : Nat) : FrameHolds (linked .lead id) (hdrOf n) n ∧ ¬FrameHolds (linked .lead id) { hdrOf n with ctr := 0 } n :=
  ⟨⟨rfl, rfl, Nat.zero_lt_one, fun h => Bool.noConfusion h, rfl⟩, fun h => Nat.lt_irrefl _ h.2.2.1⟩

/-- A lead with a healthy mirror; the mirror; a module that has yielded. -/
def leads : State := linked .lead fun x => { x with present := true, peerRole := 2 }
def granted' (role : Role) : State := inR { linked role (fun x => { x with grant := some 131072 }) with time := base.time } fun x => { x with map := some aMap }
theorem witness_TwinCommands : Running leads ∧ pairWriter leads (.host 0) = true ∧ canYield leads = true ∧ leads.twin.session = true
    ∧ leads.twin.xferBusy = false ∧ isLead (linked .alone id) = true ∧ canYield (linked .alone id) = false
    ∧ (linked .mirror id).twin.role = .mirror ∧ (linked .yielded fun x => { x with peerRole := 3 }).twin.peerRole = 3
    ∧ (inTwin fun x => { x with role := .yielded }).twin.session = false ∧ isOperator leads 0 = true
    ∧ originDue (granted' .mirror) 0 = true ∧ grantDue (granted' .mirror) = true ∧ (rgOf (granted' .mirror) 0).dualRun < 2
    ∧ originDue (granted' .lead) 0 = true ∧ (granted' .lead).twin.thenRestart = none ∧ (granted' .lead).twin.thenDetach = false
    ∧ (∀ w : Worker, (wkOf (granted' .lead) w).actDue = false) := by
  unfold Running
  and_intros <;> decide +kernel
/-- Three links at 1000BASE-T, PTP as the time source. -/
def inNet (f : NetSt → NetSt) : State := { withCfg base [(6, 0)] with net := f { base.net with link := Vector.replicate 3 0xB } }
def anAnnounce : PtpAnnounce := ⟨0, 0, 7, 128, 6, 0x21, 5, 128, 9, 1, 37⟩
def aSync : PtpSync := ⟨0, 0, 7, 65545999999000, 5, 100⟩
theorem witness_EthernetAndPtp : switchRuns (inNet id) = true ∧ (3 : BitVec 3).toNat < 4 ∧ (inNet id).net.link[(1 : Fin 3)] = 0xB
    ∧ linkUp (inNet id) 1 = true ∧ linkUp base 1 = false ∧ gigabit (inNet id) 0 = true ∧ gigabit (inNet id) 1 = true ∧ (inNet id).net.tcEn = true
    ∧ (inNet fun n => { n with residence := Vector.replicate 2 (some 9) }).net.residence[(0 : Fin 2)] = some 9
    ∧ Running (inNet id) ∧ ptpOn (inNet id) = true ∧ ptpUses (inNet id) 0 = true ∧ (0 : Byte).toNat = ptpDomain (inNet id) ∧ (inNet id).net.masters = []
    ∧ bestMaster [anAnnounce] = some anAnnounce ∧ anAnnounce.sender = aSync.sender ∧ anAnnounce.port = aSync.port
    ∧ (inNet fun n => { n with ptpState := 2 }).net.slavePort = 0 ∧ (inNet id).net.ipNow = 0xC0A80A10
    ∧ bitsOf (inNet fun n => { n with ctrlNow := 0x1B680001 }).net.ctrlNow 1 0 = 1 ∧ bitsOf (inNet id).net.ctrlNow 1 0 ≠ 1 := by
  unfold Running
  and_intros <;> decide +kernel
/-- PTP off or not used, the partition out of service, the link of the slave port and of TWL at another speed. -/
def netOut (s : State) : State := { s with therm := { s.therm with bistOut := 0x20 } }
theorem witness_EthernetAndPtp_out : partDown (netOut (inNet id)) 5 = true ∧ (netOut (inNet id)).therm.bistOut.getLsbD 5 = true
    ∧ (inNet id).therm.bistOut.getLsbD 5 = false ∧ ptpOn (withCfg (inNet id) [(6, 2)]) = false
    ∧ ptpPort (inNet fun n => { n with ptpCtrl := 0x21 }) = 2 ∧ ptpUses (netOut (inNet id)) 0 = false ∧ ptpPower (inNet fun n => { n with ptpCtrl := 0x21 }) = true
    ∧ (inNet id).net.link[(2 : Fin 3)] ≠ (0xA : BitVec 4) ∧ (inNet id).net.link[(0 : Fin 3)] ≠ (0x9 : BitVec 4) ∧ gigabit base 0 = false
    ∧ (inNet id).net.residence[(0 : Fin 2)] = none ∧ bestMaster [] = none ∧ (inNet id).net.ptpState.toNat < 2
    ∧ switchRuns { inNet id with power := { base.power with state := .off } } = false := by
  and_intros <;> decide +kernel
/-- The factory address is a free constant: some destination is not it, and the bridge table of a module just started names none. -/
theorem witness_EthernetAndPtp_bridge : ∃ dst : BitVec 48, dst ≠ Config.mac ∧ (((6 : BitVec 48), (0 : Fin 2), (0 : Nat)) :: []).find? (fun z => z.1 == dst) = none := by
  by_cases h : Config.mac = 8
  · exact ⟨10, by rw [h]; decide, by decide⟩
  · exact ⟨8, fun e => h e.symm, by decide⟩

/-- Sessions of the host as given. -/
def inSess (k : Session) (f : SessSt → SessSt) : State := { base with net := { base.net with sess := base.net.sess.set k (f base.net.sess[k]) } }
def shaking (since : Nat) (trust : Option (Bool × List Byte)) : State :=
  { inSess 1 (fun x => { x with state := .handshake since }) with ident := { base.ident with trust := base.ident.trust.set 15 trust } }
def allTaken : State := { base with net := { base.net with sess := base.net.sess.map fun x => { x with state := .opened } } }
/-- The Ethernet partition out of service, and a VERIFY in the RSA unit's queue. -/
def ethTested (s : State) : State := { s with therm := { s.therm with bistOut := 32 } }
def usbAsked : CryptoReq := ⟨none, false, 0, 0, 0, 0, [], [], 0, .usb⟩
/-- A proof of the USB challenge is the verification's to accept (log entry 5); every other hypothesis holds. -/
theorem witness_HostSessions : Running base ∧ base.power.hostReady = true ∧ (sessOf base (tlsSession 1)).state = .closed
    ∧ (∀ j : Fin 8, j < 1 → (sessOf base (tlsSession j)).state ≠ .closed) ∧ (∀ j : Fin 8, (sessOf allTaken (tlsSession j)).state ≠ .closed)
    ∧ (sessOf (shaking 5000000000 (some (true, [1]))) 1).state = .handshake 5000000000
    ∧ (shaking 5000000000 (some (true, [1]))).ident.trust[(15 : Fin 16)] = some (true, [1])
    ∧ (∀ j : Fin 16, j < 15 → (shaking 5000000000 (some (true, [1]))).ident.trust[j] = none)
    ∧ (∀ j : Fin 16, (shaking 5000000001 none).ident.trust[j] = none)
    ∧ 5000000000 + 5000000000 ≤ nowNs base ∧ nowNs base < 5000000001 + 5000000000
    ∧ (sessOf base 0).state = .opened ∧ (sessOf base 2).state ≠ .opened ∧ (sessOf base 0).lastMsg + 60000000000 ≤ 60000000000
    ∧ (sessOf (inSess 0 fun x => { x with stallSince := some 8000000000 }) 0).stallSince = some 8000000000 ∧ 8000000000 + 2000000000 ≤ nowNs base
    ∧ (sessOf (inSess 8 fun x => { x with state := .closed }) 8).state = .closed ∧ (sessOf base 8).revoked = false ∧ (sessOf base 8).operator = true
    ∧ nowNs { base with time := { base.time with clk := 90000000000 } } = 900000000000 ∧ base.therm.bistOut.getLsbD 5 = false
    ∧ (ethTested base).therm.bistOut.getLsbD 5 ≠ false ∧ rsaFree base = true ∧ rsaFree { inSess 8 id with crypto := [usbAsked] } = false := by
  unfold Running
  and_intros <;> decide +kernel
/-- A session with a descriptor of one line that may write, one of the ring, one of a MONITOR, one that is revoked. -/
def withDesc (f : SessSt → SessSt) : State :=
  inSess 0 fun x => f { x with desc := (x.desc.set 0 (some ⟨true, 0x03FFFFC0, 64⟩)).set 1 (some ⟨false, 0x18000000, 64⟩) }
theorem witness_HostMessages : Running (withDesc id) ∧ (sessOf (withDesc id) 0).state = .opened ∧ (sessOf (withDesc id) 0).revoked = false
    ∧ (sessOf (withDesc id) 0).operator = true ∧ (sessOf (withDesc id) 0).desc[(0 : Fin 4)] = some ⟨true, 0x03FFFFC0, 64⟩
    ∧ 0x03FFFFC0 ≤ 0x23FFFFFC - 0x20000000 ∧ 0x23FFFFFC - 0x20000000 + 4 ≤ 0x03FFFFC0 + 64 ∧ poisoned (withDesc id) 0x03FFFFFC 4 = false
    ∧ (sessOf (withDesc id) 0).desc[(1 : Fin 4)] = some ⟨false, 0x18000000, 64⟩ ∧ (withDesc id).mem.poison = [] ∧ memoriesWf (withDesc id)
    ∧ (withDesc id).folio.busy = .none ∧ (∀ r : Region, (rgOf (withDesc id) r).nfw.step = 0) ∧ (withDesc id).est.restore = none
    ∧ hostMapped 0x90110 = true ∧ winOf 0x90110 = none ∧ structOf (withDesc id) 0x90110 = none ∧ regAcc (withDesc id) 0x90110 ≠ .wo
    ∧ bitsOf (500 : Word) 13 0 = 500 ∧ bitsOf (499 : Word) 13 0 < 500 ∧ hostMapped 0xB0030 = true ∧ hostMapped 0xF0000 = false
    ∧ hostMapped 0x10020 = true ∧ (regAcc (withDesc id) 0x10020 = .ro ∨ regAcc (withDesc id) 0x10020 = .hole)
    ∧ (sessOf (withDesc fun x => { x with revoked := true }) 0).revoked = true ∧ (sessOf base 1).state ≠ .opened
    ∧ 65544 < 4 + 4 * (List.replicate 16386 (1 : Word)).length ∧ (0x07 : Byte).toNat ∈ [0x01, 0x02, 0x03, 0x04, 0x07, 0x08]
    ∧ (0x0B : Byte).toNat ∉ [0x01, 0x02, 0x03, 0x04, 0x07, 0x08] := by
  unfold Running memoriesWf
  and_intros <;> decide +kernel
/-- A register that is written alone and never read. -/
theorem witness_HostMessages_writeOnly : ∃ a : Nat, a % 4 = 0 ∧ a < 0x20000000 ∧ hostMapped a = true ∧ winOf a = none
    ∧ structOf (withDesc id) a = none ∧ regAcc (withDesc id) a = .wo := ⟨0x10040, by decide +kernel⟩

/-- Worker 3 with the scope of region 1, able to issue or stopped: it may not write a register of the chip. -/
def outside (runs : Bool) : State := withK base fun k => { k with scope := 0x4001, state := if runs then .ready else .stopped }
theorem witness_Barred : Running (outside true) ∧ chipWriter (outside true) (.worker 3) = false ∧ pairWriter (outside true) (.worker 3) = false
    ∧ eligible (wkOf (outside true) 3) = true ∧ eligible (wkOf (outside false) 3) = false ∧ chipWriter (outside false) (.worker 3) = false
    ∧ chipWriter base (.worker 3) = true := by
  unfold Running
  and_intros <;> decide +kernel
theorem witness_StepRunsFront : ({ base with pending := [.checkStoreInit, .memZeroDone] } : State).pending = .checkStoreInit :: [.memZeroDone]
    ∧ base.pending = [] ∧ base.power.state ≠ .off := by decide +kernel
theorem witness_StepKeepsMemories : memoriesWf State.reset ∧ ∃ t, step State.reset = .next t := ⟨by unfold memoriesWf; and_intros <;> decide +kernel, _, rfl⟩

/-- Snapshots of the module's event counter: one of worker 3 and one of session 0, each taken at 9 s. -/
def snapped : State := { base with snaps := [⟨.worker 3, 0x108, [(0x108, 1), (0x10C, 0)], 9000000000⟩, ⟨.host 0, 0x108, [(0x108, 1), (0x10C, 0)], 9000000000⟩] }
def regAt (a : Word) : State := withG [(1, a), (2, 0x12345)]
theorem witness_RegistersAndSnapshots : Running base ∧ chipWriter base (.host 0) = true ∧ isOperator base 0 = true ∧ isOperator base 1 = false
    ∧ chipWriter base (.host 1) = false ∧ bitsOf (500 : Word) 13 0 = 500 ∧ bitsOf (10000 : Word) 13 0 = 10000
    ∧ Issues (regAt 0xB0030) 3 ∧ gGet (wkOf (regAt 0xB0030) 3) 1 + (0 : BitVec 16).signExtend 32 = 0xB0030
    ∧ chipOrPair (wkOf (regAt 0xB0030) 3).scope = true ∧ Issues (withK (regAt 0xB0030) fun k => { k with scope := 0x4001 }) 3
    ∧ chipOrPair (wkOf (withK (regAt 0xB0030) fun k => { k with scope := 0x4001 }) 3).scope = false
    ∧ gGet (wkOf (regAt 0x60014) 3) 1 + (0 : BitVec 16).signExtend 32 = 0x60014 ∧ gGet (wkOf (regAt 0x10020) 3) 1 + (0 : BitVec 16).signExtend 32 = 0x10020
    ∧ (gGet (wkOf (regAt 0x0FFFC) 3) 1 + (0 : BitVec 16).signExtend 32).toNat < 0x10000
    ∧ (gGet (wkOf (regAt 0x1FFFFC) 3) 1 + (0 : BitVec 16).signExtend 32).toNat < 0x200000
    ∧ (gGet (wkOf (regAt 0xB0032) 3) 1 + (0 : BitVec 16).signExtend 32).toNat % 4 ≠ 0 := by
  unfold Issues Running
  and_intros <;> decide +kernel
theorem witness_RegistersAndSnapshots_snapshots : (sessOf base 0).state = .opened ∧ winOf 0x108 = none ∧ structOf base 0x108 = some (0x108, 0x10C)
    ∧ winOf 0x10C = none ∧ structOf base 0x10C = some (0x108, 0x10C) ∧ winOf 0x107800 = some (.sweep 15, 0x107800, 0x548)
    ∧ winOf 0x113C10 = some (.cell 0, 0x110000, 0x3C10) ∧ winOf 0x150000 = some (.summary, 0x150000, 0x338)
    ∧ winOf 0x108048 = some (.pack, 0x108000, 0x48) ∧ isRs base 0x10C = false ∧ isRl base 0x108 = false
    ∧ ((snapOf snapped (.host 0) 0x108).any fun p => decide (p.taken + 1000000000 ≤ nowNs snapped)) = true
    ∧ ((snapOf { snapped with time := { base.time with clk := 999999999 } } (.host 0) 0x108).all
        fun p => decide (nowNs { snapped with time := { base.time with clk := 999999999 } } < p.taken + 1000000000)) = true := by
  and_intros <;> decide +kernel
/-- The recorder with a bucket that suppressed two events from 5 s and is full again, an info record and a keep-class record queued. -/
def aRec (n : DWord) (code : Half) : Rec := ⟨n, ⟨65545, 0, 0⟩, code, 0x6000, 7, false⟩
def aBucket (suppressed firstAt since : Nat) : Bucket := ⟨0x0640, 1, since, suppressed, 0x6000, firstAt⟩
def inRec (f : RecorderSt → RecorderSt) : State := { base with recd := f { base.recd with buckets := [aBucket 2 5000000000 5000000000], queue := [aRec 5 0x0640, aRec 6 0x5640] } }
/-- The RSA unit with an attestation or a clear in progress. -/
def anAttest : CryptoReq := ⟨none, false, 5, 0, 0, 0, [1, 2, 3], [], 0, .attest⟩
def aClearReq : CryptoReq := ⟨none, false, 5, 0, 0, 0, [], [], 0, .clear⟩
def clearing (q : CryptoReq) : State := { inRec id with crypto := [q] }
def shown1 : Snap := ⟨.host 0, 0x70200, [(0x70200, 0x20), (0x70208, 5), (0x7020C, 0), (0x70228, 6), (0x7022C, 0)], 9000000000⟩
def late (s : State) : State := { s with time := { s.time with clk := 7000000000 } }
theorem witness_Recorder : Running (inRec id) ∧ (inRec id).mem.trained = true ∧ (inRec id).recd.ringFail = false ∧ (inRec id).recd.durFail = false
    ∧ (inRec id).recd.lostNow = 0 ∧ (inRec id).recd.ring.length ≤ (inRec id).mem.recRing * 32768
    ∧ (inRec id).recd.durable.length + (inRec id).recd.tornSlots + (keepDue (inRec id).recd).length ≤ 196608
    ∧ (keepDue (inRec id).recd).length = 1 ∧ ({ inRec id with mem := { base.mem with trained := false } } : State).mem.trained = false
    ∧ ((inRec id).recd.buckets.find? fun z => z.code == 0x0640 &&& 0xCFFF) = some (aBucket 2 5000000000 5000000000)
    ∧ min (limitOf (inRec id).recd 0x0640).1 (1 + (nowNs (inRec id) * (limitOf (inRec id).recd 0x0640).2 / 1000000000
        - 5000000000 * (limitOf (inRec id).recd 0x0640).2 / 1000000000)) = (limitOf (inRec id).recd 0x0640).1
    ∧ min (limitOf (inRec id).recd 0x0640).1 (1 + (nowNs (inRec id) * (limitOf (inRec id).recd 0x0640).2 / 1000000000
        - 9999000000 * (limitOf (inRec id).recd 0x0640).2 / 1000000000)) ≠ (limitOf (inRec id).recd 0x0640).1
    ∧ 5000000000 + 60000000000 ≤ nowNs (late (inRec id)) ∧ nowNs (inRec id) < 5000000000 + 60000000000
    ∧ ((inRec id).recd.buckets.find? fun z => z.code == 0x0641 &&& 0xCFFF) = none ∧ (inRec id).recd.queue.length < 4096
    ∧ snapOf { inRec id with snaps := [shown1] } (.host 0) (0x70000 + 0x200 * (1 : Fin 4).val) = some shown1 ∧ snapSeqs shown1 1 = [5, 6]
    ∧ (inRec id).recd.ribbons[(1 : Fin 4)].source ≠ 2 ∧ snapOf (inRec id) (.host 0) 0x70200 = none
    ∧ chipWriter (inRec id) (.host 1) = false ∧ chipWriter (inRec id) (.host 0) = true ∧ isOperator (inRec id) 0 = true ∧ isOperator (inRec id) 1 = false
    ∧ rsaAsked (inRec id) .clear = false ∧ rsaFree (inRec id) = true ∧ rsaAsked (clearing aClearReq) .clear = true
    ∧ rsaAsked (clearing anAttest) .clear = false ∧ rsaFree (clearing anAttest) = false ∧ (clearing aClearReq).crypto = aClearReq :: []
    ∧ aClearReq.job = .clear ∧ partDown (clearing aClearReq) 6 = false := by
  unfold Running
  and_intros <;> decide +kernel
/-- A range of DRAM commanded to be zeroed, the scrubber on line 1. -/
def inMem (f : MemSt → MemSt) : State := { base with mem := f { base.mem with recRing := 2, scrubPos := 1, zeroBase := 0x40, zeroLen := 0x80, dram := [(0x3F, 1), (0x40, 2), (0xBF, 3), (0xC0, 4)], poison := [1, 5] } }
theorem witness_MemoryAndScrubber : Running (inMem id) ∧ memoriesWf (inMem id) ∧ chipWriter (inMem id) (.host 0) = true ∧ chipWriter (inMem id) (.host 1) = false
    ∧ (inMem id).mem.zeroing = none ∧ (inMem fun m => { m with zeroing := some (0x40, 0x80) }).mem.zeroing = some (0x40, 0x80)
    ∧ 0x40 + 0x80 ≤ 0x18000000 ∧ (inMem id).mem.recRing = 2 ∧ (inMem id).mem.trained = true ∧ (inMem id).mem.dramOut = false
    ∧ 64 * (inMem id).mem.scrubPos < 0x04000000 ∧ 0x18000000 + (inMem id).mem.recRing * 1048576 ≤ 64 * 58720255
    ∧ ¬(0x17FFFFC0 + 0x80 ≤ 0x18000000 ∨ 0x18000000 + 2 * 1048576 ≤ 0x17FFFFC0) ∧ (inMem fun m => { m with trained := false }).mem.trained = false := by
  unfold Running memoriesWf
  and_intros <;> decide +kernel
/-- A service message: command, argument, a nonce's distance from the one expected, the signature's first byte, the payload. -/
def service (cmd arg : Nat) (off : DWord) (sig : Byte) (b : List Byte) : State :=
  let words : List Word := [0x56435253, BitVec.ofNat 32 (cmd + 256 * arg), (base.ident.nonce + off).setWidth 32, ((base.ident.nonce + off) >>> 32).setWidth 32,
    moduleHash.setWidth 32, (moduleHash >>> 32).setWidth 32, BitVec.ofNat 32 b.length, 0] ++ wordsLE (sha256 b)
  { base with mem := { base.mem with dram := memWrite (memWrite [] 0 [sig]) 0x10000 b }, ident := { base.ident with svcMsg := Vector.ofFn fun i => words.getD i.val 0 } }
def wAttests : State := { service 5 0 0 0 [] with crypto := [anAttest] }
def aService : CryptoReq := ⟨none, false, 5, 0, 0, 0, [], [], 0, .service 0⟩
def wServed : State := { service 1 0 0 0 [1, 2, 3] with crypto := [aService] }
def wQueued : State := { service 1 0 0 0 [1, 2, 3] with crypto := [aClearReq] }
def admitted3 (s : State) : State := { s with net := { s.net with sess := s.net.sess.set 0 { s.net.sess[0] with entry := some 3 } } }
/-- A signature, a key of a certificate and the nonce and hash that the message repeats are the module's own values (log entry 5); every other hypothesis holds. -/
theorem witness_IdentityCommands : Running base ∧ isOperator base 0 = true ∧ isOperator base 1 = false ∧ memoriesWf (service 3 15 0 0 [1, 2, 3])
    ∧ poisoned (service 3 15 0 0 [1, 2, 3]) 0 384 = false ∧ memRead (service 3 15 0 0 [1, 2, 3]).mem.dram 0x10000 3 = [1, 2, 3]
    ∧ folioKeyRefused base.folio = false ∧ folioKeyRefused { base.folio with stA := .trial } = true
    ∧ wAttests.crypto = anAttest :: [] ∧ anAttest.job = .attest ∧ partDown wAttests 6 = false ∧ (∃ x ∈ wAttests.crypto, x.job = .attest)
    ∧ (∀ x ∈ base.crypto, x.job ≠ .attest ∧ ∀ y, x.job ≠ .service y) ∧ rsaFree base = true
    ∧ rsaFree wQueued = false ∧ identBusy wQueued = false ∧ wServed.crypto = aService :: [] ∧ aService.job = .service 0 ∧ partDown wServed 6 = false
    ∧ (sessOf base 0).entry ≠ some (Fin.ofNat 16 3) ∧ (sessOf (admitted3 base) 0).entry = some (Fin.ofNat 16 3) := by
  unfold Running memoriesWf
  and_intros <;> decide +kernel
/-- The module in another state of supply. -/
def inPower (f : PowerSt → PowerSt) : State := { base with power := f base.power }
/-- A folio whose section of workers gives worker 3 START; worker 3 stopped. -/
def startable : State :=
  let s := withK (inPower fun p => { p with workersReady := false, origin := 0 }) fun k => { k with state := .stopped }
  { s with folio := { s.folio with imgA := [(33, 1), (36, 96), (334, 0x80)], lenA := 1024 } }
theorem witness_StartsAndSupplies : (inPower fun p => { p with state := .off }).power.state = .off
    ∧ (inPower fun p => { p with state := .restarting 5, origin := 9960000000 }).power.state = .restarting 5 ∧ 9960000000 + 40000000 ≤ nowNs base
    ∧ nowNs base < 9960000001 + 40000000 ∧ 9950000000 + 50000000 ≤ nowNs base ∧ nowNs base < 9950000001 + 50000000
    ∧ (∀ x : BitVec 4, base.power.state ≠ .restarting x) ∧ (32 : Word).getLsbD (5 : Fin 32).val = true ∧ (16 : Word).getLsbD (5 : Fin 32).val = false
    ∧ hasMap mapped 0 = true ∧ hasMap base 0 = false ∧ Running base ∧ base.recd.durable.length + base.recd.tornSlots < 196608
    ∧ pairWriter base (.host 0) = true ∧ pairWriter base (.host 1) = false ∧ base.twin.grant = none ∧ canYield base = false
    ∧ canYield leads = true ∧ leads.twin.xferBusy = false ∧ (granted' .lead).twin.grant ≠ none ∧ Running startable
    ∧ (leads.twin.role = .lead ∧ healthyMirror leads = true)
    ∧ (healthyMirror (linked .lead fun x => { x with present := true, peerRole := 2, xferBusy := true }) = true)
    ∧ startable.power.workersReady = false ∧ startable.power.origin + 200000000 ≤ 200000000 ∧ startable.folio.noFolio = false
    ∧ (wkOf startable 3).state = .stopped
    ∧ ((workerEntry (sect' (slotBytes startable.folio startable.folio.active) 1) 3).map fun e => (byteAt e 6).testBit 7) = some true := by
  unfold Running
  and_intros <;> decide +kernel
/-- The module with another thermal and self-test state. -/
def inTherm (f : ThermSt → ThermSt) : State := { base with therm := f base.therm }
/-- A test of partition `n` runs; the folio's section of golden values gives partition 2 the value 0x77. -/
def testing (n : Fin 32) : State :=
  { inTherm (fun h => { h with bistBusy := true, bistPart := n }) with folio := { base.folio with imgA := [(65, 1), (69, 1), (272, 0x77)], lenA := 1024 } }
theorem witness_ThrottleSleepSelftest : Running base ∧ base.therm.tripped = false ∧ cfgNat base 0x7003 = 0 ∧ cfgNat (withCfg base [(0x7003, 1)]) 0x7003 ≠ 0
    ∧ (inTherm fun h => { h with tripped := true, graceEnd := some 10000000000 }).therm.graceEnd = some 10000000000 ∧ 10000000000 ≤ nowNs base
    ∧ nowNs base < 10000000001 ∧ pairWriter base (.host 0) = true ∧ pairWriter base (.host 1) = false ∧ base.power.sleepAt = none
    ∧ (∀ c : Chan, (mapOf base c).role = 0 ∨ (chOf base c).drive = 0) ∧ (∀ r : Region, (reOf base r).state = .opened)
    ∧ (reOf (inE mapped fun x => { x with state := .closed }) 0).state = .closed ∧ (∀ r : Region, hasMap base r = false)
    ∧ hasMap mapped 0 = true ∧ (rgOf (inR mapped fun x => { x with closedAt := 10000000000 }) 0).closedAt = 10000000000
    ∧ chipWriter base (.host 0) = true ∧ chipWriter base (.host 1) = false ∧ base.therm.bistBusy = false ∧ (testing 2).therm.bistBusy = true
    ∧ golden (testing 2) 2 = some 0x77 ∧ golden (testing 1) 1 = none ∧ (∀ k : Fin 4, (coreOf base k).inService = true) ∧ base.nReg = 16 := by
  unfold Running
  and_intros <;> decide +kernel

/-! ## Single steps: the expected value of each is the spec's own (a table, a worked example, or reckoned by hand from its rule) -/

/-- What a reader of the next state sees, none where there is no next state. -/
def after {α : Type} (i : Instr) (s : State) (f : State → α) : Option α :=
  match exec i s with
  | .next t => some (f t)
  | _ => none
def regOf (r : GReg) (s : State) : Word := gGet (wkOf s 3) r
/-- Z, N, C and V of worker 3. -/
def zncv (s : State) : Bool × Bool × Bool × Bool := let f := (wkOf s 3).sw; (f.z, f.n, f.c, f.v)

/-- 0x7FFFFFFF + 1 is negative with V and no carry (R105). -/
theorem test_add_overflow : after (.add 3 4 1 2) (withG [(1, 0x7FFFFFFF), (2, 1)]) (fun t => (regOf 4 t, zncv t)) = some (0x80000000, false, true, false, true) := by decide +kernel
/-- 0xFFFFFFFF + 1 is zero with a carry and no overflow (R105). -/
theorem test_add_carry : after (.add 3 1 1 2) (withG [(1, 0xFFFFFFFF), (2, 1)]) (fun t => (regOf 1 t, zncv t)) = some (0, true, false, true, false) := by decide +kernel
/-- C says that no borrow occurs (R105): 1 - 2 borrows. -/
theorem test_sub_borrow : after (.sub 3 4 1 2) (withG [(1, 1), (2, 2)]) (fun t => (regOf 4 t, zncv t)) = some (0xFFFFFFFF, false, true, false, false) := by decide +kernel
theorem test_sub_no_borrow : after (.sub 3 4 1 2) (withG [(1, 2), (2, 2)]) (fun t => (regOf 4 t, zncv t)) = some (0, true, false, true, false) := by decide +kernel
/-- R107: sign fill against zero fill; amounts use the low 5 bits. -/
theorem test_sra : after (.sra 3 4 1 2) (withG [(1, 0x80000000), (2, 33)]) (regOf 4) = some 0xC0000000 := by decide +kernel
theorem test_srl : after (.srl 3 4 1 2) (withG [(1, 0x80000000), (2, 33)]) (regOf 4) = some 0x40000000 := by decide +kernel
theorem test_slt : after (.slt 3 4 1 2) (withG [(1, 0xFFFFFFFF), (2, 1)]) (regOf 4) = some 1 := by decide +kernel
theorem test_sltu : after (.sltu 3 4 1 2) (withG [(1, 0xFFFFFFFF), (2, 1)]) (regOf 4) = some 0 := by decide +kernel
/-- R107: the remainder takes the sign of the dividend, the quotient rounds toward zero. -/
theorem test_div : after (.div 3 4 1 2) (withG [(1, 0xFFFFFFF9), (2, 2)]) (regOf 4) = some 0xFFFFFFFD := by decide +kernel
theorem test_rem : after (.rem 3 4 1 2) (withG [(1, 0xFFFFFFF9), (2, 2)]) (regOf 4) = some 0xFFFFFFFF := by decide +kernel
/-- R108: DIV of 0x80000000 by 0xFFFFFFFF gives 0x80000000 and sets V. -/
theorem test_div_corner : after (.div 3 4 1 2) (withG [(1, 0x80000000), (2, 0xFFFFFFFF)]) (fun t => (regOf 4 t, (wkOf t 3).sw.v)) = some (0x80000000, true) := by decide +kernel
theorem test_clz_zero : after (.clz 3 4 0) base (regOf 4) = some 32 := by decide +kernel
/-- -1 x -1 = 1: the signed high word is 0, the unsigned one 0xFFFFFFFE. -/
theorem test_mulh : after (.mulh 3 4 1 1) (withG [(1, 0xFFFFFFFF)]) (regOf 4) = some 0 := by decide +kernel
theorem test_mulhu : after (.mulhu 3 4 1 1) (withG [(1, 0xFFFFFFFF)]) (regOf 4) = some 0xFFFFFFFE := by decide +kernel
/-- R110: to nearest, ties away from zero: half of the smallest unit, negative. -/
theorem test_qmul_tie : after (.qmul 3 4 1 2) (withG [(1, 0xFFFFFFFF), (2, 0x8000)]) (regOf 4) = some 0xFFFFFFFF := by decide +kernel
theorem test_qdiv : after (.qdiv 3 4 1 2) (withG [(1, 0x00010000), (2, 0x00030000)]) (regOf 4) = some 0x5555 := by decide +kernel
/-- R112: AQ rounds toward negative infinity and saturates. -/
theorem test_aq_floor : after (.aq 3 4 1) (withA base [(1, 0xFFFFFFFFFFFFFFFF)]) (regOf 4) = some 0xFFFFFFFF := by decide +kernel
theorem test_aq_saturates : after (.aq 3 4 1) (withA base [(1, 0x0000800000000000)]) (fun t => (regOf 4 t, (wkOf t 3).sw.sat)) = some (0x7FFFFFFF, true) := by decide +kernel
/-- R113: little-endian scratch, sign extension of a halfword; g5 holds an offset in halfwords. -/
theorem test_ldx_half : after (.ldx 3 4 1 5 .halfS true) (withS (withG [(1, 0x40000000), (5, 3)]) 6 [0x34, 0x82]) (regOf 4) = some 0xFFFF8234 := by decide +kernel
/-- R116: CAS stores and sets Z where the old word equals gd. -/
theorem test_cas : after (.cas 3 4 1 2) (withS (withG [(1, 0x40000000), (2, 9), (4, 5)]) 0 [5]) (fun t => (regOf 4 t, (wkOf t 3).sw.z, memGet (wkOf t 3).scratch 0)) = some (5, true, 9) := by decide +kernel
/-- The worked example of R123: 1,912,345,677.600 s plus 700,000,000 ns. -/
theorem test_tadd : after (.tadd 3 10 4 1) (withA (withG [(4, 1912345677), (5, 0x00030000), (6, 600000000)]) [(1, 700000000)])
    (fun t => (regOf 10 t, regOf 11 t, regOf 12 t)) = some (1912345678, 0x00030000, 300000000) := by decide +kernel
/-- R120: a taken call saves the address after the branch. -/
theorem test_call : after (.bc 3 true 15 0xFFFE) base (fun t => ((wkOf t 3).pc, regOf 31 t)) = some (8, 20) := by decide +kernel

/-- The worked table of R225: hops, cells, sensors, HUSH in microseconds; A and E in microseconds. -/
def shapeMap (h c t : Nat) : RegionMap :=
  ⟨5, 1, 2, 3, 0, 0, [], ⟨true, 100, [1], 0, 0, 0⟩ :: List.replicate (h - 1) ⟨false, 101, [2], c, t, 0⟩, 0, 0, []⟩
def hushed (us : Nat) : State := { base with sweep := { base.sweep with hush := us } }
theorem test_fit_full : (airTime (shapeMap 17 24 8) / 1000, (fitEnd (hushed 500) (shapeMap 17 24 8) + 500) / 1000) = (51372, 80526) := by decide +kernel
theorem test_fit_nine : (airTime (shapeMap 9 24 8) / 1000, (fitEnd (hushed 500) (shapeMap 9 24 8) + 500) / 1000) = (15198, 25342) := by decide +kernel
theorem test_fit_twelve : (airTime (shapeMap 17 12 8) / 1000, (fitEnd (hushed 500) (shapeMap 17 12 8) + 500) / 1000) = (32790, 54964) := by decide +kernel
theorem test_fit_four : (airTime (shapeMap 17 12 4) / 1000, (fitEnd (hushed 500) (shapeMap 17 12 4) + 500) / 1000) = (27516, 47547) := by decide +kernel
theorem test_fit_kessel : (airTime (shapeMap 16 22 4) / 1000, (fitEnd (hushed 1000) (shapeMap 16 22 4) + 500) / 1000) = (39132, 63250) := by decide +kernel

/-- R57: the backward step of 2.400 s is shown with unit microseconds and size -2,400,000. -/
theorem test_step_args : stepArgs (-2400000000) = BitVec.ofNat 32 (1 * 2 ^ 30 + (2 ^ 30 - 2400000)) := by decide +kernel
/-- The worked example of a silent converter: the sixteenth unacknowledged attempt takes TEC from 120 to 128, error-passive. -/
theorem test_can_passive : after (.canTxError 1 (.ack false)) (queued1 (inCan base fun c => { c with state := .active, tec := 120, inTx := some 7 }))
    (fun t => ((canOf t 1).tec, (canOf t 1).state)) = some (128, .passive) := by decide +kernel
theorem test_can_passive_stays : after (.canTxError 1 (.ack false)) (queued1 (inCan base fun c => { c with state := .passive, tec := 128, inTx := some 7 }))
    (fun t => ((canOf t 1).tec, (canOf t 1).state)) = some (128, .passive) := by decide +kernel

/-- The Kessel damper: input 3 of travel class, LIM_LO 0, LIM_HI 12,000. -/
def damper (count : Word) (held : Nat) : State :=
  { base with qp := base.qp.set 3 { base.qp[3] with cfg := 0xC3040000, limLo := 0, limHi := 12000, count := count, held := held, standstill := false } }
theorem test_damper_limit : after (.qpTransition 3 false) (damper 11999 0) (fun t => (t.qp[3].count, t.qp[3].atHi, t.qp[3].held)) = some (12000, true, 0) := by decide +kernel
theorem test_damper_held : after (.qpTransition 3 false) (damper 12000 0) (fun t => (t.qp[3].count, t.qp[3].held)) = some (12000, 1) := by decide +kernel


/-! ## Witnesses of the remaining clauses -/

def dramBusy (s : State) : State := { s with mem := { s.mem with dramOut := true } }
def wDrain : State := { wFlight .drain with cores := wPosted.cores }

theorem witness_DramAccess_waits : Running wDrain ∧ dramHeld wDrain = false ∧ (wkOf wDrain 3).flight = .drain
    ∧ (coreOf wDrain (wkOf wDrain 3).core).storeQ.filter (fun q => q.1 == 3) = [(3, 0x20000000, [1, 2, 3, 4])]
    ∧ poisoned wDrain 0x20000000 4 = false
    ∧ Issues (dramBusy wPosted) 3 ∧ postedBad (dramBusy wPosted) 3 = none ∧ dramHeld (dramBusy wPosted) = true ∧ hasPosted (dramBusy wPosted) 3 = true
    ∧ Issues (lost wPosted 0x800000) 3 ∧ (postedBad (lost wPosted 0x800000) 3).isSome = true := by
  unfold Issues Running
  and_intros <;> decide +kernel
def wDueSlot : State :=
  { withK base fun k => { k with state := .waiting, wait := some (.time ⟨.slot 0, 0, 2, none, some (0, 7, 0)⟩) } with
    slots := State.reset.slots.set 0 (some ⟨3, false, 0, 65536⟩) }
theorem witness_Schedule_late : Issues wPosted 3 ∧ Drains wPosted 3 ∧ hasPosted wPosted 3 = true ∧ Drains wTime 3
    ∧ badTriple (wkOf wTime 3) 2 = false ∧ tripleCount (wkOf wTime 3) 2 ≤ netNs wTime
    ∧ (aGet (wkOf wTime 3) 0).toNat ≤ (tickCount wTime 0).toNat ∧ (tickCount wTime 0).toNat < (aGet (wkOf wTime 3) 2).toNat
    ∧ (∀ v, v ≠ 3 → timeWaitOf (wkOf wDue v) = none)
    ∧ Running wDueSlot ∧ (wkOf wDueSlot 3).state = .waiting
    ∧ (wkOf wDueSlot 3).wait = some (.time ⟨.slot 0, 0, 2, none, some (0, 7, 0)⟩) ∧ reached wDueSlot (.slot 0) = true
    ∧ (∀ v, v ≠ 3 → timeWaitOf (wkOf wDueSlot v) = none) := by
  unfold Issues Running Drains
  and_intros <;> decide +kernel
theorem witness_Periodic_late : Drains wTime 3 ∧ Drains wSlotHeld 3 ∧ Drains wSlotsFull 3
    ∧ (aGet (wkOf wTime 3) 1).toNat ≤ (phaseNow wTime).toNat
    ∧ badTriple (wkOf wTime 3) 2 = false ∧ tripleCount (wkOf wTime 3) 2 ≤ netNs wTime ∧ badTriple (wkOf wTime 3) 4 = true
    ∧ (∀ m : Fin 64, (gGet (wkOf wTime 3) 0).toNat % 128 ≠ m.val + 1)
    ∧ 0 ≤ (phaseNow wSlotHeld).toNat ∧ badTriple (wkOf wSlotsFull 3) 1 = false := by
  unfold Drains
  and_intros <;> decide +kernel
theorem witness_WorkerCommands_halt : Drains (wWorker .ready) 3 ∧ Issues (wWorker .ready) 3 ∧ (wkOf (wWorker .ready) 3).state ≠ .empty := by
  unfold Issues Running Drains
  and_intros <;> decide +kernel
def wUnmapped : State := inR wSweep fun x => { x with map := none }
theorem witness_SweepWaits_targets : Drains wSweep 3 ∧ Drains wVariant 3 ∧ (∃ r : Nat, r < 16
      ∧ ((gGet (wkOf wVariant 3) 1).setWidth 16 : BitVec 16).getLsbD r = true ∧ ¬r < wVariant.nReg)
    ∧ gGet (wkOf wSweep 3) 5 = 0
    ∧ regionReached wSweep 0 (nextTarget wSweep ((gGet (wkOf wSweep 3) 1).setWidth 16)) = false
    ∧ maskMapped wUnmapped ((gGet (wkOf wUnmapped 3) 1).setWidth 16) = [] ∧ Issues wUnmapped 3 ∧ Drains wUnmapped 3
    ∧ badPlace wSweep 3 (.scratch 0x3FF0) 8 = false
    ∧ revtDeliver (withS wSweep 0x3FF0 [7]) 3 7 0 (gGet (wkOf (withS wSweep 0x3FF0 [7]) 3) 4) = none
    ∧ badPlace (withS wSweep 0x3FF0 [7]) 3 (.scratch 0x3FF0) 8 = false := by
  unfold Issues Running Drains
  and_intros <;> decide +kernel
theorem witness_CombLaunches_others : Drains wDone 3 ∧ Drains wAllDone 3
    ∧ gGet (wkOf wDone 3) 1 ≠ 0 ∧ ((wkOf wDone 3).done.find? fun x => x.1 == gGet (wkOf wDone 3) 1) = none
    ∧ gGet (wkOf wDone 3) 1 ∉ (wkOf wDone 3).tickets ∧ gGet (wkOf wDone 3) 0 = 0 ∧ (wkOf wDone 3).tickets ≠ []
    ∧ gGet (wkOf wAllDone 3) 4 ∉ (wkOf wAllDone 3).tickets ∧ wasTicket (wkOf wAllDone 3) 3 (gGet (wkOf wAllDone 3) 4) = false := by
  unfold Drains
  and_intros <;> decide +kernel
theorem witness_ContactorSteps_full :
    ordersFull (inR (wStep 2 .negClosed) fun x => { x with orders := List.replicate 16 anOrder }) 0 = true := by
  decide +kernel
theorem witness_BusAndLog_host : Issues wHosted 3 ∧ Drains wHosted 3 ∧ bufHost (canOf wHosted 1) 2 = true
    ∧ (Fin.ofNat 64 ((gGet (wkOf wHosted 3) 6).toNat / 256 % 256) : Fin 64) = 2 ∧ (gGet (wkOf wHosted 3) 6).getLsbD 16 = false
    ∧ (gGet (wkOf wHosted 3) 4).toNat = 0x40003FA8
    ∧ Drains (wCan .active 0 []) 3 ∧ Drains (wCan .active 0 [⟨aFrame, 9, 5, false, 3⟩]) 3
    ∧ (gGet (wkOf (wCan .active 0 []) 3) 3).getLsbD 16 = true := by
  unfold Issues Running Drains
  and_intros <;> decide +kernel
theorem witness_PairInstructions_yield : Drains wPair 3 ∧ Drains wNoTwin 3 ∧ Drains wNoMail 3 ∧ wNoMail.twin.grant.isSome = true
    ∧ Drains (withK wPair fun k => { k with scope := 0x4001 }) 3
    ∧ ({ wPair with twin := { wPair.twin with role := .mirror } } : State).twin.role ≠ .lead := by
  unfold Drains
  and_intros <;> decide +kernel
theorem witness_Signing_slots : Issues (wCrypto 0x20) 3 ∧ Drains (wCrypto 0x20) 3 ∧ ((gGet (wkOf (wCrypto 0x20) 3) 2).setWidth 8 : Byte) = 0x20
    ∧ (wCrypto 0x20).twin.capKey = none ∧ Drains (wCrypto 1) 3 ∧ Drains (wCrypto 0) 3
    ∧ Issues (withK (wCrypto 1) fun k => { k with scope := 0x4001 }) 3 ∧ Drains (withK (wCrypto 1) fun k => { k with scope := 0x4001 }) 3 := by
  unfold Issues Running Drains
  and_intros <;> decide +kernel

/-- Cut off by the sensor in this very clock, after at least 100 µs; and switched on 99,999 ns ago. -/
def wCut : State := wChan fun x => { x with cmd := 1, dtHold := true, dtCut := some none, dtSince := 10000000000 }
def wFresh : State := wChan fun x => { x with drive := 2, cmd := 1, since := 9999900001 }
def wDrive (cls : Fin 3) (cmd : BitVec 2) (opt : Word) : State := wChan fun x => { x with drive := 2, cls := cls, cmd := cmd, opt := opt }
theorem witness_ChannelProtection_times : (chOf wCut 0).drive = 0 ∧ (chOf wCut 0).dtCut = some none ∧ (chOf wCut 0).dtHold = true
    ∧ (chOf wCut 0).dtSince = nowNs wCut ∧ (chOf wCut 0).since + 10000000 ≤ nowNs wCut
    ∧ nowNs wFresh < (chOf wFresh 0).since + 100000 ∧ (chOf wFresh 0).drive ≠ 0
    ∧ (chOf (wChan fun x => { x with cmd := 1, dtHold := true }) 0).drive = 0 := by
  and_intros <;> decide +kernel
theorem witness_CoilSupplies_duty : (∀ c : Chan, (chOf (wSupply true) c).drive = 0) ∧ (wSupply true).bank.supUv[(0 : Fin 4)] = true
    ∧ (chOf (wDrive 0 1 0x50000) 0).cls = 0 ∧ (chOf (wDrive 0 1 0x50000) 0).opt.toNat / 65536 ≠ 0 ∧ (chOf (wDrive 0 1 0) 0).opt.toNat / 65536 = 0
    ∧ (chOf (wDrive 1 2 0) 0).cls = 1 ∧ (chOf (wDrive 1 2 0) 0).cmd = 2 ∧ (chOf (wDrive 2 2 0) 0).cls = 2 ∧ (chOf (wDrive 2 1 0) 0).cmd ≠ 2
    ∧ (chOf (wDrive 0 1 0) 0).drive ≠ 0 ∧ (chOf (wDrive 0 1 0) 0).drive ≠ 1 ∧ 2400 < (2401 : Half).toNat := by
  and_intros <;> decide +kernel
/-- The host of a pair. -/
def wPairHost : State := { wPort .active id with twin := { base.twin with session := true } }
theorem witness_CanControllers_modes : (wPort .active id).twin.session = false ∧ (canOf (wPort .active id) 1).modeNow = 1
    ∧ (canOf (wPort .active sending) 1).inTx.isSome = true ∧ (canOf (wPort .active id) 1).inTx.isSome = false
    ∧ (canOf (wPort .config fun c => { c with mode := 0, modeNow := 0 }) 1).modeNow ≠ 1
    ∧ (wPort .config fun c => { c with mode := 0, modeNow := 0 }).twin.session = false
    ∧ chipWriter wPairHost (.host 0) = true ∧ wPairHost.twin.session = true
    ∧ wPairHost.sweep.fracNext = [] ∧ wPairHost.sweep.hushNext = [] ∧ wPairHost.sweep.regNext = []
    ∧ sweepReached wPairHost.sweep.nextNum (settingSweep wPairHost) = false := by
  and_intros <;> decide +kernel
theorem witness_FolioCommands_other : (inFolio id).folio.stB ≠ .valid
    ∧ withoutRegion (slotBytes (inFolio fun f => { f with imgA := [(17, 4)], lenA := 32, lenB := 32 }).folio true) 15
      ≠ withoutRegion (slotBytes (inFolio fun f => { f with imgA := [(17, 4)], lenA := 32, lenB := 32 }).folio false) 15
    ∧ ({ base with twin := { base.twin with present := true, folioDiff := true } } : State).twin.folioDiff = true := by
  and_intros <;> decide +kernel
theorem witness_RunSettings_quiet : base.sweep.regNext = [] ∧ nextBegun base = false ∧ (wDueField 8194 1).sweep.regNext = [] := by
  and_intros <;> decide +kernel
def bypassed : State := inRole .mirror fun x => { x with frame := some collecting, bypass := some 2 }
theorem witness_FramesAndSampling_spans : dualLeads (inRole .lead id) = false ∧ (aFrameOf false false).echo = false
    ∧ slotAt 3 2 + 3250 < sinceF (aged (framed .lead open') 600000) open'
    ∧ slotAt 3 2 + 1250 ≤ sinceF (aged (framed .lead open') 203250) open' + 2000 ∧ sinceF (aged (framed .lead open') 203250) open' ≤ slotAt 3 2 + 3250
    ∧ spanNow (aged (framed .lead open') 364000) 0 open' ≠ .collection ∧ open'.sampled = false
    ∧ heardSender (rgOf (framed .lead collecting) 0) 5 = false
    ∧ (rgOf (framed .mirror collecting) 0).bypass = none ∧ (rgOf bypassed 0).bypass = some 2 ∧ collecting.heard = false ∧ collecting.byAcked = false
    ∧ sweepOpen (framed .lead { collecting with sweep := 131072, sampled := false }) 131072 = true := by
  and_intros <;> decide +kernel
theorem witness_FramesAndSampling_outside :
    (airAccept (framed .lead open') 0 aMap open' 3 (aPacket true).hdr (upBody (aPacket true)) (aPacket true).mic).2 = some (took open' 1)
    ∧ (airAccept bypassed 0 aMap collecting 4 leadAck.hdr [3, 0] leadAck.mic).2 = some (took collecting 0) :=
  ⟨airAccept_new _ _ _ _ _ _ _ _ (by decide +kernel) (beq_self_eq_true _) rfl, airAccept_new _ _ _ _ _ _ _ _ (by decide +kernel) (beq_self_eq_true _) rfl⟩

/-- With exactly one hop of hop 2's list asleep, its seventh burst is judged under the sweep of its SLEEP order. -/
theorem wake_holds (n : Nat) : wakeHolds (asleep1 n) 0 aMap aWake = true := by
  have e : alarmMic (asleep1 n) 0 aMap aWake 2 131000 1 = true := beq_self_eq_true aWake.mic
  have l : hopList (rgOf (asleep1 n) 0) = [1, 2, 3] := rfl
  have a : sleptIn (hopAt (rgOf (asleep1 n) 0) 2) = [131000] := rfl
  have b : sleptIn (hopAt (rgOf (asleep1 n) 0) aWake.origin.toNat) = [131000] := rfl
  have f : (rgOf (asleep1 n) 0).frame = some shut := rfl
  have g : shut.fe = 1 := rfl
  have c : aWake.code = 6 := rfl
  simp only [wakeHolds, l, b, f, g, c, List.any_cons, List.any_nil, a, e]
  simp
theorem witness_RegionAir_bursts : wakeHolds (asleep1 0) 0 aMap aWake = true ∧ wakeHolds (asleep1 7) 0 aMap aWake = true
    ∧ (hopAt (rgOf (asleep1 0) 0) 2).burst < aWake.slot.toNat ∧ aWake.slot.toNat ≤ (hopAt (rgOf (asleep1 7) 0) 2).burst
    ∧ wakeHolds wAlarm 0 aMap anAlarm = false ∧ wakeHolds wAlarm 0 aMap (alarmOf 1 1) = false :=
  ⟨wake_holds 0, wake_holds 7, by decide +kernel, by decide +kernel, by decide +kernel, by decide +kernel⟩
theorem witness_RegionAir_times : radioOut wAlarm 0 = false ∧ (rgOf wAlarm 0).captures.length < 4 ∧ (rgOf wAlarm 0).orders.length < 16
    ∧ (alarmOf 1 1).code = 1 ∧ (alarmOf 1 1).origin.toNat = 1
    ∧ 9954000000 + 5 * 1100000 + microTime (spared (.kept 2) id) 0 shut 9954000000 (nowNs base) ≤ nowNs base
    ∧ 9954000000 + 2000000 + microTime (spared (.limits 2) id) 0 shut 9954000000 (nowNs base) ≤ nowNs base
    ∧ (rgOf (spared (.tally 2) id) 0).spare = some (.tally 2) := by
  and_intros <;> decide +kernel
theorem witness_RegionAir_step : alarmHolds wAlarm 0 aMap (alarmOf 1 1) = true := by
  have a : alarmSlot wAlarm 0 shut = some (alarmOf 1 1).slot.toNat := by decide +kernel
  have l : hopList (rgOf wAlarm 0) = [1, 2, 3] := rfl
  have b : heardSender (rgOf wAlarm 0) 1 = true := by decide +kernel
  have f : (rgOf wAlarm 0).frame = some shut := rfl
  have e : alarmMic wAlarm 0 aMap (alarmOf 1 1) 1 shut.sweep shut.fe = true := beq_self_eq_true (alarmOf 1 1).mic
  simp only [alarmHolds, f, l, a, List.any_cons, b, e]
  simp

theorem witness_NodeChallenges_parts :
    (airAccept (wChal 8000000000 2 .lead) 0 aMap shut 6 (aSigPart 1 [3]).hdr (sigBody 2 [3]) (aSigPart 1 [3]).mic).2 = some (took shut 1)
    ∧ (airAccept (wChal 8000000000 2 .lead) 0 aMap shut 6 (aSigPart 1 [3]).hdr (sigBody 2 [3]) ((aSigPart 1 [3]).mic + 1)).2 = none := by
  refine ⟨airAccept_new _ _ _ _ _ _ _ _ (by decide +kernel) (beq_self_eq_true _) rfl, airAccept_bad _ _ _ _ _ _ _ _ ?_⟩
  have h : ∀ x : Word, (x == x + 1) = false := by simp
  exact h _

/-- The RSA unit with an operation in progress. -/
def busy (s : State) : State := { s with crypto := [usbAsked] }
theorem witness_SewingCommands_unit : rsaFree (sews .lead false id) = true ∧ rsaFree (busy (sews .lead false id)) = false
    ∧ (rgOf (sews .lead false fun w => { w with step := .prompt }) 0).sew.step = .prompt ∧ radioOut (sews .lead false id) 0 = false
    ∧ (rgOf (sews .lead false fun w => { w with step := .prompt, draft := some { aMap with hops := [] } }) 0).sew.draft = some { aMap with hops := [] }
    ∧ (rgOf (sews .lead false id) 0).copyA = some aMap ∧ (rgOf (sews .lead false id) 0).selB = false ∧ (rgOf base 0).copyA = none
    ∧ (rgOf (signed [1] (sews .lead false id)) 0).copyA = some { aMap with sig := [1] } := by
  and_intros <;> decide +kernel
theorem witness_SewingSteps_unit : sewAsks (stepped .prompt id) 0 = false ∧ rsaFree (stepped .challenge id) = true ∧ rsaFree (busy (stepped .challenge id)) = false
    ∧ radioOut (stepped .call id) 0 = false
    ∧ (rgOf (stepped .call fun w => { w with answers := [anAnswer 6 8 true], firstAt := 5000000000 }) 0).sew.firstAt = 5000000000
    ∧ (10000000000 - 5000000000) + ((5000000000 - (10000000000 - 5000000000)) / 1000000000 + 1) * 1000000000 ≤ nowNs base
    ∧ (rgOf (stepped .call id) 0).sew.candHop = 1
    ∧ (rgOf (stepped .ranging fun w => { w with tail := [⟨false, 9, [], 24, 8, 0⟩], candHop := 2 }) 0).sew.tail ≠ []
    ∧ (rgOf (stepped .ranging fun w => { w with candHop := 2 }) 0).sew.ranged = none
    ∧ (rgOf (stepped .ranging fun w => { w with candHop := 2, ranged := some 8 }) 0).sew.ranged = some 8 := by
  and_intros <;> decide +kernel
theorem witness_PublishAndCapping_unit : rsaAsked (staged true) .restore = false ∧ rsaFree (staged true) = true ∧ rsaFree (busy (staged true)) = false
    ∧ memoriesWf (inEst fun e => { e with step := .copying [1, 2] 7 [] }) ∧ (staged true).est.step = .idle ∧ (staged true).est.restore = none := by
  unfold memoriesWf
  and_intros <;> decide +kernel
def linkDown : State := started 190000000 fun x => { x with role := .mirror, session := true, linkLost := true }
theorem witness_TwinAttach_hears : linkDown.twin.linkLost = true ∧ linkDown.twin.session = true ∧ linkDown.twin.detached = false ∧ linkDown.twin.role ≠ .standby
    ∧ linkDown.power.origin + 120000000 ≤ nowNs linkDown ∧ rsaFree linkDown = true ∧ rsaFree (busy linkDown) = false
    ∧ (started 119999999 id).twin.session = false ∧ (List.replicate 384 (7 : Byte)).length = 384 ∧ (List.replicate 36 (7 : Byte)).length ≠ 384
    ∧ (inTwin fun x => { x with role := .joining, attaching := true }).twin.retryAt = none
    ∧ (inTwin fun x => { x with role := .joining, session := true, present := true }).twin.joinedXfer = false
    ∧ hbMissing (inTwin fun x => { x with role := .joining, session := true, present := true }) = true
    ∧ cfgNat base 6 ≠ 1 := by
  and_intros <;> decide +kernel
/-- The session's fields of the tests, whatever the rest of the twin block. -/
theorem frame_holds (s : State) (n : Nat) (h1 : s.twin.session = true) (h2 : s.twin.etypeNow = base.twin.etypeNow) (h3 : s.twin.ctrIn = 0)
    (h4 : s.twin.sideB = false) (h5 : s.twin.key = []) (h6 : s.twin.idPeer = 0) : FrameHolds s (hdrOf n) n := by
  refine ⟨h1, h2.symm, ?_, ?_, ?_⟩
  · rw [h3]; exact Nat.zero_lt_one
  · rw [h4]; exact fun h => Bool.noConfusion h
  · rw [h5, h6]; rfl
def wDiverge : State := linked .lead fun x => { x with present := true, peerRole := 2, digOwn := [aDigest 5 1], divRun := 2, mismatch := 2 }
def wJoin : State := linked .joining fun x => { x with digOwn := [aDigest 5 1], afterXfer := true, matchRun := 2, xferBytes := 700 }
def wOut' : State := linked .mirror fun x => { x with linkLost := true, peerRole := 3 }
theorem witness_TwinFrames_states : leadAndMirror wDiverge = true ∧ wDiverge.twin.divRun = 2 ∧ wDiverge.twin.linkLost = false
    ∧ wJoin.twin.role = .joining ∧ wJoin.twin.afterXfer = true ∧ wJoin.twin.matchRun = 2
    ∧ wOut'.twin.linkLost = true ∧ (linked .mirror fun x => { x with peerRole := 3 }).twin.linkLost = false
    ∧ (linked .lead id).twin.afterXfer = false ∧ (linked .lead id).twin.divRun ≠ 2 ∧ (linked .lead id).twin.thenRestart = none
    ∧ (linked .lead fun x => { x with xferBusy := true }).twin.xferBusy = true ∧ base.twin.etypeNow = (hdrOf 2).etype := by
  and_intros <;> decide +kernel
theorem witness_TwinFrames_hold (n : Nat) : FrameHolds wDiverge (hdrOf n) n ∧ FrameHolds wJoin (hdrOf n) n ∧ FrameHolds wOut' (hdrOf n) n
    ∧ FrameHolds (withCfg (linked .mirror id) [(6, 1)]) (hdrOf n) n ∧ FrameHolds (queued1 (linked .mirror id)) (hdrOf n) n
    ∧ FrameHolds (linked .lead fun x => { x with xferBusy := true }) (hdrOf n) n :=
  ⟨frame_holds _ _ rfl rfl rfl rfl rfl rfl, frame_holds _ _ rfl rfl rfl rfl rfl rfl, frame_holds _ _ rfl rfl rfl rfl rfl rfl,
    frame_holds _ _ rfl rfl rfl rfl rfl rfl, frame_holds _ _ rfl rfl rfl rfl rfl rfl, frame_holds _ _ rfl rfl rfl rfl rfl rfl⟩

def twoLeads : State := inR { linked .lead (fun x => { x with sideB := true }) with time := base.time } fun x => { x with map := some aMap, dualRun := 2 }
theorem witness_TwinCommands_leads : originDue twoLeads 0 = true ∧ grantDue twoLeads = false ∧ isLead twoLeads = true ∧ twoLeads.twin.sideB = true
    ∧ dualLeads twoLeads = true ∧ twoLeads.twin.thenRestart = none ∧ twoLeads.twin.thenDetach = false ∧ (∀ w : Worker, (wkOf twoLeads w).actDue = false)
    ∧ dualLeads (granted' .lead) = false ∧ isLead (inTwin fun x => { x with role := .standby }) = false
    ∧ (linked .yielded fun x => { x with peerRole := 2 }).twin.peerRole ≠ 3 ∧ (linked .yielded fun x => { x with peerRole := 2 }).twin.peerRole ≠ 0 := by
  and_intros <;> decide +kernel
theorem witness_HostMessages_unit : (ethTested (withDesc id)).therm.bistOut.getLsbD 5 ≠ false ∧ (withDesc id).therm.bistOut.getLsbD 5 = false
    ∧ rsaAsked { withDesc id with crypto := [⟨none, false, 0, 0, 0, 0, [], [], 0, .restore⟩] } .restore = true ∧ rsaAsked (withDesc id) .restore = false := by
  and_intros <;> decide +kernel
theorem witness_MemoryAndScrubber_held : dramHeld (dramBusy (inMem fun m => { m with zeroing := some (0x40, 0x80) })) = true
    ∧ dramHeld (inMem fun m => { m with zeroing := some (0x40, 0x80) }) = false := by
  and_intros <;> decide +kernel
theorem witness_Barred_pair : chipWriter (withK base fun k => { k with scope := 0x6000 }) (.worker 3) = true
    ∧ pairWriter (withK base fun k => { k with scope := 0x6000 }) (.worker 3) = false := by
  and_intros <;> decide +kernel

end Sys2Proof.Tests
end

/-! # Sitting 1: the memories of every step (O60), and a barred store (O53) -/

namespace Sys2Proof.Machine

/-! ## The memories of a state, and the invariant on them -/

/-- The byte memories of the module: DRAM, the shared tables, the two folio slots and the workers' scratch. -/
structure Mems where
  dram : Mem
  tables : Mem
  imgA : Mem
  imgB : Mem
  scratch : Worker → Mem

/-- The memories out of the fields that hold them. -/
def memsOf (dram tables imgA imgB : Mem) (wk : Vector WorkerSt 160) : Mems :=
  ⟨dram, tables, imgA, imgB, fun w => wk[w].scratch⟩

/-- The memories of a state. -/
def mems (s : State) : Mems := memsOf s.mem.dram s.mem.tables s.folio.imgA s.folio.imgB s.wk

/-- The memories of a state given by its fields: `simp` opens `mems` on an update of fields, and on nothing else. -/
@[simp] theorem mems_mk (pending free nReg cfg power therm arb wheel time ticks canLatch) (wk : Vector WorkerSt 160)
    (cores quantum slots comb crypto region sweep air bank sever din) (folio : FolioSt) (recd) (mem : MemSt)
    (twin can snaps est net ident qp) :
    mems ⟨pending, free, nReg, cfg, power, therm, arb, wheel, time, ticks, canLatch, wk, cores, quantum, slots, comb, crypto, region,
        sweep, air, bank, sever, din, folio, recd, mem, twin, can, snaps, est, net, ident, qp⟩
      = memsOf mem.dram mem.tables folio.imgA folio.imgB wk := rfl

/-- Fields read back from one state are its memories. -/
@[simp] theorem memsOf_fields (s : State) : memsOf s.mem.dram s.mem.tables s.folio.imgA s.folio.imgB s.wk = mems s := rfl

/-- Every one of them is in canonical form. -/
def Mems.Wf (m : Mems) : Prop :=
  memWf m.dram = true ∧ memWf m.tables = true ∧ memWf m.imgA = true ∧ memWf m.imgB = true ∧ ∀ w, memWf (m.scratch w) = true

theorem mems_wf_iff (s : State) : (mems s).Wf ↔ memoriesWf s := Iff.rfl

theorem memsOf_wf_iff (d t a b : Mem) (wk : Vector WorkerSt 160) :
    (memsOf d t a b wk).Wf ↔
      memWf d = true ∧ memWf t = true ∧ memWf a = true ∧ memWf b = true ∧ ∀ w : Worker, memWf wk[w].scratch = true := Iff.rfl

theorem dram_wf {s : State} (h : (mems s).Wf) : memWf s.mem.dram = true := h.1
theorem tables_wf {s : State} (h : (mems s).Wf) : memWf s.mem.tables = true := h.2.1
theorem imgA_wf {s : State} (h : (mems s).Wf) : memWf s.folio.imgA = true := h.2.2.1
theorem imgB_wf {s : State} (h : (mems s).Wf) : memWf s.folio.imgB = true := h.2.2.2.1
theorem scratch_wf {s : State} (h : (mems s).Wf) (w : Worker) : memWf (wkOf s w).scratch = true := h.2.2.2.2 w

@[simp] theorem mems_ite (c : Prop) [Decidable c] (s t : State) : mems (if c then s else t) = if c then mems s else mems t :=
  apply_ite mems c s t

@[simp] theorem wf_ite (c : Prop) [Decidable c] (a b : Mems) : (if c then a else b).Wf ↔ if c then a.Wf else b.Wf := by
  split <;> rfl

/-! ### Updates of workers -/

theorem memsOf_set (d t a b : Mem) (wk : Vector WorkerSt 160) (w : Worker) (k : WorkerSt) (h : k.scratch = wk[w].scratch) :
    memsOf d t a b (wk.set w k) = memsOf d t a b wk := by
  have e : (fun v : Worker => (wk.set w k)[v].scratch) = fun v : Worker => wk[v].scratch := by
    funext v
    by_cases hv : v = w
    · subst hv; simpa using h
    · simp [Fin.getElem_fin, Fin.val_ne_of_ne (Ne.symm hv)]
  unfold memsOf
  rw [e]

@[simp] theorem mems_setWk (s : State) (w : Worker) (k : WorkerSt) (h : k.scratch = (wkOf s w).scratch) : mems (setWk s w k) = mems s :=
  memsOf_set _ _ _ _ _ w k h

@[simp] theorem mems_modWk (s : State) (w : Worker) (f : WorkerSt → WorkerSt) (h : ∀ k, (f k).scratch = k.scratch) :
    mems (modWk s w f) = mems s := mems_setWk s w _ (h _)

@[simp] theorem mems_modMem (s : State) (f : MemSt → MemSt) (hd : ∀ m, (f m).dram = m.dram) (ht : ∀ m, (f m).tables = m.tables) :
    mems (modMem s f) = mems s := by
  rw [← memsOf_fields s, ← hd, ← ht]; rfl

@[simp] theorem mems_modFolio (s : State) (f : FolioSt → FolioSt) (ha : ∀ x, (f x).imgA = x.imgA) (hb : ∀ x, (f x).imgB = x.imgB) :
    mems (modFolio s f) = mems s := by
  rw [← memsOf_fields s, ← ha, ← hb]; rfl

theorem wf_setWk {s : State} (hs : (mems s).Wf) (w : Worker) (k : WorkerSt) (h : memWf k.scratch = true) : (mems (setWk s w k)).Wf := by
  refine ⟨hs.1, hs.2.1, hs.2.2.1, hs.2.2.2.1, fun v => ?_⟩
  show memWf (wkOf (setWk s w k) v).scratch = true
  by_cases hv : v = w
  · subst hv; simpa using h
  · rw [wkOf_setWk_ne s w v k hv]; exact scratch_wf hs v

theorem wf_modWk {s : State} (hs : (mems s).Wf) (w : Worker) (f : WorkerSt → WorkerSt)
    (h : memWf (f (wkOf s w)).scratch = true) : (mems (modWk s w f)).Wf := wf_setWk hs w _ h

theorem wf_modMem {s : State} (hs : (mems s).Wf) (f : MemSt → MemSt) (hd : memWf (f s.mem).dram = true)
    (ht : memWf (f s.mem).tables = true) : (mems (modMem s f)).Wf := ⟨hd, ht, hs.2.2⟩

theorem wf_modFolio {s : State} (hs : (mems s).Wf) (f : FolioSt → FolioSt) (ha : memWf (f s.folio).imgA = true)
    (hb : memWf (f s.folio).imgB = true) : (mems (modFolio s f)).Wf := ⟨hs.1, hs.2.1, ha, hb, hs.2.2.2.2⟩

@[simp] theorem scratch_ite (c : Prop) [Decidable c] (a b : WorkerSt) : (if c then a else b).scratch = if c then a.scratch else b.scratch :=
  apply_ite WorkerSt.scratch c a b

/-! ### Loops -/

@[simp] theorem mems_foldl {α : Type} (l : List α) (f : State → α → State) (s : State) (h : ∀ s x, mems (f s x) = mems s) :
    mems (l.foldl f s) = mems s := by
  induction l generalizing s with
  | nil => rfl
  | cons x l ih => exact (ih _).trans (h s x)

theorem wf_foldl {α : Type} (l : List α) (f : State → α → State) {s : State} (hs : (mems s).Wf)
    (h : ∀ s x, (mems s).Wf → (mems (f s x)).Wf) : (mems (l.foldl f s)).Wf := by
  induction l generalizing s with
  | nil => exact hs
  | cons x l ih => exact ih (h s x hs)

@[simp] theorem mems_forWorkers (s : State) (f : Worker → State → State) (h : ∀ w s, mems (f w s) = mems s) :
    mems (forWorkers s f) = mems s := mems_foldl _ _ _ fun s w => h w s
@[simp] theorem mems_forRegions (s : State) (f : Region → State → State) (h : ∀ r s, mems (f r s) = mems s) :
    mems (forRegions s f) = mems s := mems_foldl _ _ _ fun s r => h r s
@[simp] theorem mems_forChans (s : State) (f : Chan → State → State) (h : ∀ c s, mems (f c s) = mems s) :
    mems (forChans s f) = mems s := mems_foldl _ _ _ fun s c => h c s
theorem wf_forWorkers {s : State} (hs : (mems s).Wf) (f : Worker → State → State) (h : ∀ w s, (mems s).Wf → (mems (f w s)).Wf) :
    (mems (forWorkers s f)).Wf := wf_foldl _ _ hs fun s w => h w s
theorem wf_forRegions {s : State} (hs : (mems s).Wf) (f : Region → State → State) (h : ∀ r s, (mems s).Wf → (mems (f r s)).Wf) :
    (mems (forRegions s f)).Wf := wf_foldl _ _ hs fun s r => h r s

@[simp] theorem mems_forSupply (s : State) (n : Fin 4) (f : Chan → State → State) (h : ∀ c s, mems (f c s) = mems s) :
    mems (forSupply s n f) = mems s := by
  simp [forSupply, h]

/-! ### Pieces of the state -/

@[simp] theorem scratch_addFlags {w : Nat} (k : WorkerSt) (a b : BitVec w) : (addFlags k a b).scratch = k.scratch := rfl
@[simp] theorem scratch_subFlags {w : Nat} (k : WorkerSt) (a b : BitVec w) : (subFlags k a b).scratch = k.scratch := rfl
@[simp] theorem scratch_mulFlags {w : Nat} (k : WorkerSt) (v : BitVec w) (p : Int) : (mulFlags k v p).scratch = k.scratch := rfl

@[simp] theorem imgA_setSlot (f : FolioSt) (b : Bool) (st : SlotState) : (setSlot f b st).imgA = f.imgA := by unfold setSlot; split <;> rfl
@[simp] theorem imgB_setSlot (f : FolioSt) (b : Bool) (st : SlotState) : (setSlot f b st).imgB = f.imgB := by unfold setSlot; split <;> rfl
@[simp] theorem dram_startMem (s : State) (cold : Bool) : (startMem s cold).dram = [] := by unfold startMem; split <;> rfl
@[simp] theorem tables_startMem (s : State) (cold : Bool) : (startMem s cold).tables = [] := by unfold startMem; split <;> rfl

theorem scratch_reset (w : Worker) : State.reset.wk[w].scratch = [] := by
  unfold State.reset
  simp [WorkerSt.init]

/-! ## What each function of the model does to the memories

Three kinds of lemmas, in the order of the model: `mems_f` where `f` leaves every memory as it is, `wf_f` where it can write one
(through `memWrite`, `memClear` or a reset) and then keeps the form, `scratch_f` where it acts on one worker and leaves its scratch. -/

/-! ### Settings (Machine/Settings.lean) -/

@[simp] theorem mems_cfgSet (s : State) (id : Nat) (v : Word) : mems (cfgSet s id v) = mems s := by simp [cfgSet]

/-! ### State operations (Machine/Ops.lean) -/

@[simp] theorem mems_setRg (s : State) (r : Region) (x : RegionSt) : mems (setRg s r x) = mems s := by simp [setRg]
@[simp] theorem mems_modRg (s : State) (r : Region) (f : RegionSt → RegionSt) : mems (modRg s r f) = mems s := by simp [modRg]
@[simp] theorem mems_modRe (s : State) (r : Region) (f : Engine → Engine) : mems (modRe s r f) = mems s := by simp [modRe]
@[simp] theorem mems_setCh (s : State) (c : Chan) (x : ChanSt) : mems (setCh s c x) = mems s := by simp [setCh]
@[simp] theorem mems_modCh (s : State) (c : Chan) (f : ChanSt → ChanSt) : mems (modCh s c f) = mems s := by simp [modCh]
@[simp] theorem mems_modCore (s : State) (k : Fin 4) (f : CoreSt → CoreSt) : mems (modCore s k f) = mems s := by simp [modCore]
@[simp] theorem mems_modCan (s : State) (n : Fin 4) (f : CanSt → CanSt) : mems (modCan s n f) = mems s := by simp [modCan]
@[simp] theorem mems_modTwin (s : State) (f : TwinSt → TwinSt) : mems (modTwin s f) = mems s := by simp [modTwin]
@[simp] theorem mems_modRec (s : State) (f : RecorderSt → RecorderSt) : mems (modRec s f) = mems s := by simp [modRec]
@[simp] theorem mems_twinSend (s : State) (x : TwinOut) : mems (twinSend s x) = mems s := by simp [twinSend]
@[simp] theorem mems_drawFree (s : State) : mems (drawFree s).2 = mems s := by simp [drawFree]
@[simp] theorem mems_number (s : State) : mems (number s) = mems s := by simp [number]
@[simp] theorem mems_recEnter (s : State) (r : Rec) : mems (recEnter s r) = mems s := by simp [recEnter]
@[simp] theorem mems_recPut (s : State) (r : Rec) : mems (recPut s r) = mems s := by simp [recPut]

@[simp] theorem mems_emitCode (s : State) (code scope : Half) (args : Word) (marked : Bool) :
    mems (emitCode s code scope args marked) = mems s := by
  simp [emitCode]

@[simp] theorem mems_wearCheck (s : State) : mems (wearCheck s) = mems s := by simp [wearCheck]

@[simp] theorem mems_emit (s : State) (n level e : Nat) (keep marked : Bool) (scope : Half) (args : Word) :
    mems (emit s n level e keep marked scope args) = mems s := by
  simp [emit]

@[simp] theorem scratch_gSet (k : WorkerSt) (n : GReg) (v : Word) : (gSet k n v).scratch = k.scratch := by simp [gSet]
@[simp] theorem scratch_aSet (k : WorkerSt) (n : AReg) (v : DWord) : (aSet k n v).scratch = k.scratch := by simp [aSet]
@[simp] theorem scratch_flagsZN (k : WorkerSt) (v : Word) : (flagsZN k v).scratch = k.scratch := by simp [flagsZN]
@[simp] theorem scratch_putStatus (k : WorkerSt) (d : GReg) (v : Word) : (putStatus k d v).scratch = k.scratch := by simp [putStatus]
@[simp] theorem scratch_nextPc (k : WorkerSt) : (nextPc k).scratch = k.scratch := by simp [nextPc]
@[simp] theorem scratch_makeReady (k : WorkerSt) : (makeReady k).scratch = k.scratch := by simp [makeReady]

@[simp] theorem scratch_quiesce (k : WorkerSt) : (quiesce k).scratch = k.scratch := by
  unfold quiesce
  split <;> simp

@[simp] theorem scratch_unquiesce (k : WorkerSt) : (unquiesce k).scratch = k.scratch := by simp [unquiesce]
@[simp] theorem scratch_block (k : WorkerSt) (w : Wait) : (block k w).scratch = k.scratch := by simp [block]

theorem wf_revtDeliver {s : State} (hs : (mems s).Wf) (w : Worker) (d : GReg) (r : Region) (addr : Word) (k : WorkerSt)
    (h : revtDeliver s w d r addr = some k) : memWf k.scratch = true := by
  simp only [revtDeliver] at h
  split at h
  · exact (Option.some_ne_none _ h.symm).elim
  · obtain rfl := Option.some.inj h
    simp only [scratch_ite, scratch_putStatus, ite_self]
    exact memWrite_wf _ _ _ (scratch_wf hs w)

@[simp] theorem mems_modSess (s : State) (k : Session) (f : SessSt → SessSt) : mems (modSess s k f) = mems s := by simp [modSess]

@[simp] theorem mems_clampAdd (s : State) (subject given applied : Word) (scope : Half) (source reason : Byte) :
    mems (clampAdd s subject given applied scope source reason) = mems s := by
  simp [clampAdd]

@[simp] theorem mems_clampReg (s : State) (who : Writer) (addr : Nat) (given applied : Word) (reason : Byte) :
    mems (clampReg s who addr given applied reason) = mems s := by
  simp [clampReg]

@[simp] theorem mems_writeSetting (s : State) (who : Writer) (addr id : Nat) (given : Word) :
    mems (writeSetting s who addr id given) = mems s := by
  unfold writeSetting
  split <;> simp

/-! ### Flags (Machine/Flags.lean) -/

@[simp] theorem scratch_putFlags (k : WorkerSt) (z n c v : Bool) : (putFlags k z n c v).scratch = k.scratch := by simp [putFlags]
@[simp] theorem scratch_putV (k : WorkerSt) (v : Bool) : (putV k v).scratch = k.scratch := by simp [putV]
@[simp] theorem scratch_putSat (k : WorkerSt) (sat : Bool) : (putSat k sat).scratch = k.scratch := by simp [putSat]
@[simp] theorem scratch_flagsZN64 (k : WorkerSt) (v : DWord) : (flagsZN64 k v).scratch = k.scratch := by simp [flagsZN64]
@[simp] theorem scratch_plainFlags (k : WorkerSt) (v : Word) : (plainFlags k v).scratch = k.scratch := by simp [plainFlags]

/-! ### Phase wheel, time, ticks (Machine/TimeBase.lean) -/

@[simp] theorem mems_idle (s : State) : mems (idle s) = mems s := by simp [idle]

@[simp] theorem mems_emitTime (s : State) (level e : Nat) (keep marked : Bool) (args : Nat) :
    mems (emitTime s level e keep marked args) = mems s := by
  simp [emitTime]

@[simp] theorem mems_setWheelState (s : State) (n : WheelState) : mems (setWheelState s n) = mems s := by simp [setWheelState]
@[simp] theorem mems_setTimeState (s : State) (n : TimeState) : mems (setTimeState s n) = mems s := by simp [setTimeState]
@[simp] theorem mems_wheelToHold (s : State) : mems (wheelToHold s) = mems s := by simp [wheelToHold]
@[simp] theorem mems_rejectRef (s : State) (msg : Bool) (reason : Nat) : mems (rejectRef s msg reason) = mems s := by simp [rejectRef]

@[simp] theorem mems_acceptRef (s : State) (t : Nat) : mems (acceptRef s t) = mems s := by
  unfold acceptRef
  split <;> simp

@[simp] theorem mems_judgeRef (s : State) (t : Nat) (msg : Bool) : mems (judgeRef s t msg).1 = mems s := by
  unfold judgeRef
  split
  · simp
  · split <;> simp

@[simp] theorem mems_gridsync (s : State) : mems (gridsync s) = mems s := by simp [gridsync]
@[simp] theorem mems_phaseMessage (s : State) (ns : Word) : mems (phaseMessage s ns) = mems s := by simp [phaseMessage]
@[simp] theorem mems_cycleBoundary (s : State) : mems (cycleBoundary s) = mems s := by simp [cycleBoundary]
@[simp] theorem mems_wheelSrcMoved (s : State) : mems (wheelSrcMoved s) = mems s := by simp [wheelSrcMoved]

@[simp] theorem mems_setWheelSrc (s : State) (who : Writer) (src : BitVec 2) : mems (setWheelSrc s who src) = mems s := by
  simp [setWheelSrc]

@[simp] theorem mems_setNominal (s : State) (nominal : Bool) : mems (setNominal s nominal) = mems s := by simp [setNominal]

@[simp] theorem mems_dueEvent (s : State) (w : Worker) (t : TimeWait) (late : Option Nat) : mems (dueEvent s w t late) = mems s := by
  unfold dueEvent
  split <;> simp

@[simp] theorem scratch_releaseTime (k : WorkerSt) (t : TimeWait) (late : Option Nat) (disc : Bool) :
    (releaseTime k t late disc).scratch = k.scratch := by
  unfold releaseTime
  split <;> simp

@[simp] theorem mems_consumeSlot (s : State) (t : Target) : mems (consumeSlot s t) = mems s := by
  unfold consumeSlot
  split <;> simp

@[simp] theorem mems_runAction (s : State) (w : Worker) (t : TimeWait) (late : Option Nat) (disc : Bool) :
    mems (runAction s w t late disc) = mems s := by
  simp [runAction]

@[simp] theorem mems_lateAction (s : State) (w : Worker) (t : TimeWait) (late fraction : Nat) :
    mems (lateAction s w t late fraction) = mems s := by
  unfold lateAction
  split <;> simp

@[simp] theorem mems_dueNow (s : State) (w : Worker) : mems (dueNow s w) = mems s := by
  unfold dueNow
  split <;> simp

@[simp] theorem mems_dueAt (s : State) (n : Nat) : mems (dueAt s n) = mems s := by
  unfold dueAt
  split <;> simp

@[simp] theorem mems_dueBefore (s : State) (n : Nat) : mems (dueBefore s n) = mems s := by simp [dueBefore]

@[simp] theorem mems_actionDue (s : State) (w : Worker) : mems (actionDue s w) = mems s := by
  unfold actionDue
  split <;> simp

@[simp] theorem mems_lateByJump (isTarget : Target → Bool) (w : Worker) (s : State) : mems (lateByJump isTarget w s) = mems s := by
  unfold lateByJump
  split <;> simp

@[simp] theorem mems_storeTime (s : State) : mems (storeTime s) = mems s := by simp [storeTime]
@[simp] theorem mems_timeStep (s : State) (d : Int) : mems (timeStep s d) = mems s := by simp [timeStep]
@[simp] theorem mems_stepLates (s : State) (d : Int) : mems (stepLates s d) = mems s := by simp [stepLates]
@[simp] theorem mems_timeCorrect (s : State) (offset : Int) : mems (timeCorrect s offset) = mems s := by simp [timeCorrect]
@[simp] theorem mems_timeFree (s : State) : mems (timeFree s) = mems s := by simp [timeFree]
@[simp] theorem mems_ptpRestart (s : State) : mems (ptpRestart s) = mems s := by simp [ptpRestart]
@[simp] theorem mems_timeSrcMoved (s : State) : mems (timeSrcMoved s) = mems s := by simp [timeSrcMoved]
@[simp] theorem mems_setTimeSrc (s : State) (who : Writer) (src : BitVec 2) : mems (setTimeSrc s who src) = mems s := by simp [setTimeSrc]
@[simp] theorem mems_timeSetNs (s : State) (who : Writer) (ns : Word) : mems (timeSetNs s who ns) = mems s := by simp [timeSetNs]
@[simp] theorem mems_slewEnd (s : State) : mems (slewEnd s) = mems s := by simp [slewEnd]
@[simp] theorem mems_modTick (s : State) (n : Fin 4) (f : Tick → Tick) : mems (modTick s n f) = mems s := by simp [modTick]
@[simp] theorem mems_tickRebase (s : State) (n : Fin 4) : mems (tickRebase s n) = mems s := by simp [tickRebase]
@[simp] theorem mems_tickEnable (s : State) (n : Fin 4) (en : Bool) : mems (tickEnable s n en) = mems s := by simp [tickEnable]
@[simp] theorem mems_tickSetDiv (s : State) (n : Fin 4) (div : Nat) : mems (tickSetDiv s n div) = mems s := by simp [tickSetDiv]
@[simp] theorem mems_tickSetCmp (s : State) (n : Fin 4) (cmp : DWord) : mems (tickSetCmp s n cmp) = mems s := by simp [tickSetCmp]
@[simp] theorem mems_tickFire (s : State) (n : Fin 4) : mems (tickFire s n) = mems s := by simp [tickFire]
@[simp] theorem mems_tickLoadHi (s : State) (n : Fin 4) (hi : Word) : mems (tickLoadHi s n hi) = mems s := by simp [tickLoadHi]
@[simp] theorem mems_latchSecond (s : State) : mems (latchSecond s) = mems s := by simp [latchSecond]

/-! ### CAN controllers (Machine/Can.lean) -/

@[simp] theorem mems_emitCan (s : State) (n : Fin 4) (level e : Nat) (marked : Bool) (args : Word) :
    mems (emitCan s n level e marked args) = mems s := by
  simp [emitCan]

@[simp] theorem mems_canEnter (s : State) (n : Fin 4) (st : CanState) : mems (canEnter s n st) = mems s := by simp [canEnter]
@[simp] theorem mems_canKick (s : State) (n : Fin 4) : mems (canKick s n) = mems s := by simp [canKick]

@[simp] theorem mems_canApplyMode (s : State) (n : Fin 4) : mems (canApplyMode s n) = mems s := by
  unfold canApplyMode
  dsimp only
  split <;> simp

@[simp] theorem mems_canNext (s : State) (n : Fin 4) : mems (canNext s n) = mems s := by simp [canNext]
@[simp] theorem mems_canYieldBus (s : State) (n : Fin 4) : mems (canYieldBus s n) = mems s := by simp [canYieldBus]

@[simp] theorem mems_canConfine (s : State) (n : Fin 4) : mems (canConfine s n) = mems s := by
  unfold canConfine
  dsimp only
  split <;> simp

@[simp] theorem mems_txPush (s : State) (n : Fin 4) (f : CanFrame) (owner : TxOwner) : mems (txPush s n f owner) = mems s := by
  simp [txPush]

@[simp] theorem mems_txDrop (s : State) (n : Fin 4) (p : TxEntry → Bool) : mems (txDrop s n p) = mems s := by simp [txDrop]

@[simp] theorem mems_txModule (s : State) (n : Fin 4) (f : CanFrame) (owner : TxOwner) : mems (txModule s n f owner) = mems s := by
  unfold txModule
  dsimp only
  (repeat' split) <;> simp

@[simp] theorem mems_sendZero (s : State) (r : Region) (n : Fin 4) (img : List Byte) : mems (sendZero s r n img).1 = mems s := by
  unfold sendZero
  dsimp only
  split <;> simp

@[simp] theorem mems_withdrawZero (s : State) (r : Region) : mems (withdrawZero s r) = mems s := by simp [withdrawZero]

@[simp] theorem mems_ctxBusOff (s : State) (n : Fin 4) : mems (ctxBusOff s n).1 = mems s := by
  unfold ctxBusOff
  split <;> simp

@[simp] theorem mems_ctxQueue (s : State) (n : Fin 4) (f : CanFrame) : mems (ctxQueue s n f).1 = mems s := by
  unfold ctxQueue
  dsimp only
  split <;> simp

@[simp] theorem mems_measureDelay (s : State) (n : Fin 4) (f : CanFrame) : mems (measureDelay s n f) = mems s := by simp [measureDelay]

@[simp] theorem mems_canSent (s : State) (n : Fin 4) (stamp : Word) : mems (canSent s n stamp) = mems s := by
  unfold canSent
  dsimp only
  split
  · simp
  · split <;> simp

@[simp] theorem mems_canTxFail (s : State) (n : Fin 4) (e : CanTxErr) : mems (canTxFail s n e) = mems s := by
  unfold canTxFail
  dsimp only
  (repeat' split) <;> simp

@[simp] theorem wf_crxDeliver {s : State} (hs : (mems s).Wf) (w : Worker) (d : GReg) (addr : Word) (n : Fin 4) (e : RxEntry) :
    (mems (crxDeliver s w d addr n e)).Wf := by
  unfold crxDeliver
  exact wf_modWk (by simpa using hs) w _ (by simpa using memWrite_wf _ _ _ (scratch_wf (s := modCan s n _) (by simpa using hs) w))

@[simp] theorem wf_crxRelease {s : State} (hs : (mems s).Wf) (n : Fin 4) (e : RxEntry) : (mems (crxRelease s n e)).Wf := by
  unfold crxRelease
  split <;> simp [hs]

@[simp] theorem mems_rxLose (s : State) (n : Fin 4) (k : Fin 64) : mems (rxLose s n k) = mems s := by simp [rxLose]

@[simp] theorem wf_rxStore {s : State} (hs : (mems s).Wf) (n : Fin 4) (k : Fin 64) (f : CanFrame) (stamp : Word) :
    (mems (rxStore s n k f stamp)).Wf := by
  simp [rxStore, hs]

@[simp] theorem mems_recLower (s : State) (n : Fin 4) : mems (recLower s n) = mems s := by simp [recLower]

@[simp] theorem wf_canReceive {s : State} (hs : (mems s).Wf) (n : Fin 4) (f : CanFrame) (stamp : Word) :
    (mems (canReceive s n f stamp)).Wf := by
  unfold canReceive
  dsimp only
  (repeat' split) <;> simp [hs]

@[simp] theorem mems_canRxFail (s : State) (n : Fin 4) (e : CanRxErr) : mems (canRxFail s n e) = mems s := by
  unfold canRxFail
  split <;> simp

@[simp] theorem mems_setCanMode (s : State) (who : Writer) (n : Fin 4) (mode : BitVec 4) : mems (setCanMode s who n mode) = mems s := by
  simp [setCanMode]

@[simp] theorem mems_canIntegrate (s : State) (n : Fin 4) : mems (canIntegrate s n) = mems s := by simp [canIntegrate]
@[simp] theorem mems_canStartIntegrating (s : State) (n : Fin 4) : mems (canStartIntegrating s n) = mems s := by simp [canStartIntegrating]

@[simp] theorem mems_setCanBt (s : State) (who : Writer) (n : Fin 4) (dataPhase : Bool) (v : Word) :
    mems (setCanBt s who n dataPhase v) = mems s := by
  simp [setCanBt]

@[simp] theorem mems_canFlushQueue (s : State) (n : Fin 4) : mems (canFlushQueue s n) = mems s := by simp [canFlushQueue]
@[simp] theorem mems_canRecoverNow (s : State) (n : Fin 4) : mems (canRecoverNow s n) = mems s := by simp [canRecoverNow]
@[simp] theorem mems_canRecovered (s : State) (n : Fin 4) : mems (canRecovered s n) = mems s := by simp [canRecovered]
@[simp] theorem mems_canClashEmpty (s : State) (n : Fin 4) : mems (canClashEmpty s n) = mems s := by simp [canClashEmpty]

@[simp] theorem mems_setFilterId (s : State) (n : Fin 4) (f : Fin 64) (v : Word) : mems (setFilterId s n f v) = mems s := by
  simp [setFilterId]

@[simp] theorem mems_canWakeUp (s : State) (n : Fin 4) (cause : CanWakeCause) : mems (canWakeUp s n cause) = mems s := by simp [canWakeUp]

@[simp] theorem mems_canPut (s : State) (who : Writer) (n : Fin 4) (off : Nat) (v : Word) : mems (canPut s who n off v) = mems s := by
  unfold canPut
  split <;> (try split) <;> (try simp) <;> split <;> simp

/-! ### Switch bank (Machine/Bank.lean) -/

@[simp] theorem mems_emitBank (s : State) (level e : Nat) (keep : Bool) (scope : Half) (args : Nat) :
    mems (emitBank s level e keep scope args) = mems s := by
  simp [emitBank]

@[simp] theorem mems_reshape (s : State) (c : Chan) : mems (reshape s c) = mems s := by simp [reshape]
@[simp] theorem mems_reshapeAll (s : State) : mems (reshapeAll s) = mems s := by simp [reshapeAll]
@[simp] theorem mems_switchOn (s : State) (c : Chan) (attempt : Option Nat) : mems (switchOn s c attempt) = mems s := by simp [switchOn]
@[simp] theorem mems_bankUpdate (s : State) (c : Chan) : mems (bankUpdate s c) = mems s := by simp [bankUpdate]
@[simp] theorem mems_bankUpdateAll (s : State) : mems (bankUpdateAll s) = mems s := by simp [bankUpdateAll]
@[simp] theorem mems_setFlags (s : State) (c : Chan) (f : ChanSt → ChanSt) : mems (setFlags s c f) = mems s := by simp [setFlags]
@[simp] theorem mems_cmdOff (s : State) (c : Chan) : mems (cmdOff s c) = mems s := by simp [cmdOff]
@[simp] theorem mems_cmdOn (s : State) (c : Chan) (pwm : Bool) (duty : Half) : mems (cmdOn s c pwm duty) = mems s := by simp [cmdOn]
@[simp] theorem mems_cmdClear (s : State) (c : Chan) : mems (cmdClear s c) = mems s := by simp [cmdClear]

@[simp] theorem mems_bankCmd (s : State) (c : Chan) (cmd : Nat) (duty : Half) : mems (bankCmd s c cmd duty) = mems s := by
  unfold bankCmd
  split <;> simp

@[simp] theorem mems_outTake (s : State) (scope : Half) (issuer : Nat) (c : Chan) (cmd : Nat) (duty : Half) :
    mems (outTake s scope issuer c cmd duty).1 = mems s := by
  unfold outTake
  dsimp only
  split <;> simp

@[simp] theorem mems_outHost (s : State) (c : Chan) (cmd : Nat) (duty : Half) : mems (outHost s c cmd duty) = mems s := by simp [outHost]
@[simp] theorem mems_ocShutoff (s : State) (c : Chan) : mems (ocShutoff s c) = mems s := by simp [ocShutoff]
@[simp] theorem mems_makeAttempt (s : State) (c : Chan) : mems (makeAttempt s c) = mems s := by simp [makeAttempt]
@[simp] theorem mems_retryPauseEnd (s : State) (c : Chan) : mems (retryPauseEnd s c) = mems s := by simp [retryPauseEnd]
@[simp] theorem mems_holdEnds (s : State) (c : Chan) : mems (holdEnds s c) = mems s := by simp [holdEnds]
@[simp] theorem mems_dtTrip (s : State) (c : Chan) : mems (dtTrip s c) = mems s := by simp [dtTrip]
@[simp] theorem mems_dtRelease (s : State) (c : Chan) : mems (dtRelease s c) = mems s := by simp [dtRelease]
@[simp] theorem mems_pullEnds (s : State) (c : Chan) : mems (pullEnds s c) = mems s := by simp [pullEnds]
@[simp] theorem mems_setSupUv (s : State) (n : Fin 4) (uv : Bool) (v : Half) : mems (setSupUv s n uv v) = mems s := by simp [setSupUv]
@[simp] theorem mems_uvOff (s : State) (c : Chan) : mems (uvOff s c) = mems s := by simp [uvOff]
@[simp] theorem mems_setSupV (s : State) (n : Fin 4) (v : Half) : mems (setSupV s n v) = mems s := by simp [setSupV]
@[simp] theorem mems_supplyFalls (s : State) (n : Fin 4) (v : Half) : mems (supplyFalls s n v) = mems s := by simp [supplyFalls]
@[simp] theorem mems_supplyRestores (s : State) (n : Fin 4) (v : Half) : mems (supplyRestores s n v) = mems s := by simp [supplyRestores]
@[simp] theorem mems_keeperRefresh (s : State) : mems (keeperRefresh s) = mems s := by simp [keeperRefresh]
@[simp] theorem mems_keeperExpire (s : State) : mems (keeperExpire s) = mems s := by simp [keeperExpire]

@[simp] theorem mems_raiseExpiry (s : State) (hold : Nat) : mems (raiseExpiry s hold) = mems s := by
  unfold raiseExpiry
  split <;> simp

@[simp] theorem mems_setChOpt (s : State) (who : Writer) (c : Chan) (v : Word) : mems (setChOpt s who c v) = mems s := by simp [setChOpt]

@[simp] theorem mems_bankWrite (s : State) (who : Writer) (off : Nat) (v : Word) : mems (bankWrite s who off v) = mems s := by
  unfold bankWrite
  dsimp only
  (repeat' split) <;> simp

/-! ### Protection (Machine/Protect.lean) -/

@[simp] theorem wf_emitRe {s : State} (hs : (mems s).Wf) (r : Region) (level e : Nat) (keep marked : Bool) (args : Nat) :
    (mems (emitRe s r level e keep marked args)).Wf := by
  unfold emitRe
  refine wf_forWorkers (by simpa using hs) _ fun w s hs => ?_
  split
  · split
    · split
      · next k h => exact wf_setWk hs w _ (by simpa using wf_revtDeliver hs _ _ _ _ _ h)
      · exact hs
    · exact hs
  · exact hs

@[simp] theorem mems_pairSend (s : State) (x : TwinOut) : mems (pairSend s x) = mems s := by simp [pairSend]
@[simp] theorem mems_reEnter (s : State) (r : Region) (st : ReState) : mems (reEnter s r st) = mems s := by simp [reEnter]
@[simp] theorem mems_orderRefused (s : State) (r : Region) (code : Byte) : mems (orderRefused s r code) = mems s := by simp [orderRefused]

@[simp] theorem mems_pushOwnOrder (s : State) (r : Region) (o : Order) (head : Bool) : mems (pushOwnOrder s r o head) = mems s := by
  simp [pushOwnOrder]

@[simp] theorem mems_preStop (s : State) (r : Region) : mems (preStop s r) = mems s := by simp [preStop]

@[simp] theorem wf_stepResult {s : State} (hs : (mems s).Wf) (r : Region) (code : Nat) (ticket : Half) (result : Nat) :
    (mems (stepResult s r code ticket result)).Wf := by
  simp [stepResult, hs]

@[simp] theorem mems_setDetail (s : State) (r : Region) (code : Nat) (ticket : Half) (cause : Nat) :
    mems (setDetail s r code ticket cause) = mems s := by
  simp [setDetail]

@[simp] theorem mems_sendCheckFail (s : State) (r : Region) (ticket : Half) (result : Nat) :
    mems (sendCheckFail s r ticket result) = mems s := by
  simp [sendCheckFail]

@[simp] theorem mems_sendOpen (s : State) (r : Region) (iso : Option Cause) (result : Nat) (ticket : Half) :
    mems (sendOpen s r iso result ticket) = mems s := by
  simp [sendOpen]

@[simp] theorem wf_stepEnd {s : State} (hs : (mems s).Wf) (r : Region) (result cause : Nat) : (mems (stepEnd s r result cause)).Wf := by
  unfold stepEnd
  split <;> simp [hs]

@[simp] theorem wf_overtake {s : State} (hs : (mems s).Wf) (r : Region) : (mems (overtake s r)).Wf := by
  unfold overtake
  split <;> simp [hs]

@[simp] theorem mems_roleCmd (s : State) (r : Region) (role : Nat) (on : Bool) : mems (roleCmd s r role on) = mems s := by simp [roleCmd]

@[simp] theorem wf_closePasses {s : State} (hs : (mems s).Wf) (r : Region) (pos : Bool) : (mems (closePasses s r pos)).Wf := by
  simp [closePasses, hs]

@[simp] theorem wf_auxCheck {s : State} (hs : (mems s).Wf) (r : Region) (pos : Bool) : (mems (auxCheck s r pos)).Wf := by
  unfold auxCheck
  dsimp only
  split
  · simp [hs]
  · split
    · simp [hs]
    · split <;> simp [hs]

@[simp] theorem wf_auxBoth {s : State} (hs : (mems s).Wf) (r : Region) : (mems (auxBoth s r)).Wf := by simp [auxBoth, hs]

@[simp] theorem wf_coilSet {s : State} (hs : (mems s).Wf) (r : Region) (role : Nat) (on : Bool) : (mems (coilSet s r role on)).Wf := by
  unfold coilSet
  split <;> simp [hs]

@[simp] theorem wf_closeCoil {s : State} (hs : (mems s).Wf) (r : Region) (pos : Bool) (ticket : Half) :
    (mems (closeCoil s r pos ticket)).Wf := by
  simp [closeCoil, hs]

@[simp] theorem mems_dropWaits (s : State) (r : Region) : mems (dropWaits s r) = mems s := by simp [dropWaits]
@[simp] theorem mems_weldStart (s : State) (r : Region) (ticket : Half) : mems (weldStart s r ticket) = mems s := by simp [weldStart]
@[simp] theorem wf_switchOff {s : State} (hs : (mems s).Wf) (r : Region) : (mems (switchOff s r)).Wf := by simp [switchOff, hs]
@[simp] theorem wf_negOff {s : State} (hs : (mems s).Wf) (r : Region) : (mems (negOff s r)).Wf := by simp [negOff, hs]
@[simp] theorem mems_isolateNow (s : State) (r : Region) (c : Cause) : mems (isolateNow s r c) = mems s := by simp [isolateNow]
@[simp] theorem mems_isolateLater (s : State) (r : Region) (c : Cause) : mems (isolateLater s r c) = mems s := by simp [isolateLater]

@[simp] theorem mems_isolateOpen (s : State) (r : Region) (iso : Option Cause) : mems (isolateOpen s r iso) = mems s := by
  unfold isolateOpen
  split <;> simp

@[simp] theorem mems_lineFalls (s : State) : mems (lineFalls s) = mems s := by simp [lineFalls]
@[simp] theorem mems_severAssert (s : State) : mems (severAssert s) = mems s := by simp [severAssert]
@[simp] theorem mems_severCmd (s : State) : mems (severCmd s) = mems s := by simp [severCmd]

@[simp] theorem wf_emergency {s : State} (hs : (mems s).Wf) (r : Region) (iso : Option Cause) (ticket : Half) (severs : Bool) :
    (mems (emergency s r iso ticket severs)).Wf := by
  unfold emergency
  split
  · split <;> simp [hs]
  · simp [hs]

@[simp] theorem wf_verdictNote {s : State} (hs : (mems s).Wf) (r : Region) (c : Cause) (sweep : Nat) :
    (mems (verdictNote s r c sweep)).Wf := by
  simp [verdictNote, hs]

@[simp] theorem wf_verdictAct {s : State} (hs : (mems s).Wf) (r : Region) (cs : List Cause) : (mems (verdictAct s r cs)).Wf :=
  wf_foldl _ _ hs fun s c hs => by simp [hs]

@[simp] theorem wf_verdict {s : State} (hs : (mems s).Wf) (r : Region) (c : Cause) (sweep : Nat) : (mems (verdict s r c sweep)).Wf := by
  simp [verdict, hs]

@[simp] theorem wf_sendZeroFrame {s : State} (hs : (mems s).Wf) (r : Region) : (mems (sendZeroFrame s r)).Wf := by simp [sendZeroFrame, hs]

@[simp] theorem wf_planned {s : State} (hs : (mems s).Wf) (r : Region) (limitMs : Nat) (iso : Option Cause) (ticket : Option Half) :
    (mems (planned s r limitMs iso ticket)).Wf := by
  unfold planned
  split
  · split <;> simp [hs]
  · split <;> simp [hs]

@[simp] theorem wf_openingEnds {s : State} (hs : (mems s).Wf) (r : Region) (result : Nat) : (mems (openingEnds s r result)).Wf := by
  simp [openingEnds, hs]

@[simp] theorem wf_p0Open {s : State} (hs : (mems s).Wf) (r : Region) : (mems (p0Open s r)).Wf := by simp [p0Open, hs]

@[simp] theorem wf_takeOpenOrder {s : State} (hs : (mems s).Wf) (o : OpenOrder) : (mems (takeOpenOrder s o)).Wf := by
  unfold takeOpenOrder
  dsimp only
  (repeat' split) <;> simp [hs]

@[simp] theorem wf_peerCheckFails {s : State} (hs : (mems s).Wf) (r : Region) : (mems (peerCheckFails s r)).Wf := by
  simp [peerCheckFails, hs]

@[simp] theorem wf_takeCheckFail {s : State} (hs : (mems s).Wf) (o : OpenOrder) : (mems (takeCheckFail s o)).Wf := by
  unfold takeCheckFail
  split <;> simp [hs]

@[simp] theorem wf_settlePeer {s : State} (hs : (mems s).Wf) (r : Region) (ticket : Half) : (mems (settlePeer s r ticket)).Wf := by
  simp [settlePeer, hs]

@[simp] theorem wf_settlePeers {s : State} (hs : (mems s).Wf) (r : Region) : (mems (settlePeers s r)).Wf :=
  wf_foldl _ _ hs fun s t hs => by simp [hs]

@[simp] theorem wf_severRegion {s : State} (hs : (mems s).Wf) (r : Region) : (mems (severRegion s r)).Wf := by
  unfold severRegion
  dsimp only
  split
  · exact hs
  · split
    · simpa using hs
    · generalize hu : (if (reOf s r).state = .weldCheck then _ else _ : State) = u
      have h : (mems u).Wf := by
        rw [← hu]
        split
        · simpa using hs
        · exact wf_switchOff (wf_overtake (by simpa using hs) r) r
      split <;> simp [h]

@[simp] theorem wf_weldJudge {s : State} (hs : (mems s).Wf) (r : Region) (w : WeldSt) : (mems (weldJudge s r w)).Wf := by
  -- `unfold` would leave the match over its bindings; this opens the definition as it stands.
  rw [show weldJudge = _ by delta weldJudge; rfl]
  extract_lets res s1 s2 s3 e iso
  have h1 : (mems s1).Wf := by simpa [s1] using hs
  have h2 : (mems s2).Wf := by
    unfold s2
    split <;> simp [h1]
  have h3 : (mems s3).Wf := wf_emitRe h2 _ _ _ _ _ _
  split <;> simp [h3]

@[simp] theorem mems_weldFeed (s : State) (r : Region) (origin : Nat) (xs : List HeadSample) : mems (weldFeed s r origin xs) = mems s := by
  simp [weldFeed]

@[simp] theorem wf_relayOff {s : State} (hs : (mems s).Wf) (r : Region) : (mems (relayOff s r)).Wf := by simp [relayOff, hs]

@[simp] theorem wf_preEnds {s : State} (hs : (mems s).Wf) (r : Region) (result cause : Nat) : (mems (preEnds s r result cause)).Wf := by
  simp [preEnds, hs]

@[simp] theorem wf_preFail {s : State} (hs : (mems s).Wf) (r : Region) (result cause : Nat) : (mems (preFail s r result cause)).Wf := by
  simp [preFail, hs]

@[simp] theorem wf_preDone {s : State} (hs : (mems s).Wf) (r : Region) (p : PreSt) : (mems (preDone s r p)).Wf := by simp [preDone, hs]

@[simp] theorem wf_preStart {s : State} (hs : (mems s).Wf) (r : Region) (ticket : Half) : (mems (preStart s r ticket)).Wf := by
  simp [preStart, hs]

@[simp] theorem mems_preCarried (s : State) (r : Region) (sweep : Word) (o : Order) (actAt slotEnd : Nat) :
    mems (preCarried s r sweep o actAt slotEnd) = mems s := by
  simp [preCarried]

@[simp] theorem wf_relayOn {s : State} (hs : (mems s).Wf) (r : Region) : (mems (relayOn s r)).Wf := by simp [relayOn, hs]

@[simp] theorem wf_preClose {s : State} (hs : (mems s).Wf) (r : Region) (first tagged : Bool) (xs : List StreamSample) :
    (mems (preClose s r first tagged xs)).Wf := by
  unfold preClose
  dsimp only
  (repeat' split) <;> simp [hs]

@[simp] theorem wf_posClose {s : State} (hs : (mems s).Wf) (r : Region) (xs : List StreamSample) : (mems (posClose s r xs)).Wf := by
  unfold posClose
  split
  · split <;> simp [hs]
  · simp [hs]

@[simp] theorem wf_posOvertaken {s : State} (hs : (mems s).Wf) (r : Region) : (mems (posOvertaken s r)).Wf := by
  unfold posOvertaken
  split <;> simp [hs]

@[simp] theorem wf_openPre {s : State} (hs : (mems s).Wf) (r : Region) (ticket : Half) : (mems (openPre s r ticket)).Wf := by
  unfold openPre
  refine wf_relayOff (wf_stepResult ?_ _ _ _ _) r
  split
  · exact wf_preEnds hs _ _ _
  · split
    · simp [hs]
    · simpa using hs
    · exact hs

@[simp] theorem wf_currentClose {s : State} (hs : (mems s).Wf) (r : Region) (xs : List HeadSample) : (mems (currentClose s r xs)).Wf := by
  simp [currentClose, hs]

@[simp] theorem wf_restartStep {s : State} (hs : (mems s).Wf) (r : Region) : (mems (restartStep s r)).Wf := by simp [restartStep, hs]

@[simp] theorem wf_ctcClose {s : State} (hs : (mems s).Wf) (r : Region) (code : Nat) (ticket : Half) :
    (mems (ctcClose s r code ticket)).Wf := by
  unfold ctcClose
  split <;> simp [hs]

@[simp] theorem wf_ctcTake {s : State} (hs : (mems s).Wf) (r : Region) (code limitMs : Nat) (ticket : Half) :
    (mems (ctcTake s r code limitMs ticket)).Wf := by
  unfold ctcTake
  split
  · simp [hs]
  · simp [hs]
  · refine wf_emergency (wf_stepResult ?_ _ _ _ _) _ _ _ _
    split <;> simp [hs]
  · simp [wf_stepResult hs, wf_ctcClose hs]

@[simp] theorem mems_i2tStep (s : State) (r : Region) (at' : Nat) (h : HeadRec) : mems (i2tStep s r at' h) = mems s := by simp [i2tStep]
@[simp] theorem mems_raise (s : State) (r : Region) (k : Nat) : mems (raise s r k) = mems s := by simp [raise]

theorem wf_floorCount (r : Region) (sweep new : Nat) (x : State × List Cause) (k : Fin 6) (hx : (mems x.1).Wf) :
    (mems (floorCount r sweep new x k).1).Wf := by
  unfold floorCount
  dsimp only
  (repeat' split) <;> simp [hx]

@[simp] theorem wf_floorCounts {s : State} (hs : (mems s).Wf) (r : Region) (sweep before now : Nat) :
    (mems (floorCounts s r sweep before now).1).Wf := by
  unfold floorCounts
  exact List.foldlRecOn (motive := fun x : State × List Cause => (mems x.1).Wf) _ _ hs fun x hx k _ => wf_floorCount r sweep _ x k hx

@[simp] theorem wf_floorPacket {s : State} (hs : (mems s).Wf) (r : Region) (sweep before now : Nat) :
    (mems (floorPacket s r sweep before now)).Wf := by
  simp [floorPacket, hs]

@[simp] theorem mems_floorClose (s : State) (r : Region) (viol judged : Nat) (inc : Bool) :
    mems (floorClose s r viol judged inc) = mems s := by
  simp [floorClose]

@[simp] theorem mems_fastTrip (s : State) (raw : Word) : mems (fastTrip s raw) = mems s := by simp [fastTrip]
@[simp] theorem mems_severRelease (s : State) : mems (severRelease s) = mems s := by simp [severRelease]
@[simp] theorem mems_severClear (s : State) : mems (severClear s) = mems s := by simp [severClear]

@[simp] theorem wf_severObserved {s : State} (hs : (mems s).Wf) : (mems (severObserved s)).Wf := by
  unfold severObserved
  dsimp only
  split
  · exact wf_forRegions (by simp [hs]) _ fun r s hs => by simp [hs]
  · simp [hs]

@[simp] theorem mems_severRises (s : State) : mems (severRises s) = mems s := by simp [severRises]

@[simp] theorem wf_adoptRegion {s : State} (hs : (mems s).Wf) (r : Region) : (mems (adoptRegion s r)).Wf := by
  unfold adoptRegion
  dsimp only
  split
  · simpa using hs
  · simpa using hs
  · simp [hs]
  · simpa using hs
  · simpa using hs
  · simp only [mems_isolateNow]
    exact wf_coilSet (wf_coilSet (wf_coilSet (by simpa using hs) _ _ _) _ _ _) _ _ _

@[simp] theorem wf_setAux {s : State} (hs : (mems s).Wf) (who : Writer) (r : Region) (v : Word) : (mems (setAux s who r v)).Wf := by
  simp [setAux, hs]

@[simp] theorem mems_reWrite (s : State) (r : Region) (off : Nat) (v : Word) : mems (reWrite s r off v) = mems s := by simp [reWrite]

@[simp] theorem mems_severWrite (s : State) (v : Word) : mems (severWrite s v) = mems s := by
  unfold severWrite
  split <;> simp

@[simp] theorem wf_dinChange {s : State} (hs : (mems s).Wf) (n : Fin 32) (level : Bool) : (mems (dinChange s n level)).Wf := by
  unfold dinChange
  split
  · exact hs
  · exact wf_forRegions (by simpa using hs) _ fun r s hs => wf_settlePeers (wf_auxBoth hs _) _

@[simp] theorem wf_pullConfirms {s : State} (hs : (mems s).Wf) (c : Chan) : (mems (pullConfirms s c)).Wf := by
  unfold pullConfirms
  split
  · simp [hs]
  · split <;> simp [hs]

/-! ### Frames and the hand-over (Machine/Frames.lean) -/

@[simp] theorem mems_yieldStart (s : State) : mems (yieldStart s) = mems s := by simp [yieldStart]

/-! ### Operands (Machine/Operands.lean) -/

@[simp] theorem scratch_putTriple (k : WorkerSt) (n : TReg) (sec : Nat) (epoch : Half) (ns : Nat) :
    (putTriple k n sec epoch ns).scratch = k.scratch := by
  simp [putTriple]

/-! ### Workers and cores (Machine/Worker.lean) -/

@[simp] theorem wf_dramPut {s : State} (hs : (mems s).Wf) (off : Nat) (b : List Byte) : (mems (dramPut s off b)).Wf := by
  unfold dramPut
  split
  · exact hs
  · exact wf_modMem hs _ (memWrite_wf _ _ _ (dram_wf hs)) (tables_wf hs)

@[simp] theorem wf_drainWorker {s : State} (hs : (mems s).Wf) (w : Worker) : (mems (drainWorker s w)).Wf := by
  unfold drainWorker
  exact wf_foldl _ _ (by simpa using hs) fun s x hs => wf_dramPut hs _ _

@[simp] theorem mems_freeSlots (s : State) (w : Worker) : mems (freeSlots s w) = mems s := by simp [freeSlots]
@[simp] theorem mems_loseQuantum (s : State) (w : Worker) : mems (loseQuantum s w) = mems s := by simp [loseQuantum]
@[simp] theorem mems_dropSnaps (s : State) (rd : Reader) : mems (dropSnaps s rd) = mems s := by simp [dropSnaps]

@[simp] theorem wf_leaveWorker {s : State} (hs : (mems s).Wf) (w : Worker) (st : WkState) : (mems (leaveWorker s w st)).Wf := by
  simp [leaveWorker, hs]

@[simp] theorem mems_moveTo (s : State) (w : Worker) (c : Fin 4) : mems (moveTo s w c) = mems s := by simp [moveTo]
@[simp] theorem wf_goHome {s : State} (hs : (mems s).Wf) (w : Worker) : (mems (goHome s w)).Wf := by simp [goHome, hs]

@[simp] theorem wf_finalTrap {s : State} (hs : (mems s).Wf) (w : Worker) : (mems (finalTrap s w)).Wf := by
  unfold finalTrap
  dsimp only
  split
  · split
    · exact wf_forRegions hs _ fun r s hs => by split <;> simp [hs]
    · split <;> simp [hs]
  · exact hs

@[simp] theorem wf_trapAction {s : State} (hs : (mems s).Wf) (w : Worker) : (mems (trapAction s w)).Wf := by simp [trapAction, hs]

@[simp] theorem wf_trapWorker {s : State} (hs : (mems s).Wf) (w : Worker) (cause : Byte) (addr : Word) :
    (mems (trapWorker s w cause addr)).Wf := by
  simp [trapWorker, hs]

@[simp] theorem wf_settleTraps {s : State} (hs : (mems s).Wf) : (mems (settleTraps s)).Wf := by
  refine wf_forWorkers hs _ fun w s hs => ?_
  split <;> simp [hs]

@[simp] theorem mems_takeCore (s : State) (w : Worker) : mems (takeCore s w) = mems s := by simp [takeCore]

@[simp] theorem wf_quantumEnd {s : State} (hs : (mems s).Wf) (w : Worker) : (mems (quantumEnd s w)).Wf := by
  unfold quantumEnd
  dsimp only
  split <;> simp [hs]

@[simp] theorem mems_countIssue (s : State) (w : Worker) : mems (countIssue s w) = mems s := by simp [countIssue]
@[simp] theorem scratch_fly (k : WorkerSt) (f : Flight) : (fly k f).scratch = k.scratch := by simp [fly]
@[simp] theorem mems_awaitDrain (s : State) (w : Worker) : mems (awaitDrain s w) = mems s := by simp [awaitDrain]
@[simp] theorem wf_blockOn {s : State} (hs : (mems s).Wf) (w : Worker) (x : Wait) : (mems (blockOn s w x)).Wf := by simp [blockOn, hs]
@[simp] theorem scratch_clearRegs (k : WorkerSt) : (clearRegs k).scratch = k.scratch := by simp [clearRegs]
@[simp] theorem scratch_atEntry (k : WorkerSt) : (atEntry k).scratch = k.scratch := by simp [atEntry]
@[simp] theorem mems_wkNop (s : State) (w : Worker) (cmd : Nat) : mems (wkNop s w cmd) = mems s := by simp [wkNop]
@[simp] theorem mems_wkStart (s : State) (w : Worker) : mems (wkStart s w) = mems s := by simp [wkStart]
@[simp] theorem wf_wkStop {s : State} (hs : (mems s).Wf) (w : Worker) : (mems (wkStop s w)).Wf := by simp [wkStop, hs]

@[simp] theorem mems_wkRestart (s : State) (w : Worker) : mems (wkRestart s w) = mems s := by
  unfold wkRestart
  split <;> simp

@[simp] theorem mems_wkClear (s : State) (w : Worker) : mems (wkClear s w) = mems s := by simp [wkClear]

@[simp] theorem wf_wkCmd {s : State} (hs : (mems s).Wf) (w : Worker) (cmd : Nat) : (mems (wkCmd s w cmd)).Wf := by
  unfold wkCmd
  split <;> simp [hs]

@[simp] theorem mems_trapRestart (s : State) (w : Worker) : mems (trapRestart s w) = mems s := by simp [trapRestart]

@[simp] theorem scratch_atomResult (op : AtomOp) (d : GReg) (old : Word) (stored : Bool) (k : WorkerSt) :
    (atomResult op d old stored k).scratch = k.scratch := by
  unfold atomResult
  split <;> simp

@[simp] theorem wf_storeDrain {s : State} (hs : (mems s).Wf) (w : Worker) : (mems (storeDrain s w)).Wf := by
  unfold storeDrain
  dsimp only
  (repeat' split) <;> simp [hs]

@[simp] theorem mems_wcWrite (s : State) (who : Writer) (off : Nat) (v : Word) : mems (wcWrite s who off v) = mems s := by
  unfold wcWrite
  split
  · simp
  · split
    · split <;> simp
    · simp

/-! ### Arithmetic (Machine/Arith.lean) -/

@[simp] theorem scratch_putPlain (k : WorkerSt) (d : GReg) (v : Word) : (putPlain k d v).scratch = k.scratch := by simp [putPlain]
@[simp] theorem scratch_putQ (k : WorkerSt) (d : GReg) (x : Int) : (putQ k d x).scratch = k.scratch := by simp [putQ]

@[simp] theorem scratch_accAdd (k : WorkerSt) (d : AReg) (signed zn : Bool) (x : Int) : (accAdd k d signed zn x).scratch = k.scratch := by
  simp [accAdd]

/-! ### Flow and scheduling (Machine/Flow.lean) -/

@[simp] theorem wf_goTo {s : State} (hs : (mems s).Wf) (w : Worker) (target : Word) (f : WorkerSt → WorkerSt)
    (hf : ∀ k, (f k).scratch = k.scratch) : (mems (goTo s w target f)).Wf := by
  unfold goTo; split <;> simp [hs, hf]

@[simp] theorem wf_schedule {s : State} (hs : (mems s).Wf) (w : Worker) (t : TimeWait) (fraction : Nat) :
    (mems (schedule s w t fraction)).Wf := by
  simp [schedule, hs]

@[simp] theorem mems_clampOperand (s : State) (w : Worker) (given applied : Nat) (reason : Byte) :
    mems (clampOperand s w given applied reason) = mems s := by
  simp [clampOperand]

@[simp] theorem mems_takeSlot (s : State) (w : Worker) (d : GReg) (n : Fin 64) (net : Bool) (first interval : Nat) :
    mems (takeSlot s w d n net first interval) = mems s := by
  simp [takeSlot]

@[simp] theorem wf_everyWait {s : State} (hs : (mems s).Wf) (w : Worker) (d : GReg) (n : Fin 64) (late : BitVec 2) (alat : AReg) :
    (mems (everyWait s w d n late alat)).Wf := by
  unfold everyWait
  split
  · exact hs
  · extract_lets now k last s' target
    split
    · exact wf_blockOn hs ..
    · exact wf_schedule (by simpa [s'] using hs) ..

/-! ### DRAM, check store, scrubber (Machine/Memory.lean) -/

@[simp] theorem wf_dramWhole {s : State} (hs : (mems s).Wf) (off : Nat) (b : List Byte) : (mems (dramWhole s off b)).Wf :=
  wf_modMem hs _ (memWrite_wf _ _ _ (dram_wf hs)) (tables_wf hs)

@[simp] theorem mems_emitMem (s : State) (bad : Bool) (memory index : Nat) : mems (emitMem s bad memory index) = mems s := by simp [emitMem]
@[simp] theorem mems_poisonLine (s : State) (l : Nat) (tag : Bool) : mems (poisonLine s l tag) = mems s := by simp [poisonLine]

@[simp] theorem mems_scrubNext (s : State) : mems (scrubNext s) = mems s := by
  unfold scrubNext
  refine mems_modMem _ _ ?_ ?_ <;> intro m <;> split <;> rfl

@[simp] theorem wf_zeroScratch {s : State} (hs : (mems s).Wf) (w : Worker) (i : Nat) : (mems (zeroScratch s w i)).Wf := by
  have h := wf_modWk hs w (fun k => { k with scratch := memClear k.scratch (8 * i) 8 }) (memClear_wf _ _ _ (scratch_wf hs w))
  exact wf_modMem h _ (dram_wf h) (tables_wf h)

@[simp] theorem wf_zeroTable {s : State} (hs : (mems s).Wf) (i : Nat) : (mems (zeroTable s i)).Wf :=
  wf_modMem hs _ (dram_wf hs) (memClear_wf _ _ _ (tables_wf hs))

@[simp] theorem wf_sramScrubbed {s : State} (hs : (mems s).Wf) (o : SramScrub) : (mems (sramScrubbed s o)).Wf := by
  unfold sramScrubbed
  split <;> simp [hs]

@[simp] theorem mems_memZeroStart (s : State) : mems (memZeroStart s) = mems s := by simp [memZeroStart]

@[simp] theorem wf_zeroRange {s : State} (hs : (mems s).Wf) (base len : Nat) : (mems (zeroRange s base len)).Wf :=
  wf_modMem hs _ (memClear_wf _ _ _ (dram_wf hs)) (tables_wf hs)

@[simp] theorem wf_memZeroEnd {s : State} (hs : (mems s).Wf) : (mems (memZeroEnd s)).Wf := by
  unfold memZeroEnd
  split <;> simp [hs]

@[simp] theorem mems_memRegWrite (s : State) (who : Writer) (off : Nat) (v : Word) : mems (memRegWrite s who off v) = mems s := by
  unfold memRegWrite
  split
  · split <;> simp
  · simp

/-! ### Places of an address (Machine/Access.lean) -/

@[simp] theorem wf_writePlace {s : State} (hs : (mems s).Wf) (w : Worker) (p : Place) (b : List Byte) : (mems (writePlace s w p b)).Wf := by
  unfold writePlace
  split
  · exact wf_modWk hs w _ (memWrite_wf _ _ _ (scratch_wf hs w))
  · exact wf_modMem hs _ (dram_wf hs) (memWrite_wf _ _ _ (tables_wf hs))
  · exact wf_modMem hs _ (memWrite_wf _ _ _ (dram_wf hs)) (tables_wf hs)

@[simp] theorem wf_withLoad {s : State} (hs : (mems s).Wf) (w : Worker) (a : Word) (len al : Nat) (f : Place → State)
    (hf : ∀ p, (mems (f p)).Wf) : (mems (withLoad s w a len al f)).Wf := by
  unfold withLoad
  split
  · simp [hs]
  · split
    · simp [hs]
    · split <;> simp [hs, hf]

@[simp] theorem wf_withScratch {s : State} (hs : (mems s).Wf) (w : Worker) (a : Word) (len al : Nat) (f : State)
    (hf : (mems f).Wf) : (mems (withScratch s w a len al f)).Wf := by
  unfold withScratch
  split
  · simp [hs]
  · split <;> simp [hs, hf]

/-! ### Domain instructions (Machine/Domain.lean) -/

@[simp] theorem mems_request (s : State) (w : Worker) (op : Nat) : mems (request s w op) = mems s := by simp [request]
@[simp] theorem mems_finish (s : State) (w : Worker) (d : GReg) (v : Nat) : mems (finish s w d v) = mems s := by simp [finish]

theorem scratch_swpHolds {s : State} {k k' : WorkerSt} {x : Wait} (h : swpHolds s k x = some k') : k'.scratch = k.scratch := by
  unfold swpHolds at h
  split at h
  · dsimp only at h
    split at h
    · obtain rfl := Option.some.inj h; simp
    · exact (Option.some_ne_none _ h.symm).elim
  · dsimp only at h
    split at h
    · split at h
      · obtain rfl := Option.some.inj h; simp
      · exact (Option.some_ne_none _ h.symm).elim
    · obtain rfl := Option.some.inj h; simp
  · exact (Option.some_ne_none _ h.symm).elim

@[simp] theorem mems_swpRelease (s : State) : mems (swpRelease s) = mems s := by
  unfold swpRelease
  refine mems_forWorkers _ _ fun w s => ?_
  dsimp only
  split
  · split
    · next h => rw [mems_setWk _ _ _ (by simpa using scratch_swpHolds h)]
    · rfl
  · rfl

@[simp] theorem wf_swpIssue {s : State} (hs : (mems s).Wf) (w : Worker) (x : Wait) : (mems (swpIssue s w x)).Wf := by
  unfold swpIssue
  split
  · next h => rw [mems_setWk _ _ _ (by simpa using scratch_swpHolds h)]; exact hs
  · simp [hs]

@[simp] theorem wf_swpMask {s : State} (hs : (mems s).Wf) (w : Worker) (s1 s2 : GReg) (x : Half → Half → Word → Wait) :
    (mems (swpMask s w s1 s2 x)).Wf := by
  unfold swpMask
  dsimp only
  split <;> simp [hs]

@[simp] theorem mems_ctcLimit (s : State) (w : Worker) (given : Nat) : mems (ctcLimit s w given).1 = mems s := by
  unfold ctcLimit
  dsimp only
  split <;> simp

@[simp] theorem wf_mir {s : State} (hs : (mems s).Wf) (w : Worker) (twin : Bool) (f : State → State) (hf : (mems (f s)).Wf) :
    (mems (mir s w twin f)).Wf := by
  unfold mir
  split
  · simp [hs]
  · split <;> simp [hs, hf]

theorem wf_mirDeliver (k : WorkerSt) (h : memWf k.scratch = true) (d : GReg) (addr : Word) (b : List Byte) :
    memWf (mirDeliver k d addr b).scratch = true := by
  simp only [mirDeliver, scratch_putStatus]
  exact memWrite_wf _ _ _ h

/-! ### The comb (Machine/Comb.lean) -/

@[simp] theorem wf_tabCommit {s : State} (hs : (mems s).Wf) (l : Launch) (a : Nat) (b : List Byte) : (mems (tabCommit s l a b).1).Wf := by
  unfold tabCommit
  split
  · dsimp only
    split
    · exact hs
    · split
      · exact hs
      · exact wf_modMem hs _ (memWrite_wf _ _ _ (dram_wf hs)) (tables_wf hs)
  · exact wf_writePlace hs _ _ _

@[simp] theorem mems_launch (s : State) (w : Worker) (d : GReg) (l : Launch) : mems (launch s w d l) = mems s := by
  unfold launch
  dsimp only
  rw [mems_modWk _ _ _ (by simp), mems_mk, memsOf_fields, mems_request]

@[simp] theorem scratch_combWake (k : WorkerSt) (t : Word) (excluded status : Nat) :
    (combWake k t excluded status).scratch = k.scratch := by
  unfold combWake
  split <;> simp

@[simp] theorem mems_combDone (s : State) (l : Launch) (excluded status : Nat) : mems (combDone s l excluded status) = mems s := by
  simp [combDone]

@[simp] theorem mems_segDone (k : KRun) : mems (segDone k) = mems k.s := by
  unfold segDone; dsimp only; split <;> simp

@[simp] theorem mems_poisonedRun (s : State) (l : Launch) : mems (poisonedRun s l).s = mems s := by simp [poisonedRun]

@[simp] theorem wf_segCommit {s : State} (hs : (mems s).Wf) (l : Launch) (a : Nat) (b : List Byte) (excluded : Nat) :
    (mems (segCommit s l a b excluded).s).Wf := by
  unfold segCommit
  dsimp only
  split <;> simp [hs]

@[simp] theorem mems_elements (f : State → Nat → State × List Byte × Bool) (hf : ∀ s i, mems (f s i).1 = mems s) (s : State) (i n : Nat) :
    mems (elements f s i n).1 = mems s := by
  induction n generalizing s i with
  | zero => rfl
  | succ n ih => exact (ih _ _).trans (hf s i)

@[simp] theorem wf_mapKernel {s : State} (hs : (mems s).Wf) (l : Launch) (size : Nat) (srcs : List (Word × Nat))
    (f : State → Nat → State × List Byte × Bool) (hf : ∀ s i, mems (f s i).1 = mems s) : (mems (mapKernel s l size srcs f).s).Wf := by
  unfold mapKernel; dsimp only
  split
  · simp [hs]
  · split <;> simp [hs, hf]

@[simp] theorem wf_withChem {s : State} (hs : (mems s).Wf) (l : Launch) (a : Word) (f : Chem → KRun) (hf : ∀ c, (mems (f c).s).Wf) :
    (mems (withChem s l a f).s).Wf := by
  unfold withChem
  split
  · simp [hs]
  · split <;> simp [hs, hf]

/-! ### Crypto (Machine/Crypto.lean) -/

@[simp] theorem mems_signMsg (s : State) (key msg : List Byte) : mems (signMsg s key msg).2 = mems s := by simp [signMsg]
@[simp] theorem mems_drawBytes (s : State) (n : Nat) : mems (drawBytes s n).2 = mems s := by simp [drawBytes]

@[simp] theorem wf_sigRequest {s : State} (hs : (mems s).Wf) (w : Worker) (op : Fin 3) (d : GReg) (data sig : List Byte) (slot : Byte) :
    (mems (sigRequest s w op d data sig slot)).Wf :=
  wf_blockOn (by simpa using hs) ..

@[simp] theorem wf_sigResult {s : State} (hs : (mems s).Wf) (w : Worker) (q : CryptoReq) : (mems (sigResult s w q)).Wf := by
  unfold sigResult
  extract_lets off put ok
  have hput : ∀ (t : State) (b : List Byte), (mems t).Wf → (mems (put t b)).Wf := fun t b ht =>
    wf_modWk ht w _ (by simpa using memWrite_wf _ _ _ (scratch_wf ht w))
  split
  · exact hput _ _ hs
  · split
    · split
      · exact hput _ _ (by simpa using hs)
      · exact hs
    · simp [hs]

@[simp] theorem wf_sigDone {s : State} (hs : (mems s).Wf) (q : CryptoReq) : (mems (sigDone s q)).Wf := by
  unfold sigDone
  split <;> simp [hs]

@[simp] theorem mems_rsaAsk (s : State) (job : RsaJob) (data sig : List Byte) : mems (rsaAsk s job data sig) = mems s := by simp [rsaAsk]

@[simp] theorem mems_rsaDo (s : State) (job : RsaJob) (act : State → State) (h : mems (act s) = mems s) :
    mems (rsaDo s job act) = mems s := by
  unfold rsaDo; split <;> simp [h]
theorem wf_rsaDo {s : State} (hs : (mems s).Wf) (job : RsaJob) (act : State → State) (h : (mems (act s)).Wf) :
    (mems (rsaDo s job act)).Wf := by
  unfold rsaDo; split <;> simp [h, hs]

@[simp] theorem mems_rsaNext (s : State) : mems (rsaNext s) = mems s := by simp [rsaNext]

/-! ### Kernels (Machine/Kernels.lean) -/

@[simp] theorem wf_coulRun {s : State} (hs : (mems s).Wf) (l : Launch) : (mems (coulRun s l).s).Wf := by simp [coulRun, hs]
@[simp] theorem wf_zcompRun {s : State} (hs : (mems s).Wf) (l : Launch) : (mems (zcompRun s l).s).Wf := by simp [zcompRun, hs]

@[simp] theorem mems_judgeRest (s : State) (cell : Nat) (b : List Byte) : mems (judgeRest s cell b).1 = mems s := by
  unfold judgeRest
  dsimp only
  split
  · split <;> simp
  · split <;> simp

@[simp] theorem mems_restPoint (s : State) (c : Chem) (cell : Nat) (b : List Byte) : mems (restPoint s c cell b).1 = mems s := by
  unfold restPoint
  split
  · dsimp only
    split <;> simp
  · simp

@[simp] theorem mems_ocvCell (s : State) (c : Chem) (cell : Nat) (b : List Byte) : mems (ocvCell s c cell b).1 = mems s := by
  unfold ocvCell
  dsimp only
  split
  · split <;> simp
  · split <;> simp

@[simp] theorem wf_ocvRun {s : State} (hs : (mems s).Wf) (l : Launch) : (mems (ocvRun s l).s).Wf := by simp [ocvRun, hs]

@[simp] theorem mems_clampPar (s : State) (l : Launch) (lo hi given : Int) : mems (clampPar s l lo hi given).1 = mems s := by
  unfold clampPar
  dsimp only
  split <;> simp

@[simp] theorem mems_clampFull (s : State) (l : Launch) (v : Int) : mems (clampFull s l v).1 = mems s := by
  unfold clampFull
  split
  · simp
  · split <;> simp

@[simp] theorem mems_socfPar (s : State) (l : Launch) : mems (socfPar s l).1 = mems s := by
  calc mems (socfPar s l).1
      _ = mems (clampFull _ l _).1 := rfl
      _ = mems (clampPar _ l 100 65535 _).1 := mems_clampFull ..
      _ = mems (clampPar _ l 1 100 _).1 := mems_clampPar ..
      _ = mems (clampPar _ l 0 0x20000 _).1 := mems_clampPar ..
      _ = mems (clampPar _ l 0 0x1000 _).1 := mems_clampPar ..
      _ = mems (clampPar s l 0 0x10000 _).1 := mems_clampPar ..
      _ = mems s := mems_clampPar ..

@[simp] theorem wf_socfRun {s : State} (hs : (mems s).Wf) (l : Launch) : (mems (socfRun s l).s).Wf := by
  unfold socfRun
  split
  · simp [hs]
  · refine wf_withChem hs l _ _ fun c => ?_
    split
    next s1 p h =>
    have h1 : (mems s1).Wf := by rw [show s1 = (socfPar s l).1 by rw [h]]; simp [hs]
    dsimp only
    split
    · simp [h1]
    · have h2 := wf_tabCommit h1 l (l.srcB.toNat + 32 * segFirst l)
      split
      · simp [h1]
      · simp [h2]

@[simp] theorem wf_limpRun {s : State} (hs : (mems s).Wf) (l : Launch) : (mems (limpRun s l).s).Wf := by
  unfold limpRun
  split <;> simp [hs]

@[simp] theorem wf_balpRun {s : State} (hs : (mems s).Wf) (l : Launch) : (mems (balpRun s l).s).Wf := by
  unfold balpRun
  dsimp only
  split <;> simp [hs]

@[simp] theorem wf_statRun {s : State} (hs : (mems s).Wf) (l : Launch) : (mems (statRun s l).s).Wf := by
  unfold statRun
  split <;> simp [hs]

@[simp] theorem wf_rlszRun {s : State} (hs : (mems s).Wf) (l : Launch) : (mems (rlszRun s l).s).Wf := by
  refine wf_withChem hs l _ _ fun c => ?_
  split
  next s1 lam h =>
  have h1 : (mems s1).Wf := by rw [show s1 = (clampPar s l 0x8000 0x10000 l.param1.toInt).1 by rw [h]]; simp [hs]
  simp [h1]

@[simp] theorem mems_recheckTrust (s : State) : mems (recheckTrust s) = mems s := by simp [recheckTrust]

@[simp] theorem wf_trusting (f : State → Launch → KRun) (s : State) (l : Launch) (hf : (mems (f s l).s).Wf) :
    (mems (trusting f s l).s).Wf := by
  simp [trusting, hf]

/-! ### STEPFIT and vector kernels (Machine/Fit.lean) -/

@[simp] theorem wf_stepfitRun {s : State} (hs : (mems s).Wf) (l : Launch) : (mems (stepfitRun s l).s).Wf := by
  unfold stepfitRun
  split
  · simp [hs]
  · exact wf_withChem hs l _ _ fun c => by simp [hs]

@[simp] theorem wf_vecRun {s : State} (hs : (mems s).Wf) (l : Launch) (useB : Bool) (f : Int → Int → Int) :
    (mems (vecRun s l useB f).s).Wf := by
  simp [vecRun, hs]

@[simp] theorem wf_vaddRun {s : State} (hs : (mems s).Wf) (l : Launch) : (mems (vaddRun s l).s).Wf := by simp [vaddRun, hs]
@[simp] theorem wf_vmulRun {s : State} (hs : (mems s).Wf) (l : Launch) : (mems (vmulRun s l).s).Wf := by simp [vmulRun, hs]
@[simp] theorem wf_vmaddRun {s : State} (hs : (mems s).Wf) (l : Launch) : (mems (vmaddRun s l).s).Wf := by simp [vmaddRun, hs]

@[simp] theorem wf_vecPick {s : State} (hs : (mems s).Wf) (l : Launch) (better : Int → Int → Bool) : (mems (vecPick s l better).s).Wf := by
  unfold vecPick
  split
  · simp [hs]
  · dsimp only
    split <;> simp [hs]

@[simp] theorem wf_vinterpRun {s : State} (hs : (mems s).Wf) (l : Launch) : (mems (vinterpRun s l).s).Wf := by
  unfold vinterpRun
  dsimp only
  split
  · simp [hs]
  · split <;> simp [hs]

@[simp] theorem wf_vcmpmRun {s : State} (hs : (mems s).Wf) (l : Launch) : (mems (vcmpmRun s l).s).Wf := by
  unfold vcmpmRun
  split <;> simp [hs]

/-! ### Notices (Machine/Notice.lean) -/

@[simp] theorem mems_sendOut (s : State) (k : Session) (m : HostMsg) : mems (sendOut s k m) = mems s := by simp [sendOut]

@[simp] theorem mems_noticeTo (s : State) (k : Session) (kind : Byte) (seq : DWord) (arg : Word) :
    mems (noticeTo s k kind seq arg) = mems s := by
  simp [noticeTo]

@[simp] theorem mems_notify (s : State) (kind : Byte) (bit : Nat) (arg : Word) : mems (notify s kind bit arg) = mems s := by simp [notify]

@[simp] theorem mems_feedCapping (k : Session) (s : State) (x2 : Nat) : mems (feedCapping k s x2) = mems s := by
  induction x2 generalizing s with
  | zero => rfl
  | succ n ih =>
    unfold feedCapping
    dsimp only
    (repeat' split) <;> simp [ih]

@[simp] theorem mems_feedCappings (s : State) : mems (feedCappings s) = mems s := by simp [feedCappings]
@[simp] theorem mems_drainOut (s : State) : mems (drainOut s) = mems s := by simp [drainOut]

/-! ### Region link (Machine/Air.lean) -/

@[simp] theorem mems_airHeard (s : State) (r : Region) : mems (airHeard s r) = mems s := by simp [airHeard]

@[simp] theorem mems_airAcceptKey (s : State) (r : Region) (key : List Byte) (mapId : Word) (f : Frame) (fe : Half) (type : Nat)
    (h : AirHdr) (body : List Byte) (mic : Word) : mems (airAcceptKey s r key mapId f fe type h body mic).1 = mems s := by
  unfold airAcceptKey
  dsimp only
  (repeat' split) <;> simp

@[simp] theorem mems_airAccept (s : State) (r : Region) (m : RegionMap) (f : Frame) (type : Nat) (h : AirHdr) (body : List Byte)
    (mic : Word) : mems (airAccept s r m f type h body mic).1 = mems s := by
  simp [airAccept]

@[simp] theorem mems_airTake (s : State) (r : Region) (type : Nat) (h : AirHdr) (body : List Byte) (mic : Word) (act : State → State)
    (ha : ∀ s, mems (act s) = mems s) : mems (airTake s r type h body mic act) = mems s := by
  unfold airTake
  split
  · dsimp only; split <;> simp [ha]
  · rfl
theorem wf_airTake {s : State} (hs : (mems s).Wf) (r : Region) (type : Nat) (h : AirHdr) (body : List Byte) (mic : Word)
    (act : State → State)
    (ha : ∀ s, (mems s).Wf → (mems (act s)).Wf) : (mems (airTake s r type h body mic act)).Wf := by
  unfold airTake
  split
  · dsimp only; split
    · apply ha; simp [hs]
    · simp [hs]
  · exact hs

@[simp] theorem mems_airPut (s : State) (r : Region) (m : RegionMap) (sweep : Word) (fe : Half) (type wait : Nat) (dbm : Option Byte)
    (body : List Byte) : mems (airPut s r m sweep fe type wait dbm body) = mems s := by
  simp [airPut]

@[simp] theorem mems_airSendIn (s : State) (r : Region) (type wait : Nat) (dbm : Option Byte) (body : List Byte) :
    mems (airSendIn s r type wait dbm body) = mems s := by
  unfold airSendIn
  split <;> simp

@[simp] theorem mems_airSend (s : State) (r : Region) (type : Nat) (body : List Byte) : mems (airSend s r type body) = mems s := by
  simp [airSend]

@[simp] theorem mems_airAlarm (s : State) (r : Region) (code count : Nat) : mems (airAlarm s r code count) = mems s := by
  unfold airAlarm
  split <;> simp

@[simp] theorem mems_refit (s : State) : mems (refit s) = mems s := by simp [refit]

/-! ### Transfers (Machine/Transfer.lean) -/

@[simp] theorem wf_dirWrite {s : State} (hs : (mems s).Wf) (e : DirEntry) (x : Nat) (b : List Byte) : (mems (dirWrite s e x b)).Wf := by
  unfold dirWrite
  split
  · dsimp only
    split
    · exact wf_modMem hs _ (memWrite_wf _ _ _ (dram_wf hs)) (tables_wf hs)
    · exact hs
  · split
    · exact wf_modMem hs _ (dram_wf hs) (memWrite_wf _ _ _ (tables_wf hs))
    · exact hs
  · exact hs

@[simp] theorem wf_putSection {s : State} (hs : (mems s).Wf) (x : Section) : (mems (putSection s x)).Wf := by
  unfold putSection
  split <;> simp [hs]

@[simp] theorem mems_takeLive (s : State) (age : Nat) (v : LiveRegion) : mems (takeLive s age v) = mems s := by simp [takeLive]
@[simp] theorem mems_takeLiveChan (s : State) (c : Chan) (v : LiveChan) : mems (takeLiveChan s c v) = mems s := by simp [takeLiveChan]
@[simp] theorem mems_sendLive (s : State) : mems (sendLive s) = mems s := by simp [sendLive]

/-! ### Sweeps (Machine/Sweep.lean) -/

@[simp] theorem mems_adapt (s : State) (before : Nat) : mems (adapt s before) = mems s := by simp [adapt]
@[simp] theorem mems_archStart (s : State) : mems (archStart s) = mems s := by simp [archStart]
@[simp] theorem mems_archCounts (s : State) (p : PackRec) : mems (archCounts s p) = mems s := by simp [archCounts]

@[simp] theorem wf_archiveWrite {s : State} (hs : (mems s).Wf) (n : Word) : (mems (archiveWrite s n)).Wf := by
  unfold archiveWrite
  split <;> simp [hs]

@[simp] theorem mems_archAck (s : State) (who : Option Writer) (v : Word) : mems (archAck s who v) = mems s := by
  unfold archAck
  split <;> simp

@[simp] theorem mems_archPut (s : State) (who : Option Writer) (a : Nat) (v : Word) : mems (archPut s who a v) = mems s := by simp [archPut]
@[simp] theorem mems_regPut (s : State) (who : Option Writer) (a : Nat) (v : Word) : mems (regPut s who a v) = mems s := by simp [regPut]
@[simp] theorem mems_rekeyStart (s : State) (r : Region) : mems (rekeyStart s r) = mems s := by simp [rekeyStart]

@[simp] theorem mems_mapSign (s : State) (r : Region) : mems (mapSign s r) = mems s := by
  unfold mapSign
  split <;> simp

@[simp] theorem mems_keyFlip (s : State) (r : Region) : mems (keyFlip s r) = mems s := by
  unfold keyFlip
  split <;> simp

@[simp] theorem wf_feWraps {s : State} (hs : (mems s).Wf) (r : Region) : (mems (feWraps s r)).Wf := by simp [feWraps, hs]
@[simp] theorem mems_rekeyWanted (s : State) (r : Region) : mems (rekeyWanted s r) = mems s := by simp [rekeyWanted]

@[simp] theorem wf_raiseFe {s : State} (hs : (mems s).Wf) : (mems (raiseFe s)).Wf := by
  unfold raiseFe
  extract_lets fe t src u
  have h1 : (mems t).Wf := by
    unfold t
    split
    · exact wf_forRegions hs _ fun r s hs => by simp [hs]
    · exact hs
  have h2 : (mems u).Wf := by simpa [u] using h1
  split
  · exact wf_forRegions h2 _ fun r s hs => by simp [hs]
  · exact h2

@[simp] theorem mems_setCur (s : State) (n : Word) : mems (setCur s n) = mems s := by simp [setCur]
@[simp] theorem mems_originFlip (s : State) (r : Region) : mems (originFlip s r) = mems s := by simp [originFlip]

@[simp] theorem mems_beaconSend (s : State) (r : Region) : mems (beaconSend s r) = mems s := by
  unfold beaconSend
  split <;> simp

@[simp] theorem mems_frameBegin (s : State) (r : Region) : mems (frameBegin s r) = mems s := by simp [frameBegin]
@[simp] theorem mems_fracEvents (s : State) (a b : BitVec 24) : mems (fracEvents s a b) = mems s := by simp [fracEvents]
@[simp] theorem mems_hushTake (s : State) (h : Nat) : mems (hushTake s h) = mems s := by simp [hushTake]
@[simp] theorem mems_fracTake (s : State) (f : BitVec 24) : mems (fracTake s f) = mems s := by simp [fracTake]

@[simp] theorem mems_sweepChanges (s : State) : mems (sweepChanges s) = mems s := by
  unfold sweepChanges
  dsimp only
  split
  · simp
  · split
    · split <;> simp
    · split <;> simp

@[simp] theorem wf_placeNext {s : State} (hs : (mems s).Wf) : (mems (placeNext s)).Wf := by simp [placeNext, hs]
@[simp] theorem wf_sample {s : State} (hs : (mems s).Wf) (d : Dsm4) : (mems (sample s d)).Wf := by simp [sample, hs]
@[simp] theorem mems_placeFirst (s : State) : mems (placeFirst s) = mems s := by exact mems_mk ..

@[simp] theorem wf_captureSent {s : State} (hs : (mems s).Wf) (r : Region) (f : Frame) (ref : Nat) (stepOfs : Word) :
    (mems (captureSent s r f ref stepOfs)).Wf := by
  simp [captureSent, hs]

@[simp] theorem wf_orderSent {s : State} (hs : (mems s).Wf) (r : Region) (f : Frame) (count : Nat) (stepOfs : Word) (o : Order) :
    (mems (orderSent s r f count stepOfs o)).Wf := by
  simp [orderSent, hs]

@[simp] theorem wf_ordersSent {s : State} (hs : (mems s).Wf) (r : Region) (l : List Order) (stepOfs : Word) :
    (mems (ordersSent s r l stepOfs)).Wf := by
  unfold ordersSent
  extract_lets s1
  have h1 : (mems s1).Wf := by
    refine wf_foldl _ _ hs fun s o hs => ?_
    split <;> simp [hs]
  split
  · dsimp only
    split <;> simp [h1]
  · exact h1

@[simp] theorem wf_closeFloor {s : State} (hs : (mems s).Wf) (r : Region) (f : Frame) (incRun : Nat) :
    (mems (closeFloor s r f incRun).1).Wf := by
  unfold closeFloor
  dsimp only
  (repeat' split) <;> simp [hs]

@[simp] theorem wf_closeEngine {s : State} (hs : (mems s).Wf) (r : Region) (f : Frame) : (mems (closeEngine s r f)).Wf := by
  unfold closeEngine
  extract_lets xs st s1 first tagged waits s2 s3
  have h1 : (mems s1).Wf := by unfold s1; split <;> simp [hs]
  have h2 : (mems s2).Wf := wf_preClose h1 _ _ _ _
  have h3 : (mems s3).Wf := by unfold s3; split <;> simp [h2]
  simp [h3]

@[simp] theorem wf_orderLost {s : State} (hs : (mems s).Wf) (r : Region) (o : Order) (hops : List Nat) :
    (mems (orderLost s r o hops)).Wf := by
  have h := wf_foldl hops (fun s _ => emitRe s r 2 0x07 false true (fld o.code.toNat 24 + fld o.hops.toNat 16 + o.tag.toNat)) hs
    fun s _ hs => wf_emitRe hs ..
  simpa [orderLost] using h

@[simp] theorem mems_orderDone (s : State) (r : Region) (o : Order) : mems (orderDone s r o) = mems s := by simp [orderDone]

@[simp] theorem wf_judgeOrder {s : State} (hs : (mems s).Wf) (r : Region) (f : Frame) (o : Order) : (mems (judgeOrder s r f o)).Wf := by
  simp [judgeOrder, hs]

@[simp] theorem wf_closeOrders {s : State} (hs : (mems s).Wf) (r : Region) (f : Frame) : (mems (closeOrders s r f)).Wf :=
  wf_foldl _ _ hs fun _ _ hs => wf_judgeOrder hs ..

@[simp] theorem mems_closeHops (s : State) (r : Region) (f : Frame) : mems (closeHops s r f) = mems s := by simp [closeHops]
@[simp] theorem mems_closeAir (s : State) (r : Region) (f : Frame) : mems (closeAir s r f) = mems s := by simp [closeAir]

@[simp] theorem wf_sweepWhole {s : State} (hs : (mems s).Wf) (n : Word) : (mems (sweepWhole s n)).Wf := by
  unfold sweepWhole
  split
  · exact hs
  · extract_lets src s1 w s2
    have h1 : (mems s1).Wf := by simpa [s1] using hs
    have h2 : (mems s2).Wf := by simp [s2, h1]
    split <;> simp [h2]

@[simp] theorem wf_sampleAll {s : State} (hs : (mems s).Wf) (d : Dsm4) : (mems (sampleAll s d)).Wf := by simp [sampleAll, hs]

@[simp] theorem wf_sweepLeft {s : State} (hs : (mems s).Wf) : (mems (sweepLeft s)).Wf := by
  unfold sweepLeft
  split <;> simp [hs]

@[simp] theorem wf_closeAll {s : State} (hs : (mems s).Wf) (n : Word) : (mems (closeAll s n)).Wf := by simp [closeAll, hs]

@[simp] theorem wf_closeSweep {s : State} (hs : (mems s).Wf) (r : Region) : (mems (closeSweep s r)).Wf := by
  unfold closeSweep
  split
  · exact hs
  · split
    · exact hs
    · extract_lets now complete incRun s1 s2 x s3 s4 v s5 s6 s7 s8 s9
      have h1 : (mems s1).Wf := by simpa [s1] using hs
      have h2 : (mems s2).Wf := by unfold s2; split <;> simp [h1]
      have h3 : (mems s3).Wf := wf_emitRe (wf_closeFloor h2 ..) ..
      have h4 : (mems s4).Wf := wf_verdictAct h3 ..
      have h6 : (mems s6).Wf := by simpa [s6, s5] using h4
      have h8 : (mems s8).Wf := wf_closeOrders (wf_closeEngine h6 ..) ..
      clear_value s8
      have h9 : (mems s9).Wf := by simpa [s9] using h8
      exact wf_closeAll h9 ..

@[simp] theorem mems_ackSend (s : State) (r : Region) (f : Frame) (dbm : Option Byte) (got : Nat) :
    mems (ackSend s r f dbm got) = mems s := by
  simp [ackSend]

@[simp] theorem wf_takeTransfer {s : State} (hs : (mems s).Wf) (r : Region) (f : Frame) (p : UpPacket) :
    (mems (takeTransfer s r f p)).Wf := by
  simp [takeTransfer, hs]

@[simp] theorem wf_upstream {s : State} (hs : (mems s).Wf) (r : Region) (p : UpPacket) : (mems (upstream s r p)).Wf := by
  refine wf_airTake hs _ _ _ _ _ _ fun s hs => ?_
  split
  · split <;> simp [hs]
  · exact hs

@[simp] theorem wf_fillArchive {s : State} (hs : (mems s).Wf) (r : Region) (k : KeptRec) : (mems (fillArchive s r k)).Wf := by
  unfold fillArchive
  split <;> simp [hs]

@[simp] theorem wf_fillKept {s : State} (hs : (mems s).Wf) (r : Region) (hop : Nat) (k : KeptRec) : (mems (fillKept s r hop k)).Wf := by
  unfold fillKept
  dsimp only
  split
  · exact hs
  · refine wf_fillArchive ?_ _ _
    split
    · exact hs
    · split
      · split <;> simpa using hs
      · exact hs

@[simp] theorem mems_beaconEcho (s : State) (r : Region) (e : Option BeaconRx) : mems (beaconEcho s r e) = mems s := by
  unfold beaconEcho
  split
  · simp
  · split <;> simp

/-! ### Estimator (Machine/Publish.lean) -/

@[simp] theorem mems_modEst (s : State) (f : EstSt → EstSt) : mems (modEst s f) = mems s := by simp [modEst]

@[simp] theorem mems_dirTake (s : State) (who : Option Writer) (n : Fin 8) (word : Fin 3) (v : Word) :
    mems (dirTake s who n word v) = mems s := by
  unfold dirTake
  split <;> simp

@[simp] theorem mems_putWindows (s : State) (n : Word) : mems (putWindows s n) = mems s := by simp [putWindows]
@[simp] theorem mems_publishStart (s : State) (n : Word) : mems (publishStart s n) = mems s := by simp [publishStart]
@[simp] theorem mems_publish (s : State) (n : Word) : mems (publish s n) = mems s := by simp [publish]

@[simp] theorem wf_restoreSection {s : State} (hs : (mems s).Wf) (n : Word) (bind : List Byte) (l : List Section) (x : Section) :
    (mems (restoreSection s n bind l x)).Wf := by
  unfold restoreSection
  split
  · simpa using hs
  · dsimp only
    simp only [mems_modEst]
    refine wf_foldl _ _ hs fun s i hs => ?_
    split
    · exact wf_dirWrite hs ..
    · exact hs

@[simp] theorem wf_keepBlocks {s : State} (hs : (mems s).Wf) (bind : List Byte) (l : List Section) : (mems (keepBlocks s bind l)).Wf := by
  refine wf_foldl _ _ hs fun s b hs => ?_
  dsimp only
  split
  · exact hs
  · exact wf_emitRe (by simpa using hs) ..

@[simp] theorem wf_restoreApply {s : State} (hs : (mems s).Wf) (n : Word) (b : List Byte) : (mems (restoreApply s n b)).Wf := by
  unfold restoreApply
  extract_lets all bind l s1 s2
  have h1 : (mems s1).Wf := by simpa [s1] using hs
  have h2 : (mems s2).Wf := wf_keepBlocks h1 ..
  simp only [mems_recheckTrust]
  exact wf_foldl _ _ h2 fun s x hs => wf_restoreSection hs ..

@[simp] theorem mems_restoreJudge (s : State) : mems (restoreJudge s) = mems s := by simp [restoreJudge]
@[simp] theorem mems_restoreStart (s : State) : mems (restoreStart s) = mems s := by simp [restoreStart]
@[simp] theorem mems_exportBegin (s : State) (n : Word) : mems (exportBegin s n) = mems s := by simp [exportBegin]

@[simp] theorem wf_copyEnd {s : State} (hs : (mems s).Wf) : (mems (copyEnd s)).Wf := by
  unfold copyEnd
  split <;> simp [hs]

@[simp] theorem wf_sealWrite {s : State} (hs : (mems s).Wf) : (mems (sealWrite s)).Wf := by
  unfold sealWrite
  split <;> simp [hs]

@[simp] theorem mems_exportAsk (s : State) : mems (exportAsk s) = mems s := by simp [exportAsk]

@[simp] theorem wf_publishEnd {s : State} (hs : (mems s).Wf) : (mems (publishEnd s)).Wf := by
  unfold publishEnd
  split
  · exact hs
  · extract_lets s1 s2 s3 s4 s5 s6 s7
    have h1 : (mems s1).Wf := by simpa [s1] using hs
    have h2 : (mems s2).Wf := by simpa [s2] using h1
    have h3 : (mems s3).Wf := wf_foldl _ _ h2 fun s x hs => by simp [hs]
    have h4 : (mems s4).Wf := by simpa [s4] using h3
    have h5 : (mems s5).Wf := by
      unfold s5
      split
      · split
        · dsimp only
          split <;> simp [wf_restoreApply h4]
        · exact h4
      · exact h4
    have h6 : (mems s6).Wf := by unfold s6; split <;> simp [h5]
    have h7 : (mems s7).Wf := by unfold s7; split <;> simp [h6]
    split <;> simp [h7]

@[simp] theorem mems_dirStore (s : State) (who : Writer) (n : Fin 8) (word : Fin 3) (v : Word) :
    mems (dirStore s who n word v) = mems s := by
  simp [dirStore]

@[simp] theorem mems_estWrite (s : State) (who : Writer) (off : Nat) (v : Word) : mems (estWrite s who off v) = mems s := by
  unfold estWrite
  dsimp only
  (repeat' split) <;> simp

/-! ### Orders and exchanges (Machine/Orders.lean) -/

@[simp] theorem mems_orderEnds (s : State) (r : Region) (code result : Byte) : mems (orderEnds s r code result) = mems s := by
  simp [orderEnds]

@[simp] theorem wf_captureOrder {s : State} (hs : (mems s).Wf) (r : Region) : (mems (captureOrder s r)).Wf := by simp [captureOrder, hs]

@[simp] theorem wf_orderSubmit {s : State} (hs : (mems s).Wf) (r : Region) (code hops : Nat) (arg0 arg1 : Word) :
    (mems (orderSubmit s r code hops arg0 arg1)).Wf := by
  simp [orderSubmit, hs]

@[simp] theorem wf_orderPut {s : State} (hs : (mems s).Wf) (r : Region) (code : Nat) (hops : BitVec 5) (arg0 arg1 : Word) :
    (mems (orderPut s r code hops arg0 arg1)).Wf := by
  simp [orderPut, hs]

@[simp] theorem wf_alarmRx {s : State} (hs : (mems s).Wf) (r : Region) (p : AlarmPacket) : (mems (alarmRx s r p)).Wf := by
  unfold alarmRx
  dsimp only
  split <;> simp [hs]

@[simp] theorem mems_spareSend (s : State) (r : Region) (p : Spare) (rnd : List Byte) (wait : Nat) :
    mems (spareSend s r p rnd wait) = mems s := by
  unfold spareSend
  split <;> simp

@[simp] theorem mems_orderFinished (s : State) (r : Region) (o : Order) : mems (orderFinished s r o) = mems s := by simp [orderFinished]
@[simp] theorem mems_chalSend (s : State) (r : Region) (h : Nat) : mems (chalSend s r h) = mems s := by simp [chalSend]

@[simp] theorem mems_rekeySend (s : State) (r : Region) (h : Nat) : mems (rekeySend s r h) = mems s := by
  unfold rekeySend
  split <;> simp

@[simp] theorem mems_spareStart (s : State) (r : Region) (p : Spare) : mems (spareStart s r p) = mems s := by
  unfold spareStart
  split <;> simp

@[simp] theorem mems_spareEnd (s : State) (r : Region) (tried : Bool) : mems (spareEnd s r tried) = mems s := by simp [spareEnd]
@[simp] theorem mems_putTally (s : State) (r : Region) (h : Nat) (t : List Word) : mems (putTally s r h t) = mems s := by simp [putTally]
@[simp] theorem mems_tallyOver (s : State) (r : Region) (h : Nat) : mems (tallyOver s r h) = mems s := by simp [tallyOver]

@[simp] theorem wf_orderTried {s : State} (hs : (mems s).Wf) (r : Region) (o : Order) : (mems (orderTried s r o)).Wf := by
  simp [orderTried, hs]

@[simp] theorem wf_planAnswer {s : State} (hs : (mems s).Wf) (r : Region) (o : Order) (gen : Byte) (t : List Word) :
    (mems (planAnswer s r o gen t)).Wf := by
  simp [planAnswer, hs]

@[simp] theorem wf_orderAnswer {s : State} (hs : (mems s).Wf) (r : Region) (o : Order) (b : SpareBody) :
    (mems (orderAnswer s r o b)).Wf := by
  unfold orderAnswer
  split <;> simp [hs]

@[simp] theorem mems_rangeAnswer (s : State) (r : Region) (h : Nat) (d : Half) : mems (rangeAnswer s r h d) = mems s := by
  simp [rangeAnswer]

@[simp] theorem mems_keyConfirmed (s : State) (r : Region) (h : Nat) : mems (keyConfirmed s r h) = mems s := by simp [keyConfirmed]

@[simp] theorem wf_spareBodyRx {s : State} (hs : (mems s).Wf) (r : Region) (h : Nat) (b : SpareBody) : (mems (spareBodyRx s r h b)).Wf := by
  cases b <;> unfold spareBodyRx <;> dsimp only <;> (repeat' split) <;> simp [hs]

@[simp] theorem wf_spareUp {s : State} (hs : (mems s).Wf) (r : Region) (a : SpareUp) : (mems (spareUp s r a)).Wf := by
  refine wf_airTake hs _ _ _ _ _ _ fun s hs => ?_
  split <;> simp [hs]

@[simp] theorem wf_spareTimeout {s : State} (hs : (mems s).Wf) (r : Region) : (mems (spareTimeout s r)).Wf := by
  unfold spareTimeout
  split <;> simp [hs]

@[simp] theorem mems_reachAnswer (s : State) (r : Region) (hop : Nat) (a : ReachAnswer) : mems (reachAnswer s r hop a) = mems s := by
  simp [reachAnswer]

@[simp] theorem mems_reachTimeout (s : State) (r : Region) : mems (reachTimeout s r) = mems s := by
  unfold reachTimeout
  dsimp only
  split <;> simp

@[simp] theorem wf_keptRx {s : State} (hs : (mems s).Wf) (r : Region) (hop : Nat) (k : KeptPacket) : (mems (keptRx s r hop k)).Wf := by
  refine wf_airTake hs _ _ _ _ _ _ fun s hs => ?_
  split
  · extract_lets missed s1 left now s2
    have h1 : (mems s1).Wf := wf_foldl _ _ hs fun s v hs => by split <;> simp [hs]
    have h2 : (mems s2).Wf := by simpa [s2] using h1
    split <;> simp [h2]
  · exact hs

@[simp] theorem wf_captureDone {s : State} (hs : (mems s).Wf) (r : Region) (c : Capture) (partial' : Bool) :
    (mems (captureDone s r c partial')).Wf := by
  simp [captureDone, hs]

@[simp] theorem mems_putCapture (s : State) (r : Region) (c : Capture) : mems (putCapture s r c) = mems s := by simp [putCapture]

@[simp] theorem wf_segmentTake {s : State} (hs : (mems s).Wf) (r : Region) (g : CapSegment) : (mems (segmentTake s r g)).Wf := by
  unfold segmentTake
  dsimp only
  (repeat' split) <;> simp [hs]

@[simp] theorem wf_segmentRx {s : State} (hs : (mems s).Wf) (r : Region) (g : CapSegment) : (mems (segmentRx s r g)).Wf :=
  wf_airTake hs _ _ _ _ _ _ fun _ hs => wf_segmentTake hs ..

@[simp] theorem wf_uploadTimeout {s : State} (hs : (mems s).Wf) (r : Region) : (mems (uploadTimeout s r)).Wf := by
  unfold uploadTimeout
  split <;> simp [hs]

@[simp] theorem mems_modNfw (s : State) (r : Region) (f : NfwSt → NfwSt) : mems (modNfw s r f) = mems s := by simp [modNfw]

@[simp] theorem mems_nfwLoad (s : State) (r : Region) : mems (nfwLoad s r) = mems s := by
  unfold nfwLoad
  dsimp only
  split
  · simp
  · split <;> simp

@[simp] theorem mems_nfwActivate (s : State) (r : Region) : mems (nfwActivate s r) = mems s := by simp [nfwActivate]
@[simp] theorem mems_nfwAbort (s : State) (r : Region) : mems (nfwAbort s r) = mems s := by simp [nfwAbort]
@[simp] theorem mems_nfwTimeout (s : State) (r : Region) : mems (nfwTimeout s r) = mems s := by simp [nfwTimeout]
@[simp] theorem mems_nfwCmd (s : State) (r : Region) (cmd : Nat) : mems (nfwCmd s r cmd) = mems s := by simp [nfwCmd]

@[simp] theorem wf_chalFail {s : State} (hs : (mems s).Wf) (r : Region) (h cause : Nat) : (mems (chalFail s r h cause)).Wf := by
  unfold chalFail
  exact wf_emitRe (by simpa using hs) ..

@[simp] theorem wf_chalPass {s : State} (hs : (mems s).Wf) (r : Region) (h : Nat) : (mems (chalPass s r h)).Wf := by
  unfold chalPass
  exact wf_emitRe (by simpa using hs) ..

@[simp] theorem mems_takeParts (s : State) (r : Region) (hop : Nat) (x3 : List AirPart) (x4 : Option (List Byte)) :
    mems (takeParts s r hop x3 x4).1 = mems s := by
  induction x3 generalizing s x4 with
  | nil => rfl
  | cons p t ih =>
    unfold takeParts
    split
    · dsimp only
      split <;> simp [ih]
    · rfl

@[simp] theorem mems_chalAnswer (s : State) (r : Region) (hop : Nat) (parts : List AirPart) : mems (chalAnswer s r hop parts) = mems s := by
  unfold chalAnswer
  dsimp only
  split <;> simp

@[simp] theorem wf_chalTimeout {s : State} (hs : (mems s).Wf) (r : Region) : (mems (chalTimeout s r)).Wf := by
  unfold chalTimeout
  split <;> simp [hs]

@[simp] theorem mems_chalRoutine (s : State) (r : Region) : mems (chalRoutine s r) = mems s := by simp [chalRoutine]

@[simp] theorem wf_heardEntry {s : State} (hs : (mems s).Wf) (r : Region) (count : Nat) (stepOfs : Word) (e : CmdEntry) :
    (mems (heardEntry s r count stepOfs e)).Wf := by
  unfold heardEntry
  split <;> simp [hs]

@[simp] theorem mems_heardBeacon (s : State) (r : Region) (b : Beacon) : mems (heardBeacon s r b) = mems s := by simp [heardBeacon]

@[simp] theorem mems_heardChallenge (s : State) (r : Region) (h : Nat) (b : List Byte) : mems (heardChallenge s r h b) = mems s := by
  simp [heardChallenge]

@[simp] theorem mems_heardDown (s : State) (r : Region) (h : Nat) (code : Byte) (rest : List Byte) :
    mems (heardDown s r h code rest) = mems s := by
  simp [heardDown]

@[simp] theorem wf_heardAck {s : State} (hs : (mems s).Wf) (r : Region) : (mems (heardAck s r)).Wf := by simp [heardAck, hs]

@[simp] theorem wf_leadMeans {s : State} (hs : (mems s).Wf) (r : Region) (x2 : LeadBody) : (mems (leadMeans s r x2)).Wf := by
  unfold leadMeans
  split
  · simp [hs]
  · simp only [mems_modRg]
    exact wf_foldl _ _ hs fun s e hs => by simp [hs]
  · simp [hs]
  · simp [hs]
  · simpa using hs

@[simp] theorem wf_leadHeard {s : State} (hs : (mems s).Wf) (r : Region) (p : LeadPacket) : (mems (leadHeard s r p)).Wf := by
  unfold leadHeard
  dsimp only
  (repeat' split) <;> simp [hs]

@[simp] theorem wf_ordWrite {s : State} (hs : (mems s).Wf) (who : Writer) (r : Region) (off : Nat) (v : Word) :
    (mems (ordWrite s who r off v)).Wf := by
  unfold ordWrite
  dsimp only
  (repeat' split) <;> simp [hs]

/-! ### Sewing (Machine/Sew.lean) -/

@[simp] theorem wf_mapRefused {s : State} (hs : (mems s).Wf) (r : Region) (m : RegionMap) : (mems (mapRefused s r m)).Wf := by
  simp [mapRefused, hs]

@[simp] theorem mems_mapEnter (s : State) (r : Region) (m : RegionMap) : mems (mapEnter s r m) = mems s := by simp [mapEnter]
@[simp] theorem mems_modSew (s : State) (r : Region) (f : SewSt → SewSt) : mems (modSew s r f) = mems s := by simp [modSew]
@[simp] theorem wf_sewEvent {s : State} (hs : (mems s).Wf) (r : Region) : (mems (sewEvent s r)).Wf := by simp [sewEvent, hs]

@[simp] theorem mems_sewSend (s : State) (r : Region) (type wait : Nat) (body : List Byte) :
    mems (sewSend s r type wait body) = mems s := by
  unfold sewSend
  split <;> simp

@[simp] theorem mems_keySend (s : State) (r : Region) : mems (keySend s r) = mems s := by
  unfold keySend
  dsimp only
  split <;> simp

@[simp] theorem mems_paramsSend (s : State) (r : Region) (m : RegionMap) : mems (paramsSend s r m) = mems s := by simp [paramsSend]

@[simp] theorem wf_sewGo {s : State} (hs : (mems s).Wf) (r : Region) (result : Byte) (next : SewStep) (ns : Nat) :
    (mems (sewGo s r result next ns)).Wf := by
  simp [sewGo, hs]

@[simp] theorem wf_sewCall {s : State} (hs : (mems s).Wf) (r : Region) (k : Nat) (result : Byte) : (mems (sewCall s r k result)).Wf := by
  simp [sewCall, hs]

@[simp] theorem wf_sewTake {s : State} (hs : (mems s).Wf) (r : Region) (result : Byte) : (mems (sewTake s r result)).Wf := by
  unfold sewTake
  split <;> simp [hs]

@[simp] theorem wf_sewExclude {s : State} (hs : (mems s).Wf) (r : Region) (result : Byte) : (mems (sewExclude s r result)).Wf := by
  simp [sewExclude, hs]

@[simp] theorem wf_sewJoin {s : State} (hs : (mems s).Wf) (r : Region) (delay next : Half) : (mems (sewJoin s r delay next)).Wf := by
  unfold sewJoin
  dsimp only
  split <;> simp [hs]

@[simp] theorem wf_sewOut {s : State} (hs : (mems s).Wf) (r : Region) : (mems (sewOut s r)).Wf := by simp [sewOut, hs]
@[simp] theorem wf_sewStart {s : State} (hs : (mems s).Wf) (r : Region) : (mems (sewStart s r)).Wf := by simp [sewStart, hs]
@[simp] theorem mems_sewBusy (s : State) (r : Region) : mems (sewBusy s r) = mems s := by simp [sewBusy]

@[simp] theorem wf_sewFrom {s : State} (hs : (mems s).Wf) (r : Region) (h : Nat) (keep : Bool) : (mems (sewFrom s r h keep)).Wf := by
  unfold sewFrom
  dsimp only
  split <;> simp [hs]

@[simp] theorem wf_sewSigned {s : State} (hs : (mems s).Wf) (r : Region) : (mems (sewSigned s r)).Wf := by
  unfold sewSigned
  dsimp only
  split <;> simp [hs]

@[simp] theorem wf_sewFinish {s : State} (hs : (mems s).Wf) (r : Region) : (mems (sewFinish s r)).Wf := by
  unfold sewFinish
  dsimp only
  split
  · exact hs
  · split
    · simpa using hs
    · exact wf_rsaDo (by simpa using hs) _ _ (by simp [hs])

@[simp] theorem wf_sewAbandon {s : State} (hs : (mems s).Wf) (r : Region) : (mems (sewAbandon s r)).Wf := by
  unfold sewAbandon
  split
  · dsimp only
    split <;> simp [hs]
  · simp [hs]

@[simp] theorem wf_sewCmd {s : State} (hs : (mems s).Wf) (r : Region) (cmd hop : Nat) : (mems (sewCmd s r cmd hop)).Wf := by
  unfold sewCmd
  split
  · simp [hs]
  · split
    · simp [hs]
    · split
      · simp [hs]
      · split <;> simp [hs]

@[simp] theorem wf_surveyEnd {s : State} (hs : (mems s).Wf) (r : Region) (energies : List Nat) : (mems (surveyEnd s r energies)).Wf := by
  simp [surveyEnd, hs]

@[simp] theorem mems_sewHeard (s : State) (r : Region) (act : State → State) (h : ∀ s, mems (act s) = mems s) :
    mems (sewHeard s r act) = mems s := by
  unfold sewHeard; split <;> simp [h]
theorem wf_sewHeard {s : State} (hs : (mems s).Wf) (r : Region) (act : State → State) (h : ∀ s, (mems s).Wf → (mems (act s)).Wf) :
    (mems (sewHeard s r act)).Wf := by
  unfold sewHeard
  split
  · exact hs
  · exact h _ (by simpa using hs)

@[simp] theorem mems_enrolAnswer (s : State) (r : Region) (a : EnrolAnswer) : mems (enrolAnswer s r a) = mems s := by simp [enrolAnswer]
@[simp] theorem wf_windowEnd {s : State} (hs : (mems s).Wf) (r : Region) : (mems (windowEnd s r)).Wf := by simp [windowEnd, hs]

@[simp] theorem wf_sewProve {s : State} (hs : (mems s).Wf) (r : Region) (chal : List Byte) (a : ChallengeAnswer) :
    (mems (sewProve s r chal a)).Wf := by
  unfold sewProve
  dsimp only
  split <;> simp [hs]

@[simp] theorem wf_sewChallengeRx {s : State} (hs : (mems s).Wf) (r : Region) (a : ChallengeAnswer) : (mems (sewChallengeRx s r a)).Wf := by
  unfold sewChallengeRx
  dsimp only
  split
  · exact wf_rsaDo hs _ _ (by simp [hs])
  · exact hs

@[simp] theorem wf_keyAck {s : State} (hs : (mems s).Wf) (r : Region) (mic : Word) : (mems (keyAck s r mic)).Wf := by
  unfold keyAck
  dsimp only
  split <;> simp [hs]

@[simp] theorem wf_rrWrite {s : State} (hs : (mems s).Wf) (who : Writer) (r : Region) (off : Nat) (v : Word) :
    (mems (rrWrite s who r off v)).Wf := by
  unfold rrWrite
  dsimp only
  (repeat' split) <;> simp [hs]

@[simp] theorem wf_rangingDone {s : State} (hs : (mems s).Wf) (r : Region) (delay : Half) : (mems (rangingDone s r delay)).Wf := by
  unfold rangingDone
  dsimp only
  split
  · simp [hs]
  · split
    · simp [hs]
    · split
      · simp [hs]
      · split <;> simp [hs]

/-! ### Folios and settings (Machine/Folio.lean) -/

@[simp] theorem mems_clampLoad (s : State) (subject given applied : Word) (scope : Half) (source reason : Byte) :
    mems (clampLoad s subject given applied scope source reason) = mems s := by
  simp [clampLoad]

@[simp] theorem mems_stampLoad (s : State) : mems (stampLoad s) = mems s := by simp [stampLoad]
@[simp] theorem mems_reportFull (s : State) (reload : Bool) : mems (reportFull s reload) = mems s := by simp [reportFull]

@[simp] theorem mems_loadField (source : Byte) (n : Nat) (all : List Field) (s : State) (x : Nat × Field) :
    mems (loadField source n all s x) = mems s := by
  simp [loadField]

@[simp] theorem mems_loadPairs (source : Byte) (l : List Field) (s : State) (ok : Nat → Bool) :
    mems (loadPairs source l s ok) = mems s := by
  simp [loadPairs]

@[simp] theorem mems_loadAreas (source : Byte) (l : List Field) (s : State) : mems (loadAreas source l s) = mems s := by simp [loadAreas]
@[simp] theorem mems_loadPeriod (l : List Field) (s : State) : mems (loadPeriod l s) = mems s := by simp [loadPeriod]
@[simp] theorem mems_loadHolds (s : State) : mems (loadHolds s) = mems s := by simp [loadHolds]
@[simp] theorem mems_loadSettings (s : State) (b : List Byte) : mems (loadSettings s b) = mems s := by simp [loadSettings]

@[simp] theorem mems_loadEvent (s : State) (w : Worker) (reason : Nat) (scope : Half) : mems (loadEvent s w reason scope) = mems s := by
  simp [loadEvent]

theorem wf_unloaded (s : State) (w : Worker) : memWf (unloaded s w).scratch = true := rfl

@[simp] theorem wf_loadWorker {s : State} (hs : (mems s).Wf) (source : Byte) (w : Worker) (e : List Byte) :
    (mems (loadWorker source s w e)).Wf := by
  have h0 : (mems (setWk s w (unloaded s w))).Wf := wf_setWk hs w _ (wf_unloaded s w)
  unfold loadWorker
  extract_lets entry sc note s0 prio rmax s1 bud s2 base off len d s3 s4 s5 s6
  have hn : ∀ (t : State) (a b : Nat) (k : Byte), (mems t).Wf → (mems (note t a b k)).Wf := fun t a b k h => by simpa [note] using h
  split
  · exact h0
  · split
    · simpa using h0
    · split
      · simpa using h0
      · split
        · simpa using h0
        · have h1 : (mems s1).Wf := by unfold s1; split; exacts [hn _ _ _ _ h0, h0]
          have h2 : (mems s2).Wf := by unfold s2; split; exacts [h1, hn _ _ _ _ h1]
          have h3 : (mems s3).Wf := by unfold s3; split; exacts [hn _ _ _ _ h2, h2]
          have h4 : (mems s4).Wf := by unfold s4; split; exacts [hn _ _ _ _ h3, h3]
          have h5 : (mems s5).Wf := by unfold s5; split; exacts [hn _ _ _ _ h4, h4]
          have h6 : (mems s6).Wf := by unfold s6; split; exacts [hn _ _ _ _ h5, h5]
          exact wf_setWk h6 w _ rfl

@[simp] theorem wf_missingWorker {s : State} (hs : (mems s).Wf) (source : Byte) (w : Worker) : (mems (missingWorker source s w)).Wf := by
  have h0 : (mems (setWk s w (unloaded s w))).Wf := wf_setWk hs w _ (wf_unloaded s w)
  simpa [missingWorker] using h0

@[simp] theorem mems_startLoaded (s : State) (b : List Byte) (w : Worker) : mems (startLoaded s b w) = mems s := by
  unfold startLoaded
  split <;> simp

@[simp] theorem wf_loadWorkers {s : State} (hs : (mems s).Wf) (b : List Byte) : (mems (loadWorkers s b)).Wf := by
  refine wf_forWorkers hs _ fun w s hs => ?_
  split <;> simp [hs]

@[simp] theorem mems_loadChan (source : Byte) (b : List Byte) (s : State) (c : Chan) : mems (loadChan source b s c) = mems s := by
  simp [loadChan]

@[simp] theorem mems_loadChans (s : State) (b : List Byte) : mems (loadChans s b) = mems s := by simp [loadChans]

@[simp] theorem wf_loadTables' {s : State} (hs : (mems s).Wf) (b : List Byte) (only : Option Nat) : (mems (loadTables' s b only)).Wf := by
  refine wf_foldl _ _ hs fun s x hs => ?_
  split
  · exact wf_modMem hs _ (dram_wf hs) (memWrite_wf _ _ _ (memClear_wf _ _ _ (tables_wf hs)))
  · exact hs

@[simp] theorem mems_folioResult (s : State) (cmd result : Byte) : mems (folioResult s cmd result) = mems s := by simp [folioResult]
@[simp] theorem mems_folioVerify (s : State) : mems (folioVerify s) = mems s := by simp [folioVerify]
@[simp] theorem mems_folioVerifyDone (s : State) : mems (folioVerifyDone s) = mems s := by simp [folioVerifyDone]

@[simp] theorem mems_writeSlot (s : State) : mems (writeSlot s) = mems s := by
  unfold writeSlot
  dsimp only
  split
  · simp
  · split <;> simp

@[simp] theorem wf_writeSlotDone {s : State} (hs : (mems s).Wf) : (mems (writeSlotDone s)).Wf := by
  unfold writeSlotDone
  split
  · exact hs
  · refine wf_modFolio hs _ ?_ ?_
    · simp only [imgA_setSlot]
      split
      · exact memWrite_wf _ _ _ memWf_nil
      · exact imgA_wf hs
    · simp only [imgB_setSlot]
      split
      · exact imgB_wf hs
      · exact memWrite_wf _ _ _ memWf_nil

@[simp] theorem mems_folioConfirm (s : State) : mems (folioConfirm s) = mems s := by
  unfold folioConfirm
  dsimp only
  split
  · simp
  · split <;> simp

@[simp] theorem mems_folioActivate (s : State) : mems (folioActivate s).1 = mems s := by
  unfold folioActivate
  dsimp only
  split
  · simp
  · split <;> simp

@[simp] theorem mems_reloadWait (s : State) (r : Region) (m : Word) : mems (reloadWait s r m) = mems s := by simp [reloadWait]
@[simp] theorem mems_reloadStart (s : State) (r : Region) : mems (reloadStart s r) = mems s := by simp [reloadStart]

@[simp] theorem wf_unloadWorker {s : State} (hs : (mems s).Wf) (w : Worker) : (mems (unloadWorker s w)).Wf :=
  wf_setWk (wf_leaveWorker (by simpa using hs) ..) w _ (wf_unloaded _ w)

@[simp] theorem wf_reloadApply {s : State} (hs : (mems s).Wf) (r : Region) : (mems (reloadApply s r)).Wf := by
  unfold reloadApply
  extract_lets f b ws mine gone s1 s2 s3 l group s4 s5 s6 s7 s8 s9 new s10 s11 s12 s13
  have h1 : (mems s1).Wf := wf_forWorkers hs _ fun w s hs => by split <;> simp [hs]
  have h2 : (mems s2).Wf := by simpa [s2] using h1
  have h3 : (mems s3).Wf := wf_loadTables' h2 ..
  clear_value s3
  have h4 : (mems s4).Wf := by simpa [s4] using h3
  have h5 : (mems s5).Wf := wf_foldl _ _ h4 fun s x hs => by split <;> simp [hs]
  clear_value s5
  have h6 : (mems s6).Wf := by simpa [s6] using h5
  have h7 : (mems s7).Wf := wf_foldl _ _ h6 fun s x hs => by simpa using hs
  clear_value s7
  have h8 : (mems s8).Wf := by simpa [s8] using h7
  have h9 : (mems s9).Wf := by simp [s9, h8]
  clear_value s9
  have h10 : (mems s10).Wf := wf_forWorkers h9 _ fun w s hs => by
    split <;> split <;> simp [hs]
  have h11 : (mems s11).Wf := wf_forWorkers h10 _ fun w s hs => by
    split
    · simp [hs]
    · exact hs
  clear_value s11
  simpa [s13, s12] using h11

@[simp] theorem wf_reloadDue {s : State} (hs : (mems s).Wf) : (mems (reloadDue s)).Wf := by
  unfold reloadDue
  split <;> simp [hs]

@[simp] theorem mems_reloadTimeout (s : State) : mems (reloadTimeout s) = mems s := by
  unfold reloadTimeout
  split <;> simp

@[simp] theorem mems_fieldWait (s : State) (m : Word) (order id : Nat) (given v : Word) (reason : Byte) :
    mems (fieldWait s m order id given v reason) = mems s := by
  unfold fieldWait
  extract_lets s1
  have h1 : mems s1 = mems s := by simp [s1]
  clear_value s1
  split
  · simp [h1]
  · split <;> simp [h1]

@[simp] theorem mems_fieldTake (s : State) (order : Nat) (f : Field) (m : Word) : mems (fieldTake s order f m) = mems s := by
  simp [fieldTake]

@[simp] theorem mems_settingsSubmit (s : State) (k : Session) (hi : Word) : mems (settingsSubmit s k hi) = mems s := by
  simp [settingsSubmit]

@[simp] theorem mems_settingMoved (s : State) (id : Nat) : mems (settingMoved s id) = mems s := by simp [settingMoved]
@[simp] theorem mems_settingPut (s : State) (id : Nat) (v : Word) : mems (settingPut s id v) = mems s := by simp [settingPut]

@[simp] theorem mems_settingRedo (s : State) (id : Nat) (v : Word) : mems (settingRedo s id v) = mems s := by
  unfold settingRedo
  split <;> simp

@[simp] theorem mems_fieldApply (s : State) (p : PendingField) : mems (fieldApply s p) = mems s := by
  unfold fieldApply
  dsimp only
  split <;> simp

@[simp] theorem mems_sweepSetting (s : State) (who : Writer) (addr id : Nat) (v : Word) : mems (sweepSetting s who addr id v) = mems s := by
  unfold sweepSetting
  split <;> simp

@[simp] theorem mems_folioWrite (s : State) (k : Session) (off : Nat) (v : Word) : mems (folioWrite s k off v) = mems s := by
  unfold folioWrite
  split <;> (try split) <;> simp

/-! ### Recorder (Machine/Recorder.lean) -/

@[simp] theorem mems_recEvent (s : State) (code : Half) (args : Word) : mems (recEvent s code args) = mems s := by simp [recEvent]
@[simp] theorem mems_durPut (s : State) (l : List Rec) : mems (durPut s l) = mems s := by simp [durPut]

@[simp] theorem mems_sendStatus (s : State) (sideB : Bool) (code : Half) (seq : DWord) : mems (sendStatus s sideB code seq) = mems s := by
  simp [sendStatus]

@[simp] theorem mems_storageFault (s : State) (store slot : Nat) : mems (storageFault s store slot) = mems s := by simp [storageFault]

@[simp] theorem mems_ringWrite (s : State) (ringFault durFault : Bool) : mems (ringWrite s ringFault durFault) = mems s := by
  simp [ringWrite]

@[simp] theorem mems_summary (s : State) (b : Bucket) : mems (summary s b) = mems s := by simp [summary]

@[simp] theorem mems_tokenRefill (s : State) (code : Half) : mems (tokenRefill s code) = mems s := by
  unfold tokenRefill
  split <;> simp

@[simp] theorem mems_summaryTimer (s : State) (code : Half) : mems (summaryTimer s code) = mems s := by
  unfold summaryTimer
  split <;> simp

@[simp] theorem mems_ribbonTaken (s : State) (k : Fin 4) : mems (ribbonTaken s k) = mems s := by simp [ribbonTaken]
@[simp] theorem mems_ribbonMove (s : State) (p : Snap) (k : Fin 4) : mems (ribbonMove s p k) = mems s := by simp [ribbonMove]
@[simp] theorem mems_snapDrop (s : State) (rd : Reader) (addr : Nat) : mems (snapDrop s rd addr) = mems s := by simp [snapDrop]

@[simp] theorem mems_ribbonTailRead (s : State) (rd : Reader) (k : Fin 4) : mems (ribbonTailRead s rd k) = mems s := by
  unfold ribbonTailRead
  split <;> simp

@[simp] theorem mems_ribbonSeek (s : State) (k : Fin 4) (hi : Word) : mems (ribbonSeek s k hi) = mems s := by simp [ribbonSeek]
@[simp] theorem mems_clearJudge (s : State) : mems (clearJudge s) = mems s := by simp [clearJudge]
@[simp] theorem mems_recordClear (s : State) : mems (recordClear s) = mems s := by simp [recordClear]

@[simp] theorem wf_zeroPart {s : State} (hs : (mems s).Wf) (line : Nat) (e : DirEntry) : (mems (zeroPart line s e)).Wf :=
  wf_modMem hs _ (memWrite_wf _ _ _ (dram_wf hs)) (tables_wf hs)

@[simp] theorem wf_defaultCell {s : State} (hs : (mems s).Wf) (c : Nat) : (mems (defaultCell s c)).Wf := by
  unfold defaultCell
  split <;> simp [hs]

@[simp] theorem wf_repairLine {s : State} (hs : (mems s).Wf) (line : Nat) : (mems (repairLine s line)).Wf := by
  unfold repairLine
  dsimp only
  split
  · exact hs
  · split
    · exact wf_dramWhole hs ..
    · exact wf_foldl _ _ (wf_foldl _ _ (by simpa using hs) fun s e hs => wf_zeroPart hs ..) fun s c hs => wf_defaultCell hs ..

@[simp] theorem wf_lineLost {s : State} (hs : (mems s).Wf) (line : Nat) : (mems (lineLost s line)).Wf := by
  unfold lineLost
  dsimp only
  split <;> simp [hs]

@[simp] theorem wf_scrubLine {s : State} (hs : (mems s).Wf) (o : LineOutcome) : (mems (scrubLine s o)).Wf := by
  unfold scrubLine
  split <;> simp [hs]

@[simp] theorem mems_recCtlWrite (s : State) (who : Writer) (off : Nat) (v : Word) : mems (recCtlWrite s who off v) = mems s := by
  unfold recCtlWrite
  extract_lets fix k b put src s1 w w' s2
  have hfix : ∀ (t : State) (x : Word), mems (fix t x) = mems t := fun t x => by unfold fix; split <;> simp
  have hput : ∀ b, mems (put b) = mems s := fun b => by simp [put]
  split
  · rfl
  · split
    · split <;> (try split) <;> simp [hput, s1]
    · split
      · simp [hfix]
      · split
        · simp
        · split <;> (try split) <;> (try split) <;> simp [s2]

/-! ### Twin (Machine/Twin.lean) -/

@[simp] theorem mems_emitTwin (s : State) (level e : Nat) (keep marked : Bool) (args : Nat) :
    mems (emitTwin s level e keep marked args) = mems s := by
  simp [emitTwin]

@[simp] theorem mems_leadMute (s : State) : mems (leadMute s) = mems s := by simp [leadMute]
@[simp] theorem mems_setRole (s : State) (r : Role) (drive matched : Bool) : mems (setRole s r drive matched) = mems s := by simp [setRole]
@[simp] theorem mems_releaseOutputs (s : State) : mems (releaseOutputs s) = mems s := by simp [releaseOutputs]

@[simp] theorem wf_becomeYielded {s : State} (hs : (mems s).Wf) : (mems (becomeYielded s)).Wf := by
  unfold becomeYielded
  simp only [mems_setRole, mems_releaseOutputs]
  exact wf_forRegions hs _ fun r s hs => by split <;> simp [hs]

@[simp] theorem mems_presentOff (s : State) : mems (presentOff s) = mems s := by
  unfold presentOff
  split
  · rw [mems_forWorkers, mems_modTwin]
    intro w s
    dsimp only
    split <;> simp
  · rfl

@[simp] theorem mems_sessionClose (s : State) : mems (sessionClose s) = mems s := by simp [sessionClose]
@[simp] theorem mems_busesStart (s : State) : mems (busesStart s) = mems s := by simp [busesStart]
@[simp] theorem mems_restartBegin (s : State) (cause : BitVec 4) : mems (restartBegin s cause) = mems s := by simp [restartBegin]

@[simp] theorem wf_settleYield {s : State} (hs : (mems s).Wf) (given : Bool) : (mems (settleYield s given)).Wf := by
  unfold settleYield
  dsimp only
  split <;> simp [hs]

@[simp] theorem mems_linkState (s : State) (lost : Bool) : mems (linkState s lost) = mems s := by simp [linkState]

@[simp] theorem wf_holdOpen {s : State} (hs : (mems s).Wf) (r : Region) : (mems (holdOpen s r)).Wf := by
  unfold holdOpen
  split
  · simp only [mems_reEnter]
    exact wf_coilSet (wf_coilSet (wf_coilSet (by simp [wf_stepEnd hs]) _ _ _) _ _ _) _ _ _
  · exact hs

@[simp] theorem wf_twinLost {s : State} (hs : (mems s).Wf) : (mems (twinLost s)).Wf := by
  unfold twinLost
  extract_lets now takes bare s1 s2 s3 s4 s5 s6
  have h1 : (mems s1).Wf := by simp [s1, hs]
  have h2 : (mems s2).Wf := by
    unfold s2
    split
    · exact wf_forRegions h1 _ fun r s hs => by split <;> simp [hs]
    · exact h1
  have h4 : (mems s4).Wf := by simp [s4, s3, h2]
  have h5 : (mems s5).Wf := by
    unfold s5
    split
    · simp [h4]
    · split <;> simp [h2]
  have h6 : (mems s6).Wf := by simp [s6, h5]
  split <;> simp [h6]

@[simp] theorem mems_refusePeer (s : State) (why : Nat) : mems (refusePeer s why) = mems s := by simp [refusePeer]
@[simp] theorem mems_takeCounts (s : State) (sweep : Word) (cycle : BitVec 40) : mems (takeCounts s sweep cycle) = mems s := by rfl
@[simp] theorem mems_joinAgain (s : State) : mems (joinAgain s) = mems s := by simp [joinAgain]
@[simp] theorem mems_beginJoin (s : State) : mems (beginJoin s) = mems s := by simp [beginJoin]
@[simp] theorem mems_joinTransfer (s : State) : mems (joinTransfer s) = mems s := by simp [joinTransfer]
@[simp] theorem mems_sendKey (s : State) : mems (sendKey s) = mems s := by simp [sendKey]
@[simp] theorem mems_knowPeer (s : State) (h : Hello) : mems (knowPeer s h) = mems s := by simp [knowPeer]
@[simp] theorem mems_sideConflict (s : State) : mems (sideConflict s) = mems s := by simp [sideConflict]
@[simp] theorem mems_firstRole (s : State) : mems (firstRole s) = mems s := by simp [firstRole]
@[simp] theorem mems_helloJudge (s : State) (h : Hello) : mems (helloJudge s h) = mems s := by simp [helloJudge]
@[simp] theorem mems_helloRx (s : State) (h : Hello) : mems (helloRx s h) = mems s := by simp [helloRx]
@[simp] theorem mems_decideAlone (s : State) : mems (decideAlone s) = mems s := by simp [decideAlone]
@[simp] theorem mems_sessionOpen (s : State) : mems (sessionOpen s) = mems s := by simp [sessionOpen]

@[simp] theorem mems_sendMaps (s : State) (l : List (Region × RegionMap)) : mems (sendMaps s l) = mems s := by
  unfold sendMaps
  rw [mems_foldl]
  · simp
  · intro s x
    split <;> simp

@[simp] theorem mems_tellRekeys (s : State) : mems (tellRekeys s) = mems s := by simp [tellRekeys]
@[simp] theorem mems_keyFails (s : State) : mems (keyFails s) = mems s := by simp [keyFails]
@[simp] theorem mems_keyOpen (s : State) (m : KeyMsg) : mems (keyOpen s m) = mems s := by simp [keyOpen]
@[simp] theorem mems_keyRx (s : State) (m : KeyMsg) : mems (keyRx s m) = mems s := by simp [keyRx]

@[simp] theorem mems_twinFrame (s : State) (f : TwinHdr) (type : Nat) (act : State → State) (h : ∀ s, mems (act s) = mems s) :
    mems (twinFrame s f type act) = mems s := by
  unfold twinFrame; dsimp only
  split
  · rfl
  · split <;> simp [h]
theorem wf_twinFrame {s : State} (hs : (mems s).Wf) (f : TwinHdr) (type : Nat) (act : State → State)
    (h : ∀ s, (mems s).Wf → (mems (act s)).Wf) : (mems (twinFrame s f type act)).Wf := by
  unfold twinFrame; dsimp only
  split
  · exact hs
  · split
    · exact h _ (by simpa using hs)
    · simpa using hs

@[simp] theorem mems_dropMirror (s : State) : mems (dropMirror s) = mems s := by simp [dropMirror]
@[simp] theorem mems_matchFails (s : State) (mirror : Bool) : mems (matchFails s mirror) = mems s := by simp [matchFails]
@[simp] theorem mems_askTransfer (s : State) : mems (askTransfer s) = mems s := by simp [askTransfer]

@[simp] theorem wf_diverge {s : State} (hs : (mems s).Wf) (rs : List Region) (cs : List Chan) : (mems (diverge s rs cs)).Wf := by
  unfold diverge
  extract_lets s1 mirror fails asks s2 s3 s4 s5
  have h1 : (mems s1).Wf := by simpa [s1] using hs
  have h2 : (mems s2).Wf := wf_foldl _ _ h1 fun s r hs => by simp [hs]
  have h3 : (mems s3).Wf := wf_foldl _ _ h2 fun s c hs => by simp [hs]
  have h4 : (mems s4).Wf := by unfold s4; split <;> simp [h3]
  have h5 : (mems s5).Wf := by simp [s5, h4]
  split
  · simp [h5]
  · split <;> simp [h5]

@[simp] theorem mems_becomeMirror (s : State) : mems (becomeMirror s) = mems s := by simp [becomeMirror]
@[simp] theorem wf_compare {s : State} (hs : (mems s).Wf) (a b : Digest) : (mems (compare s a b)).Wf := by simp [compare, hs]

@[simp] theorem wf_digestCheck {s : State} (hs : (mems s).Wf) (n : Word) : (mems (digestCheck s n)).Wf := by
  unfold digestCheck
  split <;> simp [hs]

@[simp] theorem wf_digestTake {s : State} (hs : (mems s).Wf) (p : PackRec) : (mems (digestTake s p)).Wf := by simp [digestTake, hs]
@[simp] theorem wf_digestRx {s : State} (hs : (mems s).Wf) (d : Digest) : (mems (digestRx s d)).Wf := by simp [digestRx, hs]
@[simp] theorem mems_linkBack (s : State) : mems (linkBack s) = mems s := by simp [linkBack]
@[simp] theorem mems_heartbeat (s : State) (b : Heartbeat) : mems (heartbeat s b) = mems s := by simp [heartbeat]
@[simp] theorem wf_heartbeatLoss {s : State} (hs : (mems s).Wf) : (mems (heartbeatLoss s)).Wf := by simp [heartbeatLoss, hs]
@[simp] theorem mems_hbEdge (s : State) : mems (hbEdge s) = mems s := by simp [hbEdge]
@[simp] theorem wf_hbStays {s : State} (hs : (mems s).Wf) : (mems (hbStays s)).Wf := by simp [hbStays, hs]
@[simp] theorem mems_xferStart (s : State) : mems (xferStart s) = mems s := by simp [xferStart]
@[simp] theorem mems_takeMaps (s : State) (l : List (Region × RegionMap)) : mems (takeMaps s l) = mems s := by simp [takeMaps]
@[simp] theorem mems_settingTaken (s : State) (id : Nat) : mems (settingTaken s id) = mems s := by simp [settingTaken]
@[simp] theorem mems_takeField (s : State) (f : Half × Word) : mems (takeField s f) = mems s := by simp [takeField]
@[simp] theorem mems_takeRecord (s : State) (r : FwdRecord) : mems (takeRecord s r) = mems s := by simp [takeRecord]
@[simp] theorem mems_xferEnd (s : State) : mems (xferEnd s) = mems s := by simp [xferEnd]

@[simp] theorem mems_xferTake (s : State) (b : Xfer) : mems (xferTake s b) = mems s := by
  unfold xferTake
  split <;> simp

@[simp] theorem mems_xferRx (s : State) (b : Xfer) : mems (xferRx s b) = mems s := by simp [xferRx]

@[simp] theorem wf_xferAcked {s : State} (hs : (mems s).Wf) (kib : Nat) (last : Bool) : (mems (xferAcked s kib last)).Wf := by
  simp [xferAcked, hs]

@[simp] theorem mems_retryXfer (s : State) : mems (retryXfer s) = mems s := by simp [retryXfer]

@[simp] theorem mems_retire (s : State) (b : Retire) : mems (retire s b) = mems s := by
  unfold retire
  dsimp only
  split
  · simp
  · split
    · split <;> simp
    · split <;> simp

@[simp] theorem mems_recordRx (s : State) (r : FwdRecord) : mems (recordRx s r) = mems s := by simp [recordRx]

@[simp] theorem wf_mirRx {s : State} (hs : (mems s).Wf) (w : Worker) (b : List Byte) : (mems (mirRx s w b)).Wf := by
  unfold mirRx
  dsimp only
  split
  · exact wf_setWk hs w _ (by simpa using wf_mirDeliver _ (scratch_wf hs w) ..)
  · split <;> simp [hs]

@[simp] theorem mems_timeFrame (s : State) (t1 t2 t3 t4 : Nat) : mems (timeFrame s t1 t2 t3 t4) = mems s := by simp [timeFrame]
@[simp] theorem mems_twinResult (s : State) (cmd result : Byte) : mems (twinResult s cmd result) = mems s := by simp [twinResult]
@[simp] theorem mems_twinYield (s : State) : mems (twinYield s) = mems s := by simp [twinYield]
@[simp] theorem wf_twinDetach {s : State} (hs : (mems s).Wf) : (mems (twinDetach s)).Wf := by simp [twinDetach, hs]
@[simp] theorem mems_twinResume (s : State) : mems (twinResume s) = mems s := by simp [twinResume]
@[simp] theorem mems_twinAdmit (s : State) : mems (twinAdmit s) = mems s := by simp [twinAdmit]
@[simp] theorem mems_twinForget (s : State) : mems (twinForget s) = mems s := by simp [twinForget]

@[simp] theorem wf_twinCmd {s : State} (hs : (mems s).Wf) (who : Writer) (cmd : Nat) : (mems (twinCmd s who cmd)).Wf := by
  unfold twinCmd
  dsimp only
  split <;> simp [hs]

@[simp] theorem wf_handOver {s : State} (hs : (mems s).Wf) : (mems (handOver s)).Wf := by simp [handOver, hs]

@[simp] theorem wf_dualYields {s : State} (hs : (mems s).Wf) : (mems (dualYields s)).Wf := by
  unfold dualYields
  have h : (mems (forRegions s fun r s => modRg s r fun x => { x with dualRun := 0 })).Wf := by simpa using hs
  simp [h]

@[simp] theorem wf_frameOrigin {s : State} (hs : (mems s).Wf) (r : Region) : (mems (frameOrigin s r)).Wf := by simp [frameOrigin, hs]

@[simp] theorem wf_twinWrite {s : State} (hs : (mems s).Wf) (who : Writer) (off : Nat) (v : Word) : (mems (twinWrite s who off v)).Wf := by
  unfold twinWrite
  dsimp only
  split <;> simp [hs]

/-! ### Starts and supplies (Machine/Start.lean) -/

@[simp] theorem wf_startMap {s : State} (hs : (mems s).Wf) (r : Region) : (mems (startMap s r)).Wf := by
  unfold startMap
  dsimp only
  split <;> simp [hs]

@[simp] theorem wf_startBase {s : State} (hs : (mems s).Wf) (cause : BitVec 4) (sideB : Bool) : (mems (startBase s cause sideB)).Wf := by
  unfold startBase
  simp only [mems_mk, dram_startMem, tables_startMem]
  exact (memsOf_wf_iff ..).2 ⟨memWf_nil, memWf_nil, imgA_wf hs, imgB_wf hs, fun w => by rw [scratch_reset]; rfl⟩

@[simp] theorem mems_chooseOther (s : State) : mems (chooseOther s).1 = mems s := by
  unfold chooseOther
  dsimp only
  split
  · split <;> simp
  · rfl

@[simp] theorem mems_chooseSlot (s : State) (activated : Bool) : mems (chooseSlot s activated).1 = mems s := by
  unfold chooseSlot
  dsimp only
  split
  · split
    · split <;> simp
    · simp
  · split <;> simp
  · simp

@[simp] theorem mems_startSettings (s : State) (cold : Bool) (nominal timeSrc : Word) (b : List Byte) :
    mems (startSettings s cold nominal timeSrc b) = mems s := by
  unfold startSettings
  extract_lets held src s1 s2 src' s3 nom s4 s5 s6 s7
  have h1 : mems s1 = mems s := by unfold s1; split <;> simp
  have h2 : mems s2 = mems s := by simp [s2, h1]
  have h4 : mems s4 = mems s := by simp [s4, s3, h2]
  have h5 : mems s5 = mems s := by unfold s5; split <;> simp [h4]
  have h6 : mems s6 = mems s := by simp [s6, h5]
  have h7 : mems s7 = mems s := by simp [s7, h6]
  simp [h7]

@[simp] theorem wf_startLoad {s : State} (hs : (mems s).Wf) (cold : Bool) (nominal timeSrc : Word) (b : List Byte) :
    (mems (startLoad s cold nominal timeSrc b)).Wf := by
  unfold startLoad
  extract_lets s1 s2 s3 s4
  have h3 : (mems s3).Wf := by simpa [s3, s2, s1] using hs
  have h4 : (mems s4).Wf := wf_loadTables' h3 ..
  simp [h4]

@[simp] theorem mems_startEmpty (s : State) (cold : Bool) (nominal timeSrc : Word) : mems (startEmpty s cold nominal timeSrc) = mems s := by
  simp [startEmpty]

@[simp] theorem wf_startAdopt {s : State} (hs : (mems s).Wf) : (mems (startAdopt s)).Wf := by
  unfold startAdopt
  extract_lets gone s1 src s2 s3
  have h1 : (mems s1).Wf := by
    unfold s1
    split <;> simp [hs]
  have h2 : (mems s2).Wf := by simpa [s2] using h1
  have h3 : (mems s3).Wf := wf_forRegions h2 _ fun r s hs => by
    split
    · dsimp only
      split <;> simp [hs]
    · exact hs
  simpa using h3

@[simp] theorem mems_startEvents (s : State) (slot : Option Bool) : mems (startEvents s slot) = mems s := by
  unfold startEvents
  dsimp only
  split <;> simp

@[simp] theorem mems_tripLoad (s : State) : mems (tripLoad s) = mems s := by simp [tripLoad]

@[simp] theorem wf_start {s : State} (hs : (mems s).Wf) (cause : BitVec 4) (sideB : Bool) : (mems (start s cause sideB)).Wf := by
  unfold start
  extract_lets cold nominal timeSrc act s1
  have h1 : (mems s1).Wf := by
    have h : (mems (forRegions (startBase s cause sideB) fun r s => startMap s r)).Wf :=
      wf_forRegions (wf_startBase hs ..) _ fun r s hs => wf_startMap hs r
    simpa [s1] using h
  clear_value s1
  split
  next s2 slot h =>
  have h2 : (mems s2).Wf := by rw [show s2 = (chooseSlot s1 act).1 by rw [h]]; simp [h1]
  extract_lets s3 b loaded s4 s5 s6
  have h3 : (mems s3).Wf := by simpa [s3] using h2
  have hl : (mems loaded).Wf := by unfold loaded; split <;> simp [h3]
  have h4 : (mems s4).Wf := by unfold s4; split <;> simp [hl]
  have h5 : (mems s5).Wf := wf_forRegions h4 _ fun r s hs => by split <;> simp [hs]
  have h6 : (mems s6).Wf := by simp [s6, h5]
  clear_value s6
  split <;> simp [h6]

@[simp] theorem mems_supplyLost (s : State) : mems (supplyLost s) = mems s := by simp [supplyLost]
@[simp] theorem mems_halted (s : State) (p : Power) : mems (halted s p) = mems s := by simp [halted]
@[simp] theorem mems_brownout (s : State) : mems (brownout s) = mems s := by simp [brownout]
@[simp] theorem mems_restartOrYield (s : State) (cause : BitVec 4) : mems (restartOrYield s cause) = mems s := by simp [restartOrYield]
@[simp] theorem mems_thermalShutdown (s : State) : mems (thermalShutdown s) = mems s := by simp [thermalShutdown]
@[simp] theorem mems_enforce (s : State) : mems (enforce s) = mems s := by simp [enforce]
@[simp] theorem mems_throttleMode (s : State) : mems (throttleMode s) = mems s := by simp [throttleMode]
@[simp] theorem mems_throttleTrip (s : State) : mems (throttleTrip s) = mems s := by simp [throttleTrip]
@[simp] theorem mems_throttleRelease (s : State) : mems (throttleRelease s) = mems s := by simp [throttleRelease]
@[simp] theorem mems_modeMoved (s : State) : mems (modeMoved s) = mems s := by simp [modeMoved]
@[simp] theorem mems_pwrResult (s : State) (r : Byte) : mems (pwrResult s r) = mems s := by simp [pwrResult]
@[simp] theorem mems_sleepTake (s : State) : mems (sleepTake s) = mems s := by simp [sleepTake]
@[simp] theorem mems_pwrSleep (s : State) : mems (pwrSleep s) = mems s := by simp [pwrSleep]
@[simp] theorem mems_sleepEnter (s : State) : mems (sleepEnter s) = mems s := by simp [sleepEnter]

@[simp] theorem mems_wake (s : State) (src : WakeSrc) : mems (wake s src) = mems s := by
  unfold wake
  split <;> simp

@[simp] theorem mems_pwrRestart (s : State) : mems (pwrRestart s) = mems s := by simp [pwrRestart]

@[simp] theorem mems_migrate (s : State) (k : Fin 4) : mems (migrate s k) = mems s := by
  refine mems_forWorkers _ _ fun w s => ?_
  split
  · split <;> simp
  · rfl

@[simp] theorem mems_coreLeaves (s : State) (k : Fin 4) (test : Bool) : mems (coreLeaves s k test) = mems s := by simp [coreLeaves]
@[simp] theorem mems_bistResult (s : State) (p : Fin 32) (r : Byte) : mems (bistResult s p r) = mems s := by simp [bistResult]

@[simp] theorem mems_bistStart (s : State) (p : Fin 32) : mems (bistStart s p) = mems s := by
  unfold bistStart
  split
  · simp
  · split
    · simp
    · split <;> simp

@[simp] theorem mems_partReturns (s : State) (p : Fin 32) : mems (partReturns s p) = mems s := by
  unfold partReturns
  dsimp only
  (repeat' split) <;> simp

@[simp] theorem mems_partFails (s : State) (p : Fin 32) : mems (partFails s p) = mems s := by
  unfold partFails
  dsimp only
  (repeat' split) <;> simp

@[simp] theorem mems_bistEnd (s : State) (sig : DWord) (rows : Byte) (rowFail : Bool) : mems (bistEnd s sig rows rowFail) = mems s := by
  simp [bistEnd]

@[simp] theorem mems_setGrace (s : State) (who : Writer) (v : Word) : mems (setGrace s who v) = mems s := by simp [setGrace]

@[simp] theorem mems_pwrWrite (s : State) (who : Writer) (off : Nat) (v : Word) : mems (pwrWrite s who off v) = mems s := by
  unfold pwrWrite
  dsimp only
  (repeat' split) <;> simp

/-! ### Identity (Machine/Ident.lean) -/

@[simp] theorem mems_modIdent (s : State) (f : IdentSt → IdentSt) : mems (modIdent s f) = mems s := by simp [modIdent]

@[simp] theorem wf_writeOut {s : State} (hs : (mems s).Wf) (cmd : Byte) (b : List Byte) : (mems (writeOut s cmd b)).Wf := by
  simp [writeOut, hs]

@[simp] theorem wf_certsOut {s : State} (hs : (mems s).Wf) : (mems (certsOut s)).Wf := by simp [certsOut, hs]
@[simp] theorem mems_attestAsk (s : State) : mems (attestAsk s) = mems s := by simp [attestAsk]
@[simp] theorem wf_attestOut {s : State} (hs : (mems s).Wf) (m : List Byte) : (mems (attestOut s m)).Wf := by simp [attestOut, hs]

@[simp] theorem mems_svcEffect (s : State) (cmd : Nat) : mems (svcEffect s cmd).1 = mems s := by
  unfold svcEffect
  extract_lets b k
  split <;> (try split) <;> simp

@[simp] theorem mems_serviceRun (s : State) (who : Session) : mems (serviceRun s who) = mems s := by
  unfold serviceRun
  dsimp only
  split
  · split <;> simp
  · split <;> simp

@[simp] theorem mems_serviceAsk (s : State) (who : Session) : mems (serviceAsk s who) = mems s := by simp [serviceAsk]

@[simp] theorem wf_identCmd {s : State} (hs : (mems s).Wf) (k : Session) (v : Word) : (mems (identCmd s k v)).Wf := by
  unfold identCmd
  split
  · simp [hs]
  · split <;> simp [hs]

@[simp] theorem mems_setChalInt (s : State) (k : Session) (v : Word) : mems (setChalInt s k v) = mems s := by simp [setChalInt]

@[simp] theorem wf_identWrite {s : State} (hs : (mems s).Wf) (k : Session) (off : Nat) (v : Word) : (mems (identWrite s k off v)).Wf := by
  unfold identWrite
  split
  · simp [hs]
  · split
    · simp [hs]
    · split
      · simp [hs]
      · split <;> simp [hs]

/-! ### Ethernet (Machine/Net.lean) -/

@[simp] theorem mems_modNet (s : State) (f : NetSt → NetSt) : mems (modNet s f) = mems s := by simp [modNet]

@[simp] theorem mems_emitEth (s : State) (level e : Nat) (marked : Bool) (args : Nat) : mems (emitEth s level e marked args) = mems s := by
  simp [emitEth]

@[simp] theorem mems_setPtp (s : State) (st : BitVec 4) (port : Fin 2) : mems (setPtp s st port) = mems s := by simp [setPtp]

@[simp] theorem mems_ptpChoose (s : State) (before : Option PtpAnnounce) : mems (ptpChoose s before) = mems s := by
  unfold ptpChoose
  split <;> simp

@[simp] theorem mems_ptpSilent (s : State) : mems (ptpSilent s) = mems s := by simp [ptpSilent]
@[simp] theorem mems_ptpAnnounce (s : State) (m : PtpAnnounce) : mems (ptpAnnounce s m) = mems s := by simp [ptpAnnounce]

@[simp] theorem mems_ptpSync (s : State) (m : PtpSync) : mems (ptpSync s m) = mems s := by
  unfold ptpSync
  split <;> simp

@[simp] theorem mems_ptpDelay (s : State) (port : Fin 2) (domain : Byte) (delay : Word) : mems (ptpDelay s port domain delay) = mems s := by
  simp [ptpDelay]

@[simp] theorem mems_ptpPdelay (s : State) (port : Fin 2) : mems (ptpPdelay s port) = mems s := by simp [ptpPdelay]
@[simp] theorem mems_tcCount (s : State) (corrected : Bool) : mems (tcCount s corrected) = mems s := by simp [tcCount]

@[simp] theorem mems_tcSend (s : State) (ingress : Fin 2) (kind : PtpEvent) (added : Nat) :
    mems (tcSend s ingress kind added) = mems s := by
  simp [tcSend]

@[simp] theorem mems_tcHold (s : State) (ingress : Fin 2) (r : Option Nat) : mems (tcHold s ingress r) = mems s := by simp [tcHold]

@[simp] theorem mems_tcForward (s : State) (ingress : Fin 2) (kind : PtpEvent) (between : Nat) :
    mems (tcForward s ingress kind between) = mems s := by
  unfold tcForward
  dsimp only
  (repeat' split) <;> simp

@[simp] theorem mems_linkChange (s : State) (port : Fin 3) (speed : BitVec 3) : mems (linkChange s port speed) = mems s := by
  simp [linkChange]

@[simp] theorem mems_bridgeLearn (s : State) (port : Fin 2) (src : BitVec 48) : mems (bridgeLearn s port src) = mems s := by
  simp [bridgeLearn]

@[simp] theorem mems_bridgeFrame (s : State) (port : Fin 2) (src dst : BitVec 48) : mems (bridgeFrame s port src dst) = mems s := by
  simp [bridgeFrame]

@[simp] theorem mems_bridgeAge (s : State) (a : BitVec 48) : mems (bridgeAge s a) = mems s := by simp [bridgeAge]

@[simp] theorem mems_ethClamp (s : State) (who : Writer) (off : Nat) (v x y : Word) (reason : Byte) :
    mems (ethClamp s who off v x y reason) = mems s := by
  simp [ethClamp]

@[simp] theorem mems_setPtpCtrl (s : State) (v : Word) : mems (setPtpCtrl s v) = mems s := by simp [setPtpCtrl]

@[simp] theorem mems_ethWrite (s : State) (who : Writer) (off : Nat) (v : Word) : mems (ethWrite s who off v) = mems s := by
  unfold ethWrite
  split
  · split <;> simp
  · simp

/-! ### Position inputs (Machine/Position.lean) -/

@[simp] theorem mems_modQp (s : State) (n : Fin 8) (f : QpSt → QpSt) : mems (modQp s n f) = mems s := by simp [modQp]

@[simp] theorem mems_emitQp (s : State) (level e : Nat) (marked : Bool) (args : Nat) : mems (emitQp s level e marked args) = mems s := by
  simp [emitQp]

@[simp] theorem mems_qpLimits (s : State) (n : Fin 8) : mems (qpLimits s n) = mems s := by simp [qpLimits]
@[simp] theorem mems_qpStep (s : State) (n : Fin 8) (qbLeads : Bool) : mems (qpStep s n qbLeads) = mems s := by simp [qpStep]
@[simp] theorem mems_qpIndex (s : State) (n : Fin 8) (rising : Bool) : mems (qpIndex s n rising) = mems s := by simp [qpIndex]
@[simp] theorem mems_qpSkips (s : State) (n : Fin 8) : mems (qpSkips s n) = mems s := by simp [qpSkips]
@[simp] theorem mems_qpWindowEnds (s : State) (n : Fin 8) : mems (qpWindowEnds s n) = mems s := by simp [qpWindowEnds]

@[simp] theorem mems_qpStill (s : State) (n : Fin 8) : mems (qpStill s n) = mems s := by
  unfold qpStill
  dsimp only
  split <;> simp

@[simp] theorem mems_qpLoad (s : State) (who : Writer) (n : Fin 8) (v : Word) : mems (qpLoad s who n v) = mems s := by simp [qpLoad]
@[simp] theorem mems_qpClear (s : State) (n : Fin 8) : mems (qpClear s n) = mems s := by simp [qpClear]
@[simp] theorem mems_qpHold (s : State) (n : Fin 8) : mems (qpHold s n) = mems s := by simp [qpHold]
@[simp] theorem mems_qpConfigure (s : State) (n : Fin 8) (v : Word) : mems (qpConfigure s n v) = mems s := by simp [qpConfigure]
@[simp] theorem mems_qpCfgReg (s : State) (who : Writer) (n : Fin 8) (v : Word) : mems (qpCfgReg s who n v) = mems s := by simp [qpCfgReg]

@[simp] theorem mems_qpLimitReg (s : State) (who : Writer) (n : Fin 8) (hi : Bool) (v : Word) :
    mems (qpLimitReg s who n hi v) = mems s := by
  simp [qpLimitReg]

@[simp] theorem mems_qpTimeReg (s : State) (who : Writer) (n : Fin 8) (v : Word) : mems (qpTimeReg s who n v) = mems s := by
  simp [qpTimeReg]

@[simp] theorem mems_qpWrite (s : State) (who : Writer) (off : Nat) (v : Word) : mems (qpWrite s who off v) = mems s := by
  unfold qpWrite
  split
  · split <;> simp
  · simp

/-! ### Registers and snapshots (Machine/Regs.lean) -/

@[simp] theorem mems_setWheelCtrl (s : State) (who : Writer) (v : Word) : mems (setWheelCtrl s who v) = mems s := by simp [setWheelCtrl]

@[simp] theorem mems_setTickDiv (s : State) (who : Writer) (n : Fin 4) (v : Word) : mems (setTickDiv s who n v) = mems s := by
  simp [setTickDiv]

@[simp] theorem mems_tickWrite (s : State) (who : Writer) (n : Fin 4) (off : Nat) (v : Word) : mems (tickWrite s who n off v) = mems s := by
  unfold tickWrite
  split <;> simp

@[simp] theorem mems_timeWrite (s : State) (who : Writer) (a : Nat) (v : Word) : mems (timeWrite s who a v) = mems s := by
  unfold timeWrite
  split <;> simp

@[simp] theorem mems_regWait (s : State) (who : Option Writer) (a : Nat) (v m : Word) : mems (regWait s who a v m) = mems s := by
  simp [regWait]

@[simp] theorem mems_regAtSweep (s : State) (who : Writer) (a : Nat) (v : Word) : mems (regAtSweep s who a v) = mems s := by
  simp [regAtSweep]

@[simp] theorem mems_archWrite (s : State) (who : Writer) (a : Nat) (v : Word) : mems (archWrite s who a v) = mems s := by simp [archWrite]

@[simp] theorem mems_canWrite (s : State) (who : Writer) (n : Fin 4) (off : Nat) (v : Word) : mems (canWrite s who n off v) = mems s := by
  unfold canWrite
  split <;> simp

@[simp] theorem mems_sweepWrite (s : State) (who : Writer) (a : Nat) (v : Word) : mems (sweepWrite s who a v) = mems s := by
  simp [sweepWrite]

@[simp] theorem mems_markShown (s : State) (rd : Reader) (base : Nat) (w : Win) : mems (markShown s rd base w) = mems s := by
  unfold markShown
  split <;> simp

@[simp] theorem mems_markBuf (s : State) (rd : Reader) (n : Fin 4) (k : Fin 64) : mems (markBuf s rd n k) = mems s := by simp [markBuf]

@[simp] theorem mems_bufRelease (s : State) (p : Snap) (base : Nat) (n : Fin 4) (k : Fin 64) : mems (bufRelease s p base n k) = mems s := by
  unfold bufRelease
  dsimp only
  split <;> simp

@[simp] theorem mems_snapPut (s : State) (rd : Reader) (base : Nat) (words : List (Nat × Word)) :
    mems (snapPut s rd base words) = mems s := by
  simp [snapPut]

@[simp] theorem mems_winTake (s : State) (rd : Reader) (base : Nat) (w : Win) : mems (winTake s rd base w) = mems s := by
  unfold winTake
  split <;> simp

@[simp] theorem mems_winRelease (s : State) (p : Snap) (base : Nat) (w : Win) : mems (winRelease s p base w) = mems s := by
  unfold winRelease
  split <;> simp

@[simp] theorem mems_winRead (s : State) (rd : Reader) (a : Nat) (w : Win) (base tail : Nat) :
    mems (winRead s rd a w base tail).2 = mems s := by
  unfold winRead
  split
  · simp
  · split
    · simp
    · split <;> simp

@[simp] theorem mems_structRead (s : State) (rd : Reader) (a lo hi : Nat) : mems (structRead s rd a lo hi).2 = mems s := by
  unfold structRead
  split
  · simp
  · split <;> simp

@[simp] theorem mems_regRead (s : State) (rd : Reader) (a : Nat) : mems (regRead s rd a).2 = mems s := by
  unfold regRead
  split
  · simp
  · split <;> simp

@[simp] theorem mems_folioGo (s : State) : mems (folioGo s) = mems s := by simp [folioGo]

@[simp] theorem wf_hostBlock {s : State} (hs : (mems s).Wf) (k : Session) (a : Nat) (v : Word) : (mems (hostBlock s k a v)).Wf := by
  simp [hostBlock, hs]

@[simp] theorem wf_pageWrite {s : State} (hs : (mems s).Wf) (who : Writer) (r : Region) (off : Nat) (v : Word) :
    (mems (pageWrite s who r off v)).Wf := by
  simp only [pageWrite]
  (repeat' split) <;> simp [hs]

@[simp] theorem mems_chStore (s : State) (w : Worker) (c : Chan) (v : Word) : mems (chStore s w c v) = mems s := by simp [chStore]

@[simp] theorem mems_bankStore (s : State) (who : Writer) (off : Nat) (v : Word) : mems (bankStore s who off v) = mems s := by
  unfold bankStore
  split
  · simp
  · split
    · split <;> simp
    · simp

@[simp] theorem wf_wkStore {s : State} (hs : (mems s).Wf) (who : Writer) (a : Nat) (v : Word) : (mems (wkStore s who a v)).Wf := by
  simp [wkStore, hs]

@[simp] theorem mems_usbChallenge (s : State) (under : Bool) : mems (usbChallenge s under) = mems s := by simp [usbChallenge]
@[simp] theorem mems_usbRole (s : State) (op denied : Bool) : mems (usbRole s op denied) = mems s := by simp [usbRole]
@[simp] theorem mems_usbJudge (s : State) : mems (usbJudge s) = mems s := by simp [usbJudge]

@[simp] theorem mems_usbCmd (s : State) (v : Word) : mems (usbCmd s v) = mems s := by
  unfold usbCmd
  split <;> simp

@[simp] theorem mems_ethStore (s : State) (who : Writer) (a : Nat) (v : Word) : mems (ethStore s who a v) = mems s := by simp [ethStore]

@[simp] theorem wf_twinStore {s : State} (hs : (mems s).Wf) (who : Writer) (a : Nat) (v : Word) : (mems (twinStore s who a v)).Wf := by
  simp [twinStore, hs]

@[simp] theorem wf_regWrite {s : State} (hs : (mems s).Wf) (who : Writer) (a : Nat) (v : Word) : (mems (regWrite s who a v)).Wf := by
  cases who <;> simp [regWrite, hs]

@[simp] theorem mems_takeRegister (s : State) (a : Nat) (v : Word) : mems (takeRegister s a v) = mems s := by simp [takeRegister]

@[simp] theorem mems_takeForward (s : State) (b : Forward) : mems (takeForward s b) = mems s := by
  unfold takeForward
  split <;> simp

@[simp] theorem wf_cryptoEnd {s : State} (hs : (mems s).Wf) (q : CryptoReq) : (mems (cryptoEnd s q)).Wf := by
  unfold cryptoEnd
  split <;> (try split) <;> simp [hs]

@[simp] theorem wf_cryptoDone {s : State} (hs : (mems s).Wf) : (mems (cryptoDone s)).Wf := by
  unfold cryptoDone
  split <;> simp [hs]

/-! ### Host sessions (Machine/Host.lean) -/

@[simp] theorem mems_emitSession (s : State) (k : Session) (open' : Bool) (operator : Bool) :
    mems (emitSession s k open' operator) = mems s := by
  simp [emitSession]

@[simp] theorem mems_forgetShown (s : State) (rd : Reader) : mems (forgetShown s rd) = mems s := by simp [forgetShown]
@[simp] theorem mems_slotFree (s : State) (k : Session) : mems (slotFree s k) = mems s := by simp [slotFree]
@[simp] theorem mems_sessClose (s : State) (k : Session) : mems (sessClose s k) = mems s := by simp [sessClose]

@[simp] theorem mems_sessOpen (s : State) (k : Session) (operator : Bool) (entry : Option (Fin 16)) :
    mems (sessOpen s k operator entry) = mems s := by
  simp [sessOpen]

@[simp] theorem mems_refuse (s : State) : mems (refuse s) = mems s := by simp [refuse]

@[simp] theorem mems_connect (s : State) : mems (connect s) = mems s := by
  unfold connect
  split
  · split <;> simp
  · simp

@[simp] theorem mems_handshakeFail (s : State) (k : Session) (alert : Byte) : mems (handshakeFail s k alert) = mems s := by
  simp [handshakeFail]

@[simp] theorem mems_handshakeEnd (s : State) (k : Session) (r : TlsResult) : mems (handshakeEnd s k r) = mems s := by
  unfold handshakeEnd
  split <;> (try split) <;> simp

@[simp] theorem mems_handshakeTimeout (s : State) (k : Session) : mems (handshakeTimeout s k) = mems s := by
  unfold handshakeTimeout
  split <;> simp

@[simp] theorem mems_onMessage (s : State) (k : Session) (f : State → State) (hf : ∀ s, mems (f s) = mems s) :
    mems (onMessage s k f) = mems s := by
  unfold onMessage; dsimp only
  split
  · rfl
  · split <;> simp [hf]
theorem wf_onMessage {s : State} (hs : (mems s).Wf) (k : Session) (f : State → State) (hf : ∀ s, (mems s).Wf → (mems (f s)).Wf) :
    (mems (onMessage s k f)).Wf := by
  unfold onMessage; dsimp only
  split
  · exact hs
  · split
    · simp [hs]
    · exact hf _ (by simp [hs])

@[simp] theorem mems_hostEvent (s : State) (k : Session) (type : Nat) : mems (hostEvent s k type) = mems s := by simp [hostEvent]

@[simp] theorem mems_readMap (s : State) (k : Session) (a x3 : Nat) : mems (readMap s k a x3).2.2 = mems s := by
  induction x3 generalizing s a with
  | zero => rfl
  | succ n ih => simp [readMap, ih]

@[simp] theorem mems_readMsg (s : State) (k : Session) (tag : Half) (a bytes : Nat) : mems (readMsg s k tag a bytes) = mems s := by
  simp [readMsg]

@[simp] theorem wf_regWriteSeen {s : State} (hs : (mems s).Wf) (k : Session) (a : Nat) (v : Word) : (mems (regWriteSeen s k a v).1).Wf := by
  simp [regWriteSeen, hs]

@[simp] theorem wf_writeMapWord {s : State} (hs : (mems s).Wf) (k : Session) (a : Nat) (v : Word) : (mems (writeMapWord s k a v).1).Wf := by
  unfold writeMapWord
  split
  · split <;> simp [hs]
  · split <;> simp [hs]

@[simp] theorem wf_writeMap {s : State} (hs : (mems s).Wf) (k : Session) (a i : Nat) (t : Tally) (x5 : List Word) :
    (mems (writeMap s k a i t x5).1).Wf := by
  induction x5 generalizing s a i t with
  | nil => exact hs
  | cons v l ih =>
    unfold writeMap
    split
    · exact ih (wf_writeMapWord hs ..) ..
    · exact hs

@[simp] theorem wf_writeDram {s : State} (hs : (mems s).Wf) (off i : Nat) (t : Tally) (x4 : List Word) :
    (mems (writeDram s off i t x4).1).Wf := by
  induction x4 generalizing s off i t with
  | nil => exact hs
  | cons v l ih =>
    unfold writeDram
    split
    · exact ih hs ..
    · exact ih (wf_modMem hs _ (memWrite_wf _ _ _ (dram_wf hs)) (tables_wf hs)) ..

@[simp] theorem mems_writeAnswer (s : State) (k : Session) (tag : Half) (t : Tally) : mems (writeAnswer s k tag t) = mems s := by
  simp [writeAnswer]

@[simp] theorem wf_writeMsg {s : State} (hs : (mems s).Wf) (k : Session) (tag : Half) (a : Nat) (ws : List Word) :
    (mems (writeMsg s k tag a ws)).Wf := by
  simp [writeMsg, hs]

@[simp] theorem mems_descMsg (s : State) (k : Session) (tag : Half) (idx : Nat) (wr : Bool) (base len : Nat) :
    mems (descMsg s k tag idx wr base len) = mems s := by
  simp [descMsg]

@[simp] theorem mems_subMsg (s : State) (k : Session) (tag : Half) (mask : Word) : mems (subMsg s k tag mask) = mems s := by simp [subMsg]

@[simp] theorem mems_badMsg (s : State) (k : Session) (tag : Half) (type : Byte) (len : Nat) : mems (badMsg s k tag type len) = mems s := by
  simp [badMsg]

@[simp] theorem mems_stallEnd (s : State) (k : Session) : mems (stallEnd s k) = mems s := by
  unfold stallEnd
  split <;> simp

/-! ### Loads and stores (Machine/LoadStore.lean) -/

@[simp] theorem mems_regRead2 (s : State) (rd : Reader) (a : Nat) : mems (regRead2 s rd a).2 = mems s := by simp [regRead2]

@[simp] theorem wf_load {s : State} (hs : (mems s).Wf) (w : Worker) (a : Word) (len : Nat) (byWord : Bool) (reg : State → State)
    (mem : Nat → WorkerSt → WorkerSt) (flight : Nat → Flight) (hr : (mems (reg s)).Wf) (hm : ∀ v k, (mem v k).scratch = k.scratch) :
    (mems (load s w a len byWord reg mem flight)).Wf := by
  unfold load; dsimp only
  split
  · simp [hs]
  · split
    · split <;> simp [hs, hr]
    · split
      · simp [hs]
      · simp [hs]
      · split <;> simp [hs, hm]

@[simp] theorem wf_loadWord {s : State} (hs : (mems s).Wf) (w : Worker) (d : GReg) (a : Word) : (mems (loadWord s w d a)).Wf := by
  simp [loadWord, hs]

@[simp] theorem wf_loadSized {s : State} (hs : (mems s).Wf) (w : Worker) (d : GReg) (a : Word) (z : XSize) :
    (mems (loadSized s w d a z)).Wf := by
  unfold loadSized
  split <;> simp [hs]

@[simp] theorem wf_loadDouble {s : State} (hs : (mems s).Wf) (w : Worker) (d : AReg) (a : Word) : (mems (loadDouble s w d a)).Wf := by
  simp [loadDouble, hs]

@[simp] theorem mems_postStore (s : State) (w : Worker) (off : Nat) (b : List Byte) : mems (postStore s w off b) = mems s := by
  simp [postStore]

@[simp] theorem wf_storeRegs {s : State} (hs : (mems s).Wf) (w : Worker) (a : Nat) (b : List Byte) : (mems (storeRegs s w a b)).Wf := by
  unfold storeRegs
  split
  · exact hs
  · exact wf_foldl _ _ hs fun s x hs => wf_regWrite hs ..

@[simp] theorem wf_store {s : State} (hs : (mems s).Wf) (w : Worker) (a : Word) (b : List Byte) (byWord : Bool) :
    (mems (store s w a b byWord)).Wf := by
  unfold store
  dsimp only
  split
  · simp [hs]
  · split
    · simp [hs]
    · split <;> simp [hs]

@[simp] theorem wf_lineRead {s : State} (hs : (mems s).Wf) (l : Nat) : (mems (lineRead s l).1).Wf := by
  unfold lineRead
  split
  · simp [hs]
  · dsimp only
    split
    · simp [hs]
    · split <;> simp [hs]

@[simp] theorem wf_lineAccess {s : State} (hs : (mems s).Wf) (w : Worker) (off : Nat) (f : State → State)
    (hf : ∀ s, (mems s).Wf → (mems (f s)).Wf) : (mems (lineAccess s w off f)).Wf := by
  have h := wf_lineRead (s := modWk s w fun k => { k with flight := .none }) (by simp [hs]) (off / 64)
  unfold lineAccess; dsimp only
  split
  · exact wf_trapWorker h ..
  · exact hf _ h

@[simp] theorem wf_dramComplete {s : State} (hs : (mems s).Wf) (w : Worker) : (mems (dramComplete s w)).Wf := by
  unfold dramComplete
  split
  · exact hs
  · split
    · exact wf_lineAccess hs _ _ _ fun s hs => by simpa using hs
    · exact wf_lineAccess hs _ _ _ fun s hs => by simpa using hs
    · split
      · simp [hs]
      · refine wf_lineAccess (wf_drainWorker hs w) _ _ _ fun s hs => ?_
        dsimp only
        rw [mems_modWk _ _ _ (by simp)]
        split
        · exact wf_modMem hs _ (memWrite_wf _ _ _ (dram_wf hs)) (tables_wf hs)
        · exact hs
    · exact hs

/-! ### Idle clock (Machine/Idle.lean) -/

@[simp] theorem mems_burstStart (s : State) : mems (burstStart s) = mems s := by simp [burstStart]

@[simp] theorem mems_burstSend (s : State) : mems (burstSend s) = mems s := by
  unfold burstSend
  dsimp only
  split <;> simp

@[simp] theorem mems_timeTx (s : State) : mems (timeTx s) = mems s := by simp [timeTx]
@[simp] theorem mems_sendWire (s : State) : mems (sendWire s) = mems s := by simp [sendWire]

@[simp] theorem mems_migrationsEnd (s : State) : mems (migrationsEnd s) = mems s := by
  unfold migrationsEnd
  simp [memsOf]
  rfl

@[simp] theorem mems_tick (s : State) : mems (tick s) = mems s := by simp [tick]

/-! ## Outcomes -/

/-- The next state, where the outcome is one, has its memories in canonical form. -/
def Keeps (o : Out) : Prop := ∀ t, o = .next t → (mems t).Wf

@[simp] theorem keeps_next (t : State) : Keeps (.next t) ↔ (mems t).Wf :=
  ⟨fun h => h t rfl, fun h _ e => by cases e; exact h⟩

@[simp] theorem keeps_run {s : State} (hs : (mems s).Wf) (f : State → State) (hf : (mems (f s)).Wf) : Keeps (run s f) := by
  unfold run; split <;> simp [hs, hf]

@[simp] theorem keeps_bankRun {s : State} (hs : (mems s).Wf) (f : State → State) (hf : (mems (f s)).Wf) : Keeps (bankRun s f) := by
  unfold bankRun; split <;> simp [hs, hf]

@[simp] theorem keeps_qpRun {s : State} (hs : (mems s).Wf) (f : State → State) (hf : (mems (f s)).Wf) : Keeps (qpRun s f) := by
  unfold qpRun; split <;> simp [hs, hf]

@[simp] theorem keeps_lineRun {s : State} (hs : (mems s).Wf) (n : Fin 8) (lines : QpSt → QpSt) (f : State → State)
    (hf : ∀ s, (mems s).Wf → (mems (f s)).Wf) : Keeps (lineRun s n lines f) :=
  have h : (mems (modQp s n lines)).Wf := by simpa using hs
  keeps_qpRun h f (hf _ h)

theorem keeps_issue {s : State} (hs : (mems s).Wf) (w : Worker) (f : State → State)
    (hf : ∀ s, (mems s).Wf → (mems (f s)).Wf) : Keeps (issue s w f) := by
  refine keeps_run hs _ ?_
  split
  · split
    · simp [hs]
    · exact wf_quantumEnd (hf _ (by simpa using hs)) w
  · exact hs

@[simp] theorem keeps_issueK {s : State} (hs : (mems s).Wf) (w : Worker) (f : WorkerSt → WorkerSt)
    (hf : ∀ k, (f k).scratch = k.scratch) : Keeps (issueK s w f) :=
  keeps_issue hs w _ fun s hs => by simpa [hf] using hs

theorem keeps_issueDrained {s : State} (hs : (mems s).Wf) (w : Worker) (f : State → State)
    (hf : ∀ s, (mems s).Wf → (mems (f s)).Wf) : Keeps (issueDrained s w f) :=
  keeps_issue hs w _ fun s hs => by
    split
    · simp [hs]
    · split
      · simp [hs]
      · exact hf _ (wf_drainWorker hs w)

@[simp] theorem keeps_alu {s : State} (hs : (mems s).Wf) (w : Worker) (d s1 s2 : GReg) (f : Word → Word → Word) :
    Keeps (alu s w d s1 s2 f) := by
  simp [alu, hs]

@[simp] theorem keeps_aluImm {s : State} (hs : (mems s).Wf) (w : Worker) (d s1 : GReg) (f : Word → Word) : Keeps (aluImm s w d s1 f) := by
  simp [aluImm, hs]

@[simp] theorem keeps_divide {s : State} (hs : (mems s).Wf) (w : Worker) (s2 : GReg) (f : WorkerSt → WorkerSt)
    (hf : ∀ k, (f k).scratch = k.scratch) : Keeps (divide s w s2 f) :=
  keeps_issue hs w _ fun s hs => by split <;> simp [hs, hf]

@[simp] theorem keeps_branch {s : State} (hs : (mems s).Wf) (w : Worker) (off : Half) (taken : WorkerSt → Bool) (link : Bool) :
    Keeps (branch s w off taken link) :=
  keeps_issue hs w _ fun s hs => by
    dsimp only
    split
    · exact wf_goTo hs _ _ _ fun k => by split <;> simp
    · simp [hs]

@[simp] theorem keeps_jump {s : State} (hs : (mems s).Wf) (w : Worker) (s1 : GReg) (f : WorkerSt → WorkerSt)
    (hf : ∀ k, (f k).scratch = k.scratch) : Keeps (jump s w s1 f) :=
  keeps_issue hs w _ fun s hs => by
    dsimp only
    split <;> simp [hs, hf]

@[simp] theorem keeps_fetch {s : State} (hs : (mems s).Wf) (w : Worker) (d s1 : GReg) (pack : Bool) (bytes : State → Word → List Byte) :
    Keeps (fetch w d s1 s pack bytes) :=
  keeps_issue hs w _ fun s hs => by
    dsimp only
    split
    · simp [hs]
    · split
      · simp [hs]
      · split
        · simp [hs]
        · simp [hs]
        · have h := fun p b => wf_writePlace hs w p b
          simp [h]

@[simp] theorem keeps_outCommand {s : State} (hs : (mems s).Wf) (src : OutSrc) (cmd : Nat) : Keeps (outCommand src s cmd) := by
  unfold outCommand
  split
  · exact keeps_run hs _ (by split <;> simp [hs])
  · split
    · simpa using hs
    · exact keeps_issue hs _ _ fun s hs => by
        dsimp only
        split <;> simp [hs]

@[simp] theorem keeps_ctc {s : State} (hs : (mems s).Wf) (w : Worker) (d s1 s2 : GReg) (code : Nat) : Keeps (ctc w d s1 s2 s code) := by
  unfold ctc
  dsimp only
  split
  · simpa using hs
  · refine keeps_issue hs w _ fun s hs => ?_
    split
    · simp [hs]
    · split <;> simp [hs]

theorem keeps_kernelRow {s : State} (hs : (mems s).Wf) (code : Nat) (f : State → Launch → KRun) (hf : ∀ l, (mems (f s l).s).Wf) :
    Keeps (kernelRow s code f) := by
  refine keeps_run hs _ ?_
  split
  · split <;> simp [hs, hf]
  · exact hs

theorem keeps_sig {s : State} (hs : (mems s).Wf) (w : Worker) (f : State → State)
    (hf : ∀ s, (mems s).Wf → (mems (f s)).Wf) : Keeps (sig w s f) :=
  keeps_issueDrained hs w _ fun s hs => by
    split
    · exact hf s hs
    · simp [hs]

@[simp] theorem keeps_nfwRow {s : State} (hs : (mems s).Wf) (k : Session) (r : Region) (cmd : Nat) : Keeps (nfwRow k r cmd s) :=
  keeps_run hs _ (by split <;> simp [hs])

@[simp] theorem keeps_sewRow {s : State} (hs : (mems s).Wf) (k : Session) (r : Region) (cmd hop : Nat) : Keeps (sewRow k r cmd hop s) :=
  keeps_run hs _ (by split <;> simp [hs])

@[simp] theorem keeps_folioRow {s : State} (hs : (mems s).Wf) (k : Session) (off : Nat) (v : Word) : Keeps (folioRow k off v s) :=
  keeps_run hs _ (by split <;> simp [hs])

@[simp] theorem keeps_identRow {s : State} (hs : (mems s).Wf) (k : Session) (v : Word) : Keeps (identRow k v s) :=
  keeps_run hs _ (by split <;> simp [hs])

@[simp] theorem keeps_serviceRow {s : State} (hs : (mems s).Wf) (k : Session) (cmd : Nat) : Keeps (serviceRow k cmd s) :=
  keeps_run hs _ (by split <;> simp [hs])

@[simp] theorem keeps_qin {s : State} (hs : (mems s).Wf) (w : Worker) (d s1 : GReg) (f : State → Fin 8 → Word) : Keeps (qin w d s1 s f) :=
  keeps_issue hs w _ fun s hs => by simpa using hs

@[simp] theorem keeps_atom {s : State} (hs : (mems s).Wf) (w : Worker) (op : AtomOp) (d s1 s2 : GReg) : Keeps (atom w op d s1 s2 s) :=
  keeps_issue hs w _ fun s hs => by
    dsimp only
    split
    · simp [hs]
    · split
      · simp [hs]
      · simp [hs]
      · split
        · simp [hs]
        · rw [mems_modWk _ _ _ (by simp)]
          split <;> simp [hs]

@[simp] theorem keeps_writeRow {s : State} (hs : (mems s).Wf) (who : Writer) (addr : Nat) (f : State → State) (hf : (mems (f s)).Wf) :
    Keeps (writeRow who addr f s) := by
  refine keeps_run hs _ ?_
  split
  · split <;> simp [hs, hf]
  · split
    · exact hf
    · split <;> simp [hs]

/-! ### One lemma per command -/

section
variable {s : State} (hs : (mems s).Wf)
include hs

/-! ### Phase wheel, time, ticks (Machine/TimeBase.lean) -/

theorem keeps_execGridsyncPulse : Keeps (execGridsyncPulse s) := by simp [execGridsyncPulse, hs]
theorem keeps_execWheelLossTime : Keeps (execWheelLossTime s) := by simp [execWheelLossTime, hs]
theorem keeps_execWheelHoldExpiry : Keeps (execWheelHoldExpiry s) := by simp [execWheelHoldExpiry, hs]
theorem keeps_execWheelCycleBoundary : Keeps (execWheelCycleBoundary s) := by simp [execWheelCycleBoundary, hs]
theorem keeps_execTimeSlewEnd : Keeps (execTimeSlewEnd s) := by simp [execTimeSlewEnd, hs]
theorem keeps_execTimeMarkStore : Keeps (execTimeMarkStore s) := by simp [execTimeMarkStore, hs]
theorem keeps_execTickCompare (n : Fin 4) : Keeps (execTickCompare n s) := by simp [execTickCompare, hs]
theorem keeps_execCanLatchSecond : Keeps (execCanLatchSecond s) := by simp [execCanLatchSecond, hs]
theorem keeps_execActionDue (w : Worker) : Keeps (execActionDue w s) := by simp [execActionDue, hs]

/-! ### CAN controllers (Machine/Can.lean) -/

theorem keeps_execCanFrameRx (n : Fin 4) (f : CanFrame) (stamp : Word) : Keeps (execCanFrameRx n f stamp s) := by simp [execCanFrameRx, hs]
theorem keeps_execCanTxDone (n : Fin 4) (stamp : Word) : Keeps (execCanTxDone n stamp s) := by simp [execCanTxDone, hs]
theorem keeps_execCanTxError (n : Fin 4) (e : CanTxErr) : Keeps (execCanTxError n e s) := by simp [execCanTxError, hs]
theorem keeps_execCanRxError (n : Fin 4) (e : CanRxErr) : Keeps (execCanRxError n e s) := by simp [execCanRxError, hs]
theorem keeps_execCanRecoveryDone (n : Fin 4) : Keeps (execCanRecoveryDone n s) := by simp [execCanRecoveryDone, hs]
theorem keeps_execCanIntegrated (n : Fin 4) : Keeps (execCanIntegrated n s) := by simp [execCanIntegrated, hs]
theorem keeps_execCanIntegrationStart : Keeps (execCanIntegrationStart s) := by simp [execCanIntegrationStart, hs]
theorem keeps_execCanWake (n : Fin 4) (cause : CanWakeCause) : Keeps (execCanWake n cause s) := by simp [execCanWake, hs]

/-! ### Switch bank (Machine/Bank.lean) -/

theorem keeps_execOcShutoff (ch : Chan) : Keeps (execOcShutoff ch s) := by
  refine keeps_bankRun hs _ ?_
  dsimp only
  split
  · split
    · simp [hs]
    · split
      · split <;> simp [hs]
      · exact hs
  · exact hs

theorem keeps_execRetryPauseEnd (ch : Chan) : Keeps (execRetryPauseEnd ch s) := by simp [execRetryPauseEnd, hs]
theorem keeps_execAttemptCountReset (ch : Chan) : Keeps (execAttemptCountReset ch s) := by simp [execAttemptCountReset, hs]
theorem keeps_execDtTrip (ch : Chan) : Keeps (execDtTrip ch s) := by simp [execDtTrip, hs]
theorem keeps_execDtRelease (ch : Chan) : Keeps (execDtRelease ch s) := by simp [execDtRelease, hs]
theorem keeps_execHoldLongTimer (ch : Chan) : Keeps (execHoldLongTimer ch s) := by simp [execHoldLongTimer, hs]
theorem keeps_execOpenLoadDetect (ch : Chan) (ext : Bool) : Keeps (execOpenLoadDetect ch ext s) := by simp [execOpenLoadDetect, hs]
theorem keeps_execOpenLoadClear (ch : Chan) : Keeps (execOpenLoadClear ch s) := by simp [execOpenLoadClear, hs]
theorem keeps_execCoilSupplyUv (n : Fin 4) (v : Half) : Keeps (execCoilSupplyUv n v s) := by simp [execCoilSupplyUv, hs]
theorem keeps_execCoilSupplyRestore (n : Fin 4) (v : Half) : Keeps (execCoilSupplyRestore n v s) := by simp [execCoilSupplyRestore, hs]

theorem keeps_execCoilSupplyPresentChange (n : Fin 4) (v : Half) : Keeps (execCoilSupplyPresentChange n v s) := by
  simp [execCoilSupplyPresentChange, hs]

theorem keeps_execKeeperRefresh : Keeps (execKeeperRefresh s) := by simp [execKeeperRefresh, hs]
theorem keeps_execKeeperExpiry : Keeps (execKeeperExpiry s) := by simp [execKeeperExpiry, hs]

/-! ### Protection (Machine/Protect.lean) -/

theorem keeps_execDinChange (n : Fin 32) (level : Bool) : Keeps (execDinChange n level s) := by simp [execDinChange, hs]
theorem keeps_execAuxTimeout (r : Region) (pos : Bool) : Keeps (execAuxTimeout r pos s) := by simp [execAuxTimeout, hs]
theorem keeps_execPullinEnd (ch : Chan) : Keeps (execPullinEnd ch s) := by simp [execPullinEnd, hs]
theorem keeps_execPrechargeRelayOn (r : Region) : Keeps (execPrechargeRelayOn r s) := by simp [execPrechargeRelayOn, hs]
theorem keeps_execPrechargeTimeout (r : Region) : Keeps (execPrechargeTimeout r s) := by simp [execPrechargeTimeout, hs]

theorem keeps_execPreExpired (r : Region) : Keeps (execPreExpired r s) := by
  refine keeps_run hs _ ?_
  split
  · extract_lets ticket s1 s2
    have h1 : (mems s1).Wf := wf_posOvertaken hs r
    have h2 : (mems s2).Wf := wf_coilSet (wf_emitRe h1 ..) ..
    simp [h2]
  · simpa using hs

theorem keeps_execPreAutoOff (r : Region) : Keeps (execPreAutoOff r s) := by
  refine keeps_run hs _ ?_
  simp [hs]

theorem keeps_execOpenWaitLimit (r : Region) : Keeps (execOpenWaitLimit r s) := by simp [execOpenWaitLimit, hs]
theorem keeps_execNegOpenDelay (r : Region) : Keeps (execNegOpenDelay r s) := by simp [execNegOpenDelay, hs]

theorem keeps_execWeldTimeEnd (r : Region) : Keeps (execWeldTimeEnd r s) := by
  refine keeps_run hs _ ?_
  split <;> simp [hs]

theorem keeps_execWeldCheckJudge (r : Region) : Keeps (execWeldCheckJudge r s) := by
  refine keeps_run hs _ ?_
  split <;> simp [hs]

theorem keeps_execCircWatchEnd (r : Region) : Keeps (execCircWatchEnd r s) := by simp [execCircWatchEnd, hs]
theorem keeps_execFastTrip (raw : Word) : Keeps (execFastTrip raw s) := by simp [execFastTrip, hs]
theorem keeps_execSeverLowObserved : Keeps (execSeverLowObserved s) := by simp [execSeverLowObserved, hs]
theorem keeps_execSeverMinHoldEnd : Keeps (execSeverMinHoldEnd s) := by simp [execSeverMinHoldEnd, hs]
theorem keeps_execSeverReleased : Keeps (execSeverReleased s) := by simp [execSeverReleased, hs]
theorem keeps_execReAuxWrite (sess : Session) (r : Region) (v : Word) : Keeps (execReAuxWrite sess r v s) := by simp [execReAuxWrite, hs]
theorem keeps_execStartGraceEnd (r : Region) : Keeps (execStartGraceEnd r s) := by simp [execStartGraceEnd, hs]

/-! ### Workers and cores (Machine/Worker.lean) -/

theorem keeps_execTrapRestartPauseEnd (w : Worker) : Keeps (execTrapRestartPauseEnd w s) := by simp [execTrapRestartPauseEnd, hs]
theorem keeps_execStoreQueueDrain (w : Worker) : Keeps (execStoreQueueDrain w s) := by simp [execStoreQueueDrain, hs]

theorem keeps_execIllegalOpcode (w : Worker) (word : Word) : Keeps (execIllegalOpcode w word s) := by
  unfold execIllegalOpcode
  split
  · simpa using hs
  · exact keeps_issue hs w _ fun s hs => wf_trapWorker hs ..

/-! ### Arithmetic (Machine/Arith.lean) -/

theorem keeps_execAdd (w : Worker) (d s1 s2 : GReg) : Keeps (execAdd w d s1 s2 s) := by simp [execAdd, hs]
theorem keeps_execSub (w : Worker) (d s1 s2 : GReg) : Keeps (execSub w d s1 s2 s) := by simp [execSub, hs]
theorem keeps_execAnd (w : Worker) (d s1 s2 : GReg) : Keeps (execAnd w d s1 s2 s) := by simp [execAnd, hs]
theorem keeps_execOr (w : Worker) (d s1 s2 : GReg) : Keeps (execOr w d s1 s2 s) := by simp [execOr, hs]
theorem keeps_execXor (w : Worker) (d s1 s2 : GReg) : Keeps (execXor w d s1 s2 s) := by simp [execXor, hs]
theorem keeps_execNor (w : Worker) (d s1 s2 : GReg) : Keeps (execNor w d s1 s2 s) := by simp [execNor, hs]
theorem keeps_execSll (w : Worker) (d s1 s2 : GReg) : Keeps (execSll w d s1 s2 s) := by simp [execSll, hs]
theorem keeps_execSrl (w : Worker) (d s1 s2 : GReg) : Keeps (execSrl w d s1 s2 s) := by simp [execSrl, hs]
theorem keeps_execSra (w : Worker) (d s1 s2 : GReg) : Keeps (execSra w d s1 s2 s) := by simp [execSra, hs]
theorem keeps_execSlt (w : Worker) (d s1 s2 : GReg) : Keeps (execSlt w d s1 s2 s) := by simp [execSlt, hs]
theorem keeps_execSltu (w : Worker) (d s1 s2 : GReg) : Keeps (execSltu w d s1 s2 s) := by simp [execSltu, hs]
theorem keeps_execMulhu (w : Worker) (d s1 s2 : GReg) : Keeps (execMulhu w d s1 s2 s) := by simp [execMulhu, hs]
theorem keeps_execMin (w : Worker) (d s1 s2 : GReg) : Keeps (execMin w d s1 s2 s) := by simp [execMin, hs]
theorem keeps_execMax (w : Worker) (d s1 s2 : GReg) : Keeps (execMax w d s1 s2 s) := by simp [execMax, hs]
theorem keeps_execMinu (w : Worker) (d s1 s2 : GReg) : Keeps (execMinu w d s1 s2 s) := by simp [execMinu, hs]
theorem keeps_execMaxu (w : Worker) (d s1 s2 : GReg) : Keeps (execMaxu w d s1 s2 s) := by simp [execMaxu, hs]
theorem keeps_execMul (w : Worker) (d s1 s2 : GReg) : Keeps (execMul w d s1 s2 s) := by simp [execMul, hs]
theorem keeps_execMulh (w : Worker) (d s1 s2 : GReg) : Keeps (execMulh w d s1 s2 s) := by simp [execMulh, hs]
theorem keeps_execDiv (w : Worker) (d s1 s2 : GReg) : Keeps (execDiv w d s1 s2 s) := by simp [execDiv, hs]
theorem keeps_execDivu (w : Worker) (d s1 s2 : GReg) : Keeps (execDivu w d s1 s2 s) := by simp [execDivu, hs]
theorem keeps_execRem (w : Worker) (d s1 s2 : GReg) : Keeps (execRem w d s1 s2 s) := by simp [execRem, hs]
theorem keeps_execRemu (w : Worker) (d s1 s2 : GReg) : Keeps (execRemu w d s1 s2 s) := by simp [execRemu, hs]
theorem keeps_execClz (w : Worker) (d s1 : GReg) : Keeps (execClz w d s1 s) := by simp [execClz, hs]
theorem keeps_execPopc (w : Worker) (d s1 : GReg) : Keeps (execPopc w d s1 s) := by simp [execPopc, hs]

theorem keeps_execRdsw (w : Worker) (d : GReg) : Keeps (execRdsw w d s) := by
  refine keeps_issue hs w _ fun s hs => ?_
  simp [hs]

theorem keeps_execAddi (w : Worker) (d s1 : GReg) (imm : Half) : Keeps (execAddi w d s1 imm s) := by simp [execAddi, hs]

theorem keeps_execCmpi (w : Worker) (s1 : GReg) (imm : Half) : Keeps (execCmpi w s1 imm s) :=
  keeps_issueK hs w _ fun _ => scratch_subFlags ..

theorem keeps_execSlti (w : Worker) (d s1 : GReg) (imm : Half) : Keeps (execSlti w d s1 imm s) := by simp [execSlti, hs]
theorem keeps_execSltiu (w : Worker) (d s1 : GReg) (imm : Half) : Keeps (execSltiu w d s1 imm s) := by simp [execSltiu, hs]
theorem keeps_execAndi (w : Worker) (d s1 : GReg) (imm : Half) : Keeps (execAndi w d s1 imm s) := by simp [execAndi, hs]
theorem keeps_execOri (w : Worker) (d s1 : GReg) (imm : Half) : Keeps (execOri w d s1 imm s) := by simp [execOri, hs]
theorem keeps_execXori (w : Worker) (d s1 : GReg) (imm : Half) : Keeps (execXori w d s1 imm s) := by simp [execXori, hs]
theorem keeps_execLui (w : Worker) (d : GReg) (imm : Half) : Keeps (execLui w d imm s) := by simp [execLui, hs]
theorem keeps_execShiSll (w : Worker) (d s1 : GReg) (sh : BitVec 5) : Keeps (execShiSll w d s1 sh s) := by simp [execShiSll, hs]
theorem keeps_execShiSrl (w : Worker) (d s1 : GReg) (sh : BitVec 5) : Keeps (execShiSrl w d s1 sh s) := by simp [execShiSrl, hs]
theorem keeps_execShiSra (w : Worker) (d s1 : GReg) (sh : BitVec 5) : Keeps (execShiSra w d s1 sh s) := by simp [execShiSra, hs]

theorem keeps_execShiRotateRight (w : Worker) (d s1 : GReg) (sh : BitVec 5) : Keeps (execShiRotateRight w d s1 sh s) := by
  simp [execShiRotateRight, hs]

theorem keeps_execMuli (w : Worker) (d s1 : GReg) (imm : Half) : Keeps (execMuli w d s1 imm s) := by simp [execMuli, hs]
theorem keeps_execQmuli (w : Worker) (d s1 : GReg) (imm : Half) : Keeps (execQmuli w d s1 imm s) := by simp [execQmuli, hs]
theorem keeps_execQadd (w : Worker) (d s1 s2 : GReg) : Keeps (execQadd w d s1 s2 s) := by simp [execQadd, hs]
theorem keeps_execQsub (w : Worker) (d s1 s2 : GReg) : Keeps (execQsub w d s1 s2 s) := by simp [execQsub, hs]
theorem keeps_execQmul (w : Worker) (d s1 s2 : GReg) : Keeps (execQmul w d s1 s2 s) := by simp [execQmul, hs]
theorem keeps_execQdiv (w : Worker) (d s1 s2 : GReg) : Keeps (execQdiv w d s1 s2 s) := by simp [execQdiv, hs]
theorem keeps_execQabs (w : Worker) (d s1 : GReg) : Keeps (execQabs w d s1 s) := by simp [execQabs, hs]
theorem keeps_execQneg (w : Worker) (d s1 : GReg) : Keeps (execQneg w d s1 s) := by simp [execQneg, hs]
theorem keeps_execItoq (w : Worker) (d s1 : GReg) : Keeps (execItoq w d s1 s) := by simp [execItoq, hs]
theorem keeps_execQtoi (w : Worker) (d s1 : GReg) : Keeps (execQtoi w d s1 s) := by simp [execQtoi, hs]
theorem keeps_execQrnd (w : Worker) (d s1 : GReg) : Keeps (execQrnd w d s1 s) := by simp [execQrnd, hs]
theorem keeps_execQclr (w : Worker) : Keeps (execQclr w s) := by simp [execQclr, hs]
theorem keeps_execCsel (w : Worker) (d s1 s2 : GReg) (cond : BitVec 4) : Keeps (execCsel w d s1 s2 cond s) := by simp [execCsel, hs]
theorem keeps_execMac (w : Worker) (d : AReg) (s1 s2 : GReg) : Keeps (execMac w d s1 s2 s) := by simp [execMac, hs]
theorem keeps_execMacu (w : Worker) (d : AReg) (s1 s2 : GReg) : Keeps (execMacu w d s1 s2 s) := by simp [execMacu, hs]
theorem keeps_execMsu (w : Worker) (d : AReg) (s1 s2 : GReg) : Keeps (execMsu w d s1 s2 s) := by simp [execMsu, hs]
theorem keeps_execQmac (w : Worker) (d : AReg) (s1 s2 : GReg) : Keeps (execQmac w d s1 s2 s) := by simp [execQmac, hs]
theorem keeps_execAclr (w : Worker) (d : AReg) : Keeps (execAclr w d s) := by simp [execAclr, hs]
theorem keeps_execAmov (w : Worker) (d s1 : AReg) : Keeps (execAmov w d s1 s) := by simp [execAmov, hs]
theorem keeps_execAjoin (w : Worker) (d : AReg) (s1 s2 : GReg) : Keeps (execAjoin w d s1 s2 s) := by simp [execAjoin, hs]
theorem keeps_execAlo (w : Worker) (d : GReg) (s1 : AReg) : Keeps (execAlo w d s1 s) := by simp [execAlo, hs]
theorem keeps_execAhi (w : Worker) (d : GReg) (s1 : AReg) : Keeps (execAhi w d s1 s) := by simp [execAhi, hs]
theorem keeps_execAadd (w : Worker) (d s1 s2 : AReg) : Keeps (execAadd w d s1 s2 s) := by simp [execAadd, hs]
theorem keeps_execAsub (w : Worker) (d s1 s2 : AReg) : Keeps (execAsub w d s1 s2 s) := by simp [execAsub, hs]
theorem keeps_execAq (w : Worker) (d : GReg) (s1 : AReg) : Keeps (execAq w d s1 s) := by simp [execAq, hs]
theorem keeps_execAsext (w : Worker) (d : AReg) (s1 : GReg) : Keeps (execAsext w d s1 s) := by simp [execAsext, hs]
theorem keeps_execAcmp (w : Worker) (s1 s2 : AReg) : Keeps (execAcmp w s1 s2 s) := by exact keeps_issueK hs w _ fun k => scratch_subFlags ..
theorem keeps_execAsra (w : Worker) (d s1 : AReg) (s2 : GReg) : Keeps (execAsra w d s1 s2 s) := by simp [execAsra, hs]
theorem keeps_execAsll (w : Worker) (d s1 : AReg) (s2 : GReg) : Keeps (execAsll w d s1 s2 s) := by simp [execAsll, hs]

/-! ### Flow and scheduling (Machine/Flow.lean) -/

theorem keeps_execBeq (w : Worker) (d s1 : GReg) (imm : Half) : Keeps (execBeq w d s1 imm s) := by simp [execBeq, hs]
theorem keeps_execBne (w : Worker) (d s1 : GReg) (imm : Half) : Keeps (execBne w d s1 imm s) := by simp [execBne, hs]
theorem keeps_execBc (w : Worker) (link : Bool) (cond : BitVec 4) (off : Half) : Keeps (execBc w link cond off s) := by simp [execBc, hs]
theorem keeps_execJr (w : Worker) (s1 : GReg) : Keeps (execJr w s1 s) := by simp [execJr, hs]
theorem keeps_execJalr (w : Worker) (d s1 : GReg) : Keeps (execJalr w d s1 s) := by simp [execJalr, hs]

theorem keeps_execTnow (w : Worker) (d : TReg) : Keeps (execTnow w d s) := by
  refine keeps_issue hs w _ fun s hs => ?_
  simp [hs]

theorem keeps_execPnow (w : Worker) (d : AReg) : Keeps (execPnow w d s) := by
  refine keeps_issue hs w _ fun s hs => ?_
  simp [hs]

theorem keeps_execTadd (w : Worker) (d s1 : TReg) (s2 : AReg) : Keeps (execTadd w d s1 s2 s) := by
  refine keeps_issue hs w _ fun s hs => ?_
  simp [hs]

theorem keeps_execTdif (w : Worker) (d : AReg) (s1 s2 : TReg) : Keeps (execTdif w d s1 s2 s) := by
  refine keeps_issue hs w _ fun s hs => ?_
  simp [hs]

theorem keeps_execWaitAt (w : Worker) (s1 : AReg) (late : BitVec 2) (alat : AReg) : Keeps (execWaitAt w s1 late alat s) :=
  keeps_issueDrained hs w _ fun _ hs => wf_schedule hs ..

theorem keeps_execWaitAtt (w : Worker) (s1 : TReg) (late : BitVec 2) (alat : AReg) : Keeps (execWaitAtt w s1 late alat s) := by
  refine keeps_issueDrained hs w _ fun s hs => ?_
  dsimp only
  split <;> simp [hs]

theorem keeps_execWaitDuration (w : Worker) (s1 alat : AReg) : Keeps (execWaitDuration w s1 alat s) :=
  keeps_issueDrained hs w _ fun _ hs => wf_blockOn hs ..

theorem keeps_execWaitTick (w : Worker) (s1 : AReg) (dom : Fin 4) (late : BitVec 2) (alat : AReg) :
    Keeps (execWaitTick w s1 dom late alat s) :=
  keeps_issueDrained hs w _ fun _ hs => wf_schedule hs ..

theorem keeps_execEvery (w : Worker) (d : GReg) (first : EveryFirst) (s2 : AReg) (late : BitVec 2) (alat : AReg) :
    Keeps (execEvery w d first s2 late alat s) := by
  refine keeps_issueDrained hs w _ fun s hs => ?_
  extract_lets k bad
  split
  · simp [hs]
  · split
    · simp [hs]
    · split
      · simp [hs]
      · split <;> simp [hs]

theorem keeps_execEveryCancel (w : Worker) (d : GReg) : Keeps (execEveryCancel w d s) := by
  refine keeps_issue hs w _ fun s hs => ?_
  split <;> simp [hs]

/-! ### DRAM, check store, scrubber (Machine/Memory.lean) -/

theorem keeps_execMemZeroDone : Keeps (execMemZeroDone s) := by simp [execMemZeroDone, hs]
theorem keeps_execSramScrub (o : SramScrub) : Keeps (execSramScrub o s) := by simp [execSramScrub, hs]
theorem keeps_execCheckStoreInit : Keeps (execCheckStoreInit s) := by simp [execCheckStoreInit, hs]
theorem keeps_execDramTrainingDone : Keeps (execDramTrainingDone s) := by simp [execDramTrainingDone, hs]

/-! ### Domain instructions (Machine/Domain.lean) -/

theorem keeps_execSwpAll (w : Worker) (d s1 s2 : GReg) : Keeps (execSwpAll w d s1 s2 s) :=
  keeps_issueDrained hs w _ fun _ hs => wf_swpMask hs ..

theorem keeps_execSwpAny (w : Worker) (d s1 s2 : GReg) : Keeps (execSwpAny w d s1 s2 s) :=
  keeps_issueDrained hs w _ fun _ hs => wf_swpMask hs ..

theorem keeps_execSwpRevt (w : Worker) (d s1 s2 : GReg) : Keeps (execSwpRevt w d s1 s2 s) := by
  refine keeps_issueDrained hs w _ fun s hs => ?_
  dsimp only
  split
  · simp [hs]
  · refine wf_withScratch hs _ _ _ _ _ ?_
    split
    · simp [hs]
    · split
      · next k h => exact wf_setWk hs w _ (by simpa using wf_revtDeliver hs _ _ _ _ _ h)
      · simp [hs]

theorem keeps_execFetchVolt (w : Worker) (d s1 : GReg) : Keeps (execFetchVolt w d s1 s) := by simp [execFetchVolt, hs]
theorem keeps_execFetchTemp (w : Worker) (d s1 : GReg) : Keeps (execFetchTemp w d s1 s) := by simp [execFetchTemp, hs]
theorem keeps_execFetchNode (w : Worker) (d s1 : GReg) : Keeps (execFetchNode w d s1 s) := by simp [execFetchNode, hs]
theorem keeps_execFetchHead (w : Worker) (d s1 : GReg) : Keeps (execFetchHead w d s1 s) := by simp [execFetchHead, hs]
theorem keeps_execFetchPack (w : Worker) (d s1 : GReg) : Keeps (execFetchPack w d s1 s) := by simp [execFetchPack, hs]
theorem keeps_execOutOff (src : OutSrc) : Keeps (execOutOff src s) := by simp [execOutOff, hs]
theorem keeps_execOutOn (src : OutSrc) : Keeps (execOutOn src s) := by simp [execOutOn, hs]
theorem keeps_execOutPwm (src : OutSrc) : Keeps (execOutPwm src s) := by simp [execOutPwm, hs]
theorem keeps_execOutClearLatch (src : OutSrc) : Keeps (execOutClearLatch src s) := by simp [execOutClearLatch, hs]
theorem keeps_execCloseNeg (w : Worker) (d s1 s2 : GReg) : Keeps (execCloseNeg w d s1 s2 s) := by simp [execCloseNeg, hs]
theorem keeps_execPrecharge (w : Worker) (d s1 s2 : GReg) : Keeps (execPrecharge w d s1 s2 s) := by simp [execPrecharge, hs]
theorem keeps_execClosePos (w : Worker) (d s1 s2 : GReg) : Keeps (execClosePos w d s1 s2 s) := by simp [execClosePos, hs]
theorem keeps_execOpenPre (w : Worker) (d s1 s2 : GReg) : Keeps (execOpenPre w d s1 s2 s) := by simp [execOpenPre, hs]
theorem keeps_execOpenPlanned (w : Worker) (d s1 s2 : GReg) : Keeps (execOpenPlanned w d s1 s2 s) := by simp [execOpenPlanned, hs]
theorem keeps_execOpenEmergency (w : Worker) (d s1 s2 : GReg) : Keeps (execOpenEmergency w d s1 s2 s) := by simp [execOpenEmergency, hs]
theorem keeps_execCtcRestart (w : Worker) (d s1 s2 : GReg) : Keeps (execCtcRestart w d s1 s2 s) := by simp [execCtcRestart, hs]
theorem keeps_execWeldCheck (w : Worker) (d s1 s2 : GReg) : Keeps (execWeldCheck w d s1 s2 s) := by simp [execWeldCheck, hs]

theorem keeps_execCtx (w : Worker) (d s1 s2 : GReg) : Keeps (execCtx w d s1 s2 s) := by
  refine keeps_issue hs w _ fun s hs => ?_
  dsimp only
  split
  · simp [hs]
  · refine wf_withLoad hs _ _ _ _ _ fun p => ?_
    split
    · split
      · simp [hs]
      · split <;> simp [hs]
    · simp [hs]

theorem keeps_execCrx (w : Worker) (d s1 s2 : GReg) (nb : Bool) : Keeps (execCrx w d s1 s2 nb s) := by
  refine keeps_issueDrained hs w _ fun s hs => ?_
  extract_lets k n buf
  clear_value buf
  refine wf_withScratch hs _ _ _ _ _ ?_
  split
  · simp [hs]
  · split
    · simp [hs]
    · split <;> simp [hs]

theorem keeps_execEvt (w : Worker) (d s1 s2 : GReg) (keep : Bool) : Keeps (execEvt w d s1 s2 keep s) := by
  refine keeps_issue hs w _ fun s hs => ?_
  simp [hs]

theorem keeps_execMstat (w : Worker) (d : GReg) : Keeps (execMstat w d s) := by
  refine keeps_issue hs w _ fun s hs => ?_
  simp [hs]

theorem keeps_execMsend (w : Worker) (d s1 s2 : GReg) : Keeps (execMsend w d s1 s2 s) := by
  refine keeps_issue hs w _ fun s hs => wf_mir hs _ _ _ (wf_withLoad hs _ _ _ _ _ fun p => ?_)
  split
  · split
    next i s' h =>
    have h' : (mems s').Wf := by rw [show s' = (drawFree (request s w 0x35)).2 by rw [h]]; simp [hs]
    dsimp only
    split
    · simp [h']
    · simp [h']
  · simp [hs]

theorem keeps_execMrecv (w : Worker) (d s1 : GReg) : Keeps (execMrecv w d s1 s) := by
  refine keeps_issueDrained hs w _ fun s hs => wf_mir hs _ _ _ (wf_withScratch hs _ _ _ _ _ ?_)
  split
  · have h : ∀ f : TwinSt → TwinSt, (mems (modTwin s f)).Wf := fun f => by simpa using hs
    exact wf_modWk (h _) w _ (by simpa using wf_mirDeliver _ (scratch_wf (h _) w) ..)
  · simp [hs]

theorem keeps_execMyield (w : Worker) (d : GReg) : Keeps (execMyield w d s) := by
  refine keeps_issue hs w _ fun s hs => ?_
  simp [hs]

theorem keeps_execHalt (w : Worker) : Keeps (execHalt w s) := by exact keeps_issueDrained hs w _ fun s hs => by simp [hs]

theorem keeps_execYieldQ (w : Worker) : Keeps (execYieldQ w s) := by
  refine keeps_issue hs w _ fun s hs => ?_
  simp [hs]

theorem keeps_execTemp (w : Worker) (d : GReg) (board die : Half) : Keeps (execTemp w d board die s) := by
  refine keeps_issue hs w _ fun s hs => ?_
  simp [hs]

theorem keeps_execTrap (w : Worker) (code : BitVec 7) : Keeps (execTrap w code s) := by
  refine keeps_issue hs w _ fun s hs => ?_
  simp [hs]

/-! ### The comb (Machine/Comb.lean) -/

theorem keeps_execCmb (w : Worker) (d s1 : GReg) : Keeps (execCmb w d s1 s) := by
  refine keeps_issue hs w _ fun s hs => wf_withLoad hs _ _ _ _ _ fun p => ?_
  split
  · simp [hs]
  · dsimp only
    split
    · simp [hs]
    · split
      · simp [hs]
      · split
        · simp [hs]
        · split <;> simp [hs]

theorem keeps_execCmbw (w : Worker) (d s1 : GReg) : Keeps (execCmbw w d s1 s) := by
  refine keeps_issueDrained hs w _ fun s hs => ?_
  extract_lets k t finishW
  have hf : ∀ v, (mems (finishW v)).Wf := fun v => by simpa [finishW] using hs
  split
  · split
    · exact hf _
    · simp [hs]
  · split
    · exact hf _
    · split
      · simp [hs]
      · exact hf _

/-! ### Crypto (Machine/Crypto.lean) -/

theorem keeps_execSigHash (w : Worker) (d s1 s2 : GReg) : Keeps (execSigHash w d s1 s2 s) :=
  keeps_sig hs w _ fun _ hs => wf_withLoad hs _ _ _ _ _ fun _ => wf_withScratch hs _ _ _ _ _ (wf_sigRequest hs ..)

theorem keeps_execSigSign (w : Worker) (d s1 s2 : GReg) : Keeps (execSigSign w d s1 s2 s) := by
  refine keeps_sig hs w _ fun s hs => ?_
  dsimp only
  split
  · simp [hs]
  · exact wf_withLoad hs _ _ _ _ _ fun p => wf_withScratch hs _ _ _ _ _ (wf_sigRequest hs ..)

theorem keeps_execSigVerify (w : Worker) (d s1 s2 : GReg) : Keeps (execSigVerify w d s1 s2 s) := by
  refine keeps_sig hs w _ fun s hs => ?_
  dsimp only
  split
  · simp [hs]
  · split
    · simp [hs]
    · exact wf_withLoad hs _ _ _ _ _ fun p => wf_withLoad hs _ _ _ _ _ fun q => wf_sigRequest hs ..

/-! ### Kernels (Machine/Kernels.lean) -/

theorem keeps_execCoul : Keeps (execCoul s) := by
  refine keeps_kernelRow hs _ _ fun l => ?_
  simp [hs]

theorem keeps_execOcv : Keeps (execOcv s) := by
  refine keeps_kernelRow hs _ _ fun l => ?_
  simp [hs]

theorem keeps_execZcomp : Keeps (execZcomp s) := by
  refine keeps_kernelRow hs _ _ fun l => ?_
  simp [hs]

theorem keeps_execRlsz : Keeps (execRlsz s) := by
  refine keeps_kernelRow hs _ _ fun l => ?_
  simp [hs]

theorem keeps_execSocf : Keeps (execSocf s) := by
  refine keeps_kernelRow hs _ _ fun l => ?_
  simp [hs]

theorem keeps_execLimp : Keeps (execLimp s) := by
  refine keeps_kernelRow hs _ _ fun l => ?_
  simp [hs]

theorem keeps_execBalp : Keeps (execBalp s) := by
  refine keeps_kernelRow hs _ _ fun l => ?_
  simp [hs]

theorem keeps_execStat : Keeps (execStat s) := by
  refine keeps_kernelRow hs _ _ fun l => ?_
  simp [hs]

/-! ### STEPFIT and vector kernels (Machine/Fit.lean) -/

theorem keeps_execStepfit : Keeps (execStepfit s) := by
  refine keeps_kernelRow hs _ _ fun l => ?_
  simp [hs]

theorem keeps_execVadd : Keeps (execVadd s) := by
  refine keeps_kernelRow hs _ _ fun l => ?_
  simp [hs]

theorem keeps_execVmul : Keeps (execVmul s) := by
  refine keeps_kernelRow hs _ _ fun l => ?_
  simp [hs]

theorem keeps_execVmadd : Keeps (execVmadd s) := by
  refine keeps_kernelRow hs _ _ fun l => ?_
  simp [hs]

theorem keeps_execVmin : Keeps (execVmin s) := by
  refine keeps_kernelRow hs _ _ fun l => ?_
  simp [hs]

theorem keeps_execVmax : Keeps (execVmax s) := by
  refine keeps_kernelRow hs _ _ fun l => ?_
  simp [hs]

theorem keeps_execVinterp : Keeps (execVinterp s) := by
  refine keeps_kernelRow hs _ _ fun l => ?_
  simp [hs]

theorem keeps_execVcmpm : Keeps (execVcmpm s) := by
  refine keeps_kernelRow hs _ _ fun l => ?_
  simp [hs]

/-! ### Sweeps (Machine/Sweep.lean) -/

theorem keeps_execBeaconEchoRx (r : Region) (echo : Option BeaconRx) : Keeps (execBeaconEchoRx r echo s) := by simp [execBeaconEchoRx, hs]

theorem keeps_execCommandWindowTx (r : Region) (stepOfs : Word) : Keeps (execCommandWindowTx r stepOfs s) := by
  simp [execCommandWindowTx, hs]

theorem keeps_execUpstreamPacketRx (r : Region) (p : UpPacket) : Keeps (execUpstreamPacketRx r p s) := by simp [execUpstreamPacketRx, hs]
theorem keeps_execCollectionLimitReached (r : Region) : Keeps (execCollectionLimitReached r s) := by simp [execCollectionLimitReached, hs]
theorem keeps_execRekeyStart (r : Region) : Keeps (execRekeyStart r s) := by simp [execRekeyStart, hs]

/-! ### Estimator (Machine/Publish.lean) -/

theorem keeps_execPublishComplete : Keeps (execPublishComplete s) := by simp [execPublishComplete, hs]
theorem keeps_execCappingCopyEnd : Keeps (execCappingCopyEnd s) := by simp [execCappingCopyEnd, hs]
theorem keeps_execCappingSealed : Keeps (execCappingSealed s) := by simp [execCappingSealed, hs]
theorem keeps_execCappingRestore (sess : Session) : Keeps (execCappingRestore sess s) := by simp [execCappingRestore, hs]

/-! ### Orders and exchanges (Machine/Orders.lean) -/

theorem keeps_execBalTallyTimer (r : Region) : Keeps (execBalTallyTimer r s) := by simp [execBalTallyTimer, hs]
theorem keeps_execAlarmPacketRx (r : Region) (p : AlarmPacket) : Keeps (execAlarmPacketRx r p s) := by simp [execAlarmPacketRx, hs]

theorem keeps_execSpareExchangeStart (r : Region) : Keeps (execSpareExchangeStart r s) := by
  refine keeps_run hs _ ?_
  split <;> simp [hs]

theorem keeps_execSpareUpRx (r : Region) (a : SpareUp) : Keeps (execSpareUpRx r a s) := by simp [execSpareUpRx, hs]
theorem keeps_execSpareAnswerTimeout (r : Region) : Keeps (execSpareAnswerTimeout r s) := by simp [execSpareAnswerTimeout, hs]

theorem keeps_execReachAnswerRx (r : Region) (hop : Nat) (a : ReachAnswer) : Keeps (execReachAnswerRx r hop a s) := by
  simp [execReachAnswerRx, hs]

theorem keeps_execReachTimeout (r : Region) : Keeps (execReachTimeout r s) := by simp [execReachTimeout, hs]

theorem keeps_execKeptRecordsRx (r : Region) (hop : Nat) (k : KeptPacket) : Keeps (execKeptRecordsRx r hop k s) := by
  simp [execKeptRecordsRx, hs]

theorem keeps_execCaptureUploadStart (r : Region) : Keeps (execCaptureUploadStart r s) := by
  refine keeps_run hs _ ?_
  split <;> simp [hs]

theorem keeps_execCaptureSegmentRx (r : Region) (seg : CapSegment) : Keeps (execCaptureSegmentRx r seg s) := by
  simp [execCaptureSegmentRx, hs]

theorem keeps_execCaptureUploadTimeout (r : Region) : Keeps (execCaptureUploadTimeout r s) := by simp [execCaptureUploadTimeout, hs]
theorem keeps_execFwActivateTimeout (r : Region) : Keeps (execFwActivateTimeout r s) := by simp [execFwActivateTimeout, hs]
theorem keeps_execNfwLoad (sess : Session) (r : Region) : Keeps (execNfwLoad sess r s) := by simp [execNfwLoad, hs]
theorem keeps_execNfwActivate (sess : Session) (r : Region) : Keeps (execNfwActivate sess r s) := by simp [execNfwActivate, hs]
theorem keeps_execNfwAbort (sess : Session) (r : Region) : Keeps (execNfwAbort sess r s) := by simp [execNfwAbort, hs]

theorem keeps_execNodeChallengeStart (r : Region) (hop : Nat) : Keeps (execNodeChallengeStart r hop s) := by
  simp [execNodeChallengeStart, hs]

theorem keeps_execNodeChallengeAnswerRx (r : Region) (hop : Nat) (parts : List AirPart) :
    Keeps (execNodeChallengeAnswerRx r hop parts s) := by
  simp [execNodeChallengeAnswerRx, hs]

theorem keeps_execNodeChallengeTimeout (r : Region) : Keeps (execNodeChallengeTimeout r s) := by simp [execNodeChallengeTimeout, hs]
theorem keeps_execNodeChallengeRoutine (r : Region) : Keeps (execNodeChallengeRoutine r s) := by simp [execNodeChallengeRoutine, hs]
theorem keeps_execLeadPacketHeard (r : Region) (p : LeadPacket) : Keeps (execLeadPacketHeard r p s) := by simp [execLeadPacketHeard, hs]

/-! ### Sewing (Machine/Sew.lean) -/

theorem keeps_execSewStart (sess : Session) (r : Region) : Keeps (execSewStart sess r s) := by simp [execSewStart, hs]
theorem keeps_execSewConfirm (sess : Session) (r : Region) : Keeps (execSewConfirm sess r s) := by simp [execSewConfirm, hs]
theorem keeps_execSewReject (sess : Session) (r : Region) : Keeps (execSewReject sess r s) := by simp [execSewReject, hs]
theorem keeps_execSewFinish (sess : Session) (r : Region) : Keeps (execSewFinish sess r s) := by simp [execSewFinish, hs]
theorem keeps_execSewAbandon (sess : Session) (r : Region) : Keeps (execSewAbandon sess r s) := by simp [execSewAbandon, hs]

theorem keeps_execSewRestitch (sess : Session) (r : Region) (hop : BitVec 5) : Keeps (execSewRestitch sess r hop s) := by
  simp [execSewRestitch, hs]

theorem keeps_execSewResewFrom (sess : Session) (r : Region) (hop : BitVec 5) : Keeps (execSewResewFrom sess r hop s) := by
  simp [execSewResewFrom, hs]

theorem keeps_execSewSurveyEnd (r : Region) (energies : List Nat) : Keeps (execSewSurveyEnd r energies s) := by simp [execSewSurveyEnd, hs]
theorem keeps_execEnrolCallTx (r : Region) : Keeps (execEnrolCallTx r s) := by simp [execEnrolCallTx, hs]
theorem keeps_execEnrolAnswerRx (r : Region) (a : EnrolAnswer) : Keeps (execEnrolAnswerRx r a s) := by simp [execEnrolAnswerRx, hs]
theorem keeps_execSewAnswerWindowEnd (r : Region) : Keeps (execSewAnswerWindowEnd r s) := by simp [execSewAnswerWindowEnd, hs]
theorem keeps_execSewNoAnswer (r : Region) : Keeps (execSewNoAnswer r s) := by simp [execSewNoAnswer, hs]

theorem keeps_execChallengeAnswerRx (r : Region) (a : ChallengeAnswer) : Keeps (execChallengeAnswerRx r a s) := by
  refine keeps_run hs _ (wf_sewHeard hs _ _ fun s hs => ?_)
  simp [hs]

theorem keeps_execSewChallengeTimeout (r : Region) : Keeps (execSewChallengeTimeout r s) := by simp [execSewChallengeTimeout, hs]
theorem keeps_execSewConfirmTimeout (r : Region) : Keeps (execSewConfirmTimeout r s) := by simp [execSewConfirmTimeout, hs]

theorem keeps_execKeyAckRx (r : Region) (mic : Word) : Keeps (execKeyAckRx r mic s) := by
  refine keeps_run hs _ (wf_sewHeard hs _ _ fun s hs => ?_)
  simp [hs]

theorem keeps_execSewKeyTimeout (r : Region) : Keeps (execSewKeyTimeout r s) := by simp [execSewKeyTimeout, hs]
theorem keeps_execSewSearchTimeout (r : Region) : Keeps (execSewSearchTimeout r s) := by simp [execSewSearchTimeout, hs]
theorem keeps_execSewRangingDone (r : Region) (delay : Half) : Keeps (execSewRangingDone r delay s) := by simp [execSewRangingDone, hs]
theorem keeps_execSewLinkFail (r : Region) : Keeps (execSewLinkFail r s) := by simp [execSewLinkFail, hs]

/-! ### Folios and settings (Machine/Folio.lean) -/

theorem keeps_execFolioVerify (sess : Session) : Keeps (execFolioVerify sess s) := by simp [execFolioVerify, hs]
theorem keeps_execFolioVerifyDone : Keeps (execFolioVerifyDone s) := by simp [execFolioVerifyDone, hs]
theorem keeps_execWriteSlot (sess : Session) : Keeps (execWriteSlot sess s) := by simp [execWriteSlot, hs]
theorem keeps_execWriteSlotDone : Keeps (execWriteSlotDone s) := by simp [execWriteSlotDone, hs]
theorem keeps_execFolioConfirm (sess : Session) : Keeps (execFolioConfirm sess s) := by simp [execFolioConfirm, hs]
theorem keeps_execReload (sess : Session) (r : Region) : Keeps (execReload sess r s) := by simp [execReload, hs]
theorem keeps_execRegionReloadApply : Keeps (execRegionReloadApply s) := by simp [execRegionReloadApply, hs]
theorem keeps_execChipInSegmentTimeout : Keeps (execChipInSegmentTimeout s) := by simp [execChipInSegmentTimeout, hs]
theorem keeps_execSettingsSubmit (sess : Session) (hi : Word) : Keeps (execSettingsSubmit sess hi s) := by simp [execSettingsSubmit, hs]

theorem keeps_execSettingsFieldApply : Keeps (execSettingsFieldApply s) := by
  refine keeps_run hs _ ?_
  split <;> simp [hs]

/-! ### Recorder (Machine/Recorder.lean) -/

theorem keeps_execRecorderRingWrite (ringFault durFault : Bool) : Keeps (execRecorderRingWrite ringFault durFault s) := by
  simp [execRecorderRingWrite, hs]

theorem keeps_execTokenRefill (code : Half) : Keeps (execTokenRefill code s) := by simp [execTokenRefill, hs]

theorem keeps_execSuppressionSummaryTimer (code : Half) : Keeps (execSuppressionSummaryTimer code s) := by
  simp [execSuppressionSummaryTimer, hs]

theorem keeps_execRibbonTailRead (rd : Reader) (k : Fin 4) : Keeps (execRibbonTailRead rd k s) := by simp [execRibbonTailRead, hs]
theorem keeps_execRecordClear (sess : Session) : Keeps (execRecordClear sess s) := by simp [execRecordClear, hs]
theorem keeps_execScrubLine (o : LineOutcome) : Keeps (execScrubLine o s) := by simp [execScrubLine, hs]

/-! ### Twin (Machine/Twin.lean) -/

theorem keeps_execHelloTx : Keeps (execHelloTx s) := by simp [execHelloTx, hs]
theorem keeps_execHelloRx (h : Hello) : Keeps (execHelloRx h s) := by simp [execHelloRx, hs]
theorem keeps_execRoleDecisionTimeout : Keeps (execRoleDecisionTimeout s) := by simp [execRoleDecisionTimeout, hs]
theorem keeps_execSessionKeyRx (m : KeyMsg) : Keeps (execSessionKeyRx m s) := by simp [execSessionKeyRx, hs]
theorem keeps_execHeartbeatTx : Keeps (execHeartbeatTx s) := by simp [execHeartbeatTx, hs]
theorem keeps_execHeartbeatRx (f : TwinHdr) (b : Heartbeat) : Keeps (execHeartbeatRx f b s) := by simp [execHeartbeatRx, hs]
theorem keeps_execHeartbeatLoss : Keeps (execHeartbeatLoss s) := by simp [execHeartbeatLoss, hs]
theorem keeps_execTwinHbEdge : Keeps (execTwinHbEdge s) := by simp [execTwinHbEdge, hs]
theorem keeps_execTwinHbStill : Keeps (execTwinHbStill s) := by simp [execTwinHbStill, hs]
theorem keeps_execLinkHoldExpiry : Keeps (execLinkHoldExpiry s) := by simp [execLinkHoldExpiry, hs]

theorem keeps_execDigestSnapshot : Keeps (execDigestSnapshot s) := by
  refine keeps_run hs _ ?_
  split <;> simp [hs]

theorem keeps_execDigestRx (f : TwinHdr) (b : Digest) : Keeps (execDigestRx f b s) := by
  refine keeps_run hs _ (wf_twinFrame hs _ _ _ fun s hs => ?_)
  simp [hs]

theorem keeps_execOpenOrderRx (f : TwinHdr) (b : OpenOrder) : Keeps (execOpenOrderRx f b s) := by
  refine keeps_run hs _ (wf_twinFrame hs _ _ _ fun s hs => ?_)
  simp [hs]

theorem keeps_execCheckFailRx (f : TwinHdr) (b : OpenOrder) : Keeps (execCheckFailRx f b s) := by
  refine keeps_run hs _ (wf_twinFrame hs _ _ _ fun s hs => ?_)
  simp [hs]

theorem keeps_execRetireRx (f : TwinHdr) (b : Retire) : Keeps (execRetireRx f b s) := by simp [execRetireRx, hs]
theorem keeps_execRecordRx (f : TwinHdr) (b : FwdRecord) : Keeps (execRecordRx f b s) := by simp [execRecordRx, hs]

theorem keeps_execMirMsgRx (f : TwinHdr) (w : Worker) (bytes : List Byte) : Keeps (execMirMsgRx f w bytes s) := by
  refine keeps_run hs _ (wf_twinFrame hs _ _ _ fun s hs => ?_)
  simp [hs]

theorem keeps_execTimeFrameRx (f : TwinHdr) (t1 t2 t3 t4 : Nat) : Keeps (execTimeFrameRx f t1 t2 t3 t4 s) := by simp [execTimeFrameRx, hs]
theorem keeps_execMapsRx (f : TwinHdr) (maps : List (Region × RegionMap)) : Keeps (execMapsRx f maps s) := by simp [execMapsRx, hs]
theorem keeps_execStateTransferRequest (f : TwinHdr) : Keeps (execStateTransferRequest f s) := by simp [execStateTransferRequest, hs]
theorem keeps_execXferSegmentRx (f : TwinHdr) (b : Xfer) : Keeps (execXferSegmentRx f b s) := by simp [execXferSegmentRx, hs]

theorem keeps_execXferAckRx (f : TwinHdr) (kib : Nat) (last : Bool) : Keeps (execXferAckRx f kib last s) := by
  refine keeps_run hs _ (wf_twinFrame hs _ _ _ fun s hs => ?_)
  simp [hs]

theorem keeps_execTransferRetryTimer : Keeps (execTransferRetryTimer s) := by simp [execTransferRetryTimer, hs]
theorem keeps_execGrantRx (f : TwinHdr) (sweep : Word) : Keeps (execGrantRx f sweep s) := by simp [execGrantRx, hs]
theorem keeps_execTwinAdmit (sess : Session) : Keeps (execTwinAdmit sess s) := by simp [execTwinAdmit, hs]
theorem keeps_execTwinForget (sess : Session) : Keeps (execTwinForget sess s) := by simp [execTwinForget, hs]
theorem keeps_execBeaconTx (r : Region) : Keeps (execBeaconTx r s) := by simp [execBeaconTx, hs]

theorem keeps_execSampleInstant (dsm : Dsm4) : Keeps (execSampleInstant dsm s) := by
  refine keeps_run hs _ ?_
  simp [hs]

/-! ### Starts and supplies (Machine/Start.lean) -/

theorem keeps_execColdStart (sideB : Bool) : Keeps (execColdStart sideB s) := by simp [execColdStart, hs]

theorem keeps_execWarmRestart : Keeps (execWarmRestart s) := by
  unfold execWarmRestart
  simp only [keeps_next]
  split
  · split <;> simp [hs]
  · exact hs

theorem keeps_execChipWatchdog : Keeps (execChipWatchdog s) := by simp [execChipWatchdog, hs]
theorem keeps_execBrownoutWarning : Keeps (execBrownoutWarning s) := by simp [execBrownoutWarning, hs]
theorem keeps_execSupplyRecovery : Keeps (execSupplyRecovery s) := by simp [execSupplyRecovery, hs]
theorem keeps_execLogicSupplyLoss : Keeps (execLogicSupplyLoss s) := by simp [execLogicSupplyLoss, hs]

theorem keeps_execLogicSupplyInputChange (b present : Bool) : Keeps (execLogicSupplyInputChange b present s) := by
  simp [execLogicSupplyInputChange, hs]

theorem keeps_execThermalShutdown : Keeps (execThermalShutdown s) := by simp [execThermalShutdown, hs]
theorem keeps_execThermalRelease : Keeps (execThermalRelease s) := by simp [execThermalRelease, hs]
theorem keeps_execThrottleTrip : Keeps (execThrottleTrip s) := by simp [execThrottleTrip, hs]
theorem keeps_execThrottleRelease : Keeps (execThrottleRelease s) := by simp [execThrottleRelease, hs]
theorem keeps_execThrottleGraceEnd : Keeps (execThrottleGraceEnd s) := by simp [execThrottleGraceEnd, hs]
theorem keeps_execSleepEnter : Keeps (execSleepEnter s) := by simp [execSleepEnter, hs]
theorem keeps_execWakeFromSleep (src : WakeSrc) : Keeps (execWakeFromSleep src s) := by simp [execWakeFromSleep, hs]

theorem keeps_execBistDone (sig : DWord) (rows : Byte) (rowFail : Bool) : Keeps (execBistDone sig rows rowFail s) := by
  simp [execBistDone, hs]

theorem keeps_execStartWorkersReady : Keeps (execStartWorkersReady s) := by simp [execStartWorkersReady, hs]
theorem keeps_execHostWindowReady : Keeps (execHostWindowReady s) := by simp [execHostWindowReady, hs]
theorem keeps_execFolioActivate (sess : Session) : Keeps (execFolioActivate sess s) := by simp [execFolioActivate, hs]

/-! ### Identity (Machine/Ident.lean) -/

theorem keeps_execAttest (sess : Session) : Keeps (execAttest sess s) := by simp [execAttest, hs]
theorem keeps_execCerts (sess : Session) : Keeps (execCerts sess s) := by simp [execCerts, hs]
theorem keeps_execSetFolioKey (sess : Session) : Keeps (execSetFolioKey sess s) := by simp [execSetFolioKey, hs]
theorem keeps_execSetServiceKey (sess : Session) : Keeps (execSetServiceKey sess s) := by simp [execSetServiceKey, hs]
theorem keeps_execTrustAdd (sess : Session) : Keeps (execTrustAdd sess s) := by simp [execTrustAdd, hs]
theorem keeps_execTrustRemove (sess : Session) : Keeps (execTrustRemove sess s) := by simp [execTrustRemove, hs]
theorem keeps_execNewAppKey (sess : Session) : Keeps (execNewAppKey sess s) := by simp [execNewAppKey, hs]
theorem keeps_execAdopt (sess : Session) : Keeps (execAdopt sess s) := by simp [execAdopt, hs]

/-! ### Ethernet (Machine/Net.lean) -/

theorem keeps_execEthLinkChange (port : Fin 3) (speed : BitVec 3) : Keeps (execEthLinkChange port speed s) := by
  simp [execEthLinkChange, hs]

theorem keeps_execPtpSyncRx (m : PtpSync) : Keeps (execPtpSyncRx m s) := by simp [execPtpSyncRx, hs]
theorem keeps_execPtpPdelayReqRx (port : Fin 2) : Keeps (execPtpPdelayReqRx port s) := by simp [execPtpPdelayReqRx, hs]
theorem keeps_execPtpAnnounceTimeout : Keeps (execPtpAnnounceTimeout s) := by simp [execPtpAnnounceTimeout, hs]
theorem keeps_execPtpAnnounceRx (m : PtpAnnounce) : Keeps (execPtpAnnounceRx m s) := by simp [execPtpAnnounceRx, hs]

theorem keeps_execPtpDelayRespRx (port : Fin 2) (domain : Byte) (delay : Word) : Keeps (execPtpDelayRespRx port domain delay s) := by
  simp [execPtpDelayRespRx, hs]

theorem keeps_execTcForward (ingress : Fin 2) (kind : PtpEvent) (residence : Nat) : Keeps (execTcForward ingress kind residence s) := by
  simp [execTcForward, hs]

theorem keeps_execBridgeFrameRx (port : Fin 2) (src dst : BitVec 48) : Keeps (execBridgeFrameRx port src dst s) := by
  simp [execBridgeFrameRx, hs]

theorem keeps_execBridgeAddressAgeOut (mac : BitVec 48) : Keeps (execBridgeAddressAgeOut mac s) := by simp [execBridgeAddressAgeOut, hs]

theorem keeps_execArpIcmpRequest (icmp : Bool) (target : Word) : Keeps (execArpIcmpRequest icmp target s) := by
  simp [execArpIcmpRequest, hs]

theorem keeps_execDhcpv4Lease (lease : Option Word) : Keeps (execDhcpv4Lease lease s) := by simp [execDhcpv4Lease, hs]

/-! ### Position inputs (Machine/Position.lean) -/

theorem keeps_execQinCount (w : Worker) (d s1 : GReg) : Keeps (execQinCount w d s1 s) := by simp [execQinCount, hs]
theorem keeps_execQinSpeed (w : Worker) (d s1 : GReg) : Keeps (execQinSpeed w d s1 s) := by simp [execQinSpeed, hs]
theorem keeps_execQinStat (w : Worker) (d s1 : GReg) : Keeps (execQinStat w d s1 s) := by simp [execQinStat, hs]
theorem keeps_execQinIndex (w : Worker) (d s1 : GReg) : Keeps (execQinIndex w d s1 s) := by simp [execQinIndex, hs]

theorem keeps_execQinCfg (w : Worker) (d s1 s2 : GReg) : Keeps (execQinCfg w d s1 s2 s) := by
  refine keeps_issue hs w _ fun s hs => ?_
  simp [hs]

theorem keeps_execQpTransition (n : Fin 8) (qbLeads : Bool) : Keeps (execQpTransition n qbLeads s) := by simp [execQpTransition, hs]
theorem keeps_execQpSkip (n : Fin 8) : Keeps (execQpSkip n s) := by simp [execQpSkip, hs]
theorem keeps_execQpIndexEdge (n : Fin 8) (rising : Bool) : Keeps (execQpIndexEdge n rising s) := by simp [execQpIndexEdge, hs]
theorem keeps_execSkipWindowEnd (n : Fin 8) : Keeps (execSkipWindowEnd n s) := by simp [execSkipWindowEnd, hs]
theorem keeps_execSpdTimeoutExpiry (n : Fin 8) : Keeps (execSpdTimeoutExpiry n s) := by simp [execSpdTimeoutExpiry, hs]

/-! ### Registers and snapshots (Machine/Regs.lean) -/

theorem keeps_execSnapshotTake (rd : Reader) (addr : Word) : Keeps (execSnapshotTake rd addr s) := by simp [execSnapshotTake, hs]
theorem keeps_execSnapshotRelease (rd : Reader) (addr : Word) : Keeps (execSnapshotRelease rd addr s) := by simp [execSnapshotRelease, hs]

theorem keeps_execSnapshotTimeout (rd : Reader) (addr : Word) : Keeps (execSnapshotTimeout rd addr s) := by
  refine keeps_run hs _ ?_
  split <;> simp [hs]

theorem keeps_execForwardRx (f : TwinHdr) (b : Forward) : Keeps (execForwardRx f b s) := by simp [execForwardRx, hs]
theorem keeps_execCryptoComplete : Keeps (execCryptoComplete s) := by simp [execCryptoComplete, hs]

/-! ### Host sessions (Machine/Host.lean) -/

theorem keeps_execTcpConnect : Keeps (execTcpConnect s) := by simp [execTcpConnect, hs]

theorem keeps_execTlsHandshakeDone (slot : Fin 8) (r : TlsResult) : Keeps (execTlsHandshakeDone slot r s) := by
  simp [execTlsHandshakeDone, hs]

theorem keeps_execTlsHandshakeTimeout (slot : Fin 8) : Keeps (execTlsHandshakeTimeout slot s) := by simp [execTlsHandshakeTimeout, hs]

theorem keeps_execHostRead (sess : Session) (tag : BitVec 16) (addr bytes : Word) : Keeps (execHostRead sess tag addr bytes s) := by
  simp [execHostRead, hs]

theorem keeps_execHostWrite (sess : Session) (tag : BitVec 16) (addr : Word) (words : List Word) :
    Keeps (execHostWrite sess tag addr words s) :=
  keeps_run hs _ (wf_onMessage hs _ _ fun _ hs => wf_writeMsg hs ..)

theorem keeps_execHostDesc (sess : Session) (tag : BitVec 16) (idx : Byte) (wr : Bool) (base len : Word) :
    Keeps (execHostDesc sess tag idx wr base len s) := by
  simp [execHostDesc, hs]

theorem keeps_execHostSubscribe (sess : Session) (tag : BitVec 16) (mask : Word) : Keeps (execHostSubscribe sess tag mask s) := by
  simp [execHostSubscribe, hs]

theorem keeps_execHostPing (sess : Session) (tag : BitVec 16) : Keeps (execHostPing sess tag s) := by simp [execHostPing, hs]
theorem keeps_execHostClose (sess : Session) (_tag : BitVec 16) : Keeps (execHostClose sess _tag s) := by simp [execHostClose, hs]

theorem keeps_execBadType (sess : Session) (tag : BitVec 16) (type : Byte) (len : Word) : Keeps (execBadType sess tag type len s) := by
  simp [execBadType, hs]

theorem keeps_execCappingQueueStall (sess : Session) : Keeps (execCappingQueueStall sess s) := by simp [execCappingQueueStall, hs]
theorem keeps_execSessionIdleTimeout (sess : Session) : Keeps (execSessionIdleTimeout sess s) := by simp [execSessionIdleTimeout, hs]
theorem keeps_execUsbEnumerate : Keeps (execUsbEnumerate s) := by simp [execUsbEnumerate, hs]
theorem keeps_execUsbDisconnect : Keeps (execUsbDisconnect s) := by simp [execUsbDisconnect, hs]
theorem keeps_execUsbUnlock : Keeps (execUsbUnlock s) := by simp [execUsbUnlock, hs]
theorem keeps_execUsbVerify : Keeps (execUsbVerify s) := by simp [execUsbVerify, hs]
theorem keeps_execUsbLock : Keeps (execUsbLock s) := by simp [execUsbLock, hs]
theorem keeps_execUsbRoleLapse : Keeps (execUsbRoleLapse s) := by simp [execUsbRoleLapse, hs]

/-! ### Loads and stores (Machine/LoadStore.lean) -/

theorem keeps_execLdw (w : Worker) (d s1 : GReg) (imm : Half) : Keeps (execLdw w d s1 imm s) := by
  refine keeps_issue hs w _ fun s hs => ?_
  simp [hs]

theorem keeps_execStw (w : Worker) (d s1 : GReg) (imm : Half) : Keeps (execStw w d s1 imm s) := by
  refine keeps_issue hs w _ fun s hs => ?_
  simp [hs]

theorem keeps_execLdx (w : Worker) (d s1 s2 : GReg) (size : XSize) (scale : Bool) : Keeps (execLdx w d s1 s2 size scale s) := by
  refine keeps_issue hs w _ fun s hs => ?_
  simp [hs]

theorem keeps_execStx (w : Worker) (d s1 s2 : GReg) (size : XSize) (scale : Bool) : Keeps (execStx w d s1 s2 size scale s) := by
  refine keeps_issue hs w _ fun s hs => ?_
  simp [hs]

theorem keeps_execLdd (w : Worker) (d : AReg) (s1 : GReg) (imm : Half) : Keeps (execLdd w d s1 imm s) := by
  refine keeps_issue hs w _ fun s hs => ?_
  simp [hs]

theorem keeps_execStd (w : Worker) (d : AReg) (s1 : GReg) (imm : Half) : Keeps (execStd w d s1 imm s) := by
  refine keeps_issue hs w _ fun s hs => ?_
  simp [hs]

theorem keeps_execXchg (w : Worker) (d s1 s2 : GReg) : Keeps (execXchg w d s1 s2 s) := by simp [execXchg, hs]
theorem keeps_execFadd (w : Worker) (d s1 s2 : GReg) : Keeps (execFadd w d s1 s2 s) := by simp [execFadd, hs]
theorem keeps_execCas (w : Worker) (d s1 s2 : GReg) : Keeps (execCas w d s1 s2 s) := by simp [execCas, hs]
theorem keeps_execFetchOr (w : Worker) (d s1 s2 : GReg) : Keeps (execFetchOr w d s1 s2 s) := by simp [execFetchOr, hs]
theorem keeps_execFetchAnd (w : Worker) (d s1 s2 : GReg) : Keeps (execFetchAnd w d s1 s2 s) := by simp [execFetchAnd, hs]
theorem keeps_execDramAccessComplete (w : Worker) : Keeps (execDramAccessComplete w s) := by simp [execDramAccessComplete, hs]

theorem keeps_execFence (w : Worker) : Keeps (execFence w s) := by
  refine keeps_issue hs w _ fun s hs => ?_
  simp [hs]

/-! ### Register writes (Machine/Writes.lean) -/

theorem keeps_execRegisterWrite (who : Writer) (addr v : Word) : Keeps (execRegisterWrite who addr v s) := by
  refine keeps_run hs _ ?_
  (repeat' split) <;> simp [hs]

theorem keeps_execPhaseMessageCommit (who : Writer) (ns : Word) : Keeps (execPhaseMessageCommit who ns s) := by
  simp [execPhaseMessageCommit, hs]

theorem keeps_execWheelSrcWrite (who : Writer) (src : BitVec 2) : Keeps (execWheelSrcWrite who src s) := by simp [execWheelSrcWrite, hs]
theorem keeps_execNominalWrite (who : Writer) (nominal : Bool) : Keeps (execNominalWrite who nominal s) := by simp [execNominalWrite, hs]
theorem keeps_execTimeSrcWrite (who : Writer) (src : BitVec 2) : Keeps (execTimeSrcWrite who src s) := by simp [execTimeSrcWrite, hs]
theorem keeps_execTimeSet (who : Writer) (ns : Word) : Keeps (execTimeSet who ns s) := by simp [execTimeSet, hs]
theorem keeps_execTickLoad (who : Writer) (n : Fin 4) (hi : Word) : Keeps (execTickLoad who n hi s) := by simp [execTickLoad, hs]
theorem keeps_execWkStart (who : Writer) (w : Worker) : Keeps (execWkStart who w s) := by simp [execWkStart, hs]
theorem keeps_execWkStop (who : Writer) (w : Worker) : Keeps (execWkStop who w s) := by simp [execWkStop, hs]
theorem keeps_execWkRestart (who : Writer) (w : Worker) : Keeps (execWkRestart who w s) := by simp [execWkRestart, hs]
theorem keeps_execWkClearRestarts (who : Writer) (w : Worker) : Keeps (execWkClearRestarts who w s) := by simp [execWkClearRestarts, hs]
theorem keeps_execSweepFracWrite (who : Writer) (v : Word) : Keeps (execSweepFracWrite who v s) := by simp [execSweepFracWrite, hs]
theorem keeps_execSweepHushWrite (who : Writer) (v : Word) : Keeps (execSweepHushWrite who v s) := by simp [execSweepHushWrite, hs]

theorem keeps_execBalCommit (who : Writer) (r : Region) (hops : BitVec 5) (arg0 arg1 : Word) :
    Keeps (execBalCommit who r hops arg0 arg1 s) := by
  simp [execBalCommit, hs]

theorem keeps_execBalHalt (who : Writer) (r : Region) (hops : BitVec 5) (arg0 arg1 : Word) :
    Keeps (execBalHalt who r hops arg0 arg1 s) := by
  simp [execBalHalt, hs]

theorem keeps_execCapture (who : Writer) (r : Region) (hops : BitVec 5) (arg0 arg1 : Word) :
    Keeps (execCapture who r hops arg0 arg1 s) := by
  simp [execCapture, hs]

theorem keeps_execPreStream (who : Writer) (r : Region) (hops : BitVec 5) (arg0 arg1 : Word) :
    Keeps (execPreStream who r hops arg0 arg1 s) := by
  simp [execPreStream, hs]

theorem keeps_execPreStop (who : Writer) (r : Region) (hops : BitVec 5) (arg0 arg1 : Word) :
    Keeps (execPreStop who r hops arg0 arg1 s) := by
  simp [execPreStop, hs]

theorem keeps_execOrderSleep (who : Writer) (r : Region) (hops : BitVec 5) (arg0 arg1 : Word) :
    Keeps (execOrderSleep who r hops arg0 arg1 s) := by
  simp [execOrderSleep, hs]

theorem keeps_execFwActivate (who : Writer) (r : Region) (hops : BitVec 5) (arg0 arg1 : Word) :
    Keeps (execFwActivate who r hops arg0 arg1 s) := by
  simp [execFwActivate, hs]

theorem keeps_execBalPlan (who : Writer) (r : Region) (hops : BitVec 5) (arg0 arg1 : Word) :
    Keeps (execBalPlan who r hops arg0 arg1 s) := by
  simp [execBalPlan, hs]

theorem keeps_execBalTally (who : Writer) (r : Region) (hops : BitVec 5) (arg0 arg1 : Word) :
    Keeps (execBalTally who r hops arg0 arg1 s) := by
  simp [execBalTally, hs]

theorem keeps_execOrdLimits (who : Writer) (r : Region) (hops : BitVec 5) (arg0 arg1 : Word) :
    Keeps (execOrdLimits who r hops arg0 arg1 s) := by
  simp [execOrdLimits, hs]

theorem keeps_execCapUpload (who : Writer) (r : Region) (hops : BitVec 5) (arg0 arg1 : Word) :
    Keeps (execCapUpload who r hops arg0 arg1 s) := by
  simp [execCapUpload, hs]

theorem keeps_execFwSeg (who : Writer) (r : Region) (hops : BitVec 5) (arg0 arg1 : Word) : Keeps (execFwSeg who r hops arg0 arg1 s) := by
  simp [execFwSeg, hs]

theorem keeps_execFwQuery (who : Writer) (r : Region) (hops : BitVec 5) (arg0 arg1 : Word) :
    Keeps (execFwQuery who r hops arg0 arg1 s) := by
  simp [execFwQuery, hs]

theorem keeps_execEstPublish (who : Writer) (n : Word) : Keeps (execEstPublish who n s) := by simp [execEstPublish, hs]

theorem keeps_execDirectoryWrite (who : Writer) (n : Fin 8) (word : Fin 3) (v : Word) : Keeps (execDirectoryWrite who n word v s) := by
  simp [execDirectoryWrite, hs]

theorem keeps_execCappingExport (who : Writer) : Keeps (execCappingExport who s) := by simp [execCappingExport, hs]
theorem keeps_execSeverAssert (who : Writer) : Keeps (execSeverAssert who s) := by simp [execSeverAssert, hs]
theorem keeps_execSeverClear (who : Writer) : Keeps (execSeverClear who s) := by simp [execSeverClear, hs]
theorem keeps_execTwinYield (who : Writer) : Keeps (execTwinYield who s) := by simp [execTwinYield, hs]
theorem keeps_execTwinDetach (who : Writer) : Keeps (execTwinDetach who s) := by simp [execTwinDetach, hs]
theorem keeps_execTwinResume (who : Writer) : Keeps (execTwinResume who s) := by simp [execTwinResume, hs]
theorem keeps_execCanRecover (who : Writer) (n : Fin 4) : Keeps (execCanRecover who n s) := by simp [execCanRecover, hs]
theorem keeps_execCanFlush (who : Writer) (n : Fin 4) : Keeps (execCanFlush who n s) := by simp [execCanFlush, hs]
theorem keeps_execCanClashClear (who : Writer) (n : Fin 4) : Keeps (execCanClashClear who n s) := by simp [execCanClashClear, hs]

theorem keeps_execCanModeWrite (who : Writer) (n : Fin 4) (mode : BitVec 4) : Keeps (execCanModeWrite who n mode s) := by
  simp [execCanModeWrite, hs]

theorem keeps_execCanBtWrite (who : Writer) (n : Fin 4) (dataPhase : Bool) (v : Word) : Keeps (execCanBtWrite who n dataPhase v s) := by
  simp [execCanBtWrite, hs]

theorem keeps_execCanFilterWrite (who : Writer) (n : Fin 4) (f : Fin 64) (v : Word) : Keeps (execCanFilterWrite who n f v s) := by
  simp [execCanFilterWrite, hs]

theorem keeps_execRibbonSeek (who : Writer) (k : Fin 4) (hi : Word) : Keeps (execRibbonSeek who k hi s) := by simp [execRibbonSeek, hs]
theorem keeps_execMemZero (who : Writer) : Keeps (execMemZero who s) := by simp [execMemZero, hs]
theorem keeps_execQpPreset (who : Writer) (n : Fin 8) (v : Word) : Keeps (execQpPreset who n v s) := by simp [execQpPreset, hs]
theorem keeps_execQpClear (who : Writer) (n : Fin 8) : Keeps (execQpClear who n s) := by simp [execQpClear, hs]
theorem keeps_execQpCfgWrite (who : Writer) (n : Fin 8) (v : Word) : Keeps (execQpCfgWrite who n v s) := by simp [execQpCfgWrite, hs]
theorem keeps_execPwrRestart (who : Writer) : Keeps (execPwrRestart who s) := by simp [execPwrRestart, hs]
theorem keeps_execPwrSleep (who : Writer) : Keeps (execPwrSleep who s) := by simp [execPwrSleep, hs]
theorem keeps_execBistRun (who : Writer) (part : Fin 32) : Keeps (execBistRun who part s) := by simp [execBistRun, hs]

end

/-! ## The step -/

theorem keeps_exec {s : State} (hs : (mems s).Wf) (i : Instr) : Keeps (exec i s) :=
  match i with
  | .coldStart sideB => keeps_execColdStart hs sideB
  | .warmRestart => keeps_execWarmRestart hs
  | .chipWatchdog => keeps_execChipWatchdog hs
  | .brownoutWarning => keeps_execBrownoutWarning hs
  | .supplyRecovery => keeps_execSupplyRecovery hs
  | .logicSupplyLoss => keeps_execLogicSupplyLoss hs
  | .thermalShutdown => keeps_execThermalShutdown hs
  | .thermalRelease => keeps_execThermalRelease hs
  | .throttleTrip => keeps_execThrottleTrip hs
  | .throttleRelease => keeps_execThrottleRelease hs
  | .throttleGraceEnd => keeps_execThrottleGraceEnd hs
  | .startGraceEnd r => keeps_execStartGraceEnd hs r
  | .pwrRestart who => keeps_execPwrRestart hs who
  | .pwrSleep who => keeps_execPwrSleep hs who
  | .sleepEnter => keeps_execSleepEnter hs
  | .wakeFromSleep src => keeps_execWakeFromSleep hs src
  | .bistRun who part => keeps_execBistRun hs who part
  | .bistDone sig rows rowFail => keeps_execBistDone hs sig rows rowFail
  | .snapshotTake rd addr => keeps_execSnapshotTake hs rd addr
  | .snapshotRelease rd addr => keeps_execSnapshotRelease hs rd addr
  | .snapshotTimeout rd addr => keeps_execSnapshotTimeout hs rd addr
  | .registerWrite who addr v => keeps_execRegisterWrite hs who addr v
  | .gridsyncPulse => keeps_execGridsyncPulse hs
  | .phaseMessageCommit who ns => keeps_execPhaseMessageCommit hs who ns
  | .wheelLossTime => keeps_execWheelLossTime hs
  | .wheelHoldExpiry => keeps_execWheelHoldExpiry hs
  | .wheelCycleBoundary => keeps_execWheelCycleBoundary hs
  | .wheelSrcWrite who src => keeps_execWheelSrcWrite hs who src
  | .nominalWrite who nominal => keeps_execNominalWrite hs who nominal
  | .timeSrcWrite who src => keeps_execTimeSrcWrite hs who src
  | .timeSet who ns => keeps_execTimeSet hs who ns
  | .timeSlewEnd => keeps_execTimeSlewEnd hs
  | .timeMarkStore => keeps_execTimeMarkStore hs
  | .tickCompare n => keeps_execTickCompare hs n
  | .tickLoad who n hi => keeps_execTickLoad hs who n hi
  | .canLatchSecond => keeps_execCanLatchSecond hs
  | .actionDue w => keeps_execActionDue hs w
  | .ptpSyncRx m => keeps_execPtpSyncRx hs m
  | .ptpPdelayReqRx port => keeps_execPtpPdelayReqRx hs port
  | .ptpAnnounceTimeout => keeps_execPtpAnnounceTimeout hs
  | .tcForward ingress kind residence => keeps_execTcForward hs ingress kind residence
  | .ethLinkChange port speed => keeps_execEthLinkChange hs port speed
  | .wkStart who w => keeps_execWkStart hs who w
  | .wkStop who w => keeps_execWkStop hs who w
  | .wkRestart who w => keeps_execWkRestart hs who w
  | .wkClearRestarts who w => keeps_execWkClearRestarts hs who w
  | .trapRestartPauseEnd w => keeps_execTrapRestartPauseEnd hs w
  | .dramAccessComplete w => keeps_execDramAccessComplete hs w
  | .storeQueueDrain w => keeps_execStoreQueueDrain hs w
  | .illegalOpcode w word => keeps_execIllegalOpcode hs w word
  | .add w d s1 s2 => keeps_execAdd hs w d s1 s2
  | .sub w d s1 s2 => keeps_execSub hs w d s1 s2
  | .and w d s1 s2 => keeps_execAnd hs w d s1 s2
  | .or w d s1 s2 => keeps_execOr hs w d s1 s2
  | .xor w d s1 s2 => keeps_execXor hs w d s1 s2
  | .nor w d s1 s2 => keeps_execNor hs w d s1 s2
  | .sll w d s1 s2 => keeps_execSll hs w d s1 s2
  | .srl w d s1 s2 => keeps_execSrl hs w d s1 s2
  | .sra w d s1 s2 => keeps_execSra hs w d s1 s2
  | .slt w d s1 s2 => keeps_execSlt hs w d s1 s2
  | .sltu w d s1 s2 => keeps_execSltu hs w d s1 s2
  | .mul w d s1 s2 => keeps_execMul hs w d s1 s2
  | .mulh w d s1 s2 => keeps_execMulh hs w d s1 s2
  | .mulhu w d s1 s2 => keeps_execMulhu hs w d s1 s2
  | .div w d s1 s2 => keeps_execDiv hs w d s1 s2
  | .divu w d s1 s2 => keeps_execDivu hs w d s1 s2
  | .rem w d s1 s2 => keeps_execRem hs w d s1 s2
  | .remu w d s1 s2 => keeps_execRemu hs w d s1 s2
  | .min w d s1 s2 => keeps_execMin hs w d s1 s2
  | .max w d s1 s2 => keeps_execMax hs w d s1 s2
  | .minu w d s1 s2 => keeps_execMinu hs w d s1 s2
  | .maxu w d s1 s2 => keeps_execMaxu hs w d s1 s2
  | .clz w d s1 => keeps_execClz hs w d s1
  | .popc w d s1 => keeps_execPopc hs w d s1
  | .rdsw w d => keeps_execRdsw hs w d
  | .addi w d s1 imm => keeps_execAddi hs w d s1 imm
  | .slti w d s1 imm => keeps_execSlti hs w d s1 imm
  | .sltiu w d s1 imm => keeps_execSltiu hs w d s1 imm
  | .andi w d s1 imm => keeps_execAndi hs w d s1 imm
  | .ori w d s1 imm => keeps_execOri hs w d s1 imm
  | .xori w d s1 imm => keeps_execXori hs w d s1 imm
  | .lui w d imm => keeps_execLui hs w d imm
  | .shiSll w d s1 sh => keeps_execShiSll hs w d s1 sh
  | .shiSrl w d s1 sh => keeps_execShiSrl hs w d s1 sh
  | .shiSra w d s1 sh => keeps_execShiSra hs w d s1 sh
  | .shiRotateRight w d s1 sh => keeps_execShiRotateRight hs w d s1 sh
  | .muli w d s1 imm => keeps_execMuli hs w d s1 imm
  | .qmuli w d s1 imm => keeps_execQmuli hs w d s1 imm
  | .cmpi w s1 imm => keeps_execCmpi hs w s1 imm
  | .qadd w d s1 s2 => keeps_execQadd hs w d s1 s2
  | .qsub w d s1 s2 => keeps_execQsub hs w d s1 s2
  | .qmul w d s1 s2 => keeps_execQmul hs w d s1 s2
  | .qdiv w d s1 s2 => keeps_execQdiv hs w d s1 s2
  | .qabs w d s1 => keeps_execQabs hs w d s1
  | .qneg w d s1 => keeps_execQneg hs w d s1
  | .itoq w d s1 => keeps_execItoq hs w d s1
  | .qtoi w d s1 => keeps_execQtoi hs w d s1
  | .qrnd w d s1 => keeps_execQrnd hs w d s1
  | .qclr w => keeps_execQclr hs w
  | .csel w d s1 s2 cond => keeps_execCsel hs w d s1 s2 cond
  | .mac w d s1 s2 => keeps_execMac hs w d s1 s2
  | .macu w d s1 s2 => keeps_execMacu hs w d s1 s2
  | .msu w d s1 s2 => keeps_execMsu hs w d s1 s2
  | .qmac w d s1 s2 => keeps_execQmac hs w d s1 s2
  | .aclr w d => keeps_execAclr hs w d
  | .amov w d s1 => keeps_execAmov hs w d s1
  | .ajoin w d s1 s2 => keeps_execAjoin hs w d s1 s2
  | .alo w d s1 => keeps_execAlo hs w d s1
  | .ahi w d s1 => keeps_execAhi hs w d s1
  | .aadd w d s1 s2 => keeps_execAadd hs w d s1 s2
  | .asub w d s1 s2 => keeps_execAsub hs w d s1 s2
  | .aq w d s1 => keeps_execAq hs w d s1
  | .asext w d s1 => keeps_execAsext hs w d s1
  | .acmp w s1 s2 => keeps_execAcmp hs w s1 s2
  | .asra w d s1 s2 => keeps_execAsra hs w d s1 s2
  | .asll w d s1 s2 => keeps_execAsll hs w d s1 s2
  | .ldw w d s1 imm => keeps_execLdw hs w d s1 imm
  | .stw w d s1 imm => keeps_execStw hs w d s1 imm
  | .ldx w d s1 s2 size scale => keeps_execLdx hs w d s1 s2 size scale
  | .stx w d s1 s2 size scale => keeps_execStx hs w d s1 s2 size scale
  | .ldd w d s1 imm => keeps_execLdd hs w d s1 imm
  | .std w d s1 imm => keeps_execStd hs w d s1 imm
  | .xchg w d s1 s2 => keeps_execXchg hs w d s1 s2
  | .fadd w d s1 s2 => keeps_execFadd hs w d s1 s2
  | .cas w d s1 s2 => keeps_execCas hs w d s1 s2
  | .fetchOr w d s1 s2 => keeps_execFetchOr hs w d s1 s2
  | .fetchAnd w d s1 s2 => keeps_execFetchAnd hs w d s1 s2
  | .fence w => keeps_execFence hs w
  | .beq w d s1 imm => keeps_execBeq hs w d s1 imm
  | .bne w d s1 imm => keeps_execBne hs w d s1 imm
  | .bc w link cond off => keeps_execBc hs w link cond off
  | .jr w s1 => keeps_execJr hs w s1
  | .jalr w d s1 => keeps_execJalr hs w d s1
  | .tnow w d => keeps_execTnow hs w d
  | .pnow w d => keeps_execPnow hs w d
  | .tadd w d s1 s2 => keeps_execTadd hs w d s1 s2
  | .tdif w d s1 s2 => keeps_execTdif hs w d s1 s2
  | .waitAt w s1 late alat => keeps_execWaitAt hs w s1 late alat
  | .waitAtt w s1 late alat => keeps_execWaitAtt hs w s1 late alat
  | .every w d first s2 late alat => keeps_execEvery hs w d first s2 late alat
  | .everyCancel w d => keeps_execEveryCancel hs w d
  | .waitDuration w s1 alat => keeps_execWaitDuration hs w s1 alat
  | .waitTick w s1 dom late alat => keeps_execWaitTick hs w s1 dom late alat
  | .swpAll w d s1 s2 => keeps_execSwpAll hs w d s1 s2
  | .swpAny w d s1 s2 => keeps_execSwpAny hs w d s1 s2
  | .swpRevt w d s1 s2 => keeps_execSwpRevt hs w d s1 s2
  | .fetchVolt w d s1 => keeps_execFetchVolt hs w d s1
  | .fetchTemp w d s1 => keeps_execFetchTemp hs w d s1
  | .fetchNode w d s1 => keeps_execFetchNode hs w d s1
  | .fetchHead w d s1 => keeps_execFetchHead hs w d s1
  | .fetchPack w d s1 => keeps_execFetchPack hs w d s1
  | .cmb w d s1 => keeps_execCmb hs w d s1
  | .cmbw w d s1 => keeps_execCmbw hs w d s1
  | .coul => keeps_execCoul hs
  | .zcomp => keeps_execZcomp hs
  | .ocv => keeps_execOcv hs
  | .socf => keeps_execSocf hs
  | .limp => keeps_execLimp hs
  | .balp => keeps_execBalp hs
  | .stat => keeps_execStat hs
  | .stepfit => keeps_execStepfit hs
  | .rlsz => keeps_execRlsz hs
  | .vadd => keeps_execVadd hs
  | .vmul => keeps_execVmul hs
  | .vmadd => keeps_execVmadd hs
  | .vmin => keeps_execVmin hs
  | .vmax => keeps_execVmax hs
  | .vinterp => keeps_execVinterp hs
  | .vcmpm => keeps_execVcmpm hs
  | .outOff src => keeps_execOutOff hs src
  | .outOn src => keeps_execOutOn hs src
  | .outPwm src => keeps_execOutPwm hs src
  | .outClearLatch src => keeps_execOutClearLatch hs src
  | .closeNeg w d s1 s2 => keeps_execCloseNeg hs w d s1 s2
  | .precharge w d s1 s2 => keeps_execPrecharge hs w d s1 s2
  | .closePos w d s1 s2 => keeps_execClosePos hs w d s1 s2
  | .openPre w d s1 s2 => keeps_execOpenPre hs w d s1 s2
  | .openPlanned w d s1 s2 => keeps_execOpenPlanned hs w d s1 s2
  | .openEmergency w d s1 s2 => keeps_execOpenEmergency hs w d s1 s2
  | .ctcRestart w d s1 s2 => keeps_execCtcRestart hs w d s1 s2
  | .weldCheck w d s1 s2 => keeps_execWeldCheck hs w d s1 s2
  | .qinCount w d s1 => keeps_execQinCount hs w d s1
  | .qinSpeed w d s1 => keeps_execQinSpeed hs w d s1
  | .qinStat w d s1 => keeps_execQinStat hs w d s1
  | .qinIndex w d s1 => keeps_execQinIndex hs w d s1
  | .qinCfg w d s1 s2 => keeps_execQinCfg hs w d s1 s2
  | .ctx w d s1 s2 => keeps_execCtx hs w d s1 s2
  | .crx w d s1 s2 nb => keeps_execCrx hs w d s1 s2 nb
  | .evt w d s1 s2 keep => keeps_execEvt hs w d s1 s2 keep
  | .mstat w d => keeps_execMstat hs w d
  | .msend w d s1 s2 => keeps_execMsend hs w d s1 s2
  | .mrecv w d s1 => keeps_execMrecv hs w d s1
  | .myield w d => keeps_execMyield hs w d
  | .sigHash w d s1 s2 => keeps_execSigHash hs w d s1 s2
  | .sigSign w d s1 s2 => keeps_execSigSign hs w d s1 s2
  | .sigVerify w d s1 s2 => keeps_execSigVerify hs w d s1 s2
  | .cryptoComplete => keeps_execCryptoComplete hs
  | .halt w => keeps_execHalt hs w
  | .yieldQ w => keeps_execYieldQ hs w
  | .temp w d board die => keeps_execTemp hs w d board die
  | .trap w code => keeps_execTrap hs w code
  | .folioVerify sess => keeps_execFolioVerify hs sess
  | .folioVerifyDone => keeps_execFolioVerifyDone hs
  | .writeSlot sess => keeps_execWriteSlot hs sess
  | .writeSlotDone => keeps_execWriteSlotDone hs
  | .folioActivate sess => keeps_execFolioActivate hs sess
  | .folioConfirm sess => keeps_execFolioConfirm hs sess
  | .reload sess r => keeps_execReload hs sess r
  | .regionReloadApply => keeps_execRegionReloadApply hs
  | .settingsSubmit sess hi => keeps_execSettingsSubmit hs sess hi
  | .settingsFieldApply => keeps_execSettingsFieldApply hs
  | .sweepFracWrite who v => keeps_execSweepFracWrite hs who v
  | .sweepHushWrite who v => keeps_execSweepHushWrite hs who v
  | .beaconTx r => keeps_execBeaconTx hs r
  | .beaconEchoRx r echo => keeps_execBeaconEchoRx hs r echo
  | .commandWindowTx r stepOfs => keeps_execCommandWindowTx hs r stepOfs
  | .sampleInstant dsm => keeps_execSampleInstant hs dsm
  | .upstreamPacketRx r p => keeps_execUpstreamPacketRx hs r p
  | .collectionLimitReached r => keeps_execCollectionLimitReached hs r
  | .alarmPacketRx r p => keeps_execAlarmPacketRx hs r p
  | .spareExchangeStart r => keeps_execSpareExchangeStart hs r
  | .spareUpRx r a => keeps_execSpareUpRx hs r a
  | .spareAnswerTimeout r => keeps_execSpareAnswerTimeout hs r
  | .reachAnswerRx r hop a => keeps_execReachAnswerRx hs r hop a
  | .reachTimeout r => keeps_execReachTimeout hs r
  | .keptRecordsRx r hop k => keeps_execKeptRecordsRx hs r hop k
  | .rekeyStart r => keeps_execRekeyStart hs r
  | .sewStart sess r => keeps_execSewStart hs sess r
  | .sewSurveyEnd r energies => keeps_execSewSurveyEnd hs r energies
  | .enrolCallTx r => keeps_execEnrolCallTx hs r
  | .enrolAnswerRx r a => keeps_execEnrolAnswerRx hs r a
  | .sewAnswerWindowEnd r => keeps_execSewAnswerWindowEnd hs r
  | .sewNoAnswer r => keeps_execSewNoAnswer hs r
  | .challengeAnswerRx r a => keeps_execChallengeAnswerRx hs r a
  | .sewChallengeTimeout r => keeps_execSewChallengeTimeout hs r
  | .sewConfirm sess r => keeps_execSewConfirm hs sess r
  | .sewReject sess r => keeps_execSewReject hs sess r
  | .sewConfirmTimeout r => keeps_execSewConfirmTimeout hs r
  | .keyAckRx r mic => keeps_execKeyAckRx hs r mic
  | .sewKeyTimeout r => keeps_execSewKeyTimeout hs r
  | .sewSearchTimeout r => keeps_execSewSearchTimeout hs r
  | .sewFinish sess r => keeps_execSewFinish hs sess r
  | .sewAbandon sess r => keeps_execSewAbandon hs sess r
  | .sewRestitch sess r hop => keeps_execSewRestitch hs sess r hop
  | .sewResewFrom sess r hop => keeps_execSewResewFrom hs sess r hop
  | .balCommit who r hops arg0 arg1 => keeps_execBalCommit hs who r hops arg0 arg1
  | .balHalt who r hops arg0 arg1 => keeps_execBalHalt hs who r hops arg0 arg1
  | .capture who r hops arg0 arg1 => keeps_execCapture hs who r hops arg0 arg1
  | .preStream who r hops arg0 arg1 => keeps_execPreStream hs who r hops arg0 arg1
  | .preStop who r hops arg0 arg1 => keeps_execPreStop hs who r hops arg0 arg1
  | .orderSleep who r hops arg0 arg1 => keeps_execOrderSleep hs who r hops arg0 arg1
  | .fwActivate who r hops arg0 arg1 => keeps_execFwActivate hs who r hops arg0 arg1
  | .balPlan who r hops arg0 arg1 => keeps_execBalPlan hs who r hops arg0 arg1
  | .balTally who r hops arg0 arg1 => keeps_execBalTally hs who r hops arg0 arg1
  | .ordLimits who r hops arg0 arg1 => keeps_execOrdLimits hs who r hops arg0 arg1
  | .capUpload who r hops arg0 arg1 => keeps_execCapUpload hs who r hops arg0 arg1
  | .fwSeg who r hops arg0 arg1 => keeps_execFwSeg hs who r hops arg0 arg1
  | .fwQuery who r hops arg0 arg1 => keeps_execFwQuery hs who r hops arg0 arg1
  | .balTallyTimer r => keeps_execBalTallyTimer hs r
  | .captureUploadStart r => keeps_execCaptureUploadStart hs r
  | .captureSegmentRx r seg => keeps_execCaptureSegmentRx hs r seg
  | .captureUploadTimeout r => keeps_execCaptureUploadTimeout hs r
  | .fwActivateTimeout r => keeps_execFwActivateTimeout hs r
  | .nfwLoad sess r => keeps_execNfwLoad hs sess r
  | .nfwActivate sess r => keeps_execNfwActivate hs sess r
  | .nfwAbort sess r => keeps_execNfwAbort hs sess r
  | .estPublish who n => keeps_execEstPublish hs who n
  | .publishComplete => keeps_execPublishComplete hs
  | .directoryWrite who n word v => keeps_execDirectoryWrite hs who n word v
  | .cappingExport who => keeps_execCappingExport hs who
  | .cappingSealed => keeps_execCappingSealed hs
  | .cappingRestore sess => keeps_execCappingRestore hs sess
  | .dinChange n level => keeps_execDinChange hs n level
  | .auxTimeout r pos => keeps_execAuxTimeout hs r pos
  | .pullinEnd ch => keeps_execPullinEnd hs ch
  | .prechargeRelayOn r => keeps_execPrechargeRelayOn hs r
  | .prechargeTimeout r => keeps_execPrechargeTimeout hs r
  | .preExpired r => keeps_execPreExpired hs r
  | .preAutoOff r => keeps_execPreAutoOff hs r
  | .openWaitLimit r => keeps_execOpenWaitLimit hs r
  | .negOpenDelay r => keeps_execNegOpenDelay hs r
  | .weldTimeEnd r => keeps_execWeldTimeEnd hs r
  | .weldCheckJudge r => keeps_execWeldCheckJudge hs r
  | .circWatchEnd r => keeps_execCircWatchEnd hs r
  | .fastTrip raw => keeps_execFastTrip hs raw
  | .severLowObserved => keeps_execSeverLowObserved hs
  | .severMinHoldEnd => keeps_execSeverMinHoldEnd hs
  | .severReleased => keeps_execSeverReleased hs
  | .severAssert who => keeps_execSeverAssert hs who
  | .severClear who => keeps_execSeverClear hs who
  | .reAuxWrite sess r v => keeps_execReAuxWrite hs sess r v
  | .ocShutoff ch => keeps_execOcShutoff hs ch
  | .retryPauseEnd ch => keeps_execRetryPauseEnd hs ch
  | .attemptCountReset ch => keeps_execAttemptCountReset hs ch
  | .dtTrip ch => keeps_execDtTrip hs ch
  | .dtRelease ch => keeps_execDtRelease hs ch
  | .holdLongTimer ch => keeps_execHoldLongTimer hs ch
  | .openLoadDetect ch ext => keeps_execOpenLoadDetect hs ch ext
  | .openLoadClear ch => keeps_execOpenLoadClear hs ch
  | .coilSupplyUv n v => keeps_execCoilSupplyUv hs n v
  | .coilSupplyRestore n v => keeps_execCoilSupplyRestore hs n v
  | .keeperRefresh => keeps_execKeeperRefresh hs
  | .keeperExpiry => keeps_execKeeperExpiry hs
  | .helloTx => keeps_execHelloTx hs
  | .helloRx h => keeps_execHelloRx hs h
  | .roleDecisionTimeout => keeps_execRoleDecisionTimeout hs
  | .sessionKeyRx m => keeps_execSessionKeyRx hs m
  | .heartbeatTx => keeps_execHeartbeatTx hs
  | .heartbeatRx f b => keeps_execHeartbeatRx hs f b
  | .heartbeatLoss => keeps_execHeartbeatLoss hs
  | .twinHbEdge => keeps_execTwinHbEdge hs
  | .twinHbStill => keeps_execTwinHbStill hs
  | .linkHoldExpiry => keeps_execLinkHoldExpiry hs
  | .digestSnapshot => keeps_execDigestSnapshot hs
  | .digestRx f b => keeps_execDigestRx hs f b
  | .openOrderRx f b => keeps_execOpenOrderRx hs f b
  | .checkFailRx f b => keeps_execCheckFailRx hs f b
  | .forwardRx f b => keeps_execForwardRx hs f b
  | .retireRx f b => keeps_execRetireRx hs f b
  | .recordRx f b => keeps_execRecordRx hs f b
  | .mirMsgRx f w bytes => keeps_execMirMsgRx hs f w bytes
  | .timeFrameRx f t1 t2 t3 t4 => keeps_execTimeFrameRx hs f t1 t2 t3 t4
  | .mapsRx f maps => keeps_execMapsRx hs f maps
  | .stateTransferRequest f => keeps_execStateTransferRequest hs f
  | .xferSegmentRx f b => keeps_execXferSegmentRx hs f b
  | .xferAckRx f kib last => keeps_execXferAckRx hs f kib last
  | .transferRetryTimer => keeps_execTransferRetryTimer hs
  | .grantRx f sweep => keeps_execGrantRx hs f sweep
  | .twinYield who => keeps_execTwinYield hs who
  | .twinDetach who => keeps_execTwinDetach hs who
  | .twinResume who => keeps_execTwinResume hs who
  | .twinAdmit sess => keeps_execTwinAdmit hs sess
  | .twinForget sess => keeps_execTwinForget hs sess
  | .canFrameRx n f stamp => keeps_execCanFrameRx hs n f stamp
  | .canTxDone n stamp => keeps_execCanTxDone hs n stamp
  | .canTxError n e => keeps_execCanTxError hs n e
  | .canRecoveryDone n => keeps_execCanRecoveryDone hs n
  | .canRecover who n => keeps_execCanRecover hs who n
  | .canFlush who n => keeps_execCanFlush hs who n
  | .canClashClear who n => keeps_execCanClashClear hs who n
  | .canModeWrite who n mode => keeps_execCanModeWrite hs who n mode
  | .canIntegrated n => keeps_execCanIntegrated hs n
  | .canBtWrite who n dataPhase v => keeps_execCanBtWrite hs who n dataPhase v
  | .canFilterWrite who n f v => keeps_execCanFilterWrite hs who n f v
  | .canWake n cause => keeps_execCanWake hs n cause
  | .tcpConnect => keeps_execTcpConnect hs
  | .tlsHandshakeDone slot r => keeps_execTlsHandshakeDone hs slot r
  | .tlsHandshakeTimeout slot => keeps_execTlsHandshakeTimeout hs slot
  | .hostRead sess tag addr bytes => keeps_execHostRead hs sess tag addr bytes
  | .hostWrite sess tag addr words => keeps_execHostWrite hs sess tag addr words
  | .hostDesc sess tag idx wr base len => keeps_execHostDesc hs sess tag idx wr base len
  | .hostSubscribe sess tag mask => keeps_execHostSubscribe hs sess tag mask
  | .hostPing sess tag => keeps_execHostPing hs sess tag
  | .hostClose sess tag => keeps_execHostClose hs sess tag
  | .badType sess tag type len => keeps_execBadType hs sess tag type len
  | .cappingQueueStall sess => keeps_execCappingQueueStall hs sess
  | .sessionIdleTimeout sess => keeps_execSessionIdleTimeout hs sess
  | .usbEnumerate => keeps_execUsbEnumerate hs
  | .usbDisconnect => keeps_execUsbDisconnect hs
  | .usbUnlock => keeps_execUsbUnlock hs
  | .usbVerify => keeps_execUsbVerify hs
  | .usbLock => keeps_execUsbLock hs
  | .usbRoleLapse => keeps_execUsbRoleLapse hs
  | .recorderRingWrite ringFault durFault => keeps_execRecorderRingWrite hs ringFault durFault
  | .tokenRefill code => keeps_execTokenRefill hs code
  | .suppressionSummaryTimer code => keeps_execSuppressionSummaryTimer hs code
  | .ribbonTailRead rd k => keeps_execRibbonTailRead hs rd k
  | .ribbonSeek who k hi => keeps_execRibbonSeek hs who k hi
  | .recordClear sess => keeps_execRecordClear hs sess
  | .memZero who => keeps_execMemZero hs who
  | .memZeroDone => keeps_execMemZeroDone hs
  | .scrubLine o => keeps_execScrubLine hs o
  | .sramScrub o => keeps_execSramScrub hs o
  | .checkStoreInit => keeps_execCheckStoreInit hs
  | .attest sess => keeps_execAttest hs sess
  | .certs sess => keeps_execCerts hs sess
  | .setFolioKey sess => keeps_execSetFolioKey hs sess
  | .setServiceKey sess => keeps_execSetServiceKey hs sess
  | .trustAdd sess => keeps_execTrustAdd hs sess
  | .trustRemove sess => keeps_execTrustRemove hs sess
  | .newAppKey sess => keeps_execNewAppKey hs sess
  | .adopt sess => keeps_execAdopt hs sess
  | .nodeChallengeStart r hop => keeps_execNodeChallengeStart hs r hop
  | .nodeChallengeAnswerRx r hop parts => keeps_execNodeChallengeAnswerRx hs r hop parts
  | .nodeChallengeTimeout r => keeps_execNodeChallengeTimeout hs r
  | .nodeChallengeRoutine r => keeps_execNodeChallengeRoutine hs r
  | .qpTransition n qbLeads => keeps_execQpTransition hs n qbLeads
  | .qpSkip n => keeps_execQpSkip hs n
  | .qpIndexEdge n rising => keeps_execQpIndexEdge hs n rising
  | .skipWindowEnd n => keeps_execSkipWindowEnd hs n
  | .spdTimeoutExpiry n => keeps_execSpdTimeoutExpiry hs n
  | .qpPreset who n v => keeps_execQpPreset hs who n v
  | .qpClear who n => keeps_execQpClear hs who n
  | .qpCfgWrite who n v => keeps_execQpCfgWrite hs who n v
  | .canRxError n e => keeps_execCanRxError hs n e
  | .leadPacketHeard r p => keeps_execLeadPacketHeard hs r p
  | .dramTrainingDone => keeps_execDramTrainingDone hs
  | .canIntegrationStart => keeps_execCanIntegrationStart hs
  | .startWorkersReady => keeps_execStartWorkersReady hs
  | .hostWindowReady => keeps_execHostWindowReady hs
  | .cappingCopyEnd => keeps_execCappingCopyEnd hs
  | .chipInSegmentTimeout => keeps_execChipInSegmentTimeout hs
  | .sewRangingDone r delay => keeps_execSewRangingDone hs r delay
  | .sewLinkFail r => keeps_execSewLinkFail hs r
  | .ptpAnnounceRx m => keeps_execPtpAnnounceRx hs m
  | .ptpDelayRespRx port domain delay => keeps_execPtpDelayRespRx hs port domain delay
  | .bridgeFrameRx port src dst => keeps_execBridgeFrameRx hs port src dst
  | .bridgeAddressAgeOut mac => keeps_execBridgeAddressAgeOut hs mac
  | .arpIcmpRequest icmp target => keeps_execArpIcmpRequest hs icmp target
  | .dhcpv4Lease lease => keeps_execDhcpv4Lease hs lease
  | .logicSupplyInputChange b present => keeps_execLogicSupplyInputChange hs b present
  | .coilSupplyPresentChange n v => keeps_execCoilSupplyPresentChange hs n v

theorem keeps_step {s : State} (hs : (mems s).Wf) : Keeps (step s) := by
  unfold step
  split
  · simpa using hs
  · exact keeps_exec (by simpa using hs) _

/-- Settles O60: by cases on the command at the front of the queue, or a clock of the idle block where there is none. -/
theorem stepKeepsMemories : Obligations.StepKeepsMemories := by
  unfold Obligations.StepKeepsMemories
  intro s t hs ht
  exact (mems_wf_iff t).1 (keeps_step ((mems_wf_iff s).2 hs) t ht)

end Sys2Proof.Machine

namespace Sys2Proof.Machine

/-! ## A store of a register that the worker's scope bars (O53) -/

/-- REGISTER_WRITE of a worker that can issue, at a register that its scope does not allow: the store faults (R85). -/
theorem registerWrite_barred {s : State} {w : Worker} {a : Word} (v : Word) (hrun : Running s) (hal : a.toNat % 4 = 0)
    (hblk : inBlocks a.toNat = true) (hign : storesIgnored a.toNat = false) (hbar : storeAllowed s w a.toNat = false)
    (helig : eligible (wkOf s w) = true) : exec (.registerWrite (.worker w) a v) s = .next (trapWorker s w causeScope a) := by
  have hrun' : s.power.state = .running := hrun
  simp [exec, execRegisterWrite, run, hrun', hal, hblk, hign, hbar, helig]

/-- The reset state with worker 3 ready to issue in the scope of region 1. -/
def regionWorker : State := setWk State.reset 3 { WorkerSt.init 3 with state := .ready, scope := 0x4001 }

theorem regionWorker_traps : (wkOf (trapWorker regionWorker 3 causeScope 0x60070) 3).state = .trapped := by decide +kernel

/-- Refutes O53: it says that a write of USB_CMD by anyone but the USB session leaves the state as it is, but the store of a worker
whose scope is that of a region faults with cause SCOPE and leaves the worker TRAPPED, as R85 has it and as the statement itself
says of the other registers (`Barred`). -/
theorem not_registersAndSnapshots : ¬ Obligations.RegistersAndSnapshots := by
  unfold Obligations.RegistersAndSnapshots
  intro h
  have hrun : Running regionWorker := by unfold Running; decide +kernel
  obtain ⟨-, -, -, husb, -⟩ := h regionWorker (.worker 3) (.worker 3) 0 0x60070 0 3 0 0 0 0 0 0 0 .pack hrun
  have hstay : exec (.registerWrite (.worker 3) 0x60070 0) regionWorker = .next regionWorker := husb rfl (by decide)
  have htrap := registerWrite_barred (s := regionWorker) (w := 3) (a := 0x60070) 0 hrun (by decide) (by decide) (by decide)
    (by decide +kernel) (by decide +kernel)
  have heq : regionWorker = trapWorker regionWorker 3 causeScope 0x60070 := Host.Outcome.next.inj (hstay.symm.trans htrap)
  have hready : (wkOf regionWorker 3).state = .ready := by decide +kernel
  have htrapped := regionWorker_traps
  rw [← heq, hready] at htrapped
  exact absurd htrapped (by decide)

end Sys2Proof.Machine

/-! # Sitting 2: the phase wheel, time and scheduled actions (O16, O17, O30, O31), and the module after reset (O59) -/

namespace Sys2Proof.Machine

/-! ## What raising an event changes (R15, R27, R437) -/

section Logged
variable (s u v : State)

@[simp] theorem Logged_pending : (Logged s u).pending = s.pending := rfl
@[simp] theorem Logged_free : (Logged s u).free = s.free := rfl
@[simp] theorem Logged_cfg : (Logged s u).cfg = s.cfg := rfl
@[simp] theorem Logged_wheel : (Logged s u).wheel = s.wheel := rfl
@[simp] theorem Logged_time : (Logged s u).time = s.time := rfl
@[simp] theorem Logged_ticks : (Logged s u).ticks = s.ticks := rfl
@[simp] theorem Logged_wk : (Logged s u).wk = s.wk := rfl
@[simp] theorem Logged_cores : (Logged s u).cores = s.cores := rfl
@[simp] theorem Logged_slots : (Logged s u).slots = s.slots := rfl
@[simp] theorem Logged_region : (Logged s u).region = s.region := rfl
@[simp] theorem Logged_bank : (Logged s u).bank = s.bank := rfl
@[simp] theorem Logged_mem : (Logged s u).mem = s.mem := rfl
@[simp] theorem Logged_folio : (Logged s u).folio = s.folio := rfl
@[simp] theorem Logged_can : (Logged s u).can = s.can := rfl
@[simp] theorem Logged_net : (Logged s u).net = s.net := rfl
@[simp] theorem wkOf_Logged (w : Worker) : wkOf (Logged s u) w = wkOf s w := rfl
@[simp] theorem Logged_Logged : Logged (Logged s u) v = Logged s v := rfl

end Logged

/-- What an event changes is all that `t` differs from `s` in. -/
def OnlyLogs (s t : State) : Prop := ∃ u, t = Logged s u

theorem OnlyLogs.refl (s : State) : OnlyLogs s s := ⟨s, rfl⟩
theorem OnlyLogs.trans {s t u : State} : OnlyLogs s t → OnlyLogs t u → OnlyLogs s u
  | ⟨v, h⟩, ⟨x, g⟩ => ⟨x, by rw [g, h, Logged_Logged]⟩
theorem OnlyLogs.ite {s t u : State} {c : Prop} [Decidable c] (ht : OnlyLogs s t) (hu : OnlyLogs s u) :
    OnlyLogs s (if c then t else u) := by
  split <;> assumption
theorem onlyLogs_modRec (s : State) (f : RecorderSt → RecorderSt) : OnlyLogs s (modRec s f) := ⟨modRec s f, rfl⟩
theorem onlyLogs_twinSend (s : State) (x : TwinOut) : OnlyLogs s (twinSend s x) := ⟨twinSend s x, rfl⟩

theorem onlyLogs_recEnter (s : State) (r : Rec) : OnlyLogs s (recEnter s r) := by
  unfold recEnter
  exact .ite ((onlyLogs_modRec s _).trans (onlyLogs_twinSend _ _)) (onlyLogs_modRec s _)

theorem onlyLogs_recPut (s : State) (r : Rec) : OnlyLogs s (recPut s r) := by
  unfold recPut
  exact .ite (onlyLogs_recEnter s r) (.ite ((onlyLogs_modRec s _).trans (onlyLogs_recEnter _ r)) (onlyLogs_modRec s _))

theorem onlyLogs_emitCode (s : State) (code scope : Half) (args : Word) (marked : Bool) :
    OnlyLogs s (emitCode s code scope args marked) := by
  have hn : OnlyLogs s (number s) := ⟨number s, rfl⟩
  exact .ite (hn.trans (onlyLogs_recPut _ _)) hn

theorem onlyLogs_wearCheck (s : State) : OnlyLogs s (wearCheck s) := by
  have hw : OnlyLogs s { s with arb := { s.arb with wearWarn := true } } := ⟨{ s with arb := { s.arb with wearWarn := true } }, rfl⟩
  exact .ite (hw.trans (onlyLogs_emitCode ..)) (.refl s)

/-- Raising an event changes the event numbers, the recorder's intake and the frames to the twin alone. -/
theorem onlyLogs_emit (s : State) (n level e : Nat) (keep marked : Bool) (scope : Half) (args : Word) :
    OnlyLogs s (emit s n level e keep marked scope args) := (onlyLogs_emitCode ..).trans (onlyLogs_wearCheck _)

theorem onlyLogs_emitTime (s : State) (level e : Nat) (keep marked : Bool) (args : Nat) :
    OnlyLogs s (emitTime s level e keep marked args) := onlyLogs_emit ..

theorem onlyLogs_dueEvent (s : State) (w : Worker) (t : TimeWait) (late : Option Nat) : OnlyLogs s (dueEvent s w t late) := by
  unfold dueEvent
  split <;> exact onlyLogs_emit ..

/-! ## Register writes of the time block (R84, R85) -/

theorem storeAllowed_timeBlock (s : State) (w : Worker) {a : Nat} (hlo : 0x10000 ≤ a) (hhi : a < 0x20000) :
    storeAllowed s w a = chipOrPair (wkOf s w).scope := by
  have h1 : storesIgnored a = false := by simp [storesIgnored]; omega
  have h2 : ¬(0x21000 ≤ a ∧ a < 0x23800 ∧ a % 64 = 0x1C) := by omega
  have h3 : ¬(0x30000 ≤ a ∧ a < 0x40000) := by omega
  have h4 : ¬(0x40000 ≤ a ∧ a < 0x50000) := by omega
  have h5 : ¬(0x80000 ≤ a ∧ a < 0x90000) := by omega
  simp only [storeAllowed, h1, h2, h3, h4, h5, if_false, Bool.false_eq_true]

/-- A chip or pair writer's write of a register of the time block has its effect. -/
theorem writeRow_timeBlock {s : State} {who : Writer} {a : Nat} (f : State → State) (hrun : Running s)
    (hw : chipWriter s who = true) (hlo : 0x10000 ≤ a) (hhi : a < 0x20000) : writeRow who a f s = .next (f s) := by
  have hrun' : s.power.state = .running := hrun
  cases who with
  | host k =>
    have hk : isOperator s k = true := hw
    simp [writeRow, run, hrun', hk]
  | worker v =>
    have hv : storeAllowed s v a = true := (storeAllowed_timeBlock s v hlo hhi).trans hw
    simp [writeRow, run, hrun', hv]

theorem run_running {s : State} (f : State → State) (h : Running s) : run s f = .next (f s) := by
  have h' : s.power.state = .running := h
  simp [run, h']

end Sys2Proof.Machine

namespace Sys2Proof.Machine

/-! ## The phase wheel (O30) -/

theorem satInc_eq_min (top n : Nat) : satInc top n = min top (n + 1) := by
  unfold satInc
  split <;> omega

theorem inc16_eq_min (n : Nat) : inc16 n = min 0xFFFF (n + 1) := satInc_eq_min _ n

theorem clampNat_mem {lo hi : Nat} (h : lo ≤ hi) (x : Nat) : lo ≤ clampNat lo hi x ∧ clampNat lo hi x ≤ hi := by
  unfold clampNat
  split
  · exact ⟨le_rfl, h⟩
  · split <;> omega

/-- The wheel as it enters another state (R37, R43). -/
def enterWheel (w : Wheel) (n : WheelState) : Wheel :=
  if w.state = n then w
  else { w with state := n, nearRun := 0, prev := if n = .free then none else w.prev, ref := if n = .free then none else w.ref }

/-- The wheel with a rejected reference counted (R39, R40). -/
def rejectWheel (w : Wheel) : Wheel := { w with rejects := min 0xFFFF (w.rejects + 1), acceptRun := 0, nearRun := 0 }

theorem enterWheel_state (w : Wheel) (n : WheelState) : (enterWheel w n).state = n := by
  unfold enterWheel
  split
  · assumption
  · rfl

theorem enterWheel_count (w : Wheel) (n : WheelState) : (enterWheel w n).count = w.count := by
  unfold enterWheel
  split <;> rfl

theorem enterWheel_forgets {w : Wheel} (n : WheelState) (hp : w.prev = none) (hr : w.ref = none) :
    (enterWheel w n).prev = none ∧ (enterWheel w n).ref = none := by
  unfold enterWheel
  split <;> simp [hp, hr]

theorem setWheelState_logged (s : State) (n : WheelState) :
    OnlyLogs { s with wheel := enterWheel s.wheel n } (setWheelState s n) := by
  by_cases h : s.wheel.state = n
  · simpa [setWheelState, enterWheel, h] using OnlyLogs.refl s
  · simp only [setWheelState, enterWheel, h, if_false]
    exact onlyLogs_emitTime ..

theorem rejectRef_logged (s : State) (msg : Bool) (reason : Nat) :
    OnlyLogs { s with wheel := rejectWheel s.wheel } (rejectRef s msg reason) := by
  unfold rejectRef rejectWheel
  rw [← inc16_eq_min]
  exact onlyLogs_emitTime ..

theorem wheelToHold_free {s : State} (h : cfgNat s 0x0005 = 0) :
    OnlyLogs { s with wheel := enterWheel s.wheel .free } (wheelToHold s) := by
  simpa [wheelToHold, h] using setWheelState_logged s .free

theorem wheelToHold_hold {s : State} (h : cfgNat s 0x0005 ≠ 0) :
    OnlyLogs { s with wheel := enterWheel { s.wheel with holdAt := nowNs s } .hold } (wheelToHold s) := by
  simpa [wheelToHold, h] using setWheelState_logged { s with wheel := { s.wheel with holdAt := nowNs s } } .hold

/-! ### The cycle boundary -/

theorem nextLen_locked {s : State} (h1 : s.wheel.state ≠ .free) (h2 : s.wheel.state ≠ .hold) :
    nominalLen s * 95 / 100 ≤ nextLen s ∧ nextLen s ≤ nominalLen s * 105 / 100 := by
  have hle : nominalLen s * 95 / 100 ≤ nominalLen s * 105 / 100 := by omega
  unfold nextLen
  split
  · contradiction
  · contradiction
  · exact clampNat_mem hle _

/-- Either length of the next cycle stands in the band of R42. -/
theorem nextLen_spec (s : State) :
    match s.wheel.state with
    | .free => nextLen s = nominalLen s
    | .hold => nextLen s = s.wheel.meas
    | _ => nominalLen s * 95 / 100 ≤ nextLen s ∧ nextLen s ≤ nominalLen s * 105 / 100 := by
  cases h : s.wheel.state with
  | free => simp [nextLen, h]
  | hold => simp [nextLen, h]
  | acquire | locked => exact nextLen_locked (by simp [h]) (by simp [h])

/-! ### References -/

/-- The error that a reference at `t` leaves once the correction under way has run, from the cycle that it measures (R42). -/
def measuredAt (s : State) (t : Nat) : Nat :=
  match s.wheel.ref with
  | some p => measured s p t
  | none => s.wheel.meas

theorem inWindow_locked {s : State} (h : s.wheel.state = .locked) (p t : Nat) :
    inWindow s p t = true ↔ 20 * (phaseError s (t : Int)).natAbs ≤ nominalLen s := by
  simp only [inWindow, h, decide_eq_true_eq]
  omega

theorem acceptRef_locked {s : State} (h : s.wheel.state = .locked) (t : Nat) :
    acceptRef s t = { s with wheel := { s.wheel with
      acceptRun := min 255 (s.wheel.acceptRun + 1), prev := some t, ref := some t, lastAccept := t, meas := measuredAt s t
      err := phaseError s (t : Int) - slipSince s.wheel (measuredAt s t) (t : Int) } } := by
  cases hr : s.wheel.ref with
  | none => simp only [acceptRef, measuredFrom, h, satInc_eq_min, measuredAt, hr]
  | some p => simp only [acceptRef, measuredFrom, h, satInc_eq_min, measuredAt, hr]

theorem judgeRef_first {s : State} (h : s.wheel.prev = none) (t : Nat) (msg : Bool) :
    judgeRef s t msg = ({ s with wheel := { s.wheel with prev := some t, ref := some t } }, false) := by
  simp [judgeRef, h]

theorem judgeRef_accepted {s : State} (hl : s.wheel.state = .locked) (hp : s.wheel.prev ≠ none) {t : Nat}
    (hw : 20 * (phaseError s (t : Int)).natAbs ≤ nominalLen s) (msg : Bool) : judgeRef s t msg = (acceptRef s t, true) := by
  obtain ⟨p, hp⟩ := Option.ne_none_iff_exists'.mp hp
  simp [judgeRef, hp, (inWindow_locked hl p t).2 hw]

/-- A reference that LOCKED rejects is counted; of a message the time is kept as that of the previous one seen (R39, R40). -/
theorem judgeRef_rejected {s : State} (hl : s.wheel.state = .locked) (hp : s.wheel.prev ≠ none) {t : Nat}
    (hw : nominalLen s < 20 * (phaseError s (t : Int)).natAbs) (msg : Bool) :
    OnlyLogs { s with wheel := rejectWheel { s.wheel with prev := if msg then some t else s.wheel.prev } } (judgeRef s t msg).1
      ∧ (judgeRef s t msg).2 = false := by
  obtain ⟨p, hp⟩ := Option.ne_none_iff_exists'.mp hp
  have hout : inWindow s p t = false := by
    rw [Bool.eq_false_iff, ne_eq, inWindow_locked hl]
    omega
  have hseen : (msg || s.wheel.state == .free || s.wheel.state == .acquire) = msg := by
    rw [hl]
    cases msg <;> rfl
  unfold judgeRef
  simp only [hp, hout, hseen]
  cases msg with
  | false => exact ⟨hp ▸ rejectRef_logged s false 0x01, rfl⟩
  | true => exact ⟨rejectRef_logged { s with wheel := { s.wheel with prev := some t } } true 0x01, rfl⟩

theorem execGridsyncPulse_eq {s : State} (hrun : Running s) (hsrc : cfgNat s 0x0001 = 1) :
    exec .gridsyncPulse s = .next
      (let r := judgeRef s (nowNs s - 2000) false
       if r.2 then emitTime r.1 0 0x01 false false ((countAt r.1 (nowNs s - 2000)).toNat % 4294967296) else r.1) := by
  have hsrc' : wheelSrc s = 1 := hsrc
  show run s gridsync = _
  rw [run_running gridsync hrun]
  simp [gridsync, hsrc']

theorem execPhaseMessageCommit_eq {s : State} {who : Writer} (ns : Word) (hrun : Running s) (hw : chipWriter s who = true) :
    exec (.phaseMessageCommit who ns) s = .next (phaseMessage s ns) :=
  writeRow_timeBlock (fun s => phaseMessage s ns) hrun hw (by decide) (by decide)

/-- A message of the last second, in a synchronised module, is judged at its time (R40). -/
theorem phaseMessage_judged {s : State} {ns : Word} (hsrc : cfgNat s 0x0001 = 2) (hns : ns.toNat < 1000000000)
    (hsync : s.time.state = .sync) (hpast : messageAt s ns ≤ nowNs s) (hnew : (nowNs s : Int) ≤ messageAt s ns + 1000000000) :
    phaseMessage s ns = (judgeRef s (messageAt s ns).toNat true).1 := by
  have h1 : ¬(wheelSrc s ≠ 2) := not_not_intro hsrc
  have h2 : ¬(1000000000 ≤ ns.toNat) := by omega
  have h3 : ¬(s.time.state ≠ .sync) := not_not_intro hsync
  have h4 : ¬((nowNs s : Int) < messageAt s ns) := by omega
  have h5 : ¬(messageAt s ns + 1000000000 < (nowNs s : Int)) := by omega
  simp only [phaseMessage, h1, h2, h3, h4, h5, if_false]

/-! ### SRC -/

theorem cfgFind_cfgPut (id : Nat) (v : Word) (l : List (Nat × Word)) : cfgFind id (cfgPut id v l) = some v := by
  induction l with
  | nil => simp [cfgPut, cfgFind]
  | cons x l ih =>
    obtain ⟨k, y⟩ := x
    by_cases h : k = id
    · simp [cfgPut, cfgFind, h]
    · simp [cfgPut, cfgFind, h, ih]

theorem cfgGet_cfgSet (s : State) (id : Nat) (v : Word) : cfgGet (cfgSet s id v) id = v := by
  simp [cfgGet, cfgSet, cfgFind_cfgPut]

/-- A value within the bounds of a field of choices is taken as it is written (R173). -/
theorem writeSetting_choice {s : State} {id : Nat} {d hi : Int} {live : Nat} (who : Writer) (addr : Nat) {v : Word}
    (hrow : catalogue id = some (4, d, 0, hi, 1, live)) (hv : (v.toNat : Int) ≤ hi) : writeSetting s who addr id v = cfgSet s id v := by
  have h1 : ¬((v.toNat : Int) < 0) := by omega
  have h2 : ¬(hi < (v.toNat : Int)) := by omega
  simp [writeSetting, hrow, checkValue, h1, h2]

theorem wheelSrcMoved_logged (s : State) : ∃ w : Wheel, OnlyLogs { s with wheel := w } (wheelSrcMoved s)
    ∧ w.prev = none ∧ w.ref = none ∧ w.state ≠ .locked ∧ w.state ≠ .acquire := by
  unfold wheelSrcMoved
  dsimp only
  split
  · by_cases hz : cfgNat { s with wheel := { s.wheel with prev := none, ref := none } } 0x0005 = 0
    · obtain ⟨hp, hr⟩ := enterWheel_forgets (w := { s.wheel with prev := none, ref := none }) .free rfl rfl
      exact ⟨_, wheelToHold_free hz, hp, hr, by simp [enterWheel_state], by simp [enterWheel_state]⟩
    · obtain ⟨hp, hr⟩ :=
        enterWheel_forgets (w := { s.wheel with prev := none, ref := none, holdAt := nowNs s }) .hold rfl rfl
      exact ⟨_, wheelToHold_hold hz, hp, hr, by simp [enterWheel_state], by simp [enterWheel_state]⟩
  · next h =>
    rw [not_or] at h
    exact ⟨_, OnlyLogs.refl _, rfl, rfl, h.1, h.2⟩

end Sys2Proof.Machine

namespace Sys2Proof.Machine

theorem OnlyLogs.wheel {s t : State} {w : Wheel} (h : OnlyLogs { s with wheel := w } t) :
    t = { Logged s t with wheel := t.wheel } ∧ t.wheel = w := by
  obtain ⟨u, rfl⟩ := h
  exact ⟨rfl, rfl⟩

/-- The wheel in another state, count kept: what a loss time, the end of HOLD and a change of SRC answer. -/
theorem leaves_of_enterWheel {i : Instr} {s t : State} {w : Wheel} (n : WheelState) (hcount : w.count = s.wheel.count)
    (he : exec i s = .next t) (ht : OnlyLogs { s with wheel := enterWheel w n } t) :
    Ends i s fun t => t = { Logged s t with wheel := t.wheel } ∧ t.wheel.state = n ∧ t.wheel.count = s.wheel.count := by
  obtain ⟨hframe, hwheel⟩ := ht.wheel
  exact ⟨t, he, hframe, by rw [hwheel, enterWheel_state], by rw [hwheel, enterWheel_count, hcount]⟩

section
variable {s : State} {who : Writer}

theorem wheelCycleBoundary_ends (hrun : Running s) (hdue : s.wheel.cycStart + s.wheel.cycLen ≤ nowNs s) :
    exec .wheelCycleBoundary s = .next (cycleBoundary s) := by
  have hdue' : cycleDue s = true := decide_eq_true hdue
  rw [show exec .wheelCycleBoundary s = run s fun s => if cycleDue s then cycleBoundary s else s from rfl, run_running _ hrun, if_pos hdue']

/-- An accepted pulse in LOCKED. -/
theorem gridsync_accepted (hrun : Running s) (hsrc : cfgNat s 0x0001 = 1) (hl : s.wheel.state = .locked) (hp : s.wheel.prev ≠ none)
    (hw : 20 * (phaseError s ((nowNs s - 2000 : Nat) : Int)).natAbs ≤ nominalLen s) :
    Ends .gridsyncPulse s fun t => OnlyLogs (acceptRef s (nowNs s - 2000)) t := by
  refine ⟨_, execGridsyncPulse_eq hrun hsrc, ?_⟩
  simp only [judgeRef_accepted hl hp hw, if_true]
  exact onlyLogs_emitTime ..

/-- A rejected pulse in LOCKED. -/
theorem gridsync_rejected (hrun : Running s) (hsrc : cfgNat s 0x0001 = 1) (hl : s.wheel.state = .locked) (hp : s.wheel.prev ≠ none)
    (hw : nominalLen s < 20 * (phaseError s ((nowNs s - 2000 : Nat) : Int)).natAbs) :
    Ends .gridsyncPulse s fun t => OnlyLogs { s with wheel := rejectWheel s.wheel } t := by
  obtain ⟨hlog, hno⟩ := judgeRef_rejected hl hp hw false
  refine ⟨_, execGridsyncPulse_eq hrun hsrc, ?_⟩
  simpa [hno] using hlog

theorem phaseMessage_badNs (hrun : Running s) (hw : chipWriter s who = true) (hsrc : cfgNat s 0x0001 = 2) {ns : Word}
    (hns : 1000000000 ≤ ns.toNat) :
    Ends (.phaseMessageCommit who ns) s fun t => OnlyLogs { s with wheel := rejectWheel s.wheel } t := by
  have hsrc' : ¬(wheelSrc s ≠ 2) := not_not_intro hsrc
  have heq : phaseMessage s ns = rejectRef s true 0x06 := by rw [phaseMessage, if_neg hsrc', if_pos hns]
  exact ⟨_, (execPhaseMessageCommit_eq ns hrun hw).trans (congrArg _ heq), rejectRef_logged s true 0x06⟩

theorem wheelLossTime_ends (hrun : Running s) (hst : s.wheel.state = .locked ∨ s.wheel.state = .acquire)
    (hdue : s.wheel.lastAccept + lossTime s ≤ nowNs s) : exec .wheelLossTime s = .next (wheelToHold s) := by
  have hdue' : lossDue s = true := by rcases hst with h | h <;> simp [lossDue, h, hdue]
  rw [show exec .wheelLossTime s = run s fun s => if lossDue s then wheelToHold s else s from rfl, run_running _ hrun, if_pos hdue']

theorem wheelHoldExpiry_ends (hrun : Running s) (hst : s.wheel.state = .hold)
    (hdue : s.wheel.holdAt + cfgNat s 0x0005 * 1000000 ≤ nowNs s) : exec .wheelHoldExpiry s = .next (setWheelState s .free) := by
  have hdue' : holdDue s = true := by simp [holdDue, hst, hdue]
  rw [show exec .wheelHoldExpiry s = run s fun s => if holdDue s then setWheelState s .free else s from rfl, run_running _ hrun, if_pos hdue']

theorem execWheelSrcWrite_eq (hrun : Running s) (hw : chipWriter s who = true) {src : BitVec 2} (hsrc : src ≠ 3) :
    exec (.wheelSrcWrite who src) s = .next
      (if src.toNat = cfgNat s 0x0001 then cfgSet s 0x0001 (src.setWidth 32)
        else wheelSrcMoved (cfgSet s 0x0001 (src.setWidth 32))) := by
  have hle : ((src.setWidth 32).toNat : Int) ≤ 2 := by bv_omega
  have hnat : cfgNat (cfgSet s 0x0001 (src.setWidth 32)) 0x0001 = src.toNat := by
    rw [cfgNat, cfgGet_cfgSet]
    bv_omega
  have hset : writeSetting s who 0x10000 0x0001 (src.setWidth 32) = cfgSet s 0x0001 (src.setWidth 32) :=
    writeSetting_choice (d := 0) (hi := 2) (live := 1) who 0x10000 (by decide) hle
  refine (writeRow_timeBlock (fun s => setWheelSrc s who src) hrun hw (by decide) (by decide)).trans ?_
  simp only [setWheelSrc, hset, wheelSrc, hnat]

/-- A write of SRC takes effect; a change forgets the references and leaves LOCKED and ACQUIRE (R39, R70). -/
theorem wheelSrcWrite_ends (hrun : Running s) (hw : chipWriter s who = true) {src : BitVec 2} (hsrc : src ≠ 3) :
    Ends (.wheelSrcWrite who src) s fun t =>
      t = { Logged s t with cfg := t.cfg, wheel := t.wheel } ∧ cfgNat t 0x0001 = src.toNat
        ∧ (src.toNat ≠ cfgNat s 0x0001 →
          t.wheel.prev = none ∧ t.wheel.ref = none ∧ t.wheel.state ≠ .locked ∧ t.wheel.state ≠ .acquire) := by
  have hnat : cfgNat (cfgSet s 0x0001 (src.setWidth 32)) 0x0001 = src.toNat := by
    rw [cfgNat, cfgGet_cfgSet]
    bv_omega
  refine ⟨_, execWheelSrcWrite_eq hrun hw hsrc, ?_⟩
  split
  · next h => exact ⟨rfl, hnat, fun hne => absurd h hne⟩
  · obtain ⟨w, ⟨u, hu⟩, hw'⟩ := wheelSrcMoved_logged (cfgSet s 0x0001 (src.setWidth 32))
    rw [hu]
    exact ⟨rfl, hnat, fun _ => hw'⟩

end

/-- Settles O30, by the equation of each row and, for references, the verdict of LOCKED on them. -/
theorem phaseWheel : Obligations.PhaseWheel := by
  unfold Obligations.PhaseWheel
  intro s who src nominal ns hrun
  dsimp only
  refine ⟨fun hdue => ?_, fun hsrc hp => ?_, fun hsrc hl hp => ⟨fun hin => ?_, fun hout => ?_⟩, fun hw hsrc hns => ?_,
    fun hw hsrc hns hsync hpast hnew hl => ⟨fun hp => ?_, fun hp hin => ?_, fun hp hout => ?_⟩,
    fun hst hdue => ⟨fun hh => ?_, fun hh => ?_⟩, fun hst hdue => ?_, fun hw hsrc => wheelSrcWrite_ends hrun hw hsrc, fun hw => ?_⟩
  · exact ⟨_, wheelCycleBoundary_ends hrun hdue, rfl, rfl, rfl, rfl, rfl, nextLen_spec s⟩
  · rw [execGridsyncPulse_eq hrun hsrc, judgeRef_first hp]
    rfl
  · obtain ⟨t, he, u, rfl⟩ := gridsync_accepted hrun hsrc hl hp hin
    rw [acceptRef_locked hl] at he
    exact ⟨_, he, rfl, rfl, rfl, rfl, rfl, hl⟩
  · obtain ⟨t, he, u, rfl⟩ := gridsync_rejected hrun hsrc hl hp hout
    exact ⟨_, he, rfl, rfl, rfl, rfl, hl⟩
  · obtain ⟨t, he, u, rfl⟩ := phaseMessage_badNs hrun hw hsrc hns
    exact ⟨_, he, rfl, rfl⟩
  · rw [execPhaseMessageCommit_eq ns hrun hw, phaseMessage_judged hsrc hns hsync hpast hnew, judgeRef_first hp]
  · rw [execPhaseMessageCommit_eq ns hrun hw, phaseMessage_judged hsrc hns hsync hpast hnew, judgeRef_accepted hl hp hin,
      acceptRef_locked hl]
    rfl
  · obtain ⟨⟨u, hu⟩, -⟩ := judgeRef_rejected hl hp hout true
    refine ⟨_, (execPhaseMessageCommit_eq ns hrun hw).trans (by rw [phaseMessage_judged hsrc hns hsync hpast hnew, hu]), ?_⟩
    exact ⟨rfl, rfl, rfl, rfl, hl⟩
  · exact leaves_of_enterWheel (w := { s.wheel with holdAt := nowNs s }) .hold rfl (wheelLossTime_ends hrun hst hdue) (wheelToHold_hold hh)
  · exact leaves_of_enterWheel .free rfl (wheelLossTime_ends hrun hst hdue) (wheelToHold_free hh)
  · exact leaves_of_enterWheel .free rfl (wheelHoldExpiry_ends hrun hst hdue) (setWheelState_logged s .free)
  · exact writeRow_timeBlock (fun s => setNominal s nominal) hrun hw (by decide) (by decide)

end Sys2Proof.Machine

namespace Sys2Proof.Machine

/-! ## Network time and tick domains (O31) -/

/-! ### Workers that a jump releases (R58, R62) -/

/-- Nothing but workers' records and what an event changes differs between `s` and `t`. -/
def OnlyReleases (s t : State) : Prop := ∃ u wk, t = { Logged s u with wk := wk }

theorem OnlyReleases.refl (s : State) : OnlyReleases s s := ⟨s, s.wk, rfl⟩
theorem OnlyReleases.trans {s t u : State} : OnlyReleases s t → OnlyReleases t u → OnlyReleases s u
  | ⟨v, k, h⟩, ⟨x, l, g⟩ => ⟨x, l, by rw [g, h]; rfl⟩
theorem onlyReleases_modWk (s : State) (w : Worker) (f : WorkerSt → WorkerSt) : OnlyReleases s (modWk s w f) := ⟨s, _, rfl⟩

theorem onlyReleases_forWorkers {f : Worker → State → State} (h : ∀ w s, OnlyReleases s (f w s)) (s : State) :
    OnlyReleases s (forWorkers s f) := by
  unfold forWorkers
  generalize List.finRange 160 = l
  induction l generalizing s with
  | nil => exact .refl s
  | cons w l ih => exact (h w s).trans (ih (f w s))

theorem consumeSlot_oneShot (s : State) {t : Target} (h : ∀ n, t ≠ .slot n) : consumeSlot s t = s := by
  cases t with
  | slot n => exact absurd rfl (h n)
  | phase _ | net _ | tick _ _ | dur _ => rfl

/-- A one-shot action that comes due changes its worker's record and raises its event (R67). -/
theorem runAction_oneShot (s : State) (w : Worker) {t : TimeWait} (late : Option Nat) (disc : Bool) (h : ∀ n, t.target ≠ .slot n) :
    ∃ u, runAction s w t late disc = modWk (Logged s u) w fun k => releaseTime k t late disc := by
  obtain ⟨u, hu⟩ := onlyLogs_dueEvent s w t late
  exact ⟨u, by rw [runAction, hu, consumeSlot_oneShot _ h]⟩

theorem onlyReleases_runAction (s : State) (w : Worker) {t : TimeWait} (late : Option Nat) (disc : Bool)
    (h : ∀ n, t.target ≠ .slot n) : OnlyReleases s (runAction s w t late disc) := by
  obtain ⟨u, hu⟩ := runAction_oneShot s w late disc h
  rw [hu]
  exact ⟨u, _, rfl⟩

theorem onlyReleases_lateAction (s : State) (w : Worker) {t : TimeWait} (late fraction : Nat) (h : ∀ n, t.target ≠ .slot n) :
    OnlyReleases s (lateAction s w t late fraction) := by
  unfold lateAction
  split
  · exact onlyReleases_runAction s w _ _ h
  · exact onlyReleases_modWk s w _
  · exact onlyReleases_runAction s w _ _ h

theorem onlyReleases_lateByJump {isTarget : Target → Bool} (h : ∀ n, isTarget (.slot n) = false) (w : Worker) (s : State) :
    OnlyReleases s (lateByJump isTarget w s) := by
  unfold lateByJump
  split
  · next t _ =>
    split
    · next hc =>
      refine onlyReleases_lateAction s w _ _ fun n hn => ?_
      simp [hn, h n] at hc
    · exact .refl s
  · exact .refl s

/-! ### Correction (R54, R56, R57) -/

/-- Of `s`, nothing but network time and what an event changes differs in `t`, whose time has this offset, remaining slew and epoch. -/
def TimeIs (s t : State) (off slew : Int) (epoch : Half) : Prop :=
  OnlyLogs { s with time := t.time } t ∧ t.time.off = off ∧ t.time.slewLeft = slew ∧ t.time.epoch = epoch

theorem TimeIs.log {s t u : State} {off slew : Int} {epoch : Half} (h : TimeIs s t off slew epoch) (hu : OnlyLogs t u) :
    TimeIs s u off slew epoch := by
  obtain ⟨⟨x, hx⟩, hoff, hslew, hep⟩ := h
  obtain ⟨y, rfl⟩ := hu
  exact ⟨⟨y, by rw [hx]; rfl⟩, hoff, hslew, hep⟩

/-- The parts of the time besides offset, slew and epoch may change. -/
theorem TimeIs.retime {s t : State} {off slew : Int} {epoch : Half} (h : TimeIs s t off slew epoch) (v : Time)
    (hoff : v.off = t.time.off) (hslew : v.slewLeft = t.time.slewLeft) (hep : v.epoch = t.time.epoch) :
    TimeIs s { t with time := v } off slew epoch := by
  obtain ⟨⟨x, hx⟩, hoff', hslew', hep'⟩ := h
  exact ⟨⟨x, by rw [hx]; rfl⟩, hoff.trans hoff', hslew.trans hslew', hep.trans hep'⟩

theorem TimeIs.good {s t : State} {off slew : Int} {epoch : Half} (h : TimeIs s t off slew epoch) (g : Nat) :
    TimeIs s { t with time := { t.time with good := g } } off slew epoch := h.retime _ rfl rfl rfl

theorem TimeIs.storeTime {s t : State} {off slew : Int} {epoch : Half} (h : TimeIs s t off slew epoch) :
    TimeIs s (storeTime t) off slew epoch := h.retime _ rfl rfl rfl

theorem TimeIs.setTimeState {s t : State} {off slew : Int} {epoch : Half} (h : TimeIs s t off slew epoch) (n : TimeState) :
    TimeIs s (setTimeState t n) off slew epoch := by
  unfold Machine.setTimeState
  split
  · exact h
  · refine TimeIs.log ?_ (onlyLogs_emitTime ..)
    exact h.retime _ rfl rfl rfl

/-- What a step by `d` does to a periodic slot (R58). -/
def stepSlot (d : Int) (x : Slot) : Slot := if x.net then { x with next := ((x.next : Int) + d).toNat } else x

/-- The state with its periodic slots shifted by `d`. -/
def shiftSlots (s : State) (d : Int) : State := { s with slots := s.slots.map (Option.map (stepSlot d)) }

theorem shiftSlots_slot (s : State) (d : Int) (m : Fin 64) : (shiftSlots s d).slots[m] = (s.slots[m]).map (stepSlot d) := by
  simp [shiftSlots]

theorem timeIs_timeStep (s : State) (d : Int) :
    TimeIs (shiftSlots s d) (timeStep s d) (s.time.off + d) 0 (if d < 0 then s.time.epoch + 1 else s.time.epoch) := by
  unfold timeStep
  refine TimeIs.storeTime (TimeIs.log ?_ (onlyLogs_emit ..))
  exact ⟨OnlyLogs.refl _, rfl, rfl, rfl⟩

theorem timeCorrect_slews {s : State} {offset : Int} (hset : s.time.state ≠ .unset) (hlo : -1000000 < offset) (hhi : offset < 1000000) :
    TimeIs s (timeCorrect s offset) s.time.off (-offset * 1000) s.time.epoch := by
  have hno : (s.time.state == .unset || decide (offset ≤ -1000000) || decide (1000000 ≤ offset)) = false := by
    simp [hset, hlo, hhi]
  unfold timeCorrect
  simp only [hno, Bool.false_eq_true, if_false]
  refine TimeIs.setTimeState (TimeIs.good (TimeIs.log ?_ (onlyLogs_emit ..)) _) _
  exact ⟨OnlyLogs.refl _, rfl, rfl, rfl⟩

theorem onlyReleases_stepLates (s : State) (d : Int) : OnlyReleases s (stepLates s d) := by
  unfold stepLates
  split
  · exact onlyReleases_forWorkers (onlyReleases_lateByJump fun _ => rfl) s
  · exact .refl s

theorem timeCorrect_steps {s : State} {offset : Int} (h : s.time.state = .unset ∨ offset ≤ -1000000 ∨ 1000000 ≤ offset) :
    ∃ t, TimeIs (shiftSlots s (-offset)) t (s.time.off - offset) 0 (if 0 < offset then s.time.epoch + 1 else s.time.epoch)
      ∧ OnlyReleases t (timeCorrect s offset) := by
  have hyes : (s.time.state == .unset || decide (offset ≤ -1000000) || decide (1000000 ≤ offset)) = true := by
    simpa [or_assoc] using h
  unfold timeCorrect
  simp only [hyes, if_true]
  refine ⟨_, ?_, onlyReleases_stepLates _ _⟩
  refine TimeIs.setTimeState (TimeIs.good ?_ _) _
  have hstep := timeIs_timeStep { s with time := { s.time with lastOffset := satOffset offset } } (-offset)
  simp only [Left.neg_neg_iff, ← sub_eq_add_neg] at hstep
  exact hstep

end Sys2Proof.Machine

namespace Sys2Proof.Machine

/-! ### The rows of network time -/

section
variable {s : State} {who : Writer}

theorem execTimeSet_eq (ns : Word) (hrun : Running s) (hw : chipWriter s who = true) :
    exec (.timeSet who ns) s = .next (timeSetNs s who ns) :=
  writeRow_timeBlock (fun s => timeSetNs s who ns) hrun hw (by decide) (by decide)

theorem timeSetNs_host {ns : Word} (hsrc : cfgNat s 0x0006 = 2) (hns : ns.toNat < 1000000000) :
    timeSetNs s who ns = timeCorrect s
      ((netNs s : Int) - ((s.time.setHi.toNat % 65536 * 4294967296 + s.time.setLo.toNat) * 1000000000 + ns.toNat : Nat)) := by
  have hns' : ¬(1000000000 ≤ ns.toNat) := by omega
  have hbits : bitsOf s.time.setHi 15 0 = s.time.setHi.toNat % 65536 := by simp [bitsOf]
  rw [timeSetNs, if_neg (not_not_intro hsrc)]
  simp only [hns', if_false, hbits]

theorem timeSetNs_otherSource {ns : Word} (hsrc : cfgNat s 0x0006 ≠ 2) : timeSetNs s who ns = s := by
  rw [timeSetNs, if_pos hsrc]

theorem execTimeSlewEnd_eq (hrun : Running s) (h : s.time.slewLeft = 0) : exec .timeSlewEnd s = .next (slewEnd s) := by
  rw [show exec .timeSlewEnd s = run s fun s => if s.time.slewLeft = 0 then slewEnd s else s from rfl, run_running _ hrun, if_pos h]

theorem execTimeMarkStore_eq (hrun : Running s) (h : s.time.storedAt + 65536000000000 ≤ nowNs s) :
    exec .timeMarkStore s = .next (storeTime s) := by
  have hdue : storeDue s = true := decide_eq_true h
  rw [show exec .timeMarkStore s = run s fun s => if storeDue s then storeTime s else s from rfl, run_running _ hrun, if_pos hdue]

theorem execCanLatchSecond_eq (hrun : Running s) (h : (netNow s).sec ≠ s.canLatch.sec ∨ s.time.epoch ≠ s.canLatch.epoch) :
    exec .canLatchSecond s = .next (latchSecond s) := by
  have hdue : secondDue s = true := decide_eq_true h
  rw [show exec .canLatchSecond s = run s fun s => if secondDue s then latchSecond s else s from rfl, run_running _ hrun, if_pos hdue]

/-! ### TIME_SRC (R54) -/

theorem setTimeState_logged (s : State) (n : TimeState) :
    OnlyLogs { s with time := { s.time with state := n } } (setTimeState s n) := by
  by_cases h : s.time.state = n
  · subst h
    simpa [setTimeState] using OnlyLogs.refl s
  · simp only [setTimeState, h, if_false]
    exact onlyLogs_emitTime ..

/-- With no source the window is empty and the time neither tracks nor is synchronised. -/
theorem timeFree_logged (s : State) : ∃ v : Time, OnlyLogs { s with time := v } (timeFree s)
    ∧ v.off = s.time.off ∧ v.good = 0 ∧ v.state ≠ .tracking ∧ v.state ≠ .sync := by
  unfold timeFree
  dsimp only
  split
  · exact ⟨_, setTimeState_logged _ .free, rfl, rfl, TimeState.noConfusion, TimeState.noConfusion⟩
  · next h =>
    rw [not_or] at h
    exact ⟨_, OnlyLogs.refl _, rfl, rfl, h.1, h.2⟩

theorem ptpRestart_logged (s : State) : ∃ n : NetSt, OnlyLogs { s with net := n } (ptpRestart s) := by
  unfold ptpRestart
  dsimp only
  exact ⟨_, .ite (.refl _) (onlyLogs_emit ..)⟩

theorem timeSrcMoved_logged (s : State) : ∃ (v : Time) (n : NetSt), OnlyLogs { s with time := v, net := n } (timeSrcMoved s)
    ∧ v.off = s.time.off ∧ v.good = 0 ∧ v.state ≠ .tracking ∧ v.state ≠ .sync := by
  obtain ⟨v, ⟨u, hu⟩, hv⟩ := timeFree_logged s
  obtain ⟨n, x, hx⟩ := ptpRestart_logged (timeFree s)
  exact ⟨v, n, ⟨x, by rw [timeSrcMoved, hx, hu]; rfl⟩, hv⟩

theorem execTimeSrcWrite_eq (hrun : Running s) (hw : chipWriter s who = true) (src : BitVec 2) :
    exec (.timeSrcWrite who src) s = .next
      (if src.toNat = cfgNat s 0x0006 then cfgSet s 0x0006 (src.setWidth 32)
        else timeSrcMoved (cfgSet s 0x0006 (src.setWidth 32))) := by
  have hle : ((src.setWidth 32).toNat : Int) ≤ 3 := by bv_omega
  have hnat : cfgNat (cfgSet s 0x0006 (src.setWidth 32)) 0x0006 = src.toNat := by
    rw [cfgNat, cfgGet_cfgSet]
    bv_omega
  have hset : writeSetting s who 0x10100 0x0006 (src.setWidth 32) = cfgSet s 0x0006 (src.setWidth 32) :=
    writeSetting_choice (d := 3) (hi := 3) (live := 1) who 0x10100 (by decide) hle
  refine (writeRow_timeBlock (fun s => setTimeSrc s who src) hrun hw (by decide) (by decide)).trans ?_
  simp only [setTimeSrc, hset, hnat]

theorem timeSrcWrite_ends (hrun : Running s) (hw : chipWriter s who = true) (src : BitVec 2) :
    Ends (.timeSrcWrite who src) s fun t =>
      t = { Logged s t with cfg := t.cfg, time := t.time, net := t.net } ∧ cfgNat t 0x0006 = src.toNat ∧ t.time.off = s.time.off
        ∧ (src.toNat ≠ cfgNat s 0x0006 → t.time.good = 0 ∧ t.time.state ≠ .tracking ∧ t.time.state ≠ .sync) := by
  have hnat : cfgNat (cfgSet s 0x0006 (src.setWidth 32)) 0x0006 = src.toNat := by
    rw [cfgNat, cfgGet_cfgSet]
    bv_omega
  refine ⟨_, execTimeSrcWrite_eq hrun hw src, ?_⟩
  split
  · next h => exact ⟨rfl, hnat, rfl, fun hne => absurd h hne⟩
  · obtain ⟨v, n, ⟨u, hu⟩, hoff, hv⟩ := timeSrcMoved_logged (cfgSet s 0x0006 (src.setWidth 32))
    rw [hu]
    exact ⟨rfl, hnat, hoff, fun _ => hv⟩

/-! ### Tick domains (R61, R62) -/

theorem tickCompare_ends {n : Fin 4} (hrun : Running s) (hf : (s.ticks[n]).fired = false) (hc : tickCount s n = (s.ticks[n]).cmp) :
    Ends (.tickCompare n) s fun t => OnlyLogs { s with ticks := s.ticks.set n { s.ticks[n] with fired := true } } t := by
  have hdue : tickDue s n = true := by
    rw [tickDue, hf, hc, beq_self_eq_true]
    rfl
  refine ⟨tickFire s n, ?_, onlyLogs_emitTime ..⟩
  rw [show exec (.tickCompare n) s = run s fun s => if tickDue s n then tickFire s n else s from rfl, run_running _ hrun, if_pos hdue]

/-- Domain `n` with the count `c` loaded: its next increment stays where it was, and its compare event is as given. -/
def loadedTick (s : State) (n : Fin 4) (c : DWord) (fired : Bool) : Tick :=
  { s.ticks[n] with base := c, since := nowNs s / 10, first := tickFirst s n, fired := fired }

/-- The state with that domain. -/
def withLoaded (s : State) (n : Fin 4) (c : DWord) (fired : Bool) : State :=
  { s with ticks := s.ticks.set n (loadedTick s n c fired) }

theorem withLoaded_tick (n : Fin 4) (c : DWord) (fired : Bool) : (withLoaded s n c fired).ticks[n] = loadedTick s n c fired := by
  simp [withLoaded]

theorem tickFirst_pos {n : Fin 4} (hdiv : 0 < (s.ticks[n]).div) (hen : (s.ticks[n]).en = true) : 0 < tickFirst s n := by
  have hmod := Nat.mod_lt (nowNs s / 10 - (s.ticks[n]).since - (s.ticks[n]).first) hdiv
  simp only [tickFirst, hen, Bool.true_eq_false, if_false]
  split <;> omega

/-- A domain just loaded counts the value loaded. -/
theorem tickCount_loaded {n : Fin 4} (hdiv : 0 < (s.ticks[n]).div) (c : DWord) (fired : Bool) {t : State}
    (hnow : nowNs t = nowNs s) (hget : t.ticks[n] = loadedTick s n c fired) : tickCount t n = c := by
  rw [tickCount, hget, hnow]
  simp only [loadedTick, Nat.sub_self]
  split
  · next hen => rw [if_pos (tickFirst_pos hdiv hen)]
  · rfl

/-- Loading a count and arming the compare event; the event is raised at once for a count that is the compare value. -/
theorem loaded_fires {n : Fin 4} (hdiv : 0 < (s.ticks[n]).div) (c : DWord) :
    OnlyReleases (withLoaded s n c (decide (c = (s.ticks[n]).cmp)))
      (if tickDue (withLoaded s n c false) n then tickFire (withLoaded s n c false) n else withLoaded s n c false) := by
  have hcount : tickCount (withLoaded s n c false) n = c := tickCount_loaded hdiv c false rfl (withLoaded_tick n c false)
  have hdue : tickDue (withLoaded s n c false) n = decide (c = (s.ticks[n]).cmp) := by
    rw [tickDue, hcount, withLoaded_tick]
    simp [loadedTick, beq_eq_decide]
  rw [hdue]
  by_cases h : c = (s.ticks[n]).cmp
  · have hfire : modTick (withLoaded s n c false) n (fun t => { t with fired := true }) = withLoaded s n c true := by
      simp [modTick, withLoaded, loadedTick]
    obtain ⟨u, hu⟩ := onlyLogs_emitTime (withLoaded s n c true) 0 0x06 false false n.val
    rw [decide_eq_true h, if_pos rfl, tickFire, hfire, hu]
    exact ⟨u, s.wk, rfl⟩
  · rw [decide_eq_false h, if_neg Bool.false_ne_true]
    exact .refl _

/-- TICK_LOAD_HI puts the count in force, raises the compare event where it is due, and then makes the actions late that the count has
jumped past (R62, R67). -/
theorem tickLoadHi_releases {n : Fin 4} (hdiv : 0 < (s.ticks[n]).div) (hi : Word) {c : DWord}
    (hc : c = BitVec.ofNat 64 (hi.toNat * 2 ^ 32 + (s.ticks[n]).loadLo.toNat)) :
    OnlyReleases (withLoaded s n c (decide (c = (s.ticks[n]).cmp))) (tickLoadHi s n hi) := by
  have hload : modTick (tickRebase s n) n (fun t => { t with
      base := BitVec.ofNat 64 (hi.toNat * 4294967296 + t.loadLo.toNat), fired := false }) = withLoaded s n c false := by
    simp [modTick, tickRebase, withLoaded, loadedTick, hc]
  unfold tickLoadHi
  rw [hload]
  exact (loaded_fires hdiv c).trans (onlyReleases_forWorkers (onlyReleases_lateByJump fun _ => rfl) _)

theorem tickLoad_ends {n : Fin 4} (hrun : Running s) (hw : chipWriter s who = true) (hdiv : 0 < (s.ticks[n]).div) (hi : Word) {c : DWord}
    (hc : c = BitVec.ofNat 64 (hi.toNat * 2 ^ 32 + (s.ticks[n]).loadLo.toNat)) :
    Ends (.tickLoad who n hi) s fun t =>
      t = { Logged s t with ticks := t.ticks, wk := t.wk } ∧ tickCount t n = c ∧ (t.ticks[n]).fired = decide (c = (s.ticks[n]).cmp)
        ∧ (t.ticks[n]).en = (s.ticks[n]).en ∧ ∀ m : Fin 4, m ≠ n → t.ticks[m] = s.ticks[m] := by
  have hrow : exec (.tickLoad who n hi) s = .next (tickLoadHi s n hi) :=
    writeRow_timeBlock (fun s => tickLoadHi s n hi) hrun hw (by omega) (by omega)
  obtain ⟨u, wk, hu⟩ := tickLoadHi_releases hdiv hi hc
  rw [hu] at hrow
  have hget : ({ Logged (withLoaded s n c (decide (c = (s.ticks[n]).cmp))) u with wk := wk } : State).ticks[n]
      = loadedTick s n c (decide (c = (s.ticks[n]).cmp)) := withLoaded_tick n c _
  refine ⟨_, hrow, rfl, tickCount_loaded hdiv c _ rfl hget, by rw [hget]; rfl, by rw [hget]; rfl, fun m hm => ?_⟩
  simp [withLoaded, Fin.val_ne_of_ne hm.symm]

end

/-- Settles O31, by the equation of each row; a correction is one slew or one step, and a load one record of the domain, followed by
the actions that the jump makes late. -/
theorem networkTimeAndTicks : Obligations.NetworkTimeAndTicks := by
  unfold Obligations.NetworkTimeAndTicks
  intro s who src ns hi n hrun
  dsimp only
  refine ⟨fun hw hsrc hns => ⟨fun hno => ?_, fun hst => ?_⟩, fun hw hsrc => ?_, fun hw _ => timeSrcWrite_ends hrun hw src,
    fun h => execTimeSlewEnd_eq hrun h, fun h => execTimeMarkStore_eq hrun h, fun h => execCanLatchSecond_eq hrun h,
    fun hf hc => ?_, fun hw hdiv => tickLoad_ends hrun hw hdiv hi rfl⟩
  · simp only [not_or, not_le] at hno
    obtain ⟨hset, hlo, hhi⟩ := hno
    obtain ⟨⟨u, hu⟩, hoff, hslew, hep⟩ := timeCorrect_slews hset hlo hhi
    exact ⟨_, (execTimeSet_eq ns hrun hw).trans (congrArg _ (timeSetNs_host hsrc hns)), by rw [hu]; rfl, hoff, hslew, hep⟩
  · obtain ⟨t, ⟨⟨x, hx⟩, hoff, hslew, hep⟩, u, wk, hu⟩ := timeCorrect_steps hst
    rw [hx] at hu
    refine ⟨_, (execTimeSet_eq ns hrun hw).trans (congrArg _ ((timeSetNs_host hsrc hns).trans hu)), hoff, hslew, hep, fun _ m => ?_,
      rfl, rfl, rfl, rfl⟩
    exact shiftSlots_slot s _ m
  · rw [execTimeSet_eq ns hrun hw, timeSetNs_otherSource hsrc]
  · obtain ⟨t, he, u, rfl⟩ := tickCompare_ends hrun hf hc
    exact ⟨_, he, rfl⟩

end Sys2Proof.Machine
namespace Sys2Proof.Machine

/-! ## The module after reset (O59) -/

theorem wkOf_reset (w : Worker) : wkOf State.reset w = WorkerSt.init w := by simp [wkOf, State.reset]
theorem rgOf_reset (r : Region) : rgOf State.reset r = RegionSt.init := by simp [rgOf, State.reset]
theorem chOf_reset (c : Chan) : chOf State.reset c = ChanSt.init := by simp [chOf, State.reset, BankSt.init]
theorem sessOf_reset (k : Session) : sessOf State.reset k = SessSt.init := by simp [sessOf, State.reset, NetSt.init]

theorem memoriesWf_reset : memoriesWf State.reset :=
  ⟨memWf_nil, memWf_nil, memWf_nil, memWf_nil, fun w => by rw [wkOf_reset]; exact memWf_nil⟩

/-- Settles O59: each block of the reset state is its own initial record. -/
theorem resetState : Obligations.ResetState := by
  unfold Obligations.ResetState
  dsimp only
  refine ⟨rfl, rfl, rfl, memoriesWf_reset, rfl, rfl, fun w => ?_, fun r => ?_, fun c => ?_, rfl, rfl, rfl, rfl, rfl, fun k => ?_⟩
  · rw [wkOf_reset]
    exact ⟨rfl, rfl⟩
  · rw [reOf, rgOf_reset]
    rfl
  · rw [chOf_reset]
    exact ⟨rfl, rfl⟩
  · rw [sessOf_reset]
    rfl

end Sys2Proof.Machine

namespace Sys2Proof.Machine

/-! ## The issue of an instruction and its end (R75, R93, R99) -/

/-- `t` is `u` but for the cores, the place of workers between READY and RUNNING, and the record of worker `w`, which is `k` but for
its core. -/
def AtWorker (u t : State) (w : Worker) (k : WorkerSt) : Prop :=
  OnlyWorker u t w ∧ wkOf t w = { k with core := (wkOf t w).core }

section
variable {s u t : State} {w : Worker} {k : WorkerSt}

theorem AtWorker.frame (h : AtWorker u t w k) : t = { u with wk := t.wk, cores := t.cores } := h.1.1
theorem AtWorker.record (h : AtWorker u t w k) : wkOf t w = { k with core := (wkOf t w).core } := h.2

theorem AtWorker.time (h : AtWorker u t w k) : t.time = u.time := by rw [h.frame]
theorem AtWorker.wheel (h : AtWorker u t w k) : t.wheel = u.wheel := by rw [h.frame]
theorem AtWorker.ticks (h : AtWorker u t w k) : t.ticks = u.ticks := by rw [h.frame]
theorem AtWorker.slots (h : AtWorker u t w k) : t.slots = u.slots := by rw [h.frame]
theorem AtWorker.mem (h : AtWorker u t w k) : t.mem = u.mem := by rw [h.frame]
theorem AtWorker.therm (h : AtWorker u t w k) : t.therm = u.therm := by rw [h.frame]

theorem AtWorker.modWk (h : AtWorker u t w k) (f : WorkerSt → WorkerSt) (hf : ∀ k c, f { k with core := c } = { f k with core := c }) :
    AtWorker u (modWk t w f) w (f k) := by
  obtain ⟨⟨hframe, hothers⟩, hrec⟩ := h
  refine ⟨⟨?_, fun v hv => ?_⟩, ?_⟩
  · conv_lhs => rw [hframe]
    rfl
  · rw [wkOf_modWk_ne _ _ _ _ hv]
    exact hothers v hv
  · rw [wkOf_modWk, hrec, hf]

/-- A part of the state that workers have no share in is replaced in both alike. -/
theorem AtWorker.map (h : AtWorker u t w k) (f : State → State) (hwk : ∀ s, (f s).wk = s.wk) (hcores : ∀ s, (f s).cores = s.cores)
    (hf : ∀ (s : State) wk cores, f { s with wk := wk, cores := cores } = { f s with wk := wk, cores := cores }) :
    AtWorker (f u) (f t) w k := by
  obtain ⟨⟨hframe, hothers⟩, hrec⟩ := h
  have hwkOf : ∀ s v, wkOf (f s) v = wkOf s v := fun s v => by rw [wkOf, hwk, wkOf]
  refine ⟨⟨?_, fun v hv => ?_⟩, ?_⟩
  · rw [hwk, hcores, ← hf, ← hframe]
  · rw [hwkOf, hwkOf]
    exact hothers v hv
  · rw [hwkOf]
    exact hrec

theorem AtWorker.log (h : AtWorker u t w k) (v : State) : AtWorker (Logged u v) (Logged t v) w k :=
  h.map (Logged · v) (fun _ => rfl) (fun _ => rfl) fun _ _ _ => rfl

/-- Steps that move the worker to another core at most. -/
theorem AtWorker.move (h : AtWorker u t w k) {t' : State} (hsame : SameBut t t') (hothers : ∀ v, v ≠ w → wkOf t' v = wkOf t v)
    (hrec : wkOf t' w = { wkOf t w with core := (wkOf t' w).core }) : AtWorker u t' w k := by
  obtain ⟨⟨hframe, hplace⟩, hk⟩ := h
  refine ⟨⟨SameBut.trans hframe hsame, fun v hv => ?_⟩, ?_⟩
  · rw [hothers v hv]
    exact hplace v hv
  · rw [hrec, hk]

theorem AtWorker.goHome (h : AtWorker u t w k) : AtWorker u (goHome t w) w k := by
  obtain ⟨hsame, hothers, hrec⟩ := goHome_spec t w
  exact h.move hsame hothers hrec

theorem AtWorker.loseQuantum (h : AtWorker u t w k) : AtWorker u (loseQuantum t w) w k := by
  obtain ⟨hsame, hwk⟩ := loseQuantum_spec t w
  exact h.move hsame (fun v _ => hwk v) (by rw [hwk])

/-- The end of an issue leaves the place of a worker that is no longer RUNNING. -/
theorem quantumEnd_state (hk : (wkOf t w).state ≠ .running) : (wkOf (quantumEnd t w) w).state = (wkOf t w).state := by
  unfold quantumEnd
  dsimp only
  split
  · split
    · obtain ⟨-, -, hrec⟩ := goHome_spec (Machine.modWk (Machine.loseQuantum t w) w fun k => { k with state := if k.state = .running then .ready else k.state }) w
      rw [hrec, wkOf_modWk, (loseQuantum_spec t w).2]
      simp [hk]
    · rfl
  · rfl

theorem AtWorker.quantumEnd (h : AtWorker u t w k) (hk : k.state ≠ .running) : AtWorker u (quantumEnd t w) w k := by
  obtain ⟨hsame, hothers, hrec⟩ := quantumEnd_spec t w
  have hst : (wkOf t w).state ≠ .running := by rw [h.record]; exact hk
  rw [quantumEnd_state hst] at hrec
  exact h.move hsame hothers hrec

/-- Waiting on `x` (R78). -/
theorem AtWorker.blockOn (h : AtWorker u t w k) (x : Wait) : AtWorker u (blockOn t w x) w (block k x) :=
  (h.loseQuantum.modWk (block · x) fun _ _ => rfl).goHome

/-! ### The worker as its instruction sees it -/

/-- The worker's record with the issue counted (R93, R101). -/
def counted (s : State) (w : Worker) : WorkerSt :=
  { wkOf s w with
    state := .running, issued := (wkOf s w).issued + 1, run := (wkOf s w).run + 1, sw := { (wkOf s w).sw with lead := isLead s } }

/-- What the effect of an issued instruction sees. -/
theorem atWorker_issue (s : State) (w : Worker) : AtWorker s (countIssue (takeCore s w) w) w (counted s w) := by
  obtain ⟨hsame, hothers, hrec⟩ := issue_seen s w
  exact ⟨⟨hsame, hothers⟩, by rw [hrec]; rfl⟩

theorem storeQ_takeCore (s : State) (w : Worker) (c : Fin 4) : (coreOf (takeCore s w) c).storeQ = (coreOf s c).storeQ := by
  obtain ⟨-, hcores, -⟩ := foldl_place (List.finRange 160)
    (fun t v => (wkOf t v).state = .running ∧ (wkOf t v).core = (wkOf s w).core) s
  unfold takeCore forWorkers
  dsimp only
  generalize hx : List.foldl _ s (List.finRange 160) = x
  have hx' : x.cores = s.cores := by rw [← hx]; exact hcores
  have hcore : ∀ c, coreOf x c = coreOf s c := fun c => by rw [coreOf, hx', coreOf]
  by_cases hc : c = (wkOf s w).core
  · subst hc
    rw [coreOf_modCore, ← hcore]
    split
    · split <;> rfl
    · rfl
  · rw [coreOf_modCore_ne _ _ _ _ hc, hcore]

theorem coreOf_countIssue (s : State) (w : Worker) (c : Fin 4) : coreOf (countIssue s w) c = coreOf s c := rfl

/-- The stores of the worker's core are those that were posted before its issue. -/
theorem storeQ_issue (s : State) (w : Worker) :
    (coreOf (countIssue (takeCore s w) w) (wkOf (countIssue (takeCore s w) w) w).core).storeQ = (coreOf s (wkOf s w).core).storeQ := by
  obtain ⟨-, -, hrec⟩ := issue_seen s w
  have hcore : (wkOf (countIssue (takeCore s w) w) w).core = (wkOf s w).core := by rw [hrec]
  rw [hcore, coreOf_countIssue, storeQ_takeCore]

/-! ### Instructions that first complete the worker's posted stores (R117) -/

/-- The memory after a store of bytes: none into a poisoned line (R118). -/
def memPut (m : MemSt) (off : Nat) (b : List Byte) : MemSt :=
  if (linesOf off b.length).any fun l => m.poison.contains l then m else { m with dram := memWrite m.dram off b }

theorem dramPut_eq (s : State) (off : Nat) (b : List Byte) : dramPut s off b = { s with mem := memPut s.mem off b } := by
  unfold dramPut memPut poisoned
  split <;> rfl

theorem foldl_dramPut (l : List (Worker × Nat × List Byte)) (s : State) :
    l.foldl (fun s x => dramPut s x.2.1 x.2.2) s = { s with mem := l.foldl (fun m x => memPut m x.2.1 x.2.2) s.mem } := by
  induction l generalizing s with
  | nil => rfl
  | cons x l ih => rw [List.foldl_cons, dramPut_eq, ih]; rfl

/-- The posted stores of a worker, oldest first. -/
def postedOf (s : State) (w : Worker) : List (Worker × Nat × List Byte) := (coreOf s (wkOf s w).core).storeQ.filter fun x => x.1 == w

/-- Completing a worker's posted stores changes the cores' queues and DRAM alone. -/
theorem drainWorker_eq (s : State) (w : Worker) : ∃ cores, drainWorker s w =
    { s with cores := cores, mem := (postedOf s w).foldl (fun m x => memPut m x.2.1 x.2.2) s.mem } := by
  unfold drainWorker
  dsimp only
  rw [foldl_dramPut]
  exact ⟨_, rfl⟩

theorem AtWorker.drain (h : AtWorker s t w k) (hposted : postedOf t w = postedOf s w) :
    AtWorker (drainWorker s w) (drainWorker t w) w k := by
  obtain ⟨c, hs⟩ := drainWorker_eq s w
  obtain ⟨e, ht⟩ := drainWorker_eq t w
  rw [hposted] at ht
  have hsw : ∀ v, wkOf (drainWorker s w) v = wkOf s v := fun v => by rw [hs]; rfl
  have htw : ∀ v, wkOf (drainWorker t w) v = wkOf t v := fun v => by rw [ht]; rfl
  obtain ⟨⟨hframe, hothers⟩, hrec⟩ := h
  refine ⟨⟨?_, fun v hv => ?_⟩, ?_⟩
  · rw [hs, ht]
    conv_lhs => rw [hframe]
  · rw [hsw, htw]
    exact hothers v hv
  · rw [htw]
    exact hrec

theorem postedOf_issue (s : State) (w : Worker) : postedOf (countIssue (takeCore s w) w) w = postedOf s w := by
  rw [postedOf, storeQ_issue, postedOf]

theorem postedBad_issue (s : State) (w : Worker) : postedBad (countIssue (takeCore s w) w) w = postedBad s w := by
  have hmem := (atWorker_issue s w).mem
  have hrec := (atWorker_issue s w).record
  have hap : ∀ off, apertureAddr (wkOf (countIssue (takeCore s w) w) w) off = apertureAddr (wkOf s w) off := fun off => by
    rw [hrec]
    rfl
  simp only [postedBad, storeQ_issue, poisoned, hmem, hap]

theorem hasPosted_issue (s : State) (w : Worker) : hasPosted (countIssue (takeCore s w) w) w = hasPosted s w := by
  rw [hasPosted, storeQ_issue, hasPosted]

theorem dramHeld_issue (s : State) (w : Worker) : dramHeld (countIssue (takeCore s w) w) = dramHeld s := by
  simp only [dramHeld, underTest, (atWorker_issue s w).mem, (atWorker_issue s w).therm]

/-- What the effect of an instruction sees once the worker's posted stores are complete. -/
def drained (s : State) (w : Worker) : State := drainWorker (countIssue (takeCore s w) w) w

theorem atWorker_drained (s : State) (w : Worker) : AtWorker (drainWorker s w) (drained s w) w (counted s w) :=
  (atWorker_issue s w).drain (postedOf_issue s w)

/-- An instruction of a worker whose posted stores can drain acts on the state with them complete. -/
theorem issueDrained_eq (f : State → State) (h : Issues s w) (hd : Drains s w) :
    issueDrained s w f = .next (quantumEnd (f (drained s w)) w) := by
  obtain ⟨hbad, hheld⟩ := hd
  have hwait : (dramHeld s && hasPosted s w) = false := by
    cases hx : dramHeld s
    · rfl
    · exact hheld hx
  rw [issueDrained, issue_eq s w _ h]
  simp only [postedBad_issue, hbad, dramHeld_issue, hasPosted_issue, hwait]
  rfl

end

end Sys2Proof.Machine

namespace Sys2Proof.Machine

/-! ## Scheduled actions: clocks, release and late policy (R66-R69, R125) -/

/-- The time, the wheel and the tick domains of `t` are those of `s`. -/
def SameClocks (s t : State) : Prop := t.time = s.time ∧ t.wheel = s.wheel ∧ t.ticks = s.ticks

section
variable {s t u : State} {w : Worker} {k : WorkerSt} {x : TimeWait}

theorem SameClocks.refl (s : State) : SameClocks s s := ⟨rfl, rfl, rfl⟩
theorem SameClocks.trans (h : SameClocks s t) (g : SameClocks t u) : SameClocks s u :=
  ⟨g.1.trans h.1, g.2.1.trans h.2.1, g.2.2.trans h.2.2⟩
theorem AtWorker.clocks (h : AtWorker u t w k) : SameClocks u t := ⟨h.time, h.wheel, h.ticks⟩

theorem sameClocks_drainWorker (s : State) (w : Worker) : SameClocks s (drainWorker s w) := by
  obtain ⟨c, hs⟩ := drainWorker_eq s w
  rw [hs]
  exact .refl s

theorem SameClocks.nowNs (h : SameClocks s t) : nowNs t = nowNs s := by rw [Machine.nowNs, h.1, Machine.nowNs]
theorem SameClocks.clockNs (h : SameClocks s t) : clockNs t = clockNs s := by rw [Machine.clockNs, h.1, Machine.clockNs]
theorem SameClocks.netNs (h : SameClocks s t) : netNs t = netNs s := by rw [Machine.netNs, h.nowNs, h.1, Machine.netNs]
theorem SameClocks.phaseNow (h : SameClocks s t) : phaseNow t = phaseNow s := by
  rw [Machine.phaseNow, wheelFrac, h.nowNs, h.2.1, Machine.phaseNow, wheelFrac]
theorem SameClocks.tickCount (h : SameClocks s t) (n : Fin 4) : tickCount t n = tickCount s n := by
  rw [Machine.tickCount, h.nowNs, h.2.2, Machine.tickCount]
theorem SameClocks.nextFraction (h : SameClocks s t) (f : Nat) : nextFraction t f = nextFraction s f := by
  rw [Machine.nextFraction, h.phaseNow, Machine.nextFraction]

/-- Whether a one-shot target is reached depends on the clocks alone. -/
theorem SameClocks.reached (h : SameClocks s t) {y : Target} (hy : ∀ n, y ≠ .slot n) : reached t y = reached s y := by
  cases y with
  | phase p => rw [Machine.reached, h.phaseNow, Machine.reached]
  | net ns => rw [Machine.reached, h.netNs, Machine.reached]
  | tick d c => rw [Machine.reached, h.tickCount, Machine.reached]
  | dur ns => rw [Machine.reached, h.clockNs, Machine.reached]
  | slot n => exact absurd rfl (hy n)

/-! ### Release -/

theorem gSet_eq (k : WorkerSt) (d : GReg) (v : Word) : gSet k d v = { k with g := gWrite k.g d v } := by
  unfold gSet gWrite
  split <;> rfl

theorem gWrite_gWrite (g : Vector Word 32) (d : GReg) (v v' : Word) : gWrite (gWrite g d v) d v' = gWrite g d v' := by
  unfold gWrite
  split <;> simp

/-- The general registers with the handle that EVERY leaves on release (R128). -/
def handleRegs (x : TimeWait) (g : Vector Word 32) : Vector Word 32 :=
  match x.slot with
  | some (n, d, past) => gWrite g d (BitVec.ofNat 32 (min past 0xFFFF * 65536 + n.val + 1))
  | none => g

/-- The record of a waiting worker as it is released. -/
theorem releaseTime_eq (hk : k.state ≠ .quiesced) (x : TimeWait) (late : Option Nat) (disc : Bool) :
    releaseTime k x late disc = { k with
      state := .ready, wait := none, issued := 0, a := k.a.set x.alat (BitVec.ofNat 64 (late.getD 0)), g := handleRegs x k.g
      sw := { k.sw with late := late.isSome, disc := disc } } := by
  have hword : ∀ p n : Nat, word (fld p 16 + n + 1) = BitVec.ofNat 32 (p * 65536 + n + 1) := fun p n => by
    simp [word, fld, Nat.shiftLeft_eq]
  cases hx : x.slot with
  | none => simp only [releaseTime, hx, handleRegs, aSet, makeReady, hk, if_false]
  | some y => simp only [releaseTime, hx, handleRegs, aSet, makeReady, gSet_eq, hword, hk, if_false]

theorem releaseTime_core (x : TimeWait) (late : Option Nat) (disc : Bool) (k : WorkerSt) (c : Fin 4) :
    releaseTime { k with core := c } x late disc = { releaseTime k x late disc with core := c } := by
  cases hx : x.slot with
  | none =>
    simp only [releaseTime, hx, aSet, makeReady]
    split <;> rfl
  | some y =>
    simp only [releaseTime, hx, aSet, makeReady, gSet_eq]
    split <;> rfl

/-! ### The late policy -/

theorem lateAction_releases {late f : Nat} (hp : policyApplied x.given (targetBase s x.target) ≠ 2) :
    lateAction s w x late f = runAction s w x (some late) (x.given == 1) := by
  by_cases h1 : x.given = 1
  · simp [lateAction, policyApplied, h1]
  · have h2 : ¬(x.given = 2 ∧ targetBase s x.target = 0) := fun h => hp (by rw [policyApplied, if_neg h1, if_pos h])
    have hno : (x.given == 1) = false := beq_eq_false_iff_ne.mpr h1
    simp only [lateAction, policyApplied, h1, h2, if_false, hno]

theorem lateAction_waits {late f : Nat} (hp : policyApplied x.given (targetBase s x.target) = 2) :
    lateAction s w x late f = modWk s w fun k => { k with wait := some (.time
      { x with target := .phase (nextFraction s f), late := some (BitVec.ofNat 64 late) }) } := by
  simp only [lateAction, hp]

theorem targetBase_oneShot {y : Target} (hy : ∀ n, y ≠ .slot n) (s t : State) : targetBase s y = targetBase t y := by
  cases y with
  | slot n => exact absurd rfl (hy n)
  | phase _ | net _ | tick _ _ | dur _ => rfl

/-! ### Scheduling -/

theorem schedule_ahead (h : AtWorker u t w k) {f : Nat} (hr : reached t x.target = false) :
    AtWorker u (schedule t w x f) w (block k (.time x)) := by
  simp only [schedule, hr, Bool.false_eq_true, if_false]
  exact h.blockOn _

/-- A target reached already, under RUN and DISCARD: the worker is released at once. -/
theorem schedule_releases (h : AtWorker u t w k) {f : Nat} (hx : ∀ n, x.target ≠ .slot n) (hr : reached t x.target = true)
    (hp : policyApplied x.given (targetBase t x.target) ≠ 2) : ∃ v, AtWorker (Logged u v) (schedule t w x f) w
      (releaseTime (block k (.time x)) x (some (lateness t x.target)) (x.given == 1)) := by
  rw [targetBase_oneShot hx t (blockOn t w (.time x))] at hp
  obtain ⟨v, hv⟩ := runAction_oneShot (blockOn t w (.time x)) w (some (lateness t x.target)) (x.given == 1) hx
  refine ⟨v, ?_⟩
  simp only [schedule, hr, if_true]
  rw [lateAction_releases hp, hv]
  exact ((h.blockOn _).log v).modWk _ (releaseTime_core x _ _)

/-- A target reached already, under NEXT_CYCLE on phase: the worker waits for the next stamp with the fraction. -/
theorem schedule_nextCycle (h : AtWorker u t w k) {f : Nat} (hx : ∀ n, x.target ≠ .slot n) (hr : reached t x.target = true)
    (hp : policyApplied x.given (targetBase t x.target) = 2) : AtWorker u (schedule t w x f) w (block k (.time
      { x with target := .phase (nextFraction t f), late := some (BitVec.ofNat 64 (lateness t x.target)) })) := by
  have hb := h.blockOn (.time x)
  rw [targetBase_oneShot hx t (blockOn t w (.time x))] at hp
  have hn : nextFraction (blockOn t w (.time x)) f = nextFraction t f := by
    rw [hb.clocks.nextFraction, h.clocks.nextFraction]
  simp only [schedule, hr, if_true]
  rw [lateAction_waits hp, hn]
  exact hb.modWk (fun k => { k with wait := some (.time _) }) fun _ _ => rfl

/-! ### What the statements say of a worker that waits, and of one that is released -/

theorem wkOf_drainWorker (s : State) (w v : Worker) : wkOf (drainWorker s w) v = wkOf s v := by
  obtain ⟨c, hs⟩ := drainWorker_eq s w
  rw [hs]
  rfl

/-- A worker that has blocked, with general registers `g` written before. -/
theorem AtWorker.waiting {g : Vector Word 32} (h : AtWorker u t w (block { counted s w with g := g } (.time x))) :
    OnlyWorker u t w ∧ (wkOf t w).state = .waiting
      ∧ WorkerIs s t w { wkOf s w with pc := (wkOf s w).pc + 4, g := g, wait := some (.time x) } := by
  have hst : (wkOf t w).state = .waiting := by rw [h.record]; rfl
  refine ⟨h.1, hst, ?_⟩
  rw [WorkerIs, hst]
  exact h.record

/-- The record of a worker that was released at once. -/
theorem AtWorker.released {late : Nat} {disc : Bool} {g : Vector Word 32}
    (h : AtWorker u t w (releaseTime (block { counted s w with g := g } (.time x)) x (some late) disc)) :
    wkOf t w = { wkOf s w with
      pc := (wkOf s w).pc + 4, state := .ready, wait := none, issued := 0, run := (wkOf s w).run + 1, core := (wkOf t w).core
      g := handleRegs x g, a := (wkOf s w).a.set x.alat (BitVec.ofNat 64 late)
      sw := { (wkOf s w).sw with lead := isLead s, late := true, disc := disc } } := by
  have hrec := h.record
  rw [releaseTime_eq WkState.noConfusion] at hrec
  exact hrec

theorem AtWorker.frame_logged {v : State} (h : AtWorker (Logged u v) t w k) :
    t = { Logged u t with wk := t.wk, cores := t.cores } := by
  have harb : t.arb = v.arb := by rw [h.frame]; rfl
  have hrecd : t.recd = v.recd := by rw [h.frame]; rfl
  have hout : t.twin.out = v.twin.out := by rw [h.frame]; rfl
  conv_lhs => rw [h.frame]
  simp only [Logged, harb, hrecd, hout]

end

end Sys2Proof.Machine

namespace Sys2Proof.Machine

/-! ## Faults (R90, R94)

What a worker's fault does beyond the worker reaches other workers only where they wait: a region that a final trap opens releases
those that wait for its events. So the record of the worker that has trapped, which waits for nothing, stays. -/

/-- Of the workers, only some that wait are changed between `s` and `t`. -/
structure SparesIdle (s t : State) : Prop where
  stays : ∀ w, waitOf (wkOf s w) = none → wkOf t w = wkOf s w

theorem SparesIdle.refl (s : State) : SparesIdle s s := ⟨fun _ _ => rfl⟩
theorem SparesIdle.trans {s t u : State} (h : SparesIdle s t) (g : SparesIdle t u) : SparesIdle s u := ⟨fun w hw => by
  have ht := h.stays w hw
  rw [g.stays w (by rw [ht]; exact hw), ht]⟩
theorem SparesIdle.ite {s t u : State} {c : Prop} [Decidable c] (ht : SparesIdle s t) (hu : SparesIdle s u) :
    SparesIdle s (if c then t else u) := by
  split <;> assumption
theorem sparesIdle_of_wk {s t : State} (h : t.wk = s.wk) : SparesIdle s t := ⟨fun w _ => by rw [wkOf, h, wkOf]⟩

theorem sparesIdle_foldl {α : Type} (l : List α) (f : State → α → State) (h : ∀ s x, SparesIdle s (f s x)) (s : State) :
    SparesIdle s (l.foldl f s) := by
  induction l generalizing s with
  | nil => exact .refl s
  | cons x l ih => exact (h s x).trans (ih (f s x))

theorem sparesIdle_modRg (s : State) (r : Region) (f : RegionSt → RegionSt) : SparesIdle s (modRg s r f) := sparesIdle_of_wk rfl
theorem sparesIdle_modRe (s : State) (r : Region) (f : Engine → Engine) : SparesIdle s (modRe s r f) := sparesIdle_of_wk rfl
theorem sparesIdle_modCan (s : State) (n : Fin 4) (f : CanSt → CanSt) : SparesIdle s (modCan s n f) := sparesIdle_of_wk rfl
theorem sparesIdle_modTwin (s : State) (f : TwinSt → TwinSt) : SparesIdle s (modTwin s f) := sparesIdle_of_wk rfl

theorem sparesIdle_emit (s : State) (n level e : Nat) (keep marked : Bool) (scope : Half) (args : Word) :
    SparesIdle s (emit s n level e keep marked scope args) := by
  obtain ⟨u, hu⟩ := onlyLogs_emit s n level e keep marked scope args
  rw [hu]
  exact sparesIdle_of_wk rfl

theorem sparesIdle_pairSend (s : State) (x : TwinOut) : SparesIdle s (pairSend s x) := .ite (sparesIdle_modTwin s _) (.refl s)

theorem sparesIdle_yieldStart (s : State) : SparesIdle s (yieldStart s) := (sparesIdle_modTwin s _).trans (sparesIdle_pairSend ..)

theorem sparesIdle_forRegions (f : Region → State → State) (h : ∀ r s, SparesIdle s (f r s)) (s : State) :
    SparesIdle s (forRegions s f) := sparesIdle_foldl _ _ (fun s r => h r s) s

/-- An event of a region engine releases workers that wait for it (R137). -/
theorem sparesIdle_emitRe (s : State) (r : Region) (level e : Nat) (keep marked : Bool) (args : Nat) :
    SparesIdle s (emitRe s r level e keep marked args) := by
  unfold emitRe
  refine ((sparesIdle_emit ..).trans (sparesIdle_modRg _ r _)).trans (sparesIdle_foldl _ _ (fun s w => ?_) _)
  dsimp only
  split
  · next hwait =>
    split
    · split
      · refine ⟨fun v hv => ?_⟩
        by_cases hvw : v = w
        · subst hvw
          simp [hv] at hwait
        · exact wkOf_setWk_ne _ _ _ _ hvw
      · exact .refl s
    · exact .refl s
  · exact .refl s

/-! ### The planned open of a final trap -/

theorem sparesIdle_stepResult (s : State) (r : Region) (code : Nat) (ticket : Half) (result : Nat) :
    SparesIdle s (stepResult s r code ticket result) := sparesIdle_emitRe ..

theorem sparesIdle_stepEnd (s : State) (r : Region) (result cause : Nat) : SparesIdle s (stepEnd s r result cause) := by
  unfold stepEnd
  split
  · exact .refl s
  · extract_lets s1 s2 s3
    have hdetail : SparesIdle s1 s2 := .ite (sparesIdle_modRe s1 r _) (.refl s1)
    have hresult : SparesIdle s s3 := ((sparesIdle_modRe s r _).trans hdetail).trans (sparesIdle_stepResult ..)
    exact hresult.trans (.ite (.trans (sparesIdle_modRe s3 r _) (.ite (sparesIdle_pairSend ..) (.refl _))) (.refl s3))

theorem sparesIdle_overtake (s : State) (r : Region) : SparesIdle s (overtake s r) := by
  unfold overtake
  split
  · exact .refl s
  · exact sparesIdle_stepEnd ..

theorem sparesIdle_reEnter (s : State) (r : Region) (st : ReState) : SparesIdle s (reEnter s r st) := by
  unfold reEnter
  refine .ite (.trans (sparesIdle_modRe s r _) (sparesIdle_forRegions _ (fun q t => ?_) _)) (sparesIdle_modRe s r _)
  exact .ite (.refl t) (sparesIdle_modRe t q _)

theorem sparesIdle_isolateOpen (s : State) (r : Region) (iso : Option Cause) : SparesIdle s (isolateOpen s r iso) := by
  unfold isolateOpen
  split
  · exact .ite (sparesIdle_modRe s r _) ((sparesIdle_modRe s r _).trans (sparesIdle_reEnter ..))
  · exact sparesIdle_modRe s r _
  · exact .refl s

theorem sparesIdle_txPush (s : State) (n : Fin 4) (f : CanFrame) (owner : TxOwner) : SparesIdle s (txPush s n f owner) := by
  unfold txPush canKick
  refine .ite ?_ ?_ <;> exact sparesIdle_of_wk rfl

theorem sparesIdle_txModule (s : State) (n : Fin 4) (f : CanFrame) (owner : TxOwner) : SparesIdle s (txModule s n f owner) := by
  unfold txModule
  extract_lets s1 c
  have hdrop : SparesIdle s s1 := by
    simp only [s1]
    split
    · exact sparesIdle_modCan s n _
    · exact .refl s
  refine hdrop.trans (.ite (sparesIdle_txPush ..) ?_)
  split
  · exact sparesIdle_txPush ..
  · exact ((sparesIdle_modCan s1 n _).trans (sparesIdle_txPush ..)).trans (sparesIdle_emit ..)

theorem sparesIdle_sendZeroFrame (s : State) (r : Region) : SparesIdle s (sendZeroFrame s r) := by
  have hsend : ∀ port img, SparesIdle s (sendZero s r port img).1 := fun port img => by
    unfold sendZero
    dsimp only
    split
    · exact .refl s
    · exact sparesIdle_txModule s port (portFrame s port (frameOfImage img)) (.zero r)
  unfold sendZeroFrame
  exact .ite (.ite (hsend _ _) ((hsend _ _).trans (sparesIdle_emitRe ..))) (.refl s)

theorem sparesIdle_planned (s : State) (r : Region) (limitMs : Nat) (iso : Option Cause) (ticket : Option Half) :
    SparesIdle s (planned s r limitMs iso ticket) := by
  unfold planned
  extract_lets due st note take o1 o2 p1 p2 p3 q
  have hnote : ∀ s, SparesIdle s (note s) := fun s => by
    simp only [note]
    split
    · exact sparesIdle_modRe s r _
    · exact .refl s
  have htake : ∀ s, SparesIdle s (take s) := fun s => by
    simp only [take]
    split
    · exact sparesIdle_modRe s r _
    · exact .refl s
  split
  · have htaken : SparesIdle s o2 := (sparesIdle_stepEnd s r 8 0).trans (sparesIdle_modRe o1 r _)
    exact htaken.trans ((hnote o2).trans (htake _))
  · split
    · have hopening : SparesIdle s p3 :=
        ((sparesIdle_overtake s r).trans (sparesIdle_modRg p1 r _)).trans (sparesIdle_reEnter p2 r .opening)
      exact hopening.trans (((hnote p3).trans (htake _)).trans (sparesIdle_sendZeroFrame _ r))
    · refine (sparesIdle_isolateOpen s r iso).trans ?_
      split
      · exact sparesIdle_stepResult ..
      · exact .refl _

theorem sparesIdle_finalTrap (s : State) (w : Worker) : SparesIdle s (finalTrap s w) := by
  unfold finalTrap p0Open
  refine .ite (.ite (sparesIdle_forRegions _ (fun r t => ?_) s) (.ite (sparesIdle_planned ..) (.refl s))) (.refl s)
  exact .ite (sparesIdle_planned ..) (.refl t)

/-! ### The record of a worker that faults -/

/-- The parts of a worker's record that a fault keeps, and those that it records (R90). -/
def Trapped (k : WorkerSt) (cause : Byte) (k' : WorkerSt) : Prop :=
  k'.state = .trapped ∧ k'.faultCause = cause ∧ k'.faultPc = k.pc ∧ k'.pc = k.pc ∧ k'.g = k.g ∧ k'.a = k.a ∧ k'.scratch = k.scratch

theorem Trapped.due {k k' : WorkerSt} {cause : Byte} (h : Trapped k cause k') (due : Bool) :
    Trapped k cause { k' with actDue := due } := by
  obtain ⟨hst, hcause, hfpc, hpc, hg, ha, hscr⟩ := h
  exact ⟨hst, hcause, hfpc, hpc, hg, ha, hscr⟩

theorem Trapped.pause {k k' : WorkerSt} {cause : Byte} (h : Trapped k cause k') (due : Bool) (restartAt : Option Nat) :
    Trapped k cause { k' with actDue := due, restartAt := restartAt } := by
  obtain ⟨hst, hcause, hfpc, hpc, hg, ha, hscr⟩ := h
  exact ⟨hst, hcause, hfpc, hpc, hg, ha, hscr⟩

/-- A worker that has trapped waits for nothing, so what spares such workers keeps its record. -/
theorem Trapped.spared {k : WorkerSt} {cause : Byte} {s t : State} {w : Worker} (h : Trapped k cause (wkOf s w)) (hst : SparesIdle s t) :
    Trapped k cause (wkOf t w) := by
  have hidle : waitOf (wkOf s w) = none := by simp [waitOf, h.1]
  rw [hst.stays w hidle]
  exact h

theorem wkOf_leaveWorker (s : State) (w : Worker) (st : WkState) : wkOf (leaveWorker s w st) w =
    { wkOf s w with state := st, wait := none, flight := .none, restartAt := none, actDue := false, tickets := [] } := by
  have hrest : ∀ x c, wkOf { dropSnaps (freeSlots x w) (.worker w) with crypto := c } w = wkOf x w := fun _ _ => rfl
  have hwk : wkOf (drainWorker (loseQuantum s w) w) w = wkOf s w := by
    rw [wkOf_drainWorker, (loseQuantum_spec s w).2]
  unfold leaveWorker
  dsimp only
  rw [wkOf_modWk, hrest, hwk]

/-- Of the record alone: the worker has left its state, and the cause and the address are noted. -/
theorem trapped_noted (s : State) (w : Worker) (cause : Byte) (addr : Word) :
    Trapped (wkOf s w) cause (wkOf (modWk (leaveWorker s w .trapped) w fun k => { k with
      faultCause := cause, faultCount := satInc 255 k.faultCount, faultPc := k.pc, faultAddr := addr }) w) := by
  rw [wkOf_modWk, wkOf_leaveWorker]
  exact ⟨rfl, rfl, rfl, rfl, rfl, rfl, rfl⟩

theorem trapped_trapAction {s : State} {w : Worker} {k : WorkerSt} {cause : Byte} (h : Trapped k cause (wkOf s w)) :
    Trapped k cause (wkOf (trapAction s w) w) := by
  unfold trapAction
  dsimp only
  split
  · have hmod : Trapped k cause (wkOf (modWk s w fun k => { k with actDue := false }) w) := by
      rw [wkOf_modWk]
      exact h.due false
    exact hmod.spared (sparesIdle_finalTrap _ w)
  · rw [wkOf_modWk]
    exact h

/-- A fault leaves the worker TRAPPED with the cause and its address recorded, and its registers, accumulators and scratch as they
were. -/
theorem trapped_trapWorker (s : State) (w : Worker) (cause : Byte) (addr : Word) :
    Trapped (wkOf s w) cause (wkOf (trapWorker s w cause addr) w) := by
  have hnoted := trapped_noted s w cause addr
  unfold trapWorker
  dsimp only
  generalize modWk (leaveWorker s w .trapped) w _ = t at hnoted ⊢
  generalize hx : emit t 28 _ _ _ _ _ _ = x
  have htold : Trapped (wkOf s w) cause (wkOf x w) := by
    rw [← hx]
    exact hnoted.spared (sparesIdle_emit ..)
  split
  · have hdue : Trapped (wkOf s w) cause (wkOf (modWk x w fun k => { k with actDue := true }) w) := by
      rw [wkOf_modWk]
      exact htold.due true
    split
    · exact hdue.spared (sparesIdle_yieldStart _)
    · exact hdue
  · exact trapped_trapAction htold

/-- The end of an issue leaves the record of a worker that has trapped. -/
theorem trapped_quantumEnd {s : State} {w : Worker} {k : WorkerSt} {cause : Byte} (h : Trapped k cause (wkOf s w)) :
    Trapped k cause (wkOf (quantumEnd s w) w) := by
  have hst : (wkOf s w).state ≠ .running := by rw [h.1]; exact WkState.noConfusion
  obtain ⟨-, -, hrec⟩ := quantumEnd_spec s w
  rw [quantumEnd_state hst] at hrec
  rw [hrec]
  exact h

/-- An instruction whose effect is a fault traps, if the effect sees the worker as it was issued. -/
theorem traps_of_trapWorker {i : Instr} {s u t : State} {w : Worker} {cause : Byte} {addr : Word} (ht : AtWorker u t w (counted s w))
    (he : exec i s = .next (quantumEnd (trapWorker t w cause addr) w)) : Traps i s w cause := by
  refine ⟨_, he, ?_⟩
  have h := trapped_quantumEnd (trapped_trapWorker t w cause addr)
  rw [ht.record] at h
  exact h

end Sys2Proof.Machine

namespace Sys2Proof.Machine

/-! ## Scheduling instructions (O16) -/

section
variable {s t : State} {w : Worker} {x : TimeWait} {i : Instr}

theorem SameClocks.lateness (h : SameClocks s t) {y : Target} (hy : ∀ n, y ≠ .slot n) : lateness t y = lateness s y := by
  cases y with
  | phase p => rw [Machine.lateness, h.phaseNow, Machine.lateness]
  | net ns => rw [Machine.lateness, h.netNs, Machine.lateness]
  | tick d c => rw [Machine.lateness, h.tickCount, Machine.lateness]
  | dur ns => rw [Machine.lateness, h.clockNs, Machine.lateness]
  | slot n => exact absurd rfl (hy n)

theorem sameClocks_drained (s : State) (w : Worker) : SameClocks s (drained s w) :=
  (sameClocks_drainWorker s w).trans (atWorker_drained s w).clocks

theorem gGet_congr {k k' : WorkerSt} (h : k'.g = k.g) (n : GReg) : gGet k' n = gGet k n := by rw [gGet, h, gGet]
theorem aGet_congr {k k' : WorkerSt} (h : k'.a = k.a) (n : AReg) : aGet k' n = aGet k n := by rw [aGet, h, aGet]
theorem badTriple_congr {k k' : WorkerSt} (h : k'.g = k.g) (n : TReg) : badTriple k' n = badTriple k n := by
  unfold badTriple tripleNs
  rw [gGet_congr h]
theorem tripleCount_congr {k k' : WorkerSt} (h : k'.g = k.g) (n : TReg) : tripleCount k' n = tripleCount k n := by
  simp only [tripleCount, tripleSec, tripleNs, gGet_congr h]

theorem drained_g (s : State) (w : Worker) : (wkOf (drained s w) w).g = (wkOf s w).g := by
  rw [(atWorker_drained s w).record]
  rfl
theorem drained_a (s : State) (w : Worker) : (wkOf (drained s w) w).a = (wkOf s w).a := by
  rw [(atWorker_drained s w).record]
  rfl

/-! ### A scheduled target: ahead, late under RUN and DISCARD, late under NEXT_CYCLE -/

theorem waits_ahead {f : Nat} (he : exec i s = .next (quantumEnd (schedule (drained s w) w x f) w)) (hx : ∀ n, x.target ≠ .slot n)
    (hr : reached s x.target = false) : Waits i s w (drainWorker s w) (wkOf s w) (.time x) := by
  have hr' : reached (drained s w) x.target = false := by rw [(sameClocks_drained s w).reached hx, hr]
  exact ⟨_, he, ((schedule_ahead (atWorker_drained s w) hr').quantumEnd WkState.noConfusion).waiting⟩

theorem waits_nextCycle {f : Nat} (he : exec i s = .next (quantumEnd (schedule (drained s w) w x f) w)) (hx : ∀ n, x.target ≠ .slot n)
    (hr : reached s x.target = true) (hp : policyApplied x.given (targetBase s x.target) = 2) :
    Waits i s w (drainWorker s w) (wkOf s w) (.time
      { x with target := .phase (nextFraction s f), late := some (BitVec.ofNat 64 (lateness s x.target)) }) := by
  have hc := sameClocks_drained s w
  have hr' : reached (drained s w) x.target = true := by rw [hc.reached hx, hr]
  rw [targetBase_oneShot hx s (drained s w)] at hp
  rw [← hc.lateness hx, ← hc.nextFraction]
  exact ⟨_, he, ((schedule_nextCycle (atWorker_drained s w) hx hr' hp).quantumEnd WkState.noConfusion).waiting⟩

theorem releases_late {f : Nat} (he : exec i s = .next (quantumEnd (schedule (drained s w) w x f) w)) (hx : ∀ n, x.target ≠ .slot n)
    (hr : reached s x.target = true) (hp : policyApplied x.given (targetBase s x.target) ≠ 2) :
    Ends i s fun t => t = { Logged (drainWorker s w) t with wk := t.wk, cores := t.cores }
      ∧ (∀ v, v ≠ w → wkOf t v = { wkOf s v with state := (wkOf t v).state })
      ∧ wkOf t w = { wkOf s w with
          pc := (wkOf s w).pc + 4, state := .ready, wait := none, issued := 0, run := (wkOf s w).run + 1, core := (wkOf t w).core
          g := handleRegs x (wkOf s w).g, a := (wkOf s w).a.set x.alat (BitVec.ofNat 64 (lateness s x.target))
          sw := { (wkOf s w).sw with lead := isLead s, late := true, disc := x.given == 1 } } := by
  have hc := sameClocks_drained s w
  have hr' : reached (drained s w) x.target = true := by rw [hc.reached hx, hr]
  rw [targetBase_oneShot hx s (drained s w)] at hp
  obtain ⟨v, hv⟩ := schedule_releases (f := f) (atWorker_drained s w) hx hr' hp
  have hst : ∀ k l d, (releaseTime (block k (.time x)) x (some l) d).state ≠ .running := fun k l d => by
    rw [releaseTime_eq WkState.noConfusion]
    exact WkState.noConfusion
  have h := hv.quantumEnd (hst _ _ _)
  rw [hc.lateness hx] at h
  refine ⟨_, he, h.frame_logged, fun v hv => ?_, h.released⟩
  rw [h.1.2 v hv, wkOf_Logged, wkOf_drainWorker]

/-! ### The instructions as schedules -/

theorem execWaitAt_eq (s1 alat : AReg) (late : BitVec 2) (h : Issues s w) (hd : Drains s w) :
    exec (.waitAt w s1 late alat) s = .next (quantumEnd (schedule (drained s w) w ⟨.phase (aGet (wkOf s w) s1), late, alat, none, none⟩
      ((aGet (wkOf s w) s1).toNat % 16777216)) w) := by
  rw [show exec (.waitAt w s1 late alat) s = issueDrained s w fun s => schedule s w
      ⟨.phase (aGet (wkOf s w) s1), late, alat, none, none⟩ ((aGet (wkOf s w) s1).toNat % 16777216) from rfl,
    issueDrained_eq _ h hd, aGet_congr (drained_a s w)]

theorem execWaitAtt_eq (t1 : TReg) (alat : AReg) (late : BitVec 2) (h : Issues s w) (hd : Drains s w) :
    exec (.waitAtt w t1 late alat) s = .next (quantumEnd (if badTriple (wkOf s w) t1 then trapWorker (drained s w) w 0x06 0
      else schedule (drained s w) w ⟨.net (tripleCount (wkOf s w) t1), late, alat, none, none⟩ 0) w) := by
  rw [show exec (.waitAtt w t1 late alat) s = issueDrained s w fun s => if badTriple (wkOf s w) t1 then trapWorker s w 0x06 0
      else schedule s w ⟨.net (tripleCount (wkOf s w) t1), late, alat, none, none⟩ 0 from rfl,
    issueDrained_eq _ h hd, badTriple_congr (drained_g s w), tripleCount_congr (drained_g s w)]

theorem execWaitDuration_eq (s1 alat : AReg) (h : Issues s w) (hd : Drains s w) :
    exec (.waitDuration w s1 alat) s = .next (quantumEnd (blockOn (drained s w) w
      (.time ⟨.dur (clockNs s + (aGet (wkOf s w) s1).toNat), 0, alat, none, none⟩)) w) := by
  rw [show exec (.waitDuration w s1 alat) s = issueDrained s w fun s => blockOn s w
      (.time ⟨.dur (clockNs s + (aGet (wkOf s w) s1).toNat), 0, alat, none, none⟩) from rfl,
    issueDrained_eq _ h hd, aGet_congr (drained_a s w), (sameClocks_drained s w).clockNs]

theorem execWaitTick_eq (s1 : AReg) (dom : Fin 4) (alat : AReg) (late : BitVec 2) (h : Issues s w) (hd : Drains s w) :
    exec (.waitTick w s1 dom late alat) s = .next (quantumEnd (schedule (drained s w) w
      ⟨.tick dom (aGet (wkOf s w) s1), late, alat, none, none⟩ 0) w) := by
  rw [show exec (.waitTick w s1 dom late alat) s = issueDrained s w fun s => schedule s w
      ⟨.tick dom (aGet (wkOf s w) s1), late, alat, none, none⟩ 0 from rfl,
    issueDrained_eq _ h hd, aGet_congr (drained_a s w)]

theorem waitDuration_waits (s1 alat : AReg) (h : Issues s w) (hd : Drains s w) :
    Waits (.waitDuration w s1 alat) s w (drainWorker s w) (wkOf s w)
      (.time ⟨.dur (clockNs s + (aGet (wkOf s w) s1).toNat), 0, alat, none, none⟩) :=
  ⟨_, execWaitDuration_eq s1 alat h hd, (((atWorker_drained s w).blockOn _).quantumEnd WkState.noConfusion).waiting⟩

theorem waitAtt_badField {t1 : TReg} (alat : AReg) (late : BitVec 2) (h : Issues s w) (hd : Drains s w)
    (hbad : badTriple (wkOf s w) t1 = true) : Traps (.waitAtt w t1 late alat) s w 0x06 := by
  have he := execWaitAtt_eq t1 alat late h hd
  rw [if_pos hbad] at he
  exact traps_of_trapWorker (atWorker_drained s w) he

theorem policyApplied_ne_two {given : BitVec 2} {base : Nat} (h : given ≠ 2 ∨ base ≠ 0) : policyApplied given base ≠ 2 := by
  unfold policyApplied
  split
  · decide
  · rw [if_neg (by rwa [not_and_or])]
    decide

/-! ### ACTION_DUE (R66, R67) -/

theorem timeWaitOf_waiting {k : WorkerSt} (hst : k.state = .waiting) (hw : k.wait = some (.time x)) : timeWaitOf k = some x := by
  simp [timeWaitOf, waitOf, hst, hw]

theorem timeWaitOf_ready {k : WorkerSt} (h : k.state = .ready) : timeWaitOf k = none := by simp [timeWaitOf, waitOf, h]

/-- An action that comes due leaves the clocks, and of the workers changes its own alone. -/
theorem runAction_frame (s : State) (v : Worker) (y : TimeWait) (late : Option Nat) (disc : Bool) :
    SameClocks s (runAction s v y late disc) ∧ (∀ w, w ≠ v → wkOf (runAction s v y late disc) w = wkOf s w)
      ∧ wkOf (runAction s v y late disc) v = releaseTime (wkOf s v) y late disc := by
  obtain ⟨u, hu⟩ := onlyLogs_dueEvent s v y late
  have hwk : ∀ w, wkOf (consumeSlot (Logged s u) y.target) w = wkOf s w := fun w => by
    unfold consumeSlot
    split <;> rfl
  have hc : SameClocks s (consumeSlot (Logged s u) y.target) := by
    unfold consumeSlot
    split <;> exact ⟨rfl, rfl, rfl⟩
  rw [runAction, hu]
  refine ⟨hc, fun w hw => ?_, ?_⟩
  · rw [wkOf_modWk_ne _ _ _ _ hw, hwk]
  · rw [wkOf_modWk, hwk]

theorem dueNow_frame (s : State) (v : Worker) :
    SameClocks s (dueNow s v) ∧ ∀ w, w ≠ v → wkOf (dueNow s v) w = wkOf s w := by
  unfold dueNow
  split
  · split
    · exact ⟨(runAction_frame ..).1, (runAction_frame ..).2.1⟩
    · exact ⟨.refl s, fun _ _ => rfl⟩
  · exact ⟨.refl s, fun _ _ => rfl⟩

theorem dueNow_ready {v : Worker} {y : TimeWait} (hst : (wkOf s v).state = .waiting) (hw : (wkOf s v).wait = some (.time y))
    (hr : reached s y.target = true) : (wkOf (dueNow s v) v).state = .ready := by
  have hq : (wkOf s v).state ≠ .quiesced := by rw [hst]; exact WkState.noConfusion
  simp only [dueNow, timeWaitOf_waiting hst hw, hr, if_true]
  rw [(runAction_frame ..).2.2, releaseTime_eq hq]

/-- At place `n` of R67's order no worker changes whose place is another one. -/
theorem dueAt_frame (s : State) (n : Nat) : SameClocks s (dueAt s n)
    ∧ ∀ w, (∀ y, timeWaitOf (wkOf s w) = some y → dueRank w y ≠ n) → wkOf (dueAt s n) w = wkOf s w := by
  unfold dueAt
  split
  · next v _ =>
    split
    · next hany =>
      refine ⟨(dueNow_frame s v).1, fun w hw => (dueNow_frame s v).2 w fun hwv => ?_⟩
      subst hwv
      cases hy : timeWaitOf (wkOf s w) with
      | none => simp [hy] at hany
      | some y => exact hw y hy (by simpa [hy] using hany)
    · exact ⟨.refl s, fun _ _ => rfl⟩
  · exact ⟨.refl s, fun _ _ => rfl⟩

theorem dueAt_ready {v : Worker} {y : TimeWait} (hst : (wkOf s v).state = .waiting) (hw : (wkOf s v).wait = some (.time y))
    (hslot : y.slot = none) (hr : reached s y.target = true) : (wkOf (dueAt s v.val) v).state = .ready := by
  have hown : rankOwner s v.val = some v := by simp [rankOwner]
  have hany : (timeWaitOf (wkOf s v)).any (fun t => dueRank v t == v.val) = true := by
    simp [timeWaitOf_waiting hst hw, dueRank, hslot]
  simp only [dueAt, hown, hany, if_true]
  exact dueNow_ready hst hw hr

theorem dueBefore_succ (s : State) (n : Nat) : dueBefore s (n + 1) = dueAt (dueBefore s n) n := by
  simp [dueBefore, List.range_succ]

theorem dueBefore_frame (s : State) (n : Nat) : SameClocks s (dueBefore s n)
    ∧ ∀ w, (∀ y, timeWaitOf (wkOf s w) = some y → n ≤ dueRank w y) → wkOf (dueBefore s n) w = wkOf s w := by
  induction n with
  | zero => exact ⟨.refl s, fun _ _ => rfl⟩
  | succ n ih =>
    obtain ⟨hc, hwk⟩ := ih
    obtain ⟨hc', hwk'⟩ := dueAt_frame (dueBefore s n) n
    rw [dueBefore_succ]
    refine ⟨hc.trans hc', fun w hw => ?_⟩
    have hsame := hwk w fun y hy => (Nat.le_succ n).trans (hw y hy)
    rw [hwk' w fun y hy => ?_, hsame]
    rw [hsame] at hy
    exact (Nat.lt_of_succ_le (hw y hy)).ne'

/-- A one-shot action that is reached has come due once its place has been passed. -/
theorem dueBefore_ready {v : Worker} {y : TimeWait} (hst : (wkOf s v).state = .waiting) (hw : (wkOf s v).wait = some (.time y))
    (hslot : y.slot = none) (hy : ∀ n, y.target ≠ .slot n) (hr : reached s y.target = true) {n : Nat} (hn : v.val < n) :
    (wkOf (dueBefore s n) v).state = .ready := by
  induction n with
  | zero => exact absurd hn (Nat.not_lt_zero _)
  | succ n ih =>
    rw [dueBefore_succ]
    rcases Nat.lt_succ_iff_lt_or_eq.mp hn with hlt | heq
    · have hready := ih hlt
      rw [(dueAt_frame _ n).2 v fun z hz => by simp [timeWaitOf_ready hready] at hz]
      exact hready
    · obtain ⟨hc, hwk⟩ := dueBefore_frame s n
      have hsame := hwk v fun z hz => by
        rw [timeWaitOf_waiting hst hw, Option.some.injEq] at hz
        rw [← hz, dueRank, hslot, heq]
      subst heq
      exact dueAt_ready (by rw [hsame, hst]) (by rw [hsame, hw]) hslot (by rw [hc.reached hy, hr])

theorem execActionDue_eq (hrun : Running s) (hst : (wkOf s w).state = .waiting) (hw : (wkOf s w).wait = some (.time x))
    (hr : reached s x.target = true) : exec (.actionDue w) s = .next (dueNow (dueBefore s (dueRank w x)) w) := by
  rw [show exec (.actionDue w) s = run s fun s => actionDue s w from rfl, run_running _ hrun]
  simp only [actionDue, timeWaitOf_waiting hst hw, hr, if_true]

/-- Before its place the worker's own action has not come due. -/
theorem dueBefore_self (hst : (wkOf s w).state = .waiting) (hw : (wkOf s w).wait = some (.time x)) :
    wkOf (dueBefore s (dueRank w x)) w = wkOf s w :=
  (dueBefore_frame s _).2 w fun y hy => by
    rw [timeWaitOf_waiting hst hw, Option.some.injEq] at hy
    rw [hy]

theorem le_dueRank (w : Worker) (x : TimeWait) : w.val ≤ dueRank w x := by
  unfold dueRank
  split <;> omega

/-- Where no action that is reached stands before place `n`, none comes due before it. -/
theorem dueBefore_eq_self {n : Nat} (h : ∀ v y, timeWaitOf (wkOf s v) = some y → reached s y.target = true → n ≤ dueRank v y) :
    dueBefore s n = s := by
  have hat : ∀ m, m < n → dueAt s m = s := fun m hm => by
    unfold dueAt
    split
    · next v _ =>
      cases hv : timeWaitOf (wkOf s v) with
      | none => rfl
      | some y =>
        by_cases hrank : dueRank v y = m
        · have hno : ¬(reached s y.target = true) := fun hr => absurd (h v y hv hr) (by omega)
          simp [hrank, dueNow, hv, hno]
        · simp [hrank]
    · rfl
  induction n with
  | zero => rfl
  | succ n ih =>
    rw [dueBefore_succ, ih (fun v y hv hr => (Nat.le_succ n).trans (h v y hv hr)) fun m hm => hat m (hm.trans (Nat.lt_succ_self n)),
      hat n (Nat.lt_succ_self n)]

/-- The record of a worker whose action comes due, with the lateness noted before. -/
theorem releaseTime_due {k : WorkerSt} (hk : k.state ≠ .quiesced) (x : TimeWait) :
    releaseTime k x (x.late.map BitVec.toNat) false = { k with
      state := .ready, wait := none, issued := 0
      a := k.a.set x.alat (match x.late with
        | some l => l
        | none => 0)
      g := handleRegs x k.g, sw := { k.sw with late := x.late.isSome, disc := false } } := by
  rw [releaseTime_eq hk]
  cases hl : x.late with
  | none => rfl
  | some l => simp

/-- The slots with the occurrence of a target consumed (R128). -/
def consumed (s : State) (y : Target) : Vector (Option Slot) 64 :=
  match y with
  | .slot n => s.slots.set n ((s.slots[n]).map fun z => { z with next := z.next + z.interval })
  | _ => s.slots

theorem consumeSlot_eq (s : State) (y : Target) : consumeSlot s y = { s with slots := consumed s y } := by
  cases y <;> rfl

theorem actionDue_alone (hrun : Running s) (hst : (wkOf s w).state = .waiting) (hw : (wkOf s w).wait = some (.time x))
    (hr : reached s x.target = true)
    (hfirst : ∀ v y, timeWaitOf (wkOf s v) = some y → reached s y.target = true → dueRank w x ≤ dueRank v y) :
    ∃ u, exec (.actionDue w) s = .next (setWk { Logged s u with slots := consumed s x.target } w
      (releaseTime (wkOf s w) x (x.late.map BitVec.toNat) false)) := by
  obtain ⟨u, hu⟩ := onlyLogs_dueEvent s w x (x.late.map BitVec.toNat)
  refine ⟨u, ?_⟩
  rw [execActionDue_eq hrun hst hw hr, dueBefore_eq_self hfirst]
  simp only [dueNow, timeWaitOf_waiting hst hw, hr, if_true]
  rw [runAction, hu, consumeSlot_eq]
  rfl

theorem actionDue_ready (hrun : Running s) (hst : (wkOf s w).state = .waiting) (hw : (wkOf s w).wait = some (.time x))
    (hr : reached s x.target = true) (hx : ∀ n, x.target ≠ .slot n) : Ends (.actionDue w) s fun t => (wkOf t w).state = .ready
      ∧ ∀ v < w, ∀ y, (wkOf s v).state = .waiting → (wkOf s v).wait = some (.time y) → y.slot = none →
        (∀ n, y.target ≠ .slot n) → reached s y.target = true → (wkOf t v).state = .ready := by
  have hself := dueBefore_self hst hw
  refine ⟨_, execActionDue_eq hrun hst hw hr, ?_, fun v hv y hst' hw' hslot hy hr' => ?_⟩
  · exact dueNow_ready (by rw [hself, hst]) (by rw [hself, hw]) (by rw [(dueBefore_frame s _).1.reached hx, hr])
  · rw [(dueNow_frame _ w).2 v hv.ne]
    exact dueBefore_ready hst' hw' hslot hy hr' ((Fin.lt_def.mp hv).trans_le (le_dueRank w x))

end

end Sys2Proof.Machine

namespace Sys2Proof
open Machine

/-- Settles O16: each instruction is one schedule of the state with the stores complete, and what comes due before an action is what
stands before it in R67's order. -/
theorem schedule : Obligations.Schedule := by
  unfold Obligations.Schedule
  intro s w s1 t1 late alat dom
  dsimp only
  refine ⟨fun h hd => ⟨fun hn => ?_, fun hn hl => ?_, fun hn hl => ?_, fun hok hn => ?_, fun hok hn => ?_, fun hbad => ?_,
    waitDuration_waits s1 alat h hd, fun hn => ?_, fun hn => ?_⟩, fun x hrun hst hw hr => ⟨fun hx => ?_, fun hfirst => ?_⟩⟩
  · exact waits_ahead (execWaitAt_eq s1 alat late h hd) (fun _ => Target.noConfusion) (by simpa [reached] using hn)
  · exact releases_late (execWaitAt_eq s1 alat late h hd) (fun _ => Target.noConfusion) (by simpa [reached] using hn)
      (policyApplied_ne_two (.inl hl))
  · exact waits_nextCycle (execWaitAt_eq s1 alat late h hd) (fun _ => Target.noConfusion) (by simpa [reached] using hn)
      (by simp [policyApplied, hl, targetBase])
  · have he := execWaitAtt_eq t1 alat late h hd
    rw [hok, if_neg Bool.false_ne_true] at he
    exact waits_ahead he (fun _ => Target.noConfusion) (by simpa [reached] using hn)
  · have he := execWaitAtt_eq t1 alat late h hd
    rw [hok, if_neg Bool.false_ne_true] at he
    exact releases_late he (fun _ => Target.noConfusion) (by simpa [reached] using hn) (policyApplied_ne_two (.inr Nat.one_ne_zero))
  · exact waitAtt_badField alat late h hd hbad
  · exact waits_ahead (execWaitTick_eq s1 dom alat late h hd) (fun _ => Target.noConfusion) (by simpa [reached] using hn)
  · exact releases_late (execWaitTick_eq s1 dom alat late h hd) (fun _ => Target.noConfusion) (by simpa [reached] using hn)
      (policyApplied_ne_two (.inr (Nat.succ_ne_zero 1)))
  · exact actionDue_ready hrun hst hw hr hx
  · obtain ⟨u, hu⟩ := actionDue_alone hrun hst hw hr hfirst
    have hq : (wkOf s w).state ≠ .quiesced := by rw [hst]; exact WkState.noConfusion
    rw [releaseTime_due hq] at hu
    exact ⟨_, hu, rfl⟩

end Sys2Proof

namespace Sys2Proof.Machine

/-! ## Periodic slots: EVERY and its CANCEL (O17) -/

section
variable {s t : State} {w : Worker} {d : GReg} {n : Fin 64} {late : BitVec 2} {alat : AReg} {x : Slot} {g : Vector Word 32}
  {c : ClampSt} {i : Instr}

/-! ### The slot that a handle names, and the free slot (R65, R128) -/

/-- The handle names slot `m`, which the worker holds. -/
def Held (s : State) (w : Worker) (handle : Word) (m : Fin 64) : Prop :=
  handle.toNat % 128 = m.val + 1 ∧ ∃ x, s.slots[m] = some x ∧ x.owner = w

/-- Slot `n` is the lowest free one. -/
def LowestFree (s : State) (n : Fin 64) : Prop := s.slots[n] = none ∧ ∀ m : Fin 64, m < n → s.slots[m] ≠ none

theorem heldSlot_eq (s : State) (w : Worker) (handle : Word) : heldSlot s w handle = (List.finRange 64).find? fun m =>
    decide (handle.toNat % 128 = m.val + 1) && (s.slots[m]).any fun x => x.owner == w := by
  unfold heldSlot
  congr 1
  funext m
  cases s.slots[m] <;> rfl

theorem held_iff (s : State) (w : Worker) (handle : Word) (m : Fin 64) :
    (decide (handle.toNat % 128 = m.val + 1) && (s.slots[m]).any fun x => x.owner == w) = true ↔ Held s w handle m := by
  rw [Held, Bool.and_eq_true, decide_eq_true_eq, Option.any_eq_true]
  simp only [beq_iff_eq]

theorem heldSlot_eq_none {handle : Word} (h : ∀ m, ¬Held s w handle m) : heldSlot s w handle = none := by
  rw [heldSlot_eq]
  exact List.find?_eq_none.mpr fun m _ hm => h m ((held_iff s w handle m).mp hm)

/-- A handle names one slot at most. -/
theorem heldSlot_of_held {handle : Word} (h : Held s w handle n) : heldSlot s w handle = some n := by
  rw [heldSlot_eq]
  cases hf : List.find? _ (List.finRange 64) with
  | none => exact absurd ((held_iff s w handle n).mpr h) (List.find?_eq_none.mp hf n (List.mem_finRange n))
  | some m =>
    have hfound := List.find?_some hf
    obtain ⟨hm, -⟩ := (held_iff s w handle m).mp hfound
    obtain ⟨hn, -⟩ := h
    exact congrArg some (Fin.ext (by omega))

theorem freeSlot_eq_some (h : LowestFree s n) : freeSlot s = some n := by
  obtain ⟨hn, hlow⟩ := h
  refine List.find?_eq_some_iff_getElem.mpr ⟨by rw [hn]; rfl, n.val, by simp, by simp, fun j hj => ?_⟩
  simpa [Option.isSome_iff_ne_none] using hlow ⟨j, hj.trans n.isLt⟩ hj

theorem freeSlot_eq_none (h : ∀ m : Fin 64, s.slots[m] ≠ none) : freeSlot s = none :=
  List.find?_eq_none.mpr fun m _ hm => h m (Option.isNone_iff_eq_none.mp hm)

theorem heldSlot_congr (h : t.slots = s.slots) (handle : Word) : heldSlot t w handle = heldSlot s w handle := by
  rw [heldSlot, h, heldSlot]

theorem freeSlot_congr (h : t.slots = s.slots) : freeSlot t = freeSlot s := by rw [freeSlot, h, freeSlot]

/-! ### The state beside the worker -/

theorem drainWorker_slots (s : State) (w : Worker) : (drainWorker s w).slots = s.slots := by
  obtain ⟨e, hs⟩ := drainWorker_eq s w
  rw [hs]

theorem drainWorker_folio (s : State) (w : Worker) : (drainWorker s w).folio = s.folio := by
  obtain ⟨e, hs⟩ := drainWorker_eq s w
  rw [hs]

/-- `s` with the worker's posted stores complete, slot `n` as `x` and the clamp report as `c`. -/
def everyBase (s : State) (w : Worker) (n : Fin 64) (c : ClampSt) (x : Slot) : State :=
  { drainWorker s w with slots := s.slots.set n (some x), folio := { s.folio with clamp := c } }

theorem sameClocks_everyBase (s : State) (w : Worker) (n : Fin 64) (c : ClampSt) (x : Slot) : SameClocks s (everyBase s w n c x) :=
  sameClocks_drainWorker s w

theorem everyBase_set (s : State) (w : Worker) (n : Fin 64) (c : ClampSt) (x y : Slot) :
    { everyBase s w n c x with slots := (everyBase s w n c x).slots.set n (some y) } = everyBase s w n c y := by
  simp only [everyBase, Vector.set_set]

/-- A held slot: the state beside the worker is that with the stores complete. -/
theorem everyBase_held (hx : s.slots[n] = some x) : everyBase s w n s.folio.clamp x = drainWorker s w := by
  have hset : s.slots.set n (some x) = s.slots := by rw [← hx]; exact Vector.set_getElem_self n.isLt
  rw [everyBase, hset, ← drainWorker_slots s w, ← drainWorker_folio s w]

/-! ### Waiting on the slot, or what is reached of it (R128) -/

/-- The time on a slot's base. -/
def slotNow (s : State) (net : Bool) : Nat := if net then netNs s else (phaseNow s).toNat

/-- The occurrences reached beyond one, and the last of those reached. -/
def slotPast (s : State) (x : Slot) : Nat := (slotNow s x.net - x.next) / x.interval
def slotLast (s : State) (x : Slot) : Nat := x.next + slotPast s x * x.interval

/-- The slot with every reached occurrence consumed. -/
def slotConsumed (s : State) (x : Slot) : Slot := { x with next := slotLast s x + x.interval }

/-- An occurrence as a one-shot target of the slot's base. -/
def slotTarget (x : Slot) (last : Nat) : Target := if x.net then .net last else .phase (BitVec.ofNat 64 last)

/-- The handle of slot `n`, which counts the occurrences consumed beyond one (R128). -/
def slotHandle (n : Fin 64) (past : Nat) : Word := BitVec.ofNat 32 (min past 0xFFFF * 65536 + n.val + 1)

theorem word_slotHandle (n : Fin 64) : word (n.val + 1) = slotHandle n 0 := by simp [word, slotHandle]

theorem slotTarget_ne (x : Slot) (last : Nat) (m : Fin 64) : slotTarget x last ≠ .slot m := by
  unfold slotTarget
  split <;> exact Target.noConfusion

theorem SameClocks.slotNow (h : SameClocks s t) (net : Bool) : slotNow t net = slotNow s net := by
  rw [Machine.slotNow, h.netNs, h.phaseNow, Machine.slotNow]

theorem SameClocks.slotPast (h : SameClocks s t) (x : Slot) : slotPast t x = slotPast s x := by
  rw [Machine.slotPast, h.slotNow, Machine.slotPast]

theorem SameClocks.slotLast (h : SameClocks s t) (x : Slot) : slotLast t x = slotLast s x := by
  rw [Machine.slotLast, h.slotPast, Machine.slotLast]

theorem SameClocks.slotConsumed (h : SameClocks s t) (x : Slot) : slotConsumed t x = slotConsumed s x := by
  rw [Machine.slotConsumed, h.slotLast, Machine.slotConsumed]

theorem slotLast_le (hr : x.next ≤ slotNow s x.net) : slotLast s x ≤ slotNow s x.net := by
  have hmul := Nat.div_mul_le_self (slotNow s x.net - x.next) x.interval
  unfold slotLast slotPast
  omega

theorem toNat_slotLast (hnet : x.net = false) (hr : x.next ≤ slotNow s x.net) : (BitVec.ofNat 64 (slotLast s x)).toNat = slotLast s x := by
  have hle := slotLast_le hr
  have hlt := (phaseNow s).isLt
  rw [slotNow, hnet, if_neg Bool.false_ne_true] at hle
  rw [BitVec.toNat_ofNat, Nat.mod_eq_of_lt (hle.trans_lt hlt)]

/-- The action that EVERY schedules on what is reached of its slot. -/
def everyAction (s : State) (d : GReg) (n : Fin 64) (late : BitVec 2) (alat : AReg) (x : Slot) : TimeWait :=
  ⟨slotTarget x (slotLast s x), late, alat, none, some (n, d, slotPast s x)⟩

theorem everyAction_ne (m : Fin 64) : (everyAction s d n late alat x).target ≠ .slot m := slotTarget_ne x _ m

theorem reached_everyAction (hr : x.next ≤ slotNow s x.net) : reached s (everyAction s d n late alat x).target = true := by
  have hle := slotLast_le hr
  cases hnet : x.net with
  | true => simpa [everyAction, slotTarget, reached, slotNow, hnet] using hle
  | false =>
    have hlast := toNat_slotLast hnet hr
    simpa [everyAction, slotTarget, reached, slotNow, hnet, hlast, -BitVec.toNat_ofNat] using hle

theorem lateness_everyAction (hr : x.next ≤ slotNow s x.net) :
    lateness s (everyAction s d n late alat x).target = slotNow s x.net - slotLast s x := by
  cases hnet : x.net with
  | true => simp [everyAction, slotTarget, lateness, slotNow, hnet]
  | false =>
    have hlast := toNat_slotLast hnet hr
    simp [everyAction, slotTarget, lateness, slotNow, hnet, hlast, -BitVec.toNat_ofNat]

theorem targetBase_everyAction : targetBase t (everyAction s d n late alat x).target = if x.net then 1 else 0 := by
  cases hnet : x.net <;> simp [everyAction, slotTarget, targetBase, hnet]

theorem handleRegs_everyAction : handleRegs (everyAction s d n late alat x) g = gWrite g d (slotHandle n (slotPast s x)) := rfl

theorem SameClocks.everyAction (h : SameClocks s t) (x : Slot) :
    everyAction t d n late alat x = everyAction s d n late alat x := by
  rw [Machine.everyAction, h.slotLast, h.slotPast, Machine.everyAction]

theorem everyWait_ahead (hx : t.slots[n] = some x) (hn : slotNow t x.net < x.next) :
    everyWait t w d n late alat = blockOn t w (.time ⟨.slot n, late, alat, none, some (n, d, 0)⟩) := by
  rw [slotNow] at hn
  simp only [everyWait, hx, hn, if_true]

theorem everyWait_reached (hx : t.slots[n] = some x) (hr : x.next ≤ slotNow t x.net) : everyWait t w d n late alat =
    schedule { t with slots := t.slots.set n (some (slotConsumed t x)) } w (everyAction t d n late alat x) (slotLast t x % 16777216) := by
  have hnext : x.next + (slotPast t x + 1) * x.interval = slotLast t x + x.interval := by
    rw [slotLast, Nat.add_mul, Nat.one_mul, Nat.add_assoc]
  have hnot : ¬(slotNow t x.net < x.next) := Nat.not_lt.mpr hr
  rw [slotNow] at hnot
  simp only [slotConsumed, ← hnext]
  simp only [everyWait, hx, hnot, if_false, Nat.add_sub_cancel]
  rfl

end

end Sys2Proof.Machine

namespace Sys2Proof.Machine

section
variable {s t : State} {w : Worker} {d : GReg} {n : Fin 64} {late : BitVec 2} {alat : AReg} {x : Slot} {g : Vector Word 32}
  {c : ClampSt} {i : Instr}

/-! ### How EVERY goes on with its slot (R128) -/

/-- The state beside the worker, with the events and the clamp report of `t`. -/
def everyFrame (s : State) (w : Worker) (n : Fin 64) (t : State) (x : Slot) : State :=
  { Logged (drainWorker s w) t with slots := s.slots.set n (some x), folio := { s.folio with clamp := t.folio.clamp } }

/-- The command completes by waiting on `y`, with slot `n` as `x` and general registers `g`. -/
def EveryWaits (i : Instr) (s : State) (w : Worker) (n : Fin 64) (g : Vector Word 32) (x : Slot) (y : TimeWait) : Prop :=
  Ends i s fun t => OnlyWorker (everyFrame s w n t x) t w ∧ (wkOf t w).state = .waiting
    ∧ WorkerIs s t w { wkOf s w with pc := (wkOf s w).pc + 4, g := g, wait := some (.time y) }

/-- The command completes with the worker released late, every reached occurrence of slot `n` consumed. -/
def EveryReleases (i : Instr) (s : State) (w : Worker) (d : GReg) (n : Fin 64) (late : BitVec 2) (alat : AReg) (x : Slot) : Prop :=
  Ends i s fun t => OnlyWorker (everyFrame s w n t (slotConsumed s x)) t w ∧ wkOf t w = { wkOf s w with
    pc := (wkOf s w).pc + 4, state := .ready, wait := none, issued := 0, run := (wkOf s w).run + 1, core := (wkOf t w).core
    g := gWrite (wkOf s w).g d (slotHandle n (slotPast s x))
    a := (wkOf s w).a.set alat (BitVec.ofNat 64 (slotNow s x.net - slotLast s x))
    sw := { (wkOf s w).sw with lead := isLead s, late := true, disc := late == 1 } }

/-- The command goes on with slot `n`, which is `x`, and general registers `g`. -/
def EveryGoes (i : Instr) (s : State) (w : Worker) (d : GReg) (n : Fin 64) (late : BitVec 2) (alat : AReg) (x : Slot)
    (g : Vector Word 32) : Prop :=
  (slotNow s x.net < x.next → EveryWaits i s w n g x ⟨.slot n, late, alat, none, some (n, d, 0)⟩)
    ∧ (x.next ≤ slotNow s x.net → late = 2 → x.net = false → EveryWaits i s w n g (slotConsumed s x)
        ⟨.phase (nextFraction s (slotLast s x % 2 ^ 24)), late, alat, some (BitVec.ofNat 64 (slotNow s x.net - slotLast s x)),
          some (n, d, slotPast s x)⟩)
    ∧ (x.next ≤ slotNow s x.net → late ≠ 2 ∨ x.net = true → EveryReleases i s w d n late alat x)

theorem AtWorker.onlyEvery {v : State} {k : WorkerSt} (h : AtWorker (Logged (everyBase s w n c x) v) t w k) :
    OnlyWorker (everyFrame s w n t x) t w := by
  have hclamp : t.folio.clamp = c := by rw [h.frame]; rfl
  refine ⟨?_, fun v hv => h.1.2 v hv⟩
  rw [everyFrame, hclamp]
  exact h.frame_logged

theorem EveryWaits.of_atWorker {y : TimeWait} (he : exec i s = .next t)
    (h : AtWorker (everyBase s w n c x) t w (block { counted s w with g := g } (.time y))) : EveryWaits i s w n g x y := by
  obtain ⟨-, hst, hrec⟩ := h.waiting
  have hlog : AtWorker (Logged (everyBase s w n c x) (everyBase s w n c x)) t w (block { counted s w with g := g } (.time y)) := h
  exact ⟨t, he, hlog.onlyEvery, hst, hrec⟩

section
variable (ht : AtWorker (everyBase s w n c x) t w { counted s w with g := g })
  (he : exec i s = .next (quantumEnd (everyWait t w d n late alat) w))
include ht

theorem clocks_of_everyBase : SameClocks s t := (sameClocks_everyBase s w n c x).trans ht.clocks

theorem slot_of_everyBase : t.slots[n] = some x := by
  have h := ht.slots
  rw [everyBase] at h
  rw [h]
  exact Vector.getElem_set_self n.isLt

/-- The worker's state with every reached occurrence consumed. -/
theorem atWorker_consumed : AtWorker (everyBase s w n c (slotConsumed s x))
    { t with slots := t.slots.set n (some (slotConsumed s x)) } w { counted s w with g := g } := by
  have h := ht.map (fun s' => { s' with slots := s'.slots.set n (some (slotConsumed s x)) }) (fun _ => rfl) (fun _ => rfl)
    fun _ _ _ => rfl
  dsimp only at h
  rwa [everyBase_set] at h

include he

theorem every_ahead (hn : slotNow s x.net < x.next) :
    EveryWaits i s w n g x ⟨.slot n, late, alat, none, some (n, d, 0)⟩ := by
  rw [everyWait_ahead (slot_of_everyBase ht) (by rwa [(clocks_of_everyBase ht).slotNow])] at he
  exact .of_atWorker he ((ht.blockOn _).quantumEnd WkState.noConfusion)

/-- With an occurrence reached, EVERY schedules the last one on the slot with all of them consumed. -/
theorem exec_every_reached (hr : x.next ≤ slotNow s x.net) : exec i s = .next (quantumEnd (schedule
    { t with slots := t.slots.set n (some (slotConsumed s x)) } w (everyAction s d n late alat x) (slotLast s x % 2 ^ 24)) w) := by
  have hc := clocks_of_everyBase ht
  rw [everyWait_reached (slot_of_everyBase ht) (by rwa [hc.slotNow]), hc.everyAction, hc.slotConsumed, hc.slotLast] at he
  exact he

theorem every_nextCycle (hr : x.next ≤ slotNow s x.net) (hl : late = 2) (hnet : x.net = false) :
    EveryWaits i s w n g (slotConsumed s x) ⟨.phase (nextFraction s (slotLast s x % 2 ^ 24)), late, alat,
      some (BitVec.ofNat 64 (slotNow s x.net - slotLast s x)), some (n, d, slotPast s x)⟩ := by
  have ht' := atWorker_consumed ht
  have hc := clocks_of_everyBase ht'
  have h := schedule_nextCycle (x := everyAction s d n late alat x) (f := slotLast s x % 2 ^ 24) ht' everyAction_ne
    (by rw [hc.reached everyAction_ne, reached_everyAction hr]) (by rw [targetBase_everyAction, hnet, everyAction, hl]; rfl)
  rw [hc.lateness everyAction_ne, lateness_everyAction hr, hc.nextFraction] at h
  exact .of_atWorker (exec_every_reached ht he hr) (h.quantumEnd WkState.noConfusion)

theorem every_releases (hg : ∀ v, gWrite g d v = gWrite (wkOf s w).g d v) (hr : x.next ≤ slotNow s x.net)
    (hl : late ≠ 2 ∨ x.net = true) : EveryReleases i s w d n late alat x := by
  have ht' := atWorker_consumed ht
  have hc := clocks_of_everyBase ht'
  have hbase : late ≠ 2 ∨ (if x.net then 1 else 0) ≠ 0 := hl.imp_right fun hnet => by rw [hnet]; decide
  obtain ⟨v, h⟩ := schedule_releases (x := everyAction s d n late alat x) (f := slotLast s x % 2 ^ 24) ht' everyAction_ne
    (by rw [hc.reached everyAction_ne, reached_everyAction hr]) (by rw [targetBase_everyAction]; exact policyApplied_ne_two hbase)
  rw [hc.lateness everyAction_ne, lateness_everyAction hr] at h
  have hend := h.quantumEnd (by rw [releaseTime_eq WkState.noConfusion]; exact WkState.noConfusion)
  have hrec := hend.released
  rw [handleRegs_everyAction, hg] at hrec
  exact ⟨_, exec_every_reached ht he hr, hend.onlyEvery, hrec⟩

/-- EVERY on its slot: the three outcomes of R128. -/
theorem everyGoes (hg : ∀ v, gWrite g d v = gWrite (wkOf s w).g d v) : EveryGoes i s w d n late alat x g :=
  ⟨every_ahead ht he, every_nextCycle ht he, every_releases ht he hg⟩

end

end

end Sys2Proof.Machine

namespace Sys2Proof.Machine

section
variable {s t u : State} {w : Worker} {d : GReg} {n : Fin 64} {late : BitVec 2} {alat : AReg} {s1 s2 : AReg} {t1 : TReg}
  {f : EveryFirst} {x : Slot}

/-! ### Taking a slot (R128, R129) -/

theorem clampNat_eq {lo hi : Nat} (h : lo ≤ hi) (v : Nat) : clampNat lo hi v = max lo (min v hi) := by
  unfold clampNat
  split
  · omega
  · split <;> omega

theorem clampOperand_eq (s : State) (w : Worker) (given applied : Nat) (reason : Byte) :
    ∃ c, clampOperand s w given applied reason = { s with folio := { s.folio with clamp := c } } := ⟨_, rfl⟩

/-- A new schedule's slot (R129). -/
def newSlot (w : Worker) (net : Bool) (first interval : Nat) : Slot :=
  ⟨w, net, first, if net then max 100000 (min interval 86400000000000) else max 65536 (min interval 281474976710656)⟩

theorem newSlot_eq (w : Worker) (net : Bool) (first interval : Nat) :
    newSlot w net first interval = ⟨w, net, first, clampNat (intervalMin net) (intervalMax net) interval⟩ := by
  have hbounds : intervalMin net ≤ intervalMax net := by cases net <;> decide
  rw [clampNat_eq hbounds]
  cases net <;> rfl

/-- The report of an interval that was set to a bound, beside the worker. -/
theorem atWorker_clamped (s : State) (w : Worker) (given applied : Nat) (reason : Byte) : ∃ c,
    AtWorker { drainWorker s w with folio := { s.folio with clamp := c } }
      (if applied = given then drained s w else clampOperand (drained s w) w given applied reason) w (counted s w) := by
  have h := atWorker_drained s w
  have hfolio := drainWorker_folio s w
  split
  · refine ⟨s.folio.clamp, ?_⟩
    rw [← hfolio]
    exact h
  · obtain ⟨c, hc⟩ := clampOperand_eq (drained s w) w given applied reason
    refine ⟨c, ?_⟩
    rw [hc, ← hfolio]
    exact h.map (fun s' => { s' with folio := { s'.folio with clamp := c } }) (fun _ => rfl) (fun _ => rfl) fun _ _ _ => rfl

theorem atWorker_takeSlot (s : State) (w : Worker) (d : GReg) (n : Fin 64) (net : Bool) (first interval : Nat) : ∃ c,
    AtWorker (everyBase s w n c (newSlot w net first interval)) (takeSlot (drained s w) w d n net first interval) w
      { counted s w with g := gWrite (wkOf s w).g d (slotHandle n 0) } := by
  obtain ⟨c, hc⟩ := atWorker_clamped s w interval (clampNat (intervalMin net) (intervalMax net) interval)
    (if interval < clampNat (intervalMin net) (intervalMax net) interval then 0x02 else 0x03)
  refine ⟨c, ?_⟩
  have hmap := hc.map (fun s' => { s' with slots := s'.slots.set n (some (newSlot w net first interval)) }) (fun _ => rfl)
    (fun _ => rfl) fun _ _ _ => rfl
  have hset := hmap.modWk (fun k => gSet k d (word (n.val + 1))) fun k e => by simp only [gSet_eq]
  rw [gSet_eq, word_slotHandle] at hset
  rw [takeSlot, everyBase, ← drainWorker_slots s w, ← newSlot_eq, word_slotHandle]
  exact hset

/-! ### The instruction, case by case -/

theorem drained_slots (s : State) (w : Worker) : (drained s w).slots = s.slots := by
  rw [(atWorker_drained s w).slots, drainWorker_slots]

theorem heldSlot_drained (s : State) (w : Worker) (d : GReg) :
    heldSlot (drained s w) w (gGet (wkOf (drained s w) w) d) = heldSlot s w (gGet (wkOf s w) d) := by
  rw [heldSlot_congr (drained_slots s w), gGet_congr (drained_g s w)]

theorem execEvery_held (h : Issues s w) (hd : Drains s w) (hh : Held s w (gGet (wkOf s w) d) n) :
    exec (.every w d f s2 late alat) s = .next (quantumEnd (everyWait (drained s w) w d n late alat) w) := by
  rw [show exec (.every w d f s2 late alat) s = execEvery w d f s2 late alat s from rfl, execEvery, issueDrained_eq _ h hd]
  simp only [heldSlot_drained, heldSlot_of_held hh]

section
variable (h : Issues s w) (hd : Drains s w) (hh : ∀ m, ¬Held s w (gGet (wkOf s w) d) m)
include h hd hh

theorem execEvery_phase (hfree : LowestFree s n) : exec (.every w d (.phase s1) s2 late alat) s =
    .next (quantumEnd (everyWait (takeSlot (drained s w) w d n false (aGet (wkOf s w) s1).toNat (aGet (wkOf s w) s2).toNat)
      w d n late alat) w) := by
  rw [show exec (.every w d (.phase s1) s2 late alat) s = execEvery w d (.phase s1) s2 late alat s from rfl, execEvery,
    issueDrained_eq _ h hd]
  simp only [heldSlot_drained, heldSlot_eq_none hh, freeSlot_congr (drained_slots s w), freeSlot_eq_some hfree, aGet_congr (drained_a s w),
    Bool.false_eq_true, if_false]

theorem execEvery_net (hok : badTriple (wkOf s w) t1 = false) (hfree : LowestFree s n) : exec (.every w d (.net t1) s2 late alat) s =
    .next (quantumEnd (everyWait (takeSlot (drained s w) w d n true (tripleCount (wkOf s w) t1) (aGet (wkOf s w) s2).toNat)
      w d n late alat) w) := by
  rw [show exec (.every w d (.net t1) s2 late alat) s = execEvery w d (.net t1) s2 late alat s from rfl, execEvery,
    issueDrained_eq _ h hd]
  simp only [heldSlot_drained, heldSlot_eq_none hh, freeSlot_congr (drained_slots s w), freeSlot_eq_some hfree, aGet_congr (drained_a s w),
    badTriple_congr (drained_g s w), tripleCount_congr (drained_g s w), hok, Bool.false_eq_true, if_false]

theorem every_badField (hbad : badTriple (wkOf s w) t1 = true) : Traps (.every w d (.net t1) s2 late alat) s w 0x06 := by
  refine traps_of_trapWorker (addr := 0) (atWorker_drained s w) ?_
  rw [show exec (.every w d (.net t1) s2 late alat) s = execEvery w d (.net t1) s2 late alat s from rfl, execEvery,
    issueDrained_eq _ h hd]
  simp only [heldSlot_drained, heldSlot_eq_none hh, badTriple_congr (drained_g s w), hbad, if_true]

/-- Without a free slot an EVERY whose first occurrence is in order faults. -/
theorem every_noSlot (hok : ∀ t, f = .net t → badTriple (wkOf s w) t = false) (hfull : ∀ m : Fin 64, s.slots[m] ≠ none) :
    Traps (.every w d f s2 late alat) s w 0x07 := by
  refine traps_of_trapWorker (addr := 0) (atWorker_drained s w) ?_
  rw [show exec (.every w d f s2 late alat) s = execEvery w d f s2 late alat s from rfl, execEvery, issueDrained_eq _ h hd]
  cases f with
  | phase a =>
    simp only [heldSlot_drained, heldSlot_eq_none hh, freeSlot_congr (drained_slots s w), freeSlot_eq_none hfull, Bool.false_eq_true,
      if_false]
  | net a =>
    simp only [heldSlot_drained, heldSlot_eq_none hh, freeSlot_congr (drained_slots s w), freeSlot_eq_none hfull,
      badTriple_congr (drained_g s w), hok a rfl, Bool.false_eq_true, if_false]

end

/-! ### CANCEL -/

/-- The end of the issue of an instruction that completes: the scheduler alone has still its say (R93). -/
theorem AtWorker.completes {k : WorkerSt} (h : AtWorker u t w k) : OnlyWorker u (Machine.quantumEnd t w) w
    ∧ wkOf (Machine.quantumEnd t w) w = { k with
        state := (wkOf (Machine.quantumEnd t w) w).state, core := (wkOf (Machine.quantumEnd t w) w).core } := by
  obtain ⟨hsame, hothers, hrec⟩ := quantumEnd_spec t w
  obtain ⟨⟨hframe, hplace⟩, hk⟩ := h
  refine ⟨⟨SameBut.trans hframe hsame, fun v hv => ?_⟩, ?_⟩
  · rw [hothers v hv]
    exact hplace v hv
  · rw [hrec, hk]

/-- The worker once CANCEL has given 0 and gone on. -/
theorem AtWorker.cancelled (h : AtWorker u t w (counted s w)) :
    OnlyWorker u (Machine.quantumEnd (Machine.modWk t w fun k => nextPc (gSet k d 0)) w) w
      ∧ WorkerIs s (Machine.quantumEnd (Machine.modWk t w fun k => nextPc (gSet k d 0)) w) w
        { wkOf s w with g := gWrite (wkOf s w).g d 0, pc := (wkOf s w).pc + 4 } := by
  have hmod := h.modWk (fun k => nextPc (gSet k d 0)) fun k e => by simp only [gSet_eq, nextPc]
  obtain ⟨honly, hrec⟩ := hmod.completes
  rw [gSet_eq] at hrec
  exact ⟨honly, hrec⟩

theorem heldSlot_issue (s : State) (w : Worker) (d : GReg) :
    heldSlot (countIssue (takeCore s w) w) w (gGet (wkOf (countIssue (takeCore s w) w) w) d) = heldSlot s w (gGet (wkOf s w) d) := by
  have hg : (wkOf (countIssue (takeCore s w) w) w).g = (wkOf s w).g := by
    rw [(atWorker_issue s w).record]
    rfl
  rw [heldSlot_congr (atWorker_issue s w).slots, gGet_congr hg]

theorem everyCancel_held (h : Issues s w) (hh : Held s w (gGet (wkOf s w) d) n) : BecomesIn (.everyCancel w d) s w
    { s with slots := s.slots.set n none } { wkOf s w with g := gWrite (wkOf s w).g d 0, pc := (wkOf s w).pc + 4 } := by
  have hfreed := (atWorker_issue s w).map (fun s' => { s' with slots := s'.slots.set n none }) (fun _ => rfl) (fun _ => rfl)
    fun _ _ _ => rfl
  refine ⟨_, ?_, hfreed.cancelled⟩
  rw [show exec (.everyCancel w d) s = execEveryCancel w d s from rfl, execEveryCancel, issue_eq s w _ h]
  simp only [heldSlot_issue, heldSlot_of_held hh]

theorem everyCancel_unheld (h : Issues s w) (hh : ∀ m, ¬Held s w (gGet (wkOf s w) d) m) :
    Gives (.everyCancel w d) s w d 0 (wkOf s w).sw := by
  refine ⟨_, ?_, (atWorker_issue s w).cancelled⟩
  rw [show exec (.everyCancel w d) s = execEveryCancel w d s from rfl, execEveryCancel, issue_eq s w _ h]
  simp only [heldSlot_issue, heldSlot_eq_none hh]

/-! ### The claims about EVERY -/

theorem every_newPhase (h : Issues s w) (hd : Drains s w) (hh : ∀ m, ¬Held s w (gGet (wkOf s w) d) m) (hfree : LowestFree s n) :
    EveryGoes (.every w d (.phase s1) s2 late alat) s w d n late alat
      (newSlot w false (aGet (wkOf s w) s1).toNat (aGet (wkOf s w) s2).toNat)
      (gWrite (wkOf s w).g d (slotHandle n 0)) := by
  obtain ⟨c, hc⟩ := atWorker_takeSlot s w d n false (aGet (wkOf s w) s1).toNat (aGet (wkOf s w) s2).toNat
  exact everyGoes hc (execEvery_phase h hd hh hfree) fun v => gWrite_gWrite _ _ _ _

theorem every_newNet (h : Issues s w) (hd : Drains s w) (hh : ∀ m, ¬Held s w (gGet (wkOf s w) d) m) (hfree : LowestFree s n)
    (hok : badTriple (wkOf s w) t1 = false) : EveryGoes (.every w d (.net t1) s2 late alat) s w d n late alat
      (newSlot w true (tripleCount (wkOf s w) t1) (aGet (wkOf s w) s2).toNat)
      (gWrite (wkOf s w).g d (slotHandle n 0)) := by
  obtain ⟨c, hc⟩ := atWorker_takeSlot s w d n true (tripleCount (wkOf s w) t1) (aGet (wkOf s w) s2).toNat
  exact everyGoes hc (execEvery_net h hd hh hok hfree) fun v => gWrite_gWrite _ _ _ _

theorem every_held (h : Issues s w) (hd : Drains s w) (hh : Held s w (gGet (wkOf s w) d) n) (hx : s.slots[n] = some x) :
    EveryGoes (.every w d f s2 late alat) s w d n late alat x (wkOf s w).g := by
  have ht := atWorker_drained s w
  rw [← everyBase_held hx] at ht
  exact everyGoes ht (execEvery_held h hd hh) fun _ => rfl

end

/-- Settles O17: EVERY takes or finds its slot and goes on with it, in one of the three ways of R128. -/
theorem periodic : Obligations.Periodic := by
  unfold Obligations.Periodic
  intro s w d s1 s2 alat t1 late n h k held free interval bounded now handle u goes
  refine ⟨fun hd => ⟨fun hh hfree => ⟨?_, fun hok => ?_⟩, fun f x hh hx => ?_, fun hh hbad => ?_, fun hh hfull => ⟨?_, fun hok => ?_⟩⟩,
    fun hh => everyCancel_held h hh, fun hh => everyCancel_unheld h hh⟩
  · exact every_newPhase h hd hh hfree
  · exact every_newNet h hd hh hfree hok
  · exact every_held h hd hh hx
  · exact every_badField h hd hh hbad
  · exact every_noSlot h hd hh (fun _ => EveryFirst.noConfusion) hfull
  · refine every_noSlot h hd hh (fun t ht => ?_) hfull
    rwa [← EveryFirst.net.inj ht]

end Sys2Proof.Machine

/-! # Sitting 3: faults of memory accesses (O14), and worker commands (O18) -/

namespace Sys2Proof.Machine

/-! ## Faults of memory accesses (R85, R86, R88, R90, R91) -/

section
variable {s t : State} {w : Worker} {i : Instr} {f : State → State} {a : Word} {n : Nat} {k : WorkerSt}

/-- What the effect of an issued instruction sees. -/
def issueSeen (s : State) (w : Worker) : State := countIssue (takeCore s w) w

theorem atWorker_issueSeen (s : State) (w : Worker) : AtWorker s (issueSeen s w) w (counted s w) := atWorker_issue s w

theorem gGet_issueSeen (s : State) (w : Worker) (n : GReg) : gGet (wkOf (issueSeen s w) w) n = gGet (wkOf s w) n := by
  refine gGet_congr ?_ n
  rw [(atWorker_issueSeen s w).record]
  rfl

theorem immAddr_issueSeen (s : State) (w : Worker) (s1 : GReg) (imm : Half) :
    immAddr (wkOf (issueSeen s w) w) s1 imm = immAddr (wkOf s w) s1 imm := by
  rw [immAddr, gGet_issueSeen, immAddr]

theorem xAddr_issueSeen (s : State) (w : Worker) (s1 s2 : GReg) (z : XSize) (scale : Bool) :
    xAddr (wkOf (issueSeen s w) w) s1 s2 z scale = xAddr (wkOf s w) s1 s2 z scale := by
  rw [xAddr, gGet_issueSeen, gGet_issueSeen, xAddr]

theorem nowhere_issueSeen {a n : Nat} : Nowhere (issueSeen s w) w a n ↔ Nowhere s w a n := by
  have hlen : (wkOf (issueSeen s w) w).dramLen = (wkOf s w).dramLen := by
    rw [(atWorker_issueSeen s w).record]
    rfl
  rw [Nowhere, hlen, Nowhere]

theorem segmentsOk_issueSeen (s : State) (w : Worker) (off len : Nat) :
    segmentsOk (wkOf (issueSeen s w) w) off len = segmentsOk (wkOf s w) off len := by
  rw [(atWorker_issueSeen s w).record]
  rfl

theorem issue_issueSeen (f : State → State) (h : Issues s w) : issue s w f = .next (quantumEnd (f (issueSeen s w)) w) :=
  issue_eq s w f h

/-- An instruction whose effect, on the worker as it was issued, is a fault. -/
theorem traps_of_issue {cause : Byte} (h : Issues s w) (he : exec i s = issue s w f)
    (hf : f (issueSeen s w) = trapWorker (issueSeen s w) w cause a) : Traps i s w cause := by
  refine traps_of_trapWorker (addr := a) (atWorker_issueSeen s w) ?_
  rw [he, issue_issueSeen f h, hf]

/-! ### Where an address lies -/

theorem Nowhere.inBlocks {a n : Nat} (h : Nowhere s w a n) : inBlocks a = false := by
  obtain ⟨hlow, hwindows, -⟩ := h
  simp [Machine.inBlocks, hlow, hwindows]

theorem Nowhere.loadPlace {a n : Nat} (h : Nowhere s w a n) : loadPlace (wkOf s w) a n = .bad causeAddress := by
  obtain ⟨-, -, hscratch, htable, haperture⟩ := h
  rw [Machine.loadPlace, if_neg hscratch, if_neg htable, if_neg haperture]

theorem Nowhere.storePlace {a n : Nat} (h : Nowhere s w a n) : storePlace s (wkOf s w) a n = .bad causeAddress := by
  rw [Machine.storePlace, h.loadPlace]

/-- A store to a table segment outside the worker's scope has no place (R85, R86). -/
theorem storePlace_foreign {a n : Nat} (hlo : 0x50000000 ≤ a) (hhi : a + n ≤ 0x50400000)
    (hseg : segmentsOk k (a - 0x50000000) n = false) : storePlace s k a n = .bad causeScope := by
  have hscratch : ¬(0x40000000 ≤ a ∧ a + n ≤ 0x40004000) := by omega
  have hplace : loadPlace k a n = .ok (.table (a - 0x50000000)) := by
    rw [loadPlace, if_neg hscratch, if_pos ⟨hlo, hhi⟩]
  simp only [storePlace, hplace, hseg, Bool.false_eq_true, if_false]

theorem inBlocks_table {a : Nat} (hlo : 0x50000000 ≤ a) : inBlocks a = false := by
  simp only [inBlocks, Bool.or_eq_false_iff, decide_eq_false_iff_not]
  omega

/-! ### The two faults of an address: ALIGN before ADDRESS -/

/-- An access of `n` bytes at `a` faults with cause ALIGN where the address is misaligned, and, aligned, with cause ADDRESS where it
lies nowhere in the program view (R85, R88, R91). -/
def AddressFaults (i : Instr) (s : State) (w : Worker) (a : Word) (n : Nat) : Prop :=
  (a.toNat % n ≠ 0 → Traps i s w 0x04) ∧ (a.toNat % n = 0 → Nowhere s w a.toNat n → Traps i s w 0x03)

theorem addressFaults_load {byWord : Bool} {reg : State → State} {mem : Nat → WorkerSt → WorkerSt} {flight : Nat → Flight}
    (h : Issues s w) (he : exec i s = issue s w f) (hf : f (issueSeen s w) = load (issueSeen s w) w a n byWord reg mem flight) :
    AddressFaults i s w a n := by
  refine ⟨fun hal => traps_of_issue (a := a) h he ?_, fun hal hno => traps_of_issue (a := a) h he ?_⟩
  · rw [hf, load, if_pos hal]
    rfl
  · have hno' := nowhere_issueSeen.mpr hno
    simp only [hf, load, hal, hno'.inBlocks, hno'.loadPlace, ne_eq, not_true, Bool.false_eq_true, if_false]
    rfl

theorem addressFaults_store {b : List Byte} {byWord : Bool} (h : Issues s w) (he : exec i s = issue s w f) (hlen : b.length = n)
    (hf : f (issueSeen s w) = store (issueSeen s w) w a b byWord) : AddressFaults i s w a n := by
  subst hlen
  refine ⟨fun hal => traps_of_issue (a := a) h he ?_, fun hal hno => traps_of_issue (a := a) h he ?_⟩
  · simp only [hf, store, if_pos hal]
    rfl
  · have hno' := nowhere_issueSeen.mpr hno
    simp only [hf, store, hal, hno'.inBlocks, hno'.storePlace, ne_eq, not_true, Bool.false_eq_true, if_false]
    rfl

theorem addressFaults_atom {op : AtomOp} {d s1 s2 : GReg} (h : Issues s w) (he : exec i s = atom w op d s1 s2 s) :
    AddressFaults i s w (gGet (wkOf s w) s1) 4 := by
  refine ⟨fun hal => traps_of_issue (a := gGet (wkOf s w) s1) h he ?_, fun hal hno => traps_of_issue (a := gGet (wkOf s w) s1) h he ?_⟩
  · simp only [gGet_issueSeen, if_pos hal]
    rfl
  · have hno' := nowhere_issueSeen.mpr hno
    simp only [gGet_issueSeen, hal, hno'.storePlace, ne_eq, not_true, if_false]
    rfl

/-! ### The fault of a foreign table segment -/

/-- A store of a word at `a` faults with cause SCOPE where the address is an aligned one of a table segment that the worker's scope
does not cover (R85, R86). -/
def SegmentFaults (i : Instr) (s : State) (w : Worker) (a : Word) : Prop :=
  a.toNat % 4 = 0 → 0x50000000 ≤ a.toNat → a.toNat + 4 ≤ 0x50400000 → segmentsOk (wkOf s w) (a.toNat - 0x50000000) 4 = false →
    Traps i s w 0x02

theorem segmentFaults_store {b : List Byte} {byWord : Bool} (h : Issues s w) (he : exec i s = issue s w f) (hlen : b.length = 4)
    (hf : f (issueSeen s w) = store (issueSeen s w) w a b byWord) : SegmentFaults i s w a := by
  intro hal hlo hhi hseg
  rw [← segmentsOk_issueSeen] at hseg
  refine traps_of_issue (a := a) h he ?_
  simp only [hf, store, hlen, hal, inBlocks_table hlo, storePlace_foreign hlo hhi hseg, ne_eq, not_true, Bool.false_eq_true, if_false]
  rfl

theorem segmentFaults_atom {op : AtomOp} {d s1 s2 : GReg} (h : Issues s w) (he : exec i s = atom w op d s1 s2 s) :
    SegmentFaults i s w (gGet (wkOf s w) s1) := by
  intro hal hlo hhi hseg
  rw [← segmentsOk_issueSeen] at hseg
  refine traps_of_issue (a := gGet (wkOf s w) s1) h he ?_
  simp only [gGet_issueSeen, hal, storePlace_foreign hlo hhi hseg, ne_eq, not_true, if_false]
  rfl

/-! ### The instructions -/

theorem length_bytesLE (n v : Nat) : (bytesLE n v).length = n := by simp [bytesLE]

/-- LDX of a value of less than a word. -/
theorem loadSized_eq_load (t : State) (w : Worker) (d : GReg) (a : Word) {z : XSize} (hz : z ≠ .word) :
    loadSized t w d a z = load t w a (xBytes z) false id (fun v k => gSet k d (xExtend z v)) fun off => .loadG d off z := by
  cases z with
  | word => exact absurd rfl hz
  | byteS | byteU | halfS | halfU => rfl

theorem exec_ldw (w : Worker) (d s1 : GReg) (imm : Half) (s : State) :
    exec (.ldw w d s1 imm) s = issue s w fun s => loadWord s w d (immAddr (wkOf s w) s1 imm) := rfl
theorem exec_ldd (w : Worker) (ad : AReg) (s1 : GReg) (imm : Half) (s : State) :
    exec (.ldd w ad s1 imm) s = issue s w fun s => loadDouble s w ad (immAddr (wkOf s w) s1 imm) := rfl
theorem exec_ldx (w : Worker) (d s1 s2 : GReg) (z : XSize) (scale : Bool) (s : State) :
    exec (.ldx w d s1 s2 z scale) s = issue s w fun s => loadSized s w d (xAddr (wkOf s w) s1 s2 z scale) z := rfl
theorem exec_stw (w : Worker) (d s1 : GReg) (imm : Half) (s : State) : exec (.stw w d s1 imm) s =
    issue s w fun s => store s w (immAddr (wkOf s w) s1 imm) (bytesLE 4 (gGet (wkOf s w) d).toNat) true := rfl
theorem exec_std (w : Worker) (ad : AReg) (s1 : GReg) (imm : Half) (s : State) : exec (.std w ad s1 imm) s =
    issue s w fun s => store s w (immAddr (wkOf s w) s1 imm) (bytesLE 8 (aGet (wkOf s w) ad).toNat) true := rfl
theorem exec_stx (w : Worker) (d s1 s2 : GReg) (z : XSize) (scale : Bool) (s : State) : exec (.stx w d s1 s2 z scale) s =
    issue s w fun s => store s w (xAddr (wkOf s w) s1 s2 z scale) (bytesLE (xBytes z) (gGet (wkOf s w) d).toNat) (z == .word) := rfl

section
variable (h : Issues s w) (d s1 s2 : GReg) (ad : AReg) (imm : Half) (z : XSize) (scale : Bool)
include h

theorem addressFaults_ldw : AddressFaults (.ldw w d s1 imm) s w (immAddr (wkOf s w) s1 imm) 4 := by
  apply addressFaults_load h (exec_ldw w d s1 imm s)
  rw [immAddr_issueSeen, loadWord]

theorem addressFaults_ldd : AddressFaults (.ldd w ad s1 imm) s w (immAddr (wkOf s w) s1 imm) 8 := by
  apply addressFaults_load h (exec_ldd w ad s1 imm s)
  rw [immAddr_issueSeen, loadDouble]

theorem addressFaults_ldx : AddressFaults (.ldx w d s1 s2 z scale) s w (xAddr (wkOf s w) s1 s2 z scale) (xBytes z) := by
  by_cases hz : z = .word
  · subst hz
    apply addressFaults_load h (exec_ldx w d s1 s2 .word scale s)
    rw [xAddr_issueSeen, loadSized, loadWord, xBytes]
  · apply addressFaults_load h (exec_ldx w d s1 s2 z scale s)
    rw [xAddr_issueSeen, loadSized_eq_load _ _ _ _ hz]

theorem addressFaults_stw : AddressFaults (.stw w d s1 imm) s w (immAddr (wkOf s w) s1 imm) 4 := by
  apply addressFaults_store h (exec_stw w d s1 imm s) (length_bytesLE 4 _)
  rw [immAddr_issueSeen]

theorem addressFaults_std : AddressFaults (.std w ad s1 imm) s w (immAddr (wkOf s w) s1 imm) 8 := by
  apply addressFaults_store h (exec_std w ad s1 imm s) (length_bytesLE 8 _)
  rw [immAddr_issueSeen]

theorem addressFaults_stx : AddressFaults (.stx w d s1 s2 z scale) s w (xAddr (wkOf s w) s1 s2 z scale) (xBytes z) := by
  apply addressFaults_store h (exec_stx w d s1 s2 z scale s) (length_bytesLE _ _)
  rw [xAddr_issueSeen]

theorem segmentFaults_stw : SegmentFaults (.stw w d s1 imm) s w (immAddr (wkOf s w) s1 imm) := by
  apply segmentFaults_store h (exec_stw w d s1 imm s) (length_bytesLE 4 _)
  rw [immAddr_issueSeen]

end

end

/-- Settles O14: each instruction is a load, a store or an atomic access, and each of those judges the alignment of its address
first, then its range, then the scope (R85, R88; a misaligned address outside every range faults with cause ALIGN, log entry 19). -/
theorem memoryFaults : Obligations.MemoryFaults := by
  unfold Obligations.MemoryFaults
  intro s w d s1 s2 ad imm z scale h k a n x b stores all
  have hn : n = xBytes z := by cases z <;> rfl
  have hx : x = (xAddr k s1 s2 z scale).toNat := by simp only [x, hn]; rfl
  simp only [all, stores, hn, hx, List.map_cons, List.map_nil, List.cons_append, List.nil_append, List.forall_mem_cons]
  refine ⟨⟨addressFaults_stw h d s1 imm, addressFaults_atom h rfl, addressFaults_atom h rfl, addressFaults_atom h rfl,
      addressFaults_atom h rfl, addressFaults_atom h rfl, addressFaults_ldw h d s1 imm, addressFaults_ldd h s1 ad imm,
      addressFaults_std h s1 ad imm, addressFaults_ldx h d s1 s2 z scale, addressFaults_stx h d s1 s2 z scale, List.forall_mem_nil _⟩,
    segmentFaults_stw h d s1 imm, segmentFaults_atom h rfl, segmentFaults_atom h rfl, segmentFaults_atom h rfl,
    segmentFaults_atom h rfl, segmentFaults_atom h rfl, List.forall_mem_nil _⟩

end Sys2Proof.Machine

namespace Sys2Proof.Machine

/-! ## Worker commands (R78, R79, R83, R92, R100) -/

section
variable {s t u : State} {who : Writer} {v w : Worker} {i : Instr} {f : State → State} {pc : Word}

/-! ### Writes of WK_CMD -/

/-- A worker's store to WK_CMD is judged by the rule of R83. -/
theorem storeAllowed_wkCmdAddr (s : State) (v w : Worker) : storeAllowed s v (wkCmdAddr w) = wkAllowed s (.worker v) w := by
  have hblock : 0x21000 ≤ wkCmdAddr w ∧ wkCmdAddr w < 0x23800 ∧ wkCmdAddr w % 64 = 0x1C := by unfold wkCmdAddr; omega
  have hign : storesIgnored (wkCmdAddr w) = false := by
    simp only [storesIgnored, Bool.or_eq_false_iff, decide_eq_false_iff_not]
    omega
  have htarget : Fin.ofNat 160 ((wkCmdAddr w - 0x21000) / 64) = w := by
    have hval : (wkCmdAddr w - 0x21000) / 64 = w.val := by unfold wkCmdAddr; omega
    rw [hval]
    exact Fin.ext (Nat.mod_eq_of_lt w.isLt)
  simp only [storeAllowed, hign, Bool.false_eq_true, if_false]
  rw [if_pos hblock, htarget]

/-- A write of WK_CMD by a writer that R83 allows has its effect. -/
theorem writeRow_wkCmdAddr (f : State → State) (hrun : Running s) (hw : wkAllowed s who w = true) :
    writeRow who (wkCmdAddr w) f s = .next (f s) := by
  rw [writeRow, run_running _ hrun]
  cases who with
  | host k =>
    have hk : isOperator s k = true := hw
    simp only [hk, if_true]
  | worker v =>
    have hv : storeAllowed s v (wkCmdAddr w) = true := (storeAllowed_wkCmdAddr s v w).trans hw
    simp only [hv, if_true]

/-- A store to WK_CMD by a worker that R83 does not allow faults (R84, R85). -/
theorem traps_wkCmdAddr (hrun : Running s) (helig : eligible (wkOf s v) = true) (hbar : wkAllowed s (.worker v) w = false)
    (he : exec i s = writeRow (.worker v) (wkCmdAddr w) f s) : Traps i s v 0x02 := by
  refine ⟨trapWorker s v causeScope (word (wkCmdAddr w)), ?_, trapped_trapWorker s v causeScope _⟩
  rw [he, writeRow, run_running _ hrun]
  simp only [(storeAllowed_wkCmdAddr s v w).trans hbar, helig, Bool.false_eq_true, if_false, if_true]

/-! ### A worker that leaves its state (R79) -/

/-- Worker `w` is STOPPED at `pc` with its registers and scratch as in `s`; it holds no slot and no snapshot, and the regions and
the switch bank are those of `s`. -/
def StoppedAt (s t : State) (w : Worker) (pc : Word) : Prop :=
  (wkOf t w).state = .stopped ∧ (wkOf t w).pc = pc ∧ (wkOf t w).g = (wkOf s w).g ∧ (wkOf t w).a = (wkOf s w).a
    ∧ (wkOf t w).scratch = (wkOf s w).scratch
    ∧ (∀ n : Fin 64, ∀ y, t.slots[n] = some y → y.owner ≠ w) ∧ (∀ y ∈ t.snaps, y.reader ≠ .worker w)
    ∧ t.region = s.region ∧ t.bank = s.bank

theorem owner_of_freeSlots (s : State) (w : Worker) {n : Fin 64} {y : Slot} (h : (freeSlots s w).slots[n] = some y) : y.owner ≠ w := by
  have hslot : (s.slots[n].bind fun y => if y.owner = w then none else some y) = some y := by simpa [freeSlots] using h
  obtain ⟨x, -, hx⟩ := Option.bind_eq_some_iff.mp hslot
  split at hx
  · cases hx
  · next hne => exact Option.some.inj hx ▸ hne

theorem reader_of_dropSnaps (s : State) (rd : Reader) {y : Snap} (h : y ∈ (dropSnaps s rd).snaps) : y.reader ≠ rd := by
  simpa using (List.mem_filter.mp h).2

theorem drainWorker_region (s : State) (w : Worker) : (drainWorker s w).region = s.region := by
  obtain ⟨c, hs⟩ := drainWorker_eq s w
  rw [hs]

theorem drainWorker_bank (s : State) (w : Worker) : (drainWorker s w).bank = s.bank := by
  obtain ⟨c, hs⟩ := drainWorker_eq s w
  rw [hs]

theorem stoppedAt_leaveWorker (s : State) (w : Worker) : StoppedAt s (leaveWorker s w .stopped) w (wkOf s w).pc := by
  have hk := wkOf_leaveWorker s w .stopped
  refine ⟨by rw [hk], by rw [hk], by rw [hk], by rw [hk], by rw [hk], fun n y hy => ?_, fun y hy => ?_, ?_, ?_⟩
  · exact owner_of_freeSlots (drainWorker (loseQuantum s w) w) w hy
  · exact reader_of_dropSnaps (freeSlots (drainWorker (loseQuantum s w) w) w) (.worker w) hy
  · exact drainWorker_region (loseQuantum s w) w
  · exact drainWorker_bank (loseQuantum s w) w

/-- What the STOPPED worker keeps may be read off any state with the same registers, regions and bank. -/
theorem StoppedAt.of_kept (h : StoppedAt u t w pc) (hg : (wkOf u w).g = (wkOf s w).g) (ha : (wkOf u w).a = (wkOf s w).a)
    (hscratch : (wkOf u w).scratch = (wkOf s w).scratch) (hregion : u.region = s.region) (hbank : u.bank = s.bank) :
    StoppedAt s t w pc := by
  rwa [StoppedAt, hg, ha, hscratch, hregion, hbank] at h

/-- The end of an issue leaves a STOPPED worker as it is. -/
theorem StoppedAt.quantumEnd (h : StoppedAt s t w pc) : StoppedAt s (quantumEnd t w) w pc := by
  obtain ⟨hst, hrest⟩ := h
  obtain ⟨hsame, -, hrec⟩ := quantumEnd_spec t w
  have hrun : (wkOf t w).state ≠ .running := by rw [hst]; exact WkState.noConfusion
  rw [quantumEnd_state hrun, hst] at hrec
  rw [StoppedAt, hrec, hsame]
  exact ⟨rfl, hrest⟩

/-! ### The commands -/

theorem exec_wkStart (who : Writer) (w : Worker) (s : State) :
    exec (.wkStart who w) s = writeRow who (wkCmdAddr w) (fun s => wkStart s w) s := rfl
theorem exec_wkStop (who : Writer) (w : Worker) (s : State) :
    exec (.wkStop who w) s = writeRow who (wkCmdAddr w) (fun s => wkStop s w) s := rfl
theorem exec_wkRestart (who : Writer) (w : Worker) (s : State) :
    exec (.wkRestart who w) s = writeRow who (wkCmdAddr w) (fun s => wkRestart s w) s := rfl
theorem exec_wkClearRestarts (who : Writer) (w : Worker) (s : State) :
    exec (.wkClearRestarts who w) s = writeRow who (wkCmdAddr w) (fun s => wkClear s w) s := rfl

section
variable (hrun : Running s) (hw : wkAllowed s who w = true)
include hrun hw

theorem wkStart_stopped (hst : (wkOf s w).state = .stopped) : exec (.wkStart who w) s = .next (setWk s w (atEntry (wkOf s w))) := by
  rw [exec_wkStart, writeRow_wkCmdAddr _ hrun hw, wkStart, if_pos hst, modWk]

theorem wkRestart_idle (hst : (wkOf s w).state = .stopped ∨ (wkOf s w).state = .trapped) :
    exec (.wkRestart who w) s = .next (setWk s w (atEntry (clearRegs (wkOf s w)))) := by
  rw [exec_wkRestart, writeRow_wkCmdAddr _ hrun hw, wkRestart]
  rcases hst with hst | hst <;> simp only [hst, modWk]

theorem wkStop_loaded (hst : (wkOf s w).state ≠ .empty) :
    Ends (.wkStop who w) s fun t => StoppedAt s t w (wkOf s w).pc := by
  refine ⟨_, ?_, stoppedAt_leaveWorker s w⟩
  rw [exec_wkStop, writeRow_wkCmdAddr _ hrun hw, wkStop, if_neg hst]

theorem wkClear_loaded (hst : (wkOf s w).state ≠ .empty) :
    exec (.wkClearRestarts who w) s = .next (setWk s w { wkOf s w with restarts := [] }) := by
  rw [exec_wkClearRestarts, writeRow_wkCmdAddr _ hrun hw, wkClear, if_neg hst, modWk]

end

theorem trapRestartPauseEnd_due (hrun : Running s) (hst : (wkOf s w).state = .trapped) (hdue : due s (wkOf s w).restartAt = true) :
    exec (.trapRestartPauseEnd w) s =
      .next (setWk s w (atEntry { clearRegs (wkOf s w) with restarts := (nowNs s :: (wkOf s w).restarts).take 16 })) := by
  rw [show exec (.trapRestartPauseEnd w) s = execTrapRestartPauseEnd w s from rfl, execTrapRestartPauseEnd, run_running _ hrun]
  simp only [hst, hdue, beq_self_eq_true, Bool.and_self, if_true, trapRestart, modWk]

end

/-! ## HALT, YIELD, TRAP, illegal words and TEMP (R90, R103, R159) -/

section
variable {s t u : State} {w : Worker} {i : Instr} {f : State → State}

/-- An instruction that first completes the worker's posted stores faults where one goes into a poisoned line (R118; log entry 19). -/
theorem issueDrained_poisoned (h : Issues s w) (hbad : (postedBad s w).isSome = true) (he : exec i s = issueDrained s w f) :
    Traps i s w 0x08 := by
  obtain ⟨a, ha⟩ := Option.isSome_iff_exists.mp hbad
  refine traps_of_issue (a := a) h he ?_
  have hseen : postedBad (issueSeen s w) w = some a := (postedBad_issue s w).trans ha
  simp only [hseen]

theorem exec_halt (w : Worker) (s : State) :
    exec (.halt w) s = issueDrained s w fun s => leaveWorker (modWk s w nextPc) w .stopped := rfl

theorem halt_drains (h : Issues s w) (hd : Drains s w) :
    Ends (.halt w) s fun t => StoppedAt s t w ((wkOf s w).pc + 4) := by
  have hat := (atWorker_drained s w).modWk nextPc fun _ _ => rfl
  have hrec := hat.record
  have hstop := stoppedAt_leaveWorker (modWk (drained s w) w nextPc) w
  rw [show (wkOf (modWk (drained s w) w nextPc) w).pc = (wkOf s w).pc + 4 by rw [hrec]; rfl] at hstop
  refine ⟨_, ?_, (hstop.of_kept ?_ ?_ ?_ ?_ ?_).quantumEnd⟩
  · rw [exec_halt, issueDrained_eq _ h hd]
  · rw [hrec]; rfl
  · rw [hrec]; rfl
  · rw [hrec]; rfl
  · rw [hat.frame]; exact drainWorker_region s w
  · rw [hat.frame]; exact drainWorker_bank s w

/-- A worker that has gone on to the next instruction and is READY. -/
theorem AtWorker.yielded (h : AtWorker s t w (nextPc { counted s w with state := .ready })) :
    OnlyWorker s t w ∧ (wkOf t w).state = .ready ∧ WorkerIs s t w { wkOf s w with pc := (wkOf s w).pc + 4 } := by
  have hst : (wkOf t w).state = .ready := by
    rw [h.record]
    rfl
  refine ⟨h.1, hst, ?_⟩
  rw [WorkerIs, hst]
  exact h.record

theorem yieldQ_ready (h : Issues s w) : Ends (.yieldQ w) s fun t =>
    OnlyWorker s t w ∧ (wkOf t w).state = .ready ∧ WorkerIs s t w { wkOf s w with pc := (wkOf s w).pc + 4 } := by
  have hready := (atWorker_issueSeen s w).modWk (fun k => nextPc { k with state := .ready }) fun _ _ => rfl
  refine ⟨_, ?_, (hready.loseQuantum.goHome.quantumEnd WkState.noConfusion).yielded⟩
  rw [show exec (.yieldQ w) s = execYieldQ w s from rfl, execYieldQ, issue_issueSeen _ h]

theorem trap_traps (h : Issues s w) (code : BitVec 7) : Traps (.trap w code) s w (BitVec.ofNat 8 (128 + code.toNat)) :=
  traps_of_issue h (show exec (.trap w code) s = execTrap w code s from rfl) rfl

theorem illegalOpcode_traps (h : Issues s w) {x : Word} (hx : legalWord x = false) : Traps (.illegalOpcode w x) s w 0x01 := by
  refine traps_of_issue (a := 0) (f := fun s => trapWorker s w 0x01 0) h ?_ rfl
  rw [show exec (.illegalOpcode w x) s = execIllegalOpcode w x s from rfl, execIllegalOpcode]
  simp only [hx, Bool.false_eq_true, if_false]

/-! ### Status results, and TEMP -/

theorem putStatus_eq (k : WorkerSt) (d : GReg) (v : Word) :
    putStatus k d v = { k with g := gWrite k.g d v, sw := zn k.sw v } := by
  rw [putStatus, gSet_eq]
  rfl

/-- The end of an instruction that writes a status to g[d] (R133). -/
theorem AtWorker.finishes (h : AtWorker u t w (counted s w)) (d : GReg) (v : Nat) :
    OnlyWorker u (Machine.quantumEnd (finish t w d v) w) w ∧ WorkerIs s (Machine.quantumEnd (finish t w d v) w) w
      { wkOf s w with g := gWrite (wkOf s w).g d (word v), sw := zn (wkOf s w).sw (word v), pc := (wkOf s w).pc + 4 } := by
  have hmod := h.modWk (fun k => nextPc (putStatus k d (word v))) fun k c => by simp only [putStatus_eq, nextPc]
  obtain ⟨honly, hrec⟩ := hmod.completes
  rw [putStatus_eq] at hrec
  exact ⟨honly, hrec⟩

/-- The nearest multiple of 25, ties away from zero (R159). -/
theorem temp25_eq (x : Half) : temp25 x =
    BitVec.ofInt 16 (25 * (if 0 ≤ x.toInt then (2 * x.toInt + 25) / 50 else -((2 * -x.toInt + 25) / 50))) := by
  rw [temp25, roundDiv, mul_comm]
  by_cases hx : 0 ≤ x.toInt
  · rw [if_pos hx, if_neg hx.not_gt]
    rfl
  · rw [if_neg hx, if_pos (not_le.mp hx)]
    rfl

theorem word_fld_append (x y : Half) : word (fld x.toNat 16 + y.toNat) = x ++ y := by
  refine BitVec.eq_of_toNat_eq ?_
  have hlt : x.toNat <<< 16 + y.toNat < 2 ^ 32 := by
    rw [Nat.shiftLeft_eq]
    omega
  rw [BitVec.toNat_append, ← Nat.shiftLeft_add_eq_or_of_lt y.isLt, word, fld, BitVec.toNat_ofNat, Nat.mod_eq_of_lt hlt]

/-- `s` with the measurement of TEMP taken (R159). -/
def tempMeasured (s : State) (board die : Half) : State :=
  { s with therm := { s.therm with lastBoard := temp25 board, lastDie := temp25 die, measEnd := nowNs s + 50000 } }

theorem temp_measures (h : Issues s w) (d : GReg) (board die : Half) (hend : s.therm.measEnd ≤ nowNs s) :
    BecomesIn (.temp w d board die) s w (tempMeasured s board die) { wkOf s w with
      g := gWrite (wkOf s w).g d (temp25 board ++ temp25 die), sw := zn (wkOf s w).sw (temp25 board ++ temp25 die)
      pc := (wkOf s w).pc + 4 } := by
  have hseen := atWorker_issueSeen s w
  have hmap := hseen.map (tempMeasured · board die) (fun _ => rfl) (fun _ => rfl) fun _ _ _ => rfl
  have hfin := hmap.finishes d (fld (temp25 board).toNat 16 + (temp25 die).toNat)
  rw [word_fld_append] at hfin
  refine ⟨_, ?_, hfin⟩
  have hnot : ¬nowNs (issueSeen s w) < (issueSeen s w).therm.measEnd := by
    rw [hseen.clocks.nowNs, hseen.therm]
    exact hend.not_gt
  rw [show exec (.temp w d board die) s = execTemp w d board die s from rfl, execTemp, issue_issueSeen _ h]
  simp only [if_neg hnot]
  rfl

theorem temp_shares (h : Issues s w) (d : GReg) (board die : Half) (hend : nowNs s < s.therm.measEnd) :
    Gives (.temp w d board die) s w d (s.therm.lastBoard ++ s.therm.lastDie) (zn (wkOf s w).sw (s.therm.lastBoard ++ s.therm.lastDie)) := by
  have hseen := atWorker_issueSeen s w
  have hfin := hseen.finishes d (fld s.therm.lastBoard.toNat 16 + s.therm.lastDie.toNat)
  rw [word_fld_append] at hfin
  refine ⟨_, ?_, hfin⟩
  have hlt : nowNs (issueSeen s w) < (issueSeen s w).therm.measEnd := by
    rw [hseen.clocks.nowNs, hseen.therm]
    exact hend
  rw [show exec (.temp w d board die) s = execTemp w d board die s from rfl, execTemp, issue_issueSeen _ h]
  simp only [if_pos hlt]
  rw [hseen.therm]

end

/-- Settles O18: a write of WK_CMD is judged by R83 and then acts on the worker's record alone, or makes the worker leave its state
(R79); the readings are those of log entry 19 (RESTART from TRAPPED, a posted store into a poisoned line) and of log entry 21
(TEMP's rounding and its 50 microseconds). -/
theorem workerCommands : Obligations.WorkerCommands := by
  unfold Obligations.WorkerCommands
  intro s who w d code x board die k kept fresh round stops
  have hround : ∀ t, temp25 t = round t := temp25_eq
  refine ⟨fun hrun hw => ⟨wkStart_stopped hrun hw, wkRestart_idle hrun hw,
      fun hst => ⟨wkStop_loaded hrun hw hst, wkClear_loaded hrun hw hst⟩⟩, fun v hv hrun helig hbar => ?_,
    trapRestartPauseEnd_due, fun h => ⟨halt_drains h, fun hbad => issueDrained_poisoned h hbad (exec_halt w s), yieldQ_ready h,
      trap_traps h code, illegalOpcode_traps h, fun hend => ?_, temp_shares h d board die⟩⟩
  · subst hv
    simp only [List.forall_mem_cons]
    exact ⟨traps_wkCmdAddr hrun helig hbar (exec_wkStart ..), traps_wkCmdAddr hrun helig hbar (exec_wkStop ..),
      traps_wkCmdAddr hrun helig hbar (exec_wkRestart ..), traps_wkCmdAddr hrun helig hbar (exec_wkClearRestarts ..),
      List.forall_mem_nil _⟩
  · have hmeas := temp_measures h d board die hend
    rw [tempMeasured, hround, hround] at hmeas
    exact hmeas

end Sys2Proof.Machine

/-! # Sitting 4: the integer, fixed-point, time, branch and memory instructions (O2-O13), and the DRAM aperture (O15) -/

namespace Sys2Proof.Machine

/-! ## Instructions that act on their worker alone (R75, R93, R133) -/

section
variable {s t : State} {w : Worker} {i : Instr} {k v : WorkerSt} {f : WorkerSt → WorkerSt}

/-- A worker's record as its instruction leaves it, the issue counted (R93, R101). -/
def recounted (s : State) (k : WorkerSt) : WorkerSt :=
  { k with state := .running, issued := k.issued + 1, run := k.run + 1, sw := { k.sw with lead := isLead s } }

theorem wkOf_issueSeen (s : State) (w : Worker) : wkOf (issueSeen s w) w = counted s w := by
  obtain ⟨-, -, hrec⟩ := issue_seen s w
  rw [issueSeen, hrec, counted]

/-- An effect on the worker's record alone, on a state in which it is `k`. -/
theorem AtWorker.modWk_of_eq {u : State} (h : AtWorker u t w k) (hk : wkOf t w = k) (f : WorkerSt → WorkerSt) :
    AtWorker u (Machine.modWk t w f) w (f k) := by
  refine ⟨⟨SameBut.trans h.frame (SameBut.modWk _ _ _), fun v hv => ?_⟩, ?_⟩
  · rw [wkOf_modWk_ne _ _ _ _ hv]
    exact h.1.2 v hv
  · rw [wkOf_modWk, hk]

theorem atWorker_issueSeen_modWk (f : WorkerSt → WorkerSt) : AtWorker s (modWk (issueSeen s w) w f) w (f (counted s w)) :=
  (atWorker_issueSeen s w).modWk_of_eq (wkOf_issueSeen s w) f

/-- The instruction completes with the record that its effect leaves. -/
theorem AtWorker.becomes (h : AtWorker s t w (recounted s k)) (he : exec i s = .next (Machine.quantumEnd t w)) : Becomes i s w k := by
  obtain ⟨honly, hrec⟩ := h.completes
  exact ⟨_, he, honly, hrec⟩

theorem becomes_of_issue {e : State → State} (h : Issues s w) (he : exec i s = issue s w e)
    (heff : e (issueSeen s w) = modWk (issueSeen s w) w f) (hf : f (counted s w) = recounted s k) : Becomes i s w k := by
  have hat : AtWorker s (modWk (issueSeen s w) w f) w (f (counted s w)) := atWorker_issueSeen_modWk f
  rw [hf] at hat
  exact hat.becomes (by rw [he, issue_issueSeen e h, heff])

/-- An effect on the worker's record alone, with the PC past the instruction. -/
theorem issue_eq_issueK {e : State → State} (h : Issues s w) (he : e (issueSeen s w) = modWk (issueSeen s w) w fun k => nextPc (f k)) :
    issue s w e = issueK s w f := by
  rw [issueK, issue_issueSeen _ h, issue_issueSeen _ h, he]

section
variable {d : GReg} {ad : AReg} {x : Word} {y : DWord} {sw : Flags} (h : Issues s w) (he : exec i s = issueK s w f)
include h he

theorem becomes_of_issueK (hf : nextPc (f (counted s w)) = recounted s k) : Becomes i s w k := becomes_of_issue h he rfl hf

theorem gives_of_issueK
    (hf : f (counted s w) = { counted s w with g := gWrite (wkOf s w).g d x, sw := { sw with lead := isLead s } }) :
    Gives i s w d x sw :=
  becomes_of_issueK h he (congrArg nextPc hf)

theorem givesA_of_issueK
    (hf : f (counted s w) = { counted s w with a := (wkOf s w).a.set ad y, sw := { sw with lead := isLead s } }) :
    GivesA i s w ad y sw :=
  becomes_of_issueK h he (congrArg nextPc hf)

theorem flagged_of_issueK (hf : f (counted s w) = { counted s w with sw := { sw with lead := isLead s } }) : Flagged i s w sw :=
  becomes_of_issueK h he (congrArg nextPc hf)

end

end

/-! ## What the shared forms write (R105, R110) -/

theorem putPlain_eq (k : WorkerSt) (d : GReg) (v : Word) : putPlain k d v = { k with g := gWrite k.g d v, sw := plain k.sw v } := by
  rw [putPlain, gSet_eq]
  rfl

theorem putQ_eq (k : WorkerSt) (d : GReg) (x : Int) : putQ k d x =
    { k with g := gWrite k.g d (satQ x).1, sw := { zn k.sw (satQ x).1 with sat := k.sw.sat || (satQ x).2 } } := by
  rw [putQ, gSet_eq]
  rfl

theorem gives_gSet {s : State} {w : Worker} {i : Instr} {d : GReg} {x : Word} {f : WorkerSt → Word} (h : Issues s w)
    (he : exec i s = issueK s w fun k => gSet k d (f k)) (hx : f (counted s w) = x) : Gives i s w d x (wkOf s w).sw := by
  subst hx
  refine gives_of_issueK h he ?_
  rw [gSet_eq]
  rfl

end Sys2Proof.Machine

namespace Sys2Proof.Machine

/-! ## Values of the integer functions (R107, R108, R109) -/

theorem sshiftRight_eq_ofInt_div {n : Nat} (a : BitVec n) (i : Nat) : a.sshiftRight i = BitVec.ofInt n (a.toInt / 2 ^ i) := by
  rw [BitVec.sshiftRight_eq, Int.shiftRight_eq_div_pow]
  norm_cast

theorem b2w_decide (p : Prop) [Decidable p] : b2w (decide p) = if p then 1 else 0 := by
  by_cases hp : p <;> simp [b2w, word, ofBool, hp]

theorem b2w_slt (a b : Word) : b2w (a.slt b) = if a.toInt < b.toInt then 1 else 0 := b2w_decide _
theorem b2w_ult (a b : Word) : b2w (a.ult b) = if a.toNat < b.toNat then 1 else 0 := b2w_decide _

theorem ite_slt_eq_ofInt_min (a b : Word) : (if a.slt b then a else b) = BitVec.ofInt 32 (min a.toInt b.toInt) := by
  by_cases h : a.toInt < b.toInt
  · rw [if_pos (BitVec.slt_iff_toInt_lt.mpr h), min_eq_left h.le, BitVec.ofInt_toInt]
  · rw [if_neg (BitVec.slt_iff_toInt_lt.not.mpr h), min_eq_right (not_lt.mp h), BitVec.ofInt_toInt]

theorem ite_slt_eq_ofInt_max (a b : Word) : (if a.slt b then b else a) = BitVec.ofInt 32 (max a.toInt b.toInt) := by
  by_cases h : a.toInt < b.toInt
  · rw [if_pos (BitVec.slt_iff_toInt_lt.mpr h), max_eq_right h.le, BitVec.ofInt_toInt]
  · rw [if_neg (BitVec.slt_iff_toInt_lt.not.mpr h), max_eq_left (not_lt.mp h), BitVec.ofInt_toInt]

theorem ite_ult_eq_ofNat_min (a b : Word) : (if a.ult b then a else b) = BitVec.ofNat 32 (min a.toNat b.toNat) := by
  by_cases h : a.toNat < b.toNat
  · rw [if_pos (BitVec.ult_iff_toNat_lt.mpr h), min_eq_left h.le, BitVec.ofNat_toNat, BitVec.setWidth_eq]
  · rw [if_neg (BitVec.ult_iff_toNat_lt.not.mpr h), min_eq_right (not_lt.mp h), BitVec.ofNat_toNat, BitVec.setWidth_eq]

theorem ite_ult_eq_ofNat_max (a b : Word) : (if a.ult b then b else a) = BitVec.ofNat 32 (max a.toNat b.toNat) := by
  by_cases h : a.toNat < b.toNat
  · rw [if_pos (BitVec.ult_iff_toNat_lt.mpr h), max_eq_right h.le, BitVec.ofNat_toNat, BitVec.setWidth_eq]
  · rw [if_neg (BitVec.ult_iff_toNat_lt.not.mpr h), max_eq_left (not_lt.mp h), BitVec.ofNat_toNat, BitVec.setWidth_eq]

/-- The highest one bit of a word other than 0 stands below its leading zeros. -/
theorem log2_eq_sub_clz {a : Word} (h : a ≠ 0) : Nat.log2 a.toNat = 31 - a.clz.toNat := by
  have hle : a.clz < 32#32 := BitVec.clz_lt_iff_ne_zero.mpr h
  have hlt : a.clz.toNat < 32 := hle
  have hpos : a.toNat ≠ 0 := fun h0 => h (BitVec.eq_of_toNat_eq h0)
  rw [Nat.log2_eq_iff hpos]
  refine ⟨BitVec.two_pow_sub_clz_le_toNat_of_ne_zero (by decide) h, ?_⟩
  rw [show 31 - a.clz.toNat + 1 = 32 - a.clz.toNat by omega]
  exact BitVec.toNat_lt_two_pow_sub_clz

theorem word_clz32 (a : Word) : word (clz32 a) = a.clz := by
  by_cases h : a = 0
  · subst h
    decide
  · have hle : a.clz < 32#32 := BitVec.clz_lt_iff_ne_zero.mpr h
    have hlt : a.clz.toNat < 32 := hle
    have hpos : a.toNat ≠ 0 := fun h0 => h (BitVec.eq_of_toNat_eq h0)
    rw [clz32, if_neg hpos, log2_eq_sub_clz h, show 31 - (31 - a.clz.toNat) = a.clz.toNat by omega, word, BitVec.ofNat_toNat,
      BitVec.setWidth_eq]

/-- Counting by a running sum. -/
theorem foldl_add_ofBool (l : List Nat) (p : Nat → Bool) (n : Nat) :
    l.foldl (fun n i => n + ofBool (p i)) n = n + (l.filter p).length := by
  induction l generalizing n with
  | nil => rfl
  | cons x l ih =>
    rw [List.foldl_cons, ih, List.filter_cons]
    cases p x
    · rfl
    · simp only [ofBool, if_true, List.length_cons]
      omega

theorem popc32_eq (a : Word) : popc32 a = ((List.range 32).filter fun i => a.getLsbD i).length := by
  rw [popc32, foldl_add_ofBool, Nat.zero_add]

/-! ## Products (R105) -/

theorem not_fits32_eq (x : Int) : decide (x < -(2 ^ (32 - 1) : Nat) ∨ ((2 ^ (32 - 1) : Nat) : Int) ≤ x) = !(decide (-(2 ^ 31) ≤ x ∧ x < 2 ^ 31)) := by
  rw [← decide_not, decide_eq_decide, not_and_or, not_le, not_lt]
  norm_num

/-- An unsigned sum wraps where it reaches 2^64. -/
theorem toNat_ofInt_ne_iff {x : Int} (h : 0 ≤ x) : ((BitVec.ofInt 64 x).toNat : Int) ≠ x ↔ 2 ^ 64 ≤ x := by
  rw [BitVec.toNat_ofInt]
  omega

/-! ## Division (R108) -/

/-- A quotient of 2^31 out of a dividend no larger has the divisor 1. -/
theorem div_eq_self_bound {x y n : Nat} (hn : 0 < n) (hx : x ≤ n) (h : x / y = n) : x = n ∧ y = 1 := by
  have hself := Nat.div_le_self x y
  have hy : 0 < y := Nat.pos_of_ne_zero fun h0 => by rw [h0, Nat.div_zero] at h; omega
  have hmul := Nat.div_mul_le_self x y
  have hxn : x = n := by omega
  rw [h, hxn] at hmul
  exact ⟨hxn, by nlinarith⟩

/-- The one quotient of words that leaves 32 bits. -/
theorem tdiv_eq_two_pow_iff (a b : Word) : a.toInt.tdiv b.toInt = 2147483648 ↔ a = 0x80000000 ∧ b = 0xFFFFFFFF := by
  constructor
  · intro h
    have hlo := BitVec.le_toInt a
    have hhi := BitVec.toInt_lt (x := a)
    have habs : a.toInt.natAbs / b.toInt.natAbs = 2147483648 := (Int.natAbs_tdiv ..).symm.trans (congrArg Int.natAbs h)
    obtain ⟨ha, hb⟩ := div_eq_self_bound (by decide) (by omega) habs
    have ha' : a.toInt = -2147483648 := by omega
    have hb' : b.toInt = -1 := by
      rcases Int.natAbs_eq_iff.mp hb with h1 | h1
      · rw [ha', h1] at h
        exact absurd h (by decide)
      · exact h1
    exact ⟨BitVec.eq_of_toInt_eq ha', BitVec.eq_of_toInt_eq hb'⟩
  · rintro ⟨rfl, rfl⟩
    decide

theorem udiv_eq_ofNat (a b : Word) : a / b = BitVec.ofNat 32 (a.toNat / b.toNat) := by
  rw [← BitVec.toNat_udiv, BitVec.ofNat_toNat, BitVec.setWidth_eq]
theorem umod_eq_ofNat (a b : Word) : a % b = BitVec.ofNat 32 (a.toNat % b.toNat) := by
  rw [← BitVec.toNat_umod, BitVec.ofNat_toNat, BitVec.setWidth_eq]

/-! ## Immediate forms and accumulators (R109, R112) -/

theorem setWidth_shiftLeft_16 (imm : Half) : (imm.setWidth 32 : Word) <<< 16 = BitVec.ofNat 32 (imm.toNat * 65536) := by
  refine BitVec.eq_of_toNat_eq ?_
  simp only [BitVec.toNat_shiftLeft, BitVec.toNat_setWidth, BitVec.toNat_ofNat, Nat.shiftLeft_eq]
  omega

theorem rotateRight_eq_or (a : Word) (sh : BitVec 5) :
    a.rotateRight sh.toNat = (a >>> sh.toNat) ||| (a <<< (32 - sh.toNat)) := by
  rw [BitVec.rotateRight_def, Nat.mod_eq_of_lt sh.isLt]

theorem ofNat_join (a b : Word) : BitVec.ofNat 64 (b.toNat * 4294967296 + a.toNat) = b ++ a := by
  refine BitVec.eq_of_toNat_eq ?_
  rw [BitVec.toNat_append, ← Nat.shiftLeft_add_eq_or_of_lt a.isLt, Nat.shiftLeft_eq, BitVec.toNat_ofNat]
  omega

theorem setWidth_low (x : DWord) : (x.setWidth 32 : Word) = BitVec.ofNat 32 (x.toNat % 2 ^ 32) :=
  BitVec.eq_of_toNat_eq (by simp)

theorem setWidth_high (x : DWord) : ((x >>> 32).setWidth 32 : Word) = BitVec.ofNat 32 (x.toNat / 2 ^ 32) :=
  BitVec.eq_of_toNat_eq (by simp [Nat.shiftRight_eq_div_pow])

/-- Little-endian bytes of a register (R12). -/
theorem bytesLE_toNat {m : Nat} (n : Nat) (y : BitVec m) : bytesLE n y.toNat = (List.range n).map fun i => (y >>> (8 * i)).setWidth 8 := by
  unfold bytesLE
  refine List.map_congr_left fun i _ => BitVec.eq_of_toNat_eq ?_
  rw [BitVec.toNat_ofNat, BitVec.toNat_setWidth, BitVec.toNat_ushiftRight]

/-! ## Saturation and rounding (R110) -/

theorem clampInt_ne_iff {lo hi : Int} (x : Int) : clampInt lo hi x ≠ x ↔ x < lo ∨ hi < x := by
  unfold clampInt
  split
  · omega
  · split <;> omega

theorem satQ_snd (x : Int) : (satQ x).2 = decide (clampInt (-(2 ^ 31)) (2 ^ 31 - 1) x ≠ x) :=
  decide_eq_decide.mpr (clampInt_ne_iff x).symm

theorem roundDiv_eq (x : Int) (n : Nat) :
    roundDiv x n = if 0 ≤ x then (2 * x + n) / (2 * n) else -((2 * -x + n) / (2 * n)) := by
  by_cases hx : 0 ≤ x
  · rw [roundDiv, if_neg hx.not_gt, if_pos hx]
  · rw [roundDiv, if_pos (not_le.mp hx), if_neg hx]

end Sys2Proof.Machine

namespace Sys2Proof.Machine

/-! ## The arms of the integer, fixed-point and accumulator instructions (R107-R112) -/

section
variable (w : Worker) (d s1 s2 : GReg) (imm : Half) (ad as1 as2 : AReg) (sh : BitVec 5) (cond : BitVec 4) (s : State)

theorem exec_and : exec (.and w d s1 s2) s = execAnd w d s1 s2 s := rfl
theorem exec_or : exec (.or w d s1 s2) s = execOr w d s1 s2 s := rfl
theorem exec_xor : exec (.xor w d s1 s2) s = execXor w d s1 s2 s := rfl
theorem exec_nor : exec (.nor w d s1 s2) s = execNor w d s1 s2 s := rfl
theorem exec_sll : exec (.sll w d s1 s2) s = execSll w d s1 s2 s := rfl
theorem exec_srl : exec (.srl w d s1 s2) s = execSrl w d s1 s2 s := rfl
theorem exec_sra : exec (.sra w d s1 s2) s = execSra w d s1 s2 s := rfl
theorem exec_slt : exec (.slt w d s1 s2) s = execSlt w d s1 s2 s := rfl
theorem exec_sltu : exec (.sltu w d s1 s2) s = execSltu w d s1 s2 s := rfl
theorem exec_mulhu : exec (.mulhu w d s1 s2) s = execMulhu w d s1 s2 s := rfl
theorem exec_min : exec (.min w d s1 s2) s = execMin w d s1 s2 s := rfl
theorem exec_max : exec (.max w d s1 s2) s = execMax w d s1 s2 s := rfl
theorem exec_minu : exec (.minu w d s1 s2) s = execMinu w d s1 s2 s := rfl
theorem exec_maxu : exec (.maxu w d s1 s2) s = execMaxu w d s1 s2 s := rfl
theorem exec_clz : exec (.clz w d s1) s = execClz w d s1 s := rfl
theorem exec_popc : exec (.popc w d s1) s = execPopc w d s1 s := rfl
theorem exec_add : exec (.add w d s1 s2) s = execAdd w d s1 s2 s := rfl
theorem exec_sub : exec (.sub w d s1 s2) s = execSub w d s1 s2 s := rfl
theorem exec_addi : exec (.addi w d s1 imm) s = execAddi w d s1 imm s := rfl
theorem exec_cmpi : exec (.cmpi w s1 imm) s = execCmpi w s1 imm s := rfl
theorem exec_aadd : exec (.aadd w ad as1 as2) s = execAadd w ad as1 as2 s := rfl
theorem exec_asub : exec (.asub w ad as1 as2) s = execAsub w ad as1 as2 s := rfl
theorem exec_acmp : exec (.acmp w as1 as2) s = execAcmp w as1 as2 s := rfl
theorem exec_mul : exec (.mul w d s1 s2) s = execMul w d s1 s2 s := rfl
theorem exec_mulh : exec (.mulh w d s1 s2) s = execMulh w d s1 s2 s := rfl
theorem exec_muli : exec (.muli w d s1 imm) s = execMuli w d s1 imm s := rfl
theorem exec_mac : exec (.mac w ad s1 s2) s = execMac w ad s1 s2 s := rfl
theorem exec_macu : exec (.macu w ad s1 s2) s = execMacu w ad s1 s2 s := rfl
theorem exec_msu : exec (.msu w ad s1 s2) s = execMsu w ad s1 s2 s := rfl
theorem exec_qmac : exec (.qmac w ad s1 s2) s = execQmac w ad s1 s2 s := rfl
theorem exec_div : exec (.div w d s1 s2) s = execDiv w d s1 s2 s := rfl
theorem exec_divu : exec (.divu w d s1 s2) s = execDivu w d s1 s2 s := rfl
theorem exec_rem : exec (.rem w d s1 s2) s = execRem w d s1 s2 s := rfl
theorem exec_remu : exec (.remu w d s1 s2) s = execRemu w d s1 s2 s := rfl
theorem exec_qdiv : exec (.qdiv w d s1 s2) s = execQdiv w d s1 s2 s := rfl
theorem exec_slti : exec (.slti w d s1 imm) s = execSlti w d s1 imm s := rfl
theorem exec_sltiu : exec (.sltiu w d s1 imm) s = execSltiu w d s1 imm s := rfl
theorem exec_andi : exec (.andi w d s1 imm) s = execAndi w d s1 imm s := rfl
theorem exec_ori : exec (.ori w d s1 imm) s = execOri w d s1 imm s := rfl
theorem exec_xori : exec (.xori w d s1 imm) s = execXori w d s1 imm s := rfl
theorem exec_lui : exec (.lui w d imm) s = execLui w d imm s := rfl
theorem exec_shiSll : exec (.shiSll w d s1 sh) s = execShiSll w d s1 sh s := rfl
theorem exec_shiSrl : exec (.shiSrl w d s1 sh) s = execShiSrl w d s1 sh s := rfl
theorem exec_shiSra : exec (.shiSra w d s1 sh) s = execShiSra w d s1 sh s := rfl
theorem exec_shiRotateRight : exec (.shiRotateRight w d s1 sh) s = execShiRotateRight w d s1 sh s := rfl
theorem exec_rdsw : exec (.rdsw w d) s = execRdsw w d s := rfl
theorem exec_csel : exec (.csel w d s1 s2 cond) s = execCsel w d s1 s2 cond s := rfl
theorem exec_qadd : exec (.qadd w d s1 s2) s = execQadd w d s1 s2 s := rfl
theorem exec_qsub : exec (.qsub w d s1 s2) s = execQsub w d s1 s2 s := rfl
theorem exec_qmul : exec (.qmul w d s1 s2) s = execQmul w d s1 s2 s := rfl
theorem exec_qmuli : exec (.qmuli w d s1 imm) s = execQmuli w d s1 imm s := rfl
theorem exec_qabs : exec (.qabs w d s1) s = execQabs w d s1 s := rfl
theorem exec_qneg : exec (.qneg w d s1) s = execQneg w d s1 s := rfl
theorem exec_itoq : exec (.itoq w d s1) s = execItoq w d s1 s := rfl
theorem exec_qtoi : exec (.qtoi w d s1) s = execQtoi w d s1 s := rfl
theorem exec_qrnd : exec (.qrnd w d s1) s = execQrnd w d s1 s := rfl
theorem exec_qclr : exec (.qclr w) s = execQclr w s := rfl
theorem exec_aclr : exec (.aclr w ad) s = execAclr w ad s := rfl
theorem exec_amov : exec (.amov w ad as1) s = execAmov w ad as1 s := rfl
theorem exec_ajoin : exec (.ajoin w ad s1 s2) s = execAjoin w ad s1 s2 s := rfl
theorem exec_asext : exec (.asext w ad s1) s = execAsext w ad s1 s := rfl
theorem exec_asra : exec (.asra w ad as1 s2) s = execAsra w ad as1 s2 s := rfl
theorem exec_asll : exec (.asll w ad as1 s2) s = execAsll w ad as1 s2 s := rfl
theorem exec_alo : exec (.alo w d as1) s = execAlo w d as1 s := rfl
theorem exec_ahi : exec (.ahi w d as1) s = execAhi w d as1 s := rfl
theorem exec_aq : exec (.aq w d as1) s = execAq w d as1 s := rfl

end

/-! ## Functions with plain flags (R105, R107, R109) -/

section
variable {s : State} {w : Worker} {i : Instr} {d s1 s2 : GReg} {v : Word}

theorem gives_putPlain {f : WorkerSt → Word} (h : Issues s w) (he : exec i s = issueK s w fun k => putPlain k d (f k))
    (hv : f (counted s w) = v) : Gives i s w d v (plain (wkOf s w).sw v) := by
  subst hv
  exact gives_of_issueK h he (putPlain_eq ..)

theorem gives_alu {f : Word → Word → Word} (h : Issues s w) (he : exec i s = alu s w d s1 s2 f)
    (hv : f (gGet (wkOf s w) s1) (gGet (wkOf s w) s2) = v) : Gives i s w d v (plain (wkOf s w).sw v) :=
  gives_putPlain h he hv

theorem gives_aluImm {f : Word → Word} (h : Issues s w) (he : exec i s = aluImm s w d s1 f)
    (hv : f (gGet (wkOf s w) s1) = v) : Gives i s w d v (plain (wkOf s w).sw v) :=
  gives_putPlain h he hv

/-- SW as RDSW reads it, with the copy of LEAD current (R101). -/
theorem swWord_issueSeen (s : State) (w : Worker) : swWord (issueSeen s w) (wkOf (issueSeen s w) w) =
    swWord s { wkOf s w with sw := { (wkOf s w).sw with lead := isLead s } } := by
  rw [wkOf_issueSeen]
  simp only [swWord, restartsNow, (atWorker_issueSeen s w).clocks.nowNs]
  rfl

theorem exec_rdsw_eq (h : Issues s w) (d : GReg) : exec (.rdsw w d) s =
    issueK s w fun k => putPlain k d (swWord s { wkOf s w with sw := { (wkOf s w).sw with lead := isLead s } }) := by
  rw [exec_rdsw, execRdsw, issue_eq_issueK h]
  simp only [swWord_issueSeen]

end

/-- Settles O2: each function writes one value with plain flags (R105), which is that of R107 read as a number. -/
theorem aluRegister : Obligations.AluRegister := by
  unfold Obligations.AluRegister
  intro s w d s1 s2 h f a b yields
  exact ⟨gives_alu h (exec_and ..) rfl, gives_alu h (exec_or ..) rfl, gives_alu h (exec_xor ..) rfl, gives_alu h (exec_nor ..) rfl,
    gives_alu h (exec_sll ..) rfl, gives_alu h (exec_srl ..) rfl, gives_alu h (exec_sra ..) (sshiftRight_eq_ofInt_div _ _),
    gives_alu h (exec_slt ..) (b2w_slt _ _), gives_alu h (exec_sltu ..) (b2w_ult _ _), gives_alu h (exec_mulhu ..) rfl,
    gives_alu h (exec_min ..) (ite_slt_eq_ofInt_min _ _), gives_alu h (exec_max ..) (ite_slt_eq_ofInt_max _ _),
    gives_alu h (exec_minu ..) (ite_ult_eq_ofNat_min _ _), gives_alu h (exec_maxu ..) (ite_ult_eq_ofNat_max _ _),
    gives_aluImm h (exec_clz ..) (word_clz32 _), gives_aluImm h (exec_popc ..) (congrArg word (popc32_eq _))⟩

/-- Settles O6: the immediate forms and RDSW write one value with plain flags (R105); CSEL, whose condition is one of R119, leaves them
(R111). -/
theorem immediates : Obligations.Immediates := by
  unfold Obligations.Immediates
  intro s w d s1 s2 imm sh cond h f a b sext zext sw yields
  exact ⟨gives_aluImm h (exec_slti ..) (b2w_slt _ _), gives_aluImm h (exec_sltiu ..) (b2w_ult _ _), gives_aluImm h (exec_andi ..) rfl,
    gives_aluImm h (exec_ori ..) rfl, gives_aluImm h (exec_xori ..) rfl, gives_putPlain h (exec_lui ..) (setWidth_shiftLeft_16 _),
    gives_aluImm h (exec_shiSll ..) rfl, gives_aluImm h (exec_shiSrl ..) rfl,
    gives_aluImm h (exec_shiSra ..) (sshiftRight_eq_ofInt_div _ _), gives_aluImm h (exec_shiRotateRight ..) (rotateRight_eq_or _ _),
    gives_putPlain h (exec_rdsw_eq h d) rfl, gives_gSet h (exec_csel ..) rfl⟩

/-! ## Additions and subtractions (R105, R107, R109, R112) -/

/-- A word is written with Z and N of it and the C and V given. -/
theorem gives_putFlags {s : State} {w : Worker} {i : Instr} {d : GReg} {x : WorkerSt → Word} {c v : WorkerSt → Bool} {v' : Bool}
    (h : Issues s w) (he : exec i s = issueK s w fun k => putFlags (gSet k d (x k)) (x k == 0) (x k).msb (c k) (v k))
    (hv : v (counted s w) = v') :
    Gives i s w d (x (counted s w)) { zn (wkOf s w).sw (x (counted s w)) with c := c (counted s w), v := v' } := by
  subst hv
  refine gives_of_issueK h he ?_
  rw [gSet_eq]
  rfl

/-- Settles O3: each writes all four flags of its sum or difference (R105). -/
theorem addSubtractFlags : Obligations.AddSubtractFlags := by
  unfold Obligations.AddSubtractFlags
  intro s w d s1 s2 ad as1 as2 imm h f a b i x y sum dif
  exact ⟨gives_putFlags h (exec_add ..) rfl, gives_putFlags h (exec_sub ..) rfl, gives_putFlags h (exec_addi ..) rfl,
    flagged_of_issueK h (exec_cmpi ..) rfl, givesA_of_issueK h (exec_aadd ..) rfl, givesA_of_issueK h (exec_asub ..) rfl,
    flagged_of_issueK h (exec_acmp ..) rfl⟩

/-! ## Products (R105, R107, R109, R112) -/

theorem mulFlags_eq (k : WorkerSt) (v : Word) (x : Int) :
    mulFlags k v x = { k with sw := { zn k.sw v with v := !(decide (-(2 ^ 31) ≤ x ∧ x < 2 ^ 31)) } } := by
  rw [← not_fits32_eq]
  rfl

section
variable {s : State} {w : Worker} {i : Instr} {d : GReg} {ad : AReg}

/-- A product of words is written, in part or whole, with its flags. -/
theorem gives_mulFlags {x : WorkerSt → Int} {v : WorkerSt → Word} (h : Issues s w)
    (he : exec i s = issueK s w fun k => mulFlags (gSet k d (v k)) (v k) (x k)) : Gives i s w d (v (counted s w))
      { zn (wkOf s w).sw (v (counted s w)) with v := !(decide (-(2 ^ 31) ≤ x (counted s w) ∧ x (counted s w) < 2 ^ 31)) } := by
  refine gives_of_issueK h he ?_
  rw [gSet_eq, mulFlags_eq]
  rfl

end

/-- Settles O4; that MULH sets V as MUL does, and that MAC and its kin set it where the exact sum leaves 64 bits, are readings of log
entry 19. -/
theorem products : Obligations.Products := by
  unfold Obligations.Products
  intro s w d s1 s2 ad imm h f a b acc p q fits lo add64 uns wraps
  refine ⟨gives_mulFlags h (exec_mul ..), gives_mulFlags h (exec_mulh ..), gives_mulFlags h (exec_muli ..),
    givesA_of_issueK h (exec_mac ..) rfl, givesA_of_issueK h (exec_macu ..) ?_, givesA_of_issueK h (exec_msu ..) rfl,
    givesA_of_issueK h (exec_qmac ..) rfl⟩
  rw [← decide_eq_decide.mpr (toNat_ofInt_ne_iff (add_nonneg (Int.natCast_nonneg _) (mul_nonneg (Int.natCast_nonneg _) (Int.natCast_nonneg _))))]
  rfl

/-! ## Division (R105, R108, R110) -/

section
variable {s : State} {w : Worker} {i : Instr} {s2 : GReg} {f : WorkerSt → WorkerSt}

theorem divide_eq_issueK (h : Issues s w) (hb : gGet (wkOf s w) s2 ≠ 0) : divide s w s2 f = issueK s w f := by
  rw [divide, issue_eq_issueK h]
  simp only [gGet_issueSeen, if_neg hb]

theorem divide_traps (h : Issues s w) (hb : gGet (wkOf s w) s2 = 0) (he : exec i s = divide s w s2 f) : Traps i s w 0x05 := by
  refine traps_of_issue (a := 0) h he ?_
  simp only [gGet_issueSeen, if_pos hb]

end

/-! ## Q16.16 results (R105, R110) -/

section
variable {s : State} {w : Worker} {i : Instr} {d : GReg}

theorem gives_putQ {f : WorkerSt → Int} {x : Int} (h : Issues s w) (he : exec i s = issueK s w fun k => putQ k d (f k))
    (hx : f (counted s w) = x) : Gives i s w d (BitVec.ofInt 32 (clampInt (-(2 ^ 31)) (2 ^ 31 - 1) x))
      { zn (wkOf s w).sw (BitVec.ofInt 32 (clampInt (-(2 ^ 31)) (2 ^ 31 - 1) x)) with
        sat := (wkOf s w).sw.sat || decide (clampInt (-(2 ^ 31)) (2 ^ 31 - 1) x ≠ x) } := by
  subst hx
  refine gives_of_issueK h he ?_
  rw [putQ_eq, satQ_snd]
  rfl

end

/-- Settles O5: a division faults on a divisor of 0 (R108), and otherwise acts on its worker alone; the flags are those of R105, and
QDIV's those of R110. -/
theorem division : Obligations.Division := by
  unfold Obligations.Division
  intro s w d s1 s2 h f a b q r x sat
  refine ⟨fun hb => ?_, fun hb => ?_⟩
  · have hdiv : ∀ f, divide s w s2 f = issueK s w f := fun f => divide_eq_issueK h hb
    exact ⟨gives_putFlags h ((exec_div ..).trans (hdiv _)) (decide_eq_decide.mpr (tdiv_eq_two_pow_iff a b)),
      gives_putPlain h ((exec_divu ..).trans (hdiv _)) (udiv_eq_ofNat ..), gives_putPlain h ((exec_rem ..).trans (hdiv _)) rfl,
      gives_putPlain h ((exec_remu ..).trans (hdiv _)) (umod_eq_ofNat ..),
      gives_putQ h ((exec_qdiv ..).trans (hdiv _)) rfl⟩
  · exact ⟨divide_traps h hb (exec_div ..), divide_traps h hb (exec_divu ..), divide_traps h hb (exec_rem ..),
      divide_traps h hb (exec_remu ..), divide_traps h hb (exec_qdiv ..)⟩

/-- Settles O7: each result but QCLR's is one saturated Q16.16 value (R110). -/
theorem fixedPoint : Obligations.FixedPoint := by
  unfold Obligations.FixedPoint
  intro s w d s1 s2 imm h f a b nearest yields
  refine ⟨gives_putQ h (exec_qadd ..) rfl, gives_putQ h (exec_qsub ..) rfl, gives_putQ h (exec_qmul ..) (roundDiv_eq _ _),
    gives_putQ h (exec_qmuli ..) (roundDiv_eq _ _), gives_putQ h (exec_qabs ..) ?_, gives_putQ h (exec_qneg ..) rfl,
    gives_putQ h (exec_itoq ..) rfl, gives_putQ h (exec_qtoi ..) rfl, gives_putQ h (exec_qrnd ..) (roundDiv_eq _ _),
    flagged_of_issueK h (exec_qclr ..) rfl⟩
  change ((a.natAbs : Nat) : Int) = if a < 0 then -a else a
  split <;> omega

/-- Settles O8; that ASLL sets V where the exact signed value leaves 64 bits is a reading of log entry 19. -/
theorem accumulators : Obligations.Accumulators := by
  unfold Obligations.Accumulators
  intro s w d s1 s2 ad as1 h f a b x n up q y
  refine ⟨givesA_of_issueK h (exec_aclr ..) rfl, givesA_of_issueK h (exec_amov ..) rfl, givesA_of_issueK h (exec_ajoin ..) ?_,
    givesA_of_issueK h (exec_asext ..) rfl, givesA_of_issueK h (exec_asra ..) ?_, givesA_of_issueK h (exec_asll ..) rfl,
    gives_gSet h (exec_alo ..) (setWidth_low _), gives_gSet h (exec_ahi ..) (setWidth_high _), gives_of_issueK h (exec_aq ..) ?_⟩
  · rw [← ofNat_join]
    rfl
  · rw [← sshiftRight_eq_ofInt_div]
    rfl
  · change putSat (gSet (counted s w) d (satQ q).1) (satQ q).2 = _
    rw [gSet_eq, ← satQ_snd]
    rfl

end Sys2Proof.Machine

namespace Sys2Proof.Machine

/-! ## Branches and jumps (R119-R121, R162) -/

section
variable (w : Worker) (d s1 : GReg) (imm off : Half) (link : Bool) (cond : BitVec 4) (s : State)

theorem exec_beq : exec (.beq w d s1 imm) s = execBeq w d s1 imm s := rfl
theorem exec_bne : exec (.bne w d s1 imm) s = execBne w d s1 imm s := rfl
theorem exec_bc : exec (.bc w link cond off) s = execBc w link cond off s := rfl
theorem exec_jr : exec (.jr w s1) s = execJr w s1 s := rfl
theorem exec_jalr : exec (.jalr w d s1) s = execJalr w d s1 s := rfl

end

section
variable {s : State} {w : Worker} {i : Instr} {g : Vector Word 32} {x : Word}

/-- The worker may run from `x`: it lies in the code section, outside the segments of regions that its scope does not cover (R121,
R162). -/
def Inside (s : State) (w : Worker) (x : Word) : Prop :=
  x.toNat < s.folio.codeLen ∧ (0x100000 ≤ x.toNat →
    x.toNat < 0x200000 ∧ coversRegion (wkOf s w).scope ((x.toNat - 0x100000) / 0x10000) = true)

theorem segmentAllowed_iff (sc : Half) (off : Nat) : segmentAllowed sc off = true ↔
    (0x100000 ≤ off → off < 0x200000 ∧ coversRegion sc ((off - 0x100000) / 0x10000) = true) := by
  unfold segmentAllowed segmentOf
  by_cases hlow : off < 0x100000
  · simp [hlow]
  · have hreg : (off - 0x100000) / 0x10000 < 16 ↔ off < 0x200000 := by omega
    simp [hlow, hreg, not_lt.mp hlow]

theorem inCode_iff (s : State) (w : Worker) (x : Word) : inCode s w x = true ↔ Inside s w x := by
  rw [inCode, Bool.and_eq_true, decide_eq_true_eq, segmentAllowed_iff]
  rfl

theorem inCode_issueSeen (s : State) (w : Worker) (x : Word) : inCode (issueSeen s w) w x = inCode s w x := by
  have hfolio : (issueSeen s w).folio = s.folio := by rw [(atWorker_issueSeen s w).frame]
  rw [inCode, inCode, scopeOf, wkOf_issueSeen, hfolio]
  rfl

/-- Where an instruction goes to a target: with the target's place the PC takes it, otherwise it faults. -/
theorem becomes_goTo {e : State → State} {f : WorkerSt → WorkerSt} (h : Issues s w) (he : exec i s = issue s w e)
    (heff : e (issueSeen s w) = goTo (issueSeen s w) w x f)
    (hf : { f (counted s w) with pc := x } = recounted s { wkOf s w with g := g, pc := x }) (hin : Inside s w x) :
    Becomes i s w { wkOf s w with g := g, pc := x } := by
  refine becomes_of_issue (f := fun k => { f k with pc := x }) h he ?_ hf
  rw [heff, goTo, inCode_issueSeen, if_pos ((inCode_iff s w x).mpr hin)]

theorem traps_goTo {e : State → State} {f : WorkerSt → WorkerSt} (h : Issues s w) (he : exec i s = issue s w e)
    (heff : e (issueSeen s w) = goTo (issueSeen s w) w x f) (hout : ¬Inside s w x) : Traps i s w 0x03 := by
  refine traps_of_issue (a := x) h he ?_
  rw [heff, goTo, inCode_issueSeen, if_neg ((inCode_iff s w x).not.mpr hout)]

/-- A conditional branch, to an offset from its own address, or past it (R120). -/
theorem branch_taken {p : WorkerSt → Bool} {c : Prop} {off : Half} {link : Bool} (h : Issues s w) (he : exec i s = branch s w off p link)
    (hc : p (counted s w) = true ↔ c) :
    (¬c → Becomes i s w { wkOf s w with g := (wkOf s w).g, pc := (wkOf s w).pc + 4 })
      ∧ (c → Inside s w (branchTarget (wkOf s w) off) → Becomes i s w { wkOf s w with
          g := if link then gWrite (wkOf s w).g 31 ((wkOf s w).pc + 4) else (wkOf s w).g, pc := branchTarget (wkOf s w) off })
      ∧ (c → ¬Inside s w (branchTarget (wkOf s w) off) → Traps i s w 0x03) := by
  refine ⟨fun hno => ?_, fun hyes => ?_, fun hyes => ?_⟩
  · refine becomes_of_issue (f := nextPc) h he ?_ rfl
    simp only [wkOf_issueSeen, hc, hno, if_false]
  · refine becomes_goTo (f := fun k => if link then gSet k 31 (k.pc + 4) else k) h he ?_ ?_
    · simp only [wkOf_issueSeen, hc, hyes, if_true]
      rfl
    · cases link
      · rfl
      · rw [gSet_eq]
        rfl
  · refine traps_goTo (f := fun k => if link then gSet k 31 (k.pc + 4) else k) h he ?_
    simp only [wkOf_issueSeen, hc, hyes, if_true]
    rfl

/-- A jump to the value of a register (R121). -/
theorem jump_taken {f : WorkerSt → WorkerSt} {s1 : GReg} (h : Issues s w) (he : exec i s = jump s w s1 f)
    (hf : f (counted s w) = { counted s w with g := g }) :
    ((gGet (wkOf s w) s1).toNat % 4 = 0 → Inside s w (gGet (wkOf s w) s1) →
        Becomes i s w { wkOf s w with g := g, pc := gGet (wkOf s w) s1 })
      ∧ ((gGet (wkOf s w) s1).toNat % 4 = 0 → ¬Inside s w (gGet (wkOf s w) s1) → Traps i s w 0x03)
      ∧ ((gGet (wkOf s w) s1).toNat % 4 ≠ 0 → Traps i s w 0x04) := by
  refine ⟨fun hal => becomes_goTo (f := f) h he ?_ (by rw [hf]; rfl), fun hal => traps_goTo (f := f) h he ?_,
    fun hal => traps_of_issue (a := gGet (wkOf s w) s1) h he ?_⟩
  · simp only [gGet_issueSeen, hal, if_true]
  · simp only [gGet_issueSeen, hal, if_true]
  · simp only [gGet_issueSeen, hal, if_false]

end

/-- Settles O9: a branch goes past itself or to its target, and a jump to its target (R120, R121); that a target both misaligned and
outside the code faults with cause ALIGN is a choice of log entry 19. -/
theorem branches : Obligations.Branches := by
  unfold Obligations.Branches
  intro s w d s1 imm link cond h k rel target inside goes taken jumps
  refine ⟨branch_taken h (exec_beq ..) beq_iff_eq, branch_taken h (exec_bne ..) bne_iff_ne, branch_taken h (exec_bc ..) Iff.rfl,
    jump_taken h (exec_jr ..) rfl, jump_taken h (exec_jalr ..) ?_⟩
  rw [gSet_eq]
  rfl

end Sys2Proof.Machine

namespace Sys2Proof.Machine

/-! ## Network time and phase (R49, R51, R105, R122, R123) -/

section
variable (w : Worker) (td t1 t2 : TReg) (ad as2 : AReg) (s : State)

theorem exec_tnow : exec (.tnow w td) s = execTnow w td s := rfl
theorem exec_pnow : exec (.pnow w ad) s = execPnow w ad s := rfl
theorem exec_tadd : exec (.tadd w td t1 as2) s = execTadd w td t1 as2 s := rfl
theorem exec_tdif : exec (.tdif w ad t1 t2) s = execTdif w ad t1 t2 s := rfl

end

section
variable {s t : State} {w : Worker} {k : WorkerSt} {i : Instr}

theorem SameClocks.netNow (h : SameClocks s t) : netNow t = netNow s := by
  rw [Machine.netNow, toNet, h.netNs, h.1]
  rfl

/-! ### Triples of registers (R122) -/

/-- The general register of a number. -/
def regNo (n : Nat) : GReg := Fin.ofNat 32 n

theorem mk_eq_regNo {n : Nat} (h : n < 32) : (⟨n, h⟩ : GReg) = regNo n := Fin.ext (Nat.mod_eq_of_lt h).symm

/-- General registers with a triple written: seconds, epoch and nanoseconds. -/
def tripleWrite (g : Vector Word 32) (n : TReg) (sec epoch ns : Nat) : Vector Word 32 :=
  gWrite (gWrite (gWrite g (regNo n.val) (BitVec.ofNat 32 (sec % 2 ^ 32))) (regNo (n.val + 1))
    (BitVec.ofNat 32 (epoch * 65536 + sec / 2 ^ 32 % 65536))) (regNo (n.val + 2)) (BitVec.ofNat 32 ns)

theorem putTriple_eq (k : WorkerSt) (n : TReg) (sec : Nat) (epoch : Half) (ns : Nat) :
    putTriple k n sec epoch ns = { k with g := tripleWrite k.g n sec epoch.toNat ns } := by
  simp only [putTriple, gSet_eq, mk_eq_regNo, fld, Nat.shiftLeft_eq]
  rfl

theorem tripleNs_eq (k : WorkerSt) (n : TReg) : tripleNs k n = (gGet k (regNo (n.val + 2))).toNat := by
  rw [tripleNs, mk_eq_regNo]

theorem tripleSec_eq (k : WorkerSt) (n : TReg) :
    tripleSec k n = (gGet k (regNo (n.val + 1))).toNat % 65536 * 2 ^ 32 + (gGet k (regNo n.val)).toNat := by
  simp only [tripleSec, mk_eq_regNo]
  rfl

theorem toNat_tripleEpoch (k : WorkerSt) (n : TReg) : (tripleEpoch k n).toNat = (gGet k (regNo (n.val + 1))).toNat / 65536 := by
  have hlt := (gGet k (regNo (n.val + 1))).isLt
  rw [tripleEpoch, mk_eq_regNo, BitVec.toNat_ofNat, bitsOf, Nat.shiftRight_eq_div_pow]
  omega

/-- A triple as a count of ns, its parts read from the registers. -/
theorem tripleCount_eq (k : WorkerSt) (n : TReg) : (tripleCount k n : Int) =
    ((gGet k (regNo (n.val + 1))).toNat % 65536 * 2 ^ 32 + (gGet k (regNo n.val)).toNat : Nat) * 1000000000
      + (gGet k (regNo (n.val + 2))).toNat := by
  rw [tripleCount, tripleSec_eq, tripleNs_eq]
  push_cast
  rfl

theorem tripleEpoch_bne (k : WorkerSt) (m n : TReg) : (tripleEpoch k m != tripleEpoch k n) =
    decide ((gGet k (regNo (m.val + 1))).toNat / 65536 ≠ (gGet k (regNo (n.val + 1))).toNat / 65536) := by
  rw [← toNat_tripleEpoch, ← toNat_tripleEpoch, Bool.eq_iff_iff, bne_iff_ne, decide_eq_true_eq]
  exact BitVec.toNat_inj.not.symm

/-! ### The instructions (R123) -/

theorem badTriple_issueSeen (s : State) (w : Worker) (n : TReg) : badTriple (wkOf (issueSeen s w) w) n = badTriple (wkOf s w) n := by
  rw [wkOf_issueSeen]
  rfl

theorem badTriple_iff (k : WorkerSt) (n : TReg) : badTriple k n = true ↔ 1000000000 ≤ (gGet k (regNo (n.val + 2))).toNat := by
  rw [badTriple, tripleNs_eq, decide_eq_true_eq]

/-- What TADD writes for a sum. -/
def taddEffect (k : WorkerSt) (d s1 : TReg) (total : Int) : WorkerSt :=
  putV (putTriple k d (total / 1000000000 % 281474976710656).toNat (tripleEpoch k s1) (total % 1000000000).toNat)
    (decide (total / 1000000000 < 0 ∨ 281474976710656 ≤ total / 1000000000))

/-- What TDIF writes for a difference. -/
def tdifEffect (k : WorkerSt) (d : AReg) (s1 s2 : TReg) (dif : Int) : WorkerSt :=
  putV (flagsZN64 (aSet k d (BitVec.ofInt 64 dif)) (BitVec.ofInt 64 dif)) (tripleEpoch k s1 != tripleEpoch k s2)

section
variable (h : Issues s w) (d s1 s2 : TReg) (ad as2 : AReg)
include h

theorem exec_tnow_eq : exec (.tnow w d) s =
    issueK s w fun k => putTriple k d (netNow s).sec.toNat (netNow s).epoch (netNow s).ns.toNat := by
  rw [exec_tnow, execTnow, issue_eq_issueK h]
  simp only [(atWorker_issueSeen s w).clocks.netNow]

theorem exec_pnow_eq : exec (.pnow w ad) s = issueK s w fun k => aSet k ad (phaseNow s) := by
  rw [exec_pnow, execPnow, issue_eq_issueK h]
  simp only [(atWorker_issueSeen s w).clocks.phaseNow]

theorem exec_tadd_eq (hok : badTriple (wkOf s w) s1 = false) :
    exec (.tadd w d s1 as2) s = issueK s w fun k => taddEffect k d s1 (tripleCount k s1 + (aGet k as2).toInt) := by
  rw [exec_tadd, execTadd, issue_eq_issueK h]
  simp only [badTriple_issueSeen, hok, Bool.false_eq_true, if_false]
  rfl

theorem exec_tdif_eq (hok1 : badTriple (wkOf s w) s1 = false) (hok2 : badTriple (wkOf s w) s2 = false) :
    exec (.tdif w ad s1 s2) s = issueK s w fun k => tdifEffect k ad s1 s2 ((tripleCount k s1 : Int) - tripleCount k s2) := by
  rw [exec_tdif, execTdif, issue_eq_issueK h]
  simp only [badTriple_issueSeen, hok1, hok2, Bool.or_false, Bool.false_eq_true, if_false]
  rfl

theorem tadd_traps (hbad : badTriple (wkOf s w) s1 = true) : Traps (.tadd w d s1 as2) s w 0x06 := by
  refine traps_of_issue (a := 0) h (exec_tadd ..) ?_
  simp only [badTriple_issueSeen, hbad, if_true]

theorem tdif_traps (hbad : (badTriple (wkOf s w) s1 || badTriple (wkOf s w) s2) = true) : Traps (.tdif w ad s1 s2) s w 0x06 := by
  refine traps_of_issue (a := 0) h (exec_tdif ..) ?_
  simp only [badTriple_issueSeen, hbad, if_true]

end

end

/-- Settles O10; that a difference beyond 64 bits wraps, with V from the epochs alone, is a choice of log entry 19. -/
theorem timeOperands : Obligations.TimeOperands := by
  unfold Obligations.TimeOperands
  intro s w d s1 s2 ad as2 h k reg ns sec epoch count triple now total totalSec dif
  have hgood : ∀ n, ns n < 1000000000 → badTriple k n = false := fun n hn =>
    Bool.eq_false_iff.mpr ((badTriple_iff k n).not.mpr (Nat.not_le.mpr hn))
  have hcount : ∀ n, (tripleCount (counted s w) n : Int) = count n := tripleCount_eq k
  have hepoch : ∀ n, (tripleEpoch (counted s w) n).toNat = epoch n := toNat_tripleEpoch k
  refine ⟨becomes_of_issueK h (exec_tnow_eq h d) ?_, givesA_of_issueK h (exec_pnow_eq h ad) rfl,
    fun hok => becomes_of_issueK h (exec_tadd_eq h d s1 as2 (hgood _ hok)) ?_,
    fun hok1 hok2 => givesA_of_issueK h (exec_tdif_eq h s1 s2 ad (hgood _ hok1) (hgood _ hok2)) ?_, fun hbad => ?_⟩
  · rw [putTriple_eq]
    rfl
  · rw [hcount, taddEffect, putTriple_eq, hepoch]
    rfl
  · rw [hcount, hcount, tdifEffect, tripleEpoch_bne]
    rfl
  · have hbad' : badTriple k s1 = true := (badTriple_iff k s1).mpr hbad
    exact ⟨tadd_traps h d s1 as2 hbad', tdif_traps h s1 s2 ad (by rw [hbad', Bool.true_or]),
      tdif_traps h s2 s1 ad (by rw [hbad', Bool.or_true])⟩

end Sys2Proof.Machine

namespace Sys2Proof.Machine

/-! ## Loads from scratch and from the shared tables (R85, R88, R113, R115) -/

section
variable {s : State} {w : Worker} {i : Instr} {a : Word} {n v off : Nat} {k : WorkerSt}

theorem inBlocks_high {a : Nat} (h : 0x200000 ≤ a) : inBlocks a = false := by
  simp only [inBlocks, Bool.or_eq_false_iff, decide_eq_false_iff_not]
  omega

/-! ### Places -/

theorem loadPlace_scratch {a : Nat} (hlo : 0x40000000 ≤ a) (hhi : a + n ≤ 0x40004000) :
    loadPlace k a n = .ok (.scratch (a - 0x40000000)) := by
  rw [loadPlace, if_pos ⟨hlo, hhi⟩]

theorem loadPlace_table {a : Nat} (hlo : 0x50000000 ≤ a) (hhi : a + n ≤ 0x50400000) :
    loadPlace k a n = .ok (.table (a - 0x50000000)) := by
  have hscratch : ¬(0x40000000 ≤ a ∧ a + n ≤ 0x40004000) := by omega
  rw [loadPlace, if_neg hscratch, if_pos ⟨hlo, hhi⟩]

theorem storePlace_scratch {a : Nat} (hlo : 0x40000000 ≤ a) (hhi : a + n ≤ 0x40004000) :
    storePlace s k a n = .ok (.scratch (a - 0x40000000)) := by
  rw [storePlace, loadPlace_scratch hlo hhi]

theorem storePlace_table {a : Nat} (hlo : 0x50000000 ≤ a) (hhi : a + n ≤ 0x50400000) (hseg : segmentsOk k (a - 0x50000000) n = true) :
    storePlace s k a n = .ok (.table (a - 0x50000000)) := by
  simp only [storePlace, loadPlace_table hlo hhi, hseg, if_true]

/-- What `Holds` says, by the place of the bytes: in scratch or in the tables. -/
theorem Holds.place {a : Nat} (h : Holds s w a n v) : ∃ p, loadPlace (wkOf s w) a n = .ok p ∧ (∀ off, p ≠ .dram off)
    ∧ badPlace s w p n = false ∧ ofBytesLE (readPlace s w p n) = v ∧ 0x200000 ≤ a := by
  rcases h with ⟨hlo, hhi, hbad, hv⟩ | ⟨hlo, hhi, hbad, hv⟩
  · exact ⟨_, loadPlace_scratch hlo hhi, fun _ => Place.noConfusion, hbad, hv.symm, by omega⟩
  · exact ⟨_, loadPlace_table hlo hhi, fun _ => Place.noConfusion, hbad, hv.symm, by omega⟩

theorem badPlace_issueSeen (s : State) (w : Worker) (p : Place) (n : Nat) : badPlace (issueSeen s w) w p n = badPlace s w p n := by
  have hmem := (atWorker_issueSeen s w).mem
  cases p <;> simp only [badPlace, poisoned, hmem]

theorem readPlace_issueSeen (s : State) (w : Worker) (p : Place) (n : Nat) : readPlace (issueSeen s w) w p n = readPlace s w p n := by
  have hmem := (atWorker_issueSeen s w).mem
  have hscratch : (wkOf (issueSeen s w) w).scratch = (wkOf s w).scratch := by
    rw [wkOf_issueSeen]
    rfl
  cases p <;> simp only [readPlace, hmem, hscratch]

theorem loadPlace_issueSeen (s : State) (w : Worker) (a n : Nat) :
    loadPlace (wkOf (issueSeen s w) w) a n = loadPlace (wkOf s w) a n := by
  rw [wkOf_issueSeen]
  rfl

/-! ### The instructions -/

theorem load_held {byWord : Bool} {reg : State → State} {mem : Nat → WorkerSt → WorkerSt} {flight : Nat → Flight}
    (hal : a.toNat % n = 0) (hh : Holds s w a.toNat n v) : load (issueSeen s w) w a n byWord reg mem flight =
      modWk (issueSeen s w) w fun k => nextPc (mem v k) := by
  obtain ⟨p, hplace, hmem, hbad, hv, hhigh⟩ := hh.place
  simp only [load, hal, inBlocks_high hhigh, loadPlace_issueSeen, hplace, ne_eq, not_true, Bool.false_eq_true, if_false]
  cases p with
  | dram off => exact absurd rfl (hmem off)
  | scratch off | table off =>
    simp only [badPlace_issueSeen, hbad, readPlace_issueSeen, hv, Bool.false_eq_true, if_false]

/-- The instruction is a load of `n` bytes at `a`, with the effect of their value and the access in flight that it may make. -/
def IsLoad (i : Instr) (s : State) (w : Worker) (a : Word) (n : Nat) (mem : Nat → WorkerSt → WorkerSt) (flight : Nat → Flight) : Prop :=
  ∃ e byWord reg, exec i s = issue s w e ∧ e (issueSeen s w) = load (issueSeen s w) w a n byWord reg mem flight

theorem isLoad_ldw (s : State) (w : Worker) (d s1 : GReg) (imm : Half) : IsLoad (.ldw w d s1 imm) s w (immAddr (wkOf s w) s1 imm) 4
    (fun v k => gSet k d (word v)) (fun off => .loadG d off .word) :=
  ⟨_, _, _, exec_ldw .., by rw [immAddr_issueSeen]; rfl⟩

theorem isLoad_ldd (s : State) (w : Worker) (ad : AReg) (s1 : GReg) (imm : Half) : IsLoad (.ldd w ad s1 imm) s w
    (immAddr (wkOf s w) s1 imm) 8 (fun v k => aSet k ad (BitVec.ofNat 64 v)) (fun off => .loadA ad off) :=
  ⟨_, _, _, exec_ldd .., by rw [immAddr_issueSeen]; rfl⟩

theorem isLoad_ldx (s : State) (w : Worker) (d s1 s2 : GReg) (z : XSize) (scale : Bool) : IsLoad (.ldx w d s1 s2 z scale) s w
    (xAddr (wkOf s w) s1 s2 z scale) (xBytes z) (fun v k => gSet k d (xExtend z v)) (fun off => .loadG d off z) := by
  by_cases hz : z = .word
  · subst hz
    exact ⟨_, _, _, exec_ldx .., by rw [xAddr_issueSeen, loadSized, loadWord, xBytes]; rfl⟩
  · exact ⟨_, _, _, exec_ldx .., by rw [xAddr_issueSeen, loadSized_eq_load _ _ _ _ hz]⟩

/-- A load of what lies in scratch or in the tables acts on its worker alone. -/
theorem IsLoad.held {mem : Nat → WorkerSt → WorkerSt} {flight : Nat → Flight} (hload : IsLoad i s w a n mem flight) (h : Issues s w)
    (hat : a.toNat % n = 0 ∧ Holds s w a.toNat n v) : exec i s = issueK s w (mem v) := by
  obtain ⟨e, byWord, reg, he, heff⟩ := hload
  obtain ⟨hal, hh⟩ := hat
  rw [he, issue_eq_issueK h]
  rw [heff, load_held hal hh]

theorem ldx_gives (h : Issues s w) (d s1 s2 : GReg) (z : XSize) (scale : Bool)
    (hat : (xAddr (wkOf s w) s1 s2 z scale).toNat % xBytes z = 0 ∧ Holds s w (xAddr (wkOf s w) s1 s2 z scale).toNat (xBytes z) v) :
    Gives (.ldx w d s1 s2 z scale) s w d (xExtend z v) (wkOf s w).sw :=
  gives_gSet h ((isLoad_ldx s w d s1 s2 z scale).held h hat) rfl

end

/-- Settles O11: each is a load, and what lies in scratch or in the tables is read within the instruction (R113, R115). -/
theorem loads : Obligations.Loads := by
  unfold Obligations.Loads
  intro s w d s1 s2 ad imm scale v h k a x at' yields
  exact ⟨fun hat => gives_gSet h ((isLoad_ldw s w d s1 imm).held h hat) rfl,
    fun hat => givesA_of_issueK h ((isLoad_ldd s w ad s1 imm).held h hat) rfl, ldx_gives h d s1 s2 .word scale,
    fun hat => ⟨ldx_gives h d s1 s2 .halfS scale hat, ldx_gives h d s1 s2 .halfU scale hat⟩,
    fun hat => ⟨ldx_gives h d s1 s2 .byteS scale hat, ldx_gives h d s1 s2 .byteU scale hat⟩⟩

end Sys2Proof.Machine

namespace Sys2Proof.Machine

/-! ## Stores to scratch and to the shared tables (R85, R86, R113, R115), and atomic accesses there (R116) -/

section
variable {s t : State} {w : Worker} {i : Instr} {a : Word} {b : List Byte} {off : Nat} {e : State → State}
  {f : WorkerSt → WorkerSt} {g : Vector Word 32} {sw : Flags}

/-! ### Bytes overwritten -/

theorem overwrites_memWrite (m : Mem) (off : Nat) (b : List Byte) (hm : memWf m = true) : Overwrites m (memWrite m off b) off b := by
  refine ⟨memWrite_wf b m off hm, fun i => ?_⟩
  split
  · next hin =>
    obtain ⟨hlo, hhi⟩ := hin
    have hlt : i - off < b.length := by omega
    have hget := memGet_memWrite_in b m off (i - off) hm hlt
    rw [Nat.add_sub_cancel' hlo] at hget
    rw [hget, List.getD_eq_getElem _ _ hlt]
  · exact memGet_memWrite_out b m off i (by omega)

theorem setWk_setWk (s : State) (w : Worker) (k k' : WorkerSt) : setWk (setWk s w k) w k' = setWk s w k' := by
  simp only [setWk, Vector.set_set]

theorem modWk_modWk (s : State) (w : Worker) (f f' : WorkerSt → WorkerSt) : modWk (modWk s w f) w f' = modWk s w fun k => f' (f k) := by
  rw [modWk, wkOf_modWk, modWk, setWk_setWk, modWk]

/-! ### Writing a place -/

/-- The bytes of the tables from an offset on. -/
def tablesPut (s : State) (off : Nat) (b : List Byte) : State := modMem s fun m => { m with tables := memWrite m.tables off b }

theorem wkOf_tablesPut (s : State) (off : Nat) (b : List Byte) (v : Worker) : wkOf (tablesPut s off b) v = wkOf s v := rfl
theorem writePlace_table (s : State) (w : Worker) (off : Nat) (b : List Byte) : writePlace s w (.table off) b = tablesPut s off b := rfl

/-- The instruction stores `b` at `a` where that is in scratch or in table segments that the worker may store to, and goes on with
general registers `g` and flags `sw`; nothing else changes. -/
def StoresWith (i : Instr) (s : State) (w : Worker) (a n : Nat) (b : List Byte) (g : Vector Word 32) (sw : Flags) : Prop :=
  let k := wkOf s w
  (0x40000000 ≤ a → a + n ≤ 0x40004000 → Ends i s fun t => OnlyWorker s t w
      ∧ WorkerIs s t w { k with g := g, scratch := (wkOf t w).scratch, sw := sw, pc := k.pc + 4 }
      ∧ Overwrites k.scratch (wkOf t w).scratch (a - 0x40000000) b)
    ∧ (0x50000000 ≤ a → a + n ≤ 0x50400000 → segmentsOk k (a - 0x50000000) n = true →
      Ends i s fun t => OnlyWorker { s with mem := { s.mem with tables := t.mem.tables } } t w
        ∧ WorkerIs s t w { k with g := g, sw := sw, pc := k.pc + 4 } ∧ Overwrites s.mem.tables t.mem.tables (a - 0x50000000) b)

section
variable (h : Issues s w) (hm : memoriesWf s) (he : exec i s = issue s w e)
  (hf : ∀ m, f { counted s w with scratch := m } = { counted s w with scratch := m, g := g, sw := { sw with lead := isLead s } })
include h hm he hf

theorem ends_writeScratch
    (heff : e (issueSeen s w) = modWk (writePlace (issueSeen s w) w (.scratch off) b) w fun k => nextPc (f k)) :
    Ends i s fun t => OnlyWorker s t w
      ∧ WorkerIs s t w { wkOf s w with g := g, scratch := (wkOf t w).scratch, sw := sw, pc := (wkOf s w).pc + 4 }
      ∧ Overwrites (wkOf s w).scratch (wkOf t w).scratch off b := by
  obtain ⟨-, -, -, -, hscr⟩ := hm
  have hb : Becomes i s w { wkOf s w with
      g := g, scratch := memWrite (wkOf s w).scratch off b, sw := sw, pc := (wkOf s w).pc + 4 } := by
    refine becomes_of_issue (f := fun k => nextPc (f { k with scratch := memWrite k.scratch off b })) h he ?_ (congrArg nextPc (hf _))
    rw [heff, writePlace, modWk_modWk]
  obtain ⟨t, ht, honly, hrec⟩ := hb
  have hscratch : (wkOf t w).scratch = memWrite (wkOf s w).scratch off b := by rw [hrec]
  refine ⟨t, ht, honly, ?_, ?_⟩
  · rw [hscratch]
    exact hrec
  · rw [hscratch]
    exact overwrites_memWrite _ _ _ (hscr w)

theorem ends_writeTables
    (heff : e (issueSeen s w) = modWk (writePlace (issueSeen s w) w (.table off) b) w fun k => nextPc (f k)) :
    Ends i s fun t => OnlyWorker { s with mem := { s.mem with tables := t.mem.tables } } t w
      ∧ WorkerIs s t w { wkOf s w with g := g, sw := sw, pc := (wkOf s w).pc + 4 }
      ∧ Overwrites s.mem.tables t.mem.tables off b := by
  obtain ⟨-, htab, -⟩ := hm
  have hput : AtWorker (tablesPut s off b) (tablesPut (issueSeen s w) off b) w (counted s w) :=
    (atWorker_issueSeen s w).map (tablesPut · off b) (fun _ => rfl) (fun _ => rfl) fun _ _ _ => rfl
  have hdone := hput.modWk_of_eq ((wkOf_tablesPut ..).trans (wkOf_issueSeen s w)) fun k => nextPc (f k)
  obtain ⟨honly, hrec⟩ := hdone.completes
  have hf' : f (counted s w) = { counted s w with g := g, sw := { sw with lead := isLead s } } := hf (wkOf s w).scratch
  rw [hf'] at hrec
  refine ⟨_, by rw [he, issue_issueSeen _ h, heff, writePlace_table], ?_⟩
  have htables : (quantumEnd (modWk (tablesPut (issueSeen s w) off b) w fun k => nextPc (f k)) w).mem.tables =
      memWrite s.mem.tables off b := by rw [honly.1]; rfl
  refine ⟨?_, hrec, ?_⟩
  · rw [htables]
    exact honly
  · rw [htables]
    exact overwrites_memWrite _ _ _ htab

/-- An instruction that writes bytes at its place, wherever that is. -/
theorem storesWith_of_writePlace {n : Nat}
    (heff : ∀ p, (∀ off, p ≠ .dram off) → storePlace (issueSeen s w) (wkOf (issueSeen s w) w) a.toNat n = .ok p → 0x200000 ≤ a.toNat →
      e (issueSeen s w) = modWk (writePlace (issueSeen s w) w p b) w fun k => nextPc (f k)) :
    StoresWith i s w a.toNat n b g sw :=
  ⟨fun hlo hhi => ends_writeScratch h hm he hf (heff _ (fun _ => Place.noConfusion) (storePlace_scratch hlo hhi) (by omega)),
    fun hlo hhi hseg => ends_writeTables h hm he hf (heff _ (fun _ => Place.noConfusion)
      (storePlace_table hlo hhi (by rwa [segmentsOk_issueSeen])) (by omega))⟩

end

/-! ### Stores -/

theorem stores_of_store {byWord : Bool} (h : Issues s w) (hm : memoriesWf s) (he : exec i s = issue s w e)
    (heff : e (issueSeen s w) = store (issueSeen s w) w a b byWord) (hal : a.toNat % b.length = 0) : Stores i s w a.toNat b := by
  refine storesWith_of_writePlace (f := id) h hm he (fun _ => rfl) fun p hmem hplace hhigh => ?_
  simp only [heff, store, hal, inBlocks_high hhigh, hplace, ne_eq, not_true, Bool.false_eq_true, if_false]
  cases p with
  | dram off => exact absurd rfl (hmem off)
  | scratch off | table off => rfl

theorem stw_stores (h : Issues s w) (hm : memoriesWf s) (d s1 : GReg) (imm : Half) (hal : (immAddr (wkOf s w) s1 imm).toNat % 4 = 0) :
    Stores (.stw w d s1 imm) s w (immAddr (wkOf s w) s1 imm).toNat (bytesLE 4 (gGet (wkOf s w) d).toNat) := by
  refine stores_of_store (byWord := true) h hm (exec_stw ..) ?_ (by rw [length_bytesLE]; exact hal)
  rw [immAddr_issueSeen, gGet_issueSeen]

theorem std_stores (h : Issues s w) (hm : memoriesWf s) (ad : AReg) (s1 : GReg) (imm : Half)
    (hal : (immAddr (wkOf s w) s1 imm).toNat % 8 = 0) :
    Stores (.std w ad s1 imm) s w (immAddr (wkOf s w) s1 imm).toNat (bytesLE 8 (aGet (wkOf s w) ad).toNat) := by
  refine stores_of_store (byWord := true) h hm (exec_std ..) ?_ (by rw [length_bytesLE]; exact hal)
  rw [immAddr_issueSeen, wkOf_issueSeen]
  rfl

theorem stx_stores (h : Issues s w) (hm : memoriesWf s) (d s1 s2 : GReg) (z : XSize) (scale : Bool)
    (hal : (xAddr (wkOf s w) s1 s2 z scale).toNat % xBytes z = 0) : Stores (.stx w d s1 s2 z scale) s w
      (xAddr (wkOf s w) s1 s2 z scale).toNat (bytesLE (xBytes z) (gGet (wkOf s w) d).toNat) := by
  refine stores_of_store (byWord := z == .word) h hm (exec_stx ..) ?_ (by rw [length_bytesLE]; exact hal)
  rw [xAddr_issueSeen, gGet_issueSeen]

end

/-- Settles O12. -/
theorem storesToMemory : Obligations.StoresToMemory := by
  unfold Obligations.StoresToMemory
  intro s w d s1 s2 ad imm scale h hm k a x v byte y
  have hword : [byte v 0, byte v 1, byte v 2, byte v 3] = bytesLE 4 v.toNat := (bytesLE_toNat 4 v).symm
  have hdouble : [byte y 0, byte y 1, byte y 2, byte y 3, byte y 4, byte y 5, byte y 6, byte y 7] = bytesLE 8 y.toNat :=
    (bytesLE_toNat 8 y).symm
  have hhalf : [byte v 0, byte v 1] = bytesLE 2 v.toNat := (bytesLE_toNat 2 v).symm
  have hbyte : [byte v 0] = bytesLE 1 v.toNat := (bytesLE_toNat 1 v).symm
  rw [hword, hdouble, hhalf, hbyte]
  refine ⟨stw_stores h hm d s1 imm, std_stores h hm ad s1 imm, stx_stores h hm d s1 s2 .word scale, fun hal => ?_, ?_⟩
  · exact List.forall_mem_cons.mpr ⟨stx_stores h hm d s1 s2 .halfS scale hal, List.forall_mem_singleton.mpr
      (stx_stores h hm d s1 s2 .halfU scale hal)⟩
  · exact List.forall_mem_cons.mpr ⟨stx_stores h hm d s1 s2 .byteS scale (Nat.mod_one _), List.forall_mem_singleton.mpr
      (stx_stores h hm d s1 s2 .byteU scale (Nat.mod_one _))⟩

end Sys2Proof.Machine

namespace Sys2Proof.Machine

/-! ## Atomic accesses in scratch and in the shared tables, and FENCE (R116, R117) -/

section
variable {s : State} {w : Worker} {i : Instr} {d s1 s2 : GReg} {op : AtomOp} {old : Nat}

theorem exec_xchg (w : Worker) (d s1 s2 : GReg) (s : State) : exec (.xchg w d s1 s2) s = atom w .xchg d s1 s2 s := rfl
theorem exec_fadd (w : Worker) (d s1 s2 : GReg) (s : State) : exec (.fadd w d s1 s2) s = atom w .fadd d s1 s2 s := rfl
theorem exec_cas (w : Worker) (d s1 s2 : GReg) (s : State) : exec (.cas w d s1 s2) s = atom w .cas d s1 s2 s := rfl
theorem exec_fetchOr (w : Worker) (d s1 s2 : GReg) (s : State) : exec (.fetchOr w d s1 s2) s = atom w .or d s1 s2 s := rfl
theorem exec_fetchAnd (w : Worker) (d s1 s2 : GReg) (s : State) : exec (.fetchAnd w d s1 s2) s = atom w .and d s1 s2 s := rfl
theorem exec_fence (w : Worker) (s : State) : exec (.fence w) s = execFence w s := rfl

theorem loadPlace_of_storePlace {k : WorkerSt} {a n : Nat} {p : Place} (h : storePlace s k a n = .ok p) : loadPlace k a n = .ok p := by
  unfold storePlace at h
  split at h
  · cases h
  · next hload =>
    split at h
    · rw [hload, ← h]
    · cases h
  · next hload =>
    split at h
    · rw [hload, ← h]
    · cases h
  · next hload => rw [hload, ← h]

/-- Nothing written leaves the state. -/
theorem writePlace_nil (s : State) (w : Worker) (p : Place) : writePlace s w p [] = s := by
  cases p with
  | scratch off =>
    have hset : s.wk.set w (wkOf s w) = s.wk := Vector.set_getElem_self w.isLt
    change setWk s w (wkOf s w) = s
    rw [setWk, hset]
  | table off | dram off => rfl

/-- The bytes that an atomic access stores, none where it stores nothing, and its flags (R116). -/
def atomBytes (st : Option Word) : List Byte := st.elim [] fun v => bytesLE 4 v.toNat
def atomFlags : AtomOp → Bool → Flags → Flags
  | .cas, stored, f => { f with z := stored }
  | _, _, f => f

theorem atomResult_eq (op : AtomOp) (d : GReg) (old : Word) (stored : Bool) (k : WorkerSt) :
    atomResult op d old stored k = { k with g := gWrite k.g d old, sw := atomFlags op stored k.sw } := by
  cases op <;> simp only [atomResult, atomFlags, gSet_eq]

theorem atom_storesWith (h : Issues s w) (hm : memoriesWf s) (he : exec i s = atom w op d s1 s2 s)
    (hal : (gGet (wkOf s w) s1).toNat % 4 = 0) (hh : Holds s w (gGet (wkOf s w) s1).toNat 4 old) :
    StoresWith i s w (gGet (wkOf s w) s1).toNat 4 (atomBytes (atomStore op (word old) (gGet (wkOf s w) d) (gGet (wkOf s w) s2)))
      (gWrite (wkOf s w).g d (word old))
      (atomFlags op (atomStore op (word old) (gGet (wkOf s w) d) (gGet (wkOf s w) s2)).isSome (wkOf s w).sw) := by
  obtain ⟨q, hload, -, hbad, hv, -⟩ := hh.place
  refine storesWith_of_writePlace (f := atomResult op d (word old) (atomStore op (word old) (gGet (wkOf s w) d) (gGet (wkOf s w) s2)).isSome)
    h hm he (fun m => ?_) fun p hmem hplace _ => ?_
  · rw [atomResult_eq]
    cases op <;> rfl
  · have hpq : p = q := by
      have hp := loadPlace_of_storePlace hplace
      rw [loadPlace_issueSeen, hload] at hp
      exact (Acc.ok.inj hp).symm
    subst hpq
    simp only [gGet_issueSeen, hal, hplace, ne_eq, not_true, if_false]
    generalize hst : atomStore op (word old) (gGet (wkOf s w) d) (gGet (wkOf s w) s2) = st
    cases p with
    | dram off => exact absurd rfl (hmem off)
    | scratch off | table off =>
      simp only [badPlace_issueSeen, hbad, readPlace_issueSeen, hv, hst, Bool.false_eq_true, if_false]
      cases st with
      | none => simp only [atomBytes, Option.elim, writePlace_nil]
      | some x => rfl

/-- A CAS stores where the old word is the one expected. -/
theorem cas_storesWith (h : Issues s w) (hm : memoriesWf s) (hal : (gGet (wkOf s w) s1).toNat % 4 = 0)
    (hh : Holds s w (gGet (wkOf s w) s1).toNat 4 old) : StoresWith (.cas w d s1 s2) s w (gGet (wkOf s w) s1).toNat 4
      (if word old = gGet (wkOf s w) d then bytesLE 4 (gGet (wkOf s w) s2).toNat else []) (gWrite (wkOf s w).g d (word old))
      { (wkOf s w).sw with z := word old == gGet (wkOf s w) d } := by
  have hst := atom_storesWith (d := d) (s2 := s2) h hm (exec_cas ..) hal hh
  by_cases heq : word old = gGet (wkOf s w) d
  · simp only [atomStore, heq, if_true, beq_self_eq_true] at hst ⊢
    exact hst
  · simp only [atomStore, heq, if_false, beq_eq_false_iff_ne.mpr heq] at hst ⊢
    exact hst

theorem fence_goes (h : Issues s w) (hp : hasPosted s w = false) :
    Becomes (.fence w) s w { wkOf s w with pc := (wkOf s w).pc + 4 } := by
  refine becomes_of_issue (f := nextPc) h (exec_fence w s) ?_ rfl
  have hseen : hasPosted (issueSeen s w) w = false := (hasPosted_issue s w).trans hp
  simp only [hseen, Bool.false_eq_true, if_false]

end

/-- Settles O13: an atomic access reads its word and writes the bytes that its function gives, none for a CAS that finds another word
(R116). -/
theorem atomics : Obligations.Atomics := by
  unfold Obligations.Atomics
  intro s w d s1 s2 old h hm k a o b byte bytes swaps
  have hbytes : ∀ y, bytes y = bytesLE 4 y.toNat := fun y => (bytesLE_toNat 4 y).symm
  refine ⟨fence_goes h, fun hal hh => ?_⟩
  have hhi : 0x50000000 ≤ a → a + 4 ≤ 0x50400000 := fun hlo => by
    rcases hh with ⟨-, hscr, -⟩ | ⟨-, htab, -⟩
    · omega
    · exact htab
  have hswaps : ∀ i new sw, StoresWith i s w a 4 new (gWrite k.g d o) sw → swaps i new sw :=
    fun _ _ _ ⟨hscr, htab⟩ => ⟨hscr, fun hlo => htab hlo (hhi hlo)⟩
  simp only [hbytes]
  exact ⟨hswaps _ _ _ (atom_storesWith h hm (exec_xchg ..) hal hh), hswaps _ _ _ (atom_storesWith h hm (exec_fadd ..) hal hh),
    hswaps _ _ _ (atom_storesWith h hm (exec_fetchOr ..) hal hh), hswaps _ _ _ (atom_storesWith h hm (exec_fetchAnd ..) hal hh),
    hswaps _ _ _ (cas_storesWith h hm hal hh)⟩

end Sys2Proof.Machine

namespace Sys2Proof.Machine

/-! ## The DRAM aperture: what a lost line leaves of the workers (R457, R460, R461) -/

/-- No worker's record differs. -/
def SameWorkers (s t : State) : Prop := t.wk = s.wk

section
variable {s t u : State}

theorem SameWorkers.refl (s : State) : SameWorkers s s := rfl
theorem SameWorkers.trans (h : SameWorkers s t) (g : SameWorkers t u) : SameWorkers s u := Eq.trans g h
theorem SameWorkers.ite {c : Prop} [Decidable c] (ht : SameWorkers s t) (hu : SameWorkers s u) : SameWorkers s (if c then t else u) := by
  split <;> assumption
theorem SameWorkers.wkOf (h : SameWorkers s t) (w : Worker) : wkOf t w = wkOf s w := by
  rw [Machine.wkOf, show t.wk = s.wk from h, Machine.wkOf]
theorem OnlyLogs.sameWorkers (h : OnlyLogs s t) : SameWorkers s t := by
  obtain ⟨v, hv⟩ := h
  rw [hv]
  exact .refl s

theorem sameWorkers_foldl {α : Type} (l : List α) (f : State → α → State) (h : ∀ s x, SameWorkers s (f s x)) (s : State) :
    SameWorkers s (l.foldl f s) := by
  induction l generalizing s with
  | nil => exact .refl s
  | cons x l ih => exact (h s x).trans (ih (f s x))

theorem sameWorkers_emitMem (s : State) (bad : Bool) (memory index : Nat) : SameWorkers s (emitMem s bad memory index) :=
  (onlyLogs_emit ..).sameWorkers

theorem sameWorkers_txPush (s : State) (n : Fin 4) (f : CanFrame) (owner : TxOwner) : SameWorkers s (txPush s n f owner) := by
  unfold txPush canKick
  refine .ite ?_ ?_ <;> exact .refl s

theorem sameWorkers_txModule (s : State) (n : Fin 4) (f : CanFrame) (owner : TxOwner) : SameWorkers s (txModule s n f owner) := by
  unfold txModule
  extract_lets s1 c
  have hdrop : SameWorkers s s1 := by
    simp only [s1]
    split <;> exact .refl s
  refine hdrop.trans (.ite (sameWorkers_txPush ..) ?_)
  split
  · exact sameWorkers_txPush ..
  · exact (sameWorkers_txPush (modCan s1 n _) n f owner).trans (onlyLogs_emit ..).sameWorkers

theorem sameWorkers_sendStatus (s : State) (sideB : Bool) (code : Half) (seq : DWord) : SameWorkers s (sendStatus s sideB code seq) :=
  .ite (sameWorkers_txModule ..) (.refl s)

theorem sameWorkers_storageFault (s : State) (store slot : Nat) : SameWorkers s (storageFault s store slot) := by
  unfold storageFault
  extract_lets first flags args s1 r s2 s3 s4 s5
  have hsend : SameWorkers s2 s3 := .ite (.refl s2) (.refl s2)
  refine .ite (hsend.trans (sameWorkers_sendStatus ..)) ?_
  exact (onlyLogs_emitCode (modRec s flags) 0xD642 chipScope args true).sameWorkers.trans (sameWorkers_sendStatus ..)

theorem sameWorkers_dirWrite (s : State) (e : DirEntry) (x : Nat) (b : List Byte) : SameWorkers s (dirWrite s e x b) := by
  unfold dirWrite
  split
  · exact .ite (.refl s) (.refl s)
  · exact .ite (.refl s) (.refl s)
  · exact .refl s

theorem sameWorkers_defaultCell (s : State) (c : Nat) : SameWorkers s (defaultCell s c) := by
  unfold defaultCell
  split
  · exact sameWorkers_dirWrite ..
  · exact .refl s

theorem sameWorkers_zeroPart (line : Nat) (s : State) (e : DirEntry) : SameWorkers s (zeroPart line s e) := .refl s

theorem sameWorkers_repairLine (s : State) (line : Nat) : SameWorkers s (repairLine s line) := by
  unfold repairLine
  extract_lets cs es f b s1
  refine .ite (.refl s) (.ite (.refl s) ?_)
  have hzero : SameWorkers s1 (es.foldl (zeroPart line) s1) := sameWorkers_foldl _ _ (sameWorkers_zeroPart line) s1
  exact hzero.trans (sameWorkers_foldl _ _ sameWorkers_defaultCell _)

/-- What is done for a line that was lost changes no worker. -/
theorem sameWorkers_lineLost (s : State) (line : Nat) : SameWorkers s (lineLost s line) := by
  unfold lineLost
  dsimp only
  split
  · exact sameWorkers_repairLine s line
  · exact (onlyLogs_emit ..).sameWorkers
  · exact .ite (.refl s) (sameWorkers_storageFault ..)
  · exact .refl s

theorem sameWorkers_poisonLine (s : State) (l : Nat) (tag : Bool) : SameWorkers s (poisonLine s l tag) := sameWorkers_emitMem _ true 0 l

end

end Sys2Proof.Machine

namespace Sys2Proof.Machine

/-! ## Accesses in flight and posted stores (R87, R114, R117, R118, R455) -/

section
variable {s t u : State} {w : Worker} {i : Instr} {a : Word} {b : List Byte} {n off : Nat} {e : State → State}

/-! ### Where the aperture lies -/

theorem loadPlace_aperture {x : Nat} (hn : 0 < n) (h : InAperture s w x n off) : loadPlace (wkOf s w) x n = .ok (.dram off) := by
  obtain ⟨hlo, hhi, hlen, hoff⟩ := h
  have hscratch : ¬(0x40000000 ≤ x ∧ x + n ≤ 0x40004000) := by omega
  have htable : ¬(0x50000000 ≤ x ∧ x + n ≤ 0x50400000) := by omega
  rw [loadPlace, if_neg hscratch, if_neg htable, if_pos ⟨hlo, hhi, hlen⟩, aperture, hoff]

theorem xBytes_pos (z : XSize) : 0 < xBytes z := by cases z <;> decide

/-! ### A load that goes into flight (R106, R114) -/

theorem becomes_of_fly {f : Flight} (h : Issues s w) (he : exec i s = issue s w e)
    (heff : e (issueSeen s w) = modWk (issueSeen s w) w fun k => fly k f) : Becomes i s w { wkOf s w with flight := f } := by
  obtain ⟨honly, hrec⟩ := (atWorker_issueSeen_modWk (s := s) (w := w) fun k => fly k f).completes
  exact ⟨_, by rw [he, issue_issueSeen _ h, heff], honly, hrec⟩

theorem IsLoad.flies {mem : Nat → WorkerSt → WorkerSt} {flight : Nat → Flight} (hload : IsLoad i s w a n mem flight) (hn : 0 < n)
    (h : Issues s w) (hal : a.toNat % n = 0) (hin : InAperture s w a.toNat n off) :
    Becomes i s w { wkOf s w with flight := flight off } := by
  obtain ⟨e, byWord, reg, he, heff⟩ := hload
  refine becomes_of_fly h he ?_
  have hhigh : inBlocks a.toNat = false := inBlocks_high (by have := hin.1; omega)
  simp only [heff, load, hal, hhigh, loadPlace_issueSeen, loadPlace_aperture hn hin, ne_eq, not_true, Bool.false_eq_true, if_false]

/-! ### Stores that stay with their worker's core -/

/-- Between `s` and `t` the queues of posted stores are the same, or worker `w` went over to another core with its stores. -/
def StoresFollow (s t : State) (w : Worker) : Prop :=
  ((wkOf t w).core = (wkOf s w).core → (coreOf t (wkOf s w).core).storeQ = (coreOf s (wkOf s w).core).storeQ)
    ∧ ((wkOf t w).core ≠ (wkOf s w).core → (coreOf t (wkOf t w).core).storeQ =
        (coreOf s (wkOf t w).core).storeQ ++ (coreOf s (wkOf s w).core).storeQ.filter fun q => q.1 == w)

theorem coreOf_modWk (s : State) (w : Worker) (f : WorkerSt → WorkerSt) (c : Fin 4) : coreOf (modWk s w f) c = coreOf s c := rfl

theorem storesFollow_of_same (hcore : (wkOf t w).core = (wkOf s w).core) (hq : ∀ c, (coreOf t c).storeQ = (coreOf s c).storeQ) :
    StoresFollow s t w :=
  ⟨fun _ => hq _, fun hne => absurd hcore hne⟩

theorem StoresFollow.of_same (h : StoresFollow t u w) (hcore : (wkOf t w).core = (wkOf s w).core)
    (hq : ∀ c, (coreOf t c).storeQ = (coreOf s c).storeQ) : StoresFollow s u w := by
  rw [StoresFollow, hcore] at h
  simp only [hq] at h
  exact h

theorem storeQ_loseQuantum (s : State) (w : Worker) (c : Fin 4) : (coreOf (loseQuantum s w) c).storeQ = (coreOf s c).storeQ := by
  unfold loseQuantum
  by_cases hc : c = (wkOf s w).core
  · rw [hc, coreOf_modCore]
  · rw [coreOf_modCore_ne _ _ _ _ hc]

theorem storesFollow_moveTo {c : Fin 4} (hc : c ≠ (wkOf s w).core) : StoresFollow s (moveTo s w c) w := by
  obtain ⟨-, -, hrec⟩ := moveTo_spec s w c
  have hcore : (wkOf (moveTo s w c) w).core = c := by rw [hrec]
  rw [StoresFollow, hcore]
  refine ⟨fun h => absurd h hc, fun _ => ?_⟩
  unfold moveTo
  dsimp only
  rw [coreOf_modWk, coreOf_modCore, coreOf_modCore_ne _ _ _ _ hc, storeQ_loseQuantum]

theorem storesFollow_goHome (s : State) (w : Worker) : StoresFollow s (goHome s w) w := by
  unfold goHome
  dsimp only
  split
  · next hgo =>
    rw [Bool.and_eq_true, bne_iff_ne] at hgo
    exact storesFollow_moveTo hgo.2.symm
  · exact storesFollow_of_same rfl fun _ => rfl

theorem storesFollow_quantumEnd (s : State) (w : Worker) : StoresFollow s (quantumEnd s w) w := by
  unfold quantumEnd
  dsimp only
  split
  · split
    · refine (storesFollow_goHome _ w).of_same ?_ fun c => ?_
      · rw [wkOf_modWk, (loseQuantum_spec s w).2]
      · rw [coreOf_modWk, storeQ_loseQuantum]
    · exact storesFollow_of_same rfl fun _ => rfl
  · exact storesFollow_of_same rfl fun _ => rfl

/-! ### A store that is posted (R114, R117, R455) -/

theorem storeQ_issueSeen (s : State) (w : Worker) (c : Fin 4) : (coreOf (issueSeen s w) c).storeQ = (coreOf s c).storeQ := by
  rw [issueSeen, coreOf_countIssue, storeQ_takeCore]

/-- What the effect of a store sees, with the store of `b` at `off` in the queue of the worker's core. -/
def storePushed (s : State) (w : Worker) (off : Nat) (b : List Byte) : State :=
  modCore (issueSeen s w) (wkOf s w).core fun q => { q with storeQ := q.storeQ ++ [(w, off, b)] }

theorem wkOf_storePushed (s : State) (w : Worker) (off : Nat) (b : List Byte) : wkOf (storePushed s w off b) w = counted s w := by
  rw [storePushed, wkOf_modCore, wkOf_issueSeen]

theorem atWorker_storePushed (s : State) (w : Worker) (off : Nat) (b : List Byte) :
    AtWorker s (storePushed s w off b) w (counted s w) :=
  (atWorker_issueSeen s w).move (SameBut.modCore _ _ _) (fun _ _ => wkOf_modCore ..) (by rw [wkOf_storePushed, wkOf_issueSeen])

theorem storeQ_storePushed (s : State) (w : Worker) (off : Nat) (b : List Byte) :
    (coreOf (storePushed s w off b) (wkOf s w).core).storeQ = (coreOf s (wkOf s w).core).storeQ ++ [(w, off, b)] := by
  rw [storePushed, coreOf_modCore, storeQ_issueSeen]

theorem storeQ_storePushed_ne {c : Fin 4} (hc : c ≠ (wkOf s w).core) :
    (coreOf (storePushed s w off b) c).storeQ = (coreOf s c).storeQ := by
  rw [storePushed, coreOf_modCore_ne _ _ _ _ hc, storeQ_issueSeen]

/-- The worker goes on, with its store of `b` at `off` posted last. -/
def Posts (i : Instr) (s : State) (w : Worker) (off : Nat) (b : List Byte) : Prop := Ends i s fun t =>
  OnlyWorker s t w ∧ WorkerIs s t w { wkOf s w with pc := (wkOf s w).pc + 4 }
    ∧ ((wkOf t w).core = (wkOf s w).core → (coreOf t (wkOf s w).core).storeQ = (coreOf s (wkOf s w).core).storeQ ++ [(w, off, b)])
    ∧ ((wkOf t w).core ≠ (wkOf s w).core → (coreOf t (wkOf t w).core).storeQ = (coreOf s (wkOf t w).core).storeQ
        ++ (coreOf s (wkOf s w).core).storeQ.filter (fun q => q.1 == w) ++ [(w, off, b)])

theorem posts_of_storePushed (h : Issues s w) (he : exec i s = issue s w e)
    (heff : e (issueSeen s w) = modWk (storePushed s w off b) w nextPc) : Posts i s w off b := by
  have hdone := (atWorker_storePushed s w off b).modWk_of_eq (wkOf_storePushed s w off b) nextPc
  obtain ⟨honly, hrec⟩ := hdone.completes
  have hcore : (wkOf (modWk (storePushed s w off b) w nextPc) w).core = (wkOf s w).core := by
    rw [wkOf_modWk, wkOf_storePushed]
    rfl
  obtain ⟨hstay, hmove⟩ := storesFollow_quantumEnd (modWk (storePushed s w off b) w nextPc) w
  simp only [hcore, coreOf_modWk, storeQ_storePushed] at hstay hmove
  refine ⟨_, by rw [he, issue_issueSeen _ h, heff], honly, hrec, hstay, fun hc => ?_⟩
  have hlast : [(w, off, b)].filter (fun q => q.1 == w) = [(w, off, b)] := by simp
  rw [hmove hc, storeQ_storePushed_ne hc, List.filter_append, ← List.append_assoc, hlast]

theorem storable_issueSeen (s : State) (w : Worker) (off n : Nat) : storable (issueSeen s w) off n = storable s off n := by
  rw [storable, progBase, archBase, (atWorker_issueSeen s w).mem]
  rfl

theorem poisoned_issueSeen (s : State) (w : Worker) (off n : Nat) : poisoned (issueSeen s w) off n = poisoned s off n := by
  simp only [poisoned, (atWorker_issueSeen s w).mem]

theorem storePlace_aperture (hn : 0 < n) (hin : InAperture s w a.toNat n off) (hwr : (wkOf s w).dramBase.getLsbD 0 = true)
    (hst : storable s off n = true) : storePlace (issueSeen s w) (wkOf (issueSeen s w) w) a.toNat n = .ok (.dram off) := by
  have hbase : (wkOf (issueSeen s w) w).dramBase = (wkOf s w).dramBase := by
    rw [wkOf_issueSeen]
    rfl
  simp only [storePlace, loadPlace_issueSeen, loadPlace_aperture hn hin, hbase, hwr, storable_issueSeen, hst, Bool.and_self, if_true]

theorem store_posted {byWord : Bool} (hal : a.toNat % b.length = 0) (hn : 0 < b.length) (hin : InAperture s w a.toNat b.length off)
    (hwr : (wkOf s w).dramBase.getLsbD 0 = true) (hroom : (coreOf s (wkOf s w).core).storeQ.length < 8)
    (hst : storable s off b.length = true) (hpoison : poisoned s off b.length = false) :
    store (issueSeen s w) w a b byWord = modWk (storePushed s w off b) w nextPc := by
  have hhigh : inBlocks a.toNat = false := inBlocks_high (by have := hin.1; omega)
  have hcore : (wkOf (issueSeen s w) w).core = (wkOf s w).core := by
    rw [wkOf_issueSeen]
    rfl
  simp only [store, hal, hhigh, storePlace_aperture hn hin hwr hst, poisoned_issueSeen, hpoison, postStore, hcore, storeQ_issueSeen, hroom,
    ne_eq, not_true, Bool.false_eq_true, if_false, if_true]
  rfl

theorem stw_posts {d s1 : GReg} {imm : Half} (h : Issues s w) (hwr : (wkOf s w).dramBase.getLsbD 0 = true)
    (hroom : (coreOf s (wkOf s w).core).storeQ.length < 8) (hal : (immAddr (wkOf s w) s1 imm).toNat % 4 = 0)
    (hin : InAperture s w (immAddr (wkOf s w) s1 imm).toNat 4 off) (hst : storable s off 4 = true) (hpoison : poisoned s off 4 = false) :
    Posts (.stw w d s1 imm) s w off (bytesLE 4 (gGet (wkOf s w) d).toNat) := by
  have hlen := length_bytesLE 4 (gGet (wkOf s w) d).toNat
  rw [← hlen] at hal hin hst hpoison
  refine posts_of_storePushed h (exec_stw ..) ?_
  rw [immAddr_issueSeen, gGet_issueSeen]
  exact store_posted hal (by rw [hlen]; decide) hin hwr hroom hst hpoison

end

end Sys2Proof.Machine

namespace Sys2Proof.Machine

/-! ## An access in flight completes (R114, R118, R457, R458; log entry 19) -/

section
variable {s t : State} {w : Worker} {off l : Nat}

theorem exec_dramAccessComplete (w : Worker) (s : State) : exec (.dramAccessComplete w) s = run s fun s => dramComplete s w := rfl
theorem exec_storeQueueDrain (w : Worker) (s : State) : exec (.storeQueueDrain w) s = run s fun s => storeDrain s w := rfl

theorem wkOf_drawFree (s : State) (w : Worker) : wkOf (drawFree s).2 w = wkOf s w := rfl
theorem drawFree_setWk (s : State) (w : Worker) (k : WorkerSt) : (drawFree (setWk s w k)).2 = setWk (drawFree s).2 w k := rfl

/-- An outcome drawn, and a corrected error counted (R457). -/
def eccCounted (s : State) : State := modMem (drawFree s).2 fun m => { m with eccCorr := inc16 m.eccCorr }
theorem wkOf_eccCounted (s : State) (w : Worker) : wkOf (eccCounted s) w = wkOf s w := rfl

/-- The worker with no access in flight. -/
def landed (s : State) (w : Worker) : State := modWk s w fun k => { k with flight := .none }

/-- A fault that is not part of an issue. -/
theorem traps_of_exec {i : Instr} {cause : Byte} {a : Word} (he : exec i s = .next (trapWorker t w cause a))
    (ht : wkOf t w = { wkOf s w with flight := .none }) : Traps i s w cause := by
  have h := trapped_trapWorker t w cause a
  rw [ht] at h
  exact ⟨_, he, h⟩

/-! ### The line of an access -/

theorem lineRead_poisoned (h : s.mem.poison.contains l = true) : lineRead s l = (s, true) := by
  rw [lineRead, if_pos h]

theorem lineRead_fresh (h : s.mem.poison.contains l = false) (hf : lineFresh s l = true) : lineRead s l = (s, false) := by
  rw [lineRead, if_neg (Bool.eq_false_iff.mp h), if_pos hf]

section
variable (h : s.mem.poison.contains l = false) (hf : lineFresh s l = false)
include h hf

theorem lineRead_clean (hc : codeword s.free = .clean) : lineRead s l = ((drawFree s).2, false) := by
  rw [lineRead, if_neg (Bool.eq_false_iff.mp h), if_neg (Bool.eq_false_iff.mp hf)]
  simp only [drawFree, hc]

/-- A corrected error is counted, and its event raised. -/
theorem lineRead_corrected (hc : codeword s.free = .corrected) : ∃ u, lineRead s l =
    (Logged (eccCounted s) u, false) := by
  obtain ⟨u, hu⟩ := onlyLogs_emit (eccCounted s) 27 0 (ofBool false) false true chipScope (word (fld 0 28 + l % 268435456))
  refine ⟨u, ?_⟩
  rw [lineRead, if_neg (Bool.eq_false_iff.mp h), if_neg (Bool.eq_false_iff.mp hf)]
  simp only [eccCounted, drawFree, hc, emitMem, Bool.false_eq_true, if_false] at hu ⊢
  rw [hu]

theorem lineRead_lost {tag : Bool} (hc : codeword s.free = .uncorrectable tag) :
    ∃ u, lineRead s l = (u, true) ∧ SameWorkers s u := by
  refine ⟨_, ?_, (sameWorkers_poisonLine { s with free := s.free + 1 } l tag).trans (sameWorkers_lineLost _ l)⟩
  rw [lineRead, if_neg (Bool.eq_false_iff.mp h), if_neg (Bool.eq_false_iff.mp hf)]
  simp only [drawFree, hc]

end

/-! ### A load that completes -/

/-- The effect of a load of `n` bytes whose line is not lost, with the worker's own posted stores seen. -/
def loadEffect (off n : Nat) (put : Nat → WorkerSt → WorkerSt) (w : Worker) (s : State) : State :=
  modWk s w fun k => nextPc (put (memNat (dramSeen s w) off n) k)

/-- DRAM_ACCESS_COMPLETE leaves the worker as `r`, unless its line at `off` is lost (R118, R457, R458). -/
def AccessCompletes (s : State) (w : Worker) (off : Nat) (r : WorkerSt) : Prop :=
  (s.mem.poison.contains (off / 64) = false → lineFresh s (off / 64) = true → exec (.dramAccessComplete w) s = .next (setWk s w r))
    ∧ (s.mem.poison.contains (off / 64) = false → lineFresh s (off / 64) = false →
      (codeword s.free = .clean → exec (.dramAccessComplete w) s = .next (setWk { s with free := s.free + 1 } w r))
        ∧ (codeword s.free = .corrected → Ends (.dramAccessComplete w) s fun t =>
            wkOf t w = r ∧ t.mem.eccCorr = inc16 s.mem.eccCorr ∧ t.mem.dram = s.mem.dram)
        ∧ ∀ tag, codeword s.free = .uncorrectable tag → Traps (.dramAccessComplete w) s w 0x08)
    ∧ (s.mem.poison.contains (off / 64) = true → Traps (.dramAccessComplete w) s w 0x08)

/-- What the worker sees of DRAM rests on its core, the queues of the cores and DRAM alone. -/
theorem dramSeen_congr {u : State} (hcore : (wkOf u w).core = (wkOf s w).core) (hcores : u.cores = s.cores)
    (hdram : u.mem.dram = s.mem.dram) : dramSeen u w = dramSeen s w := by
  rw [dramSeen, hcore, coreOf, hcores, hdram]
  rfl

theorem loadEffect_landed {n : Nat} {put : Nat → WorkerSt → WorkerSt} {u : State} (hwk : wkOf u w = { wkOf s w with flight := .none })
    (hcores : u.cores = s.cores) (hdram : u.mem.dram = s.mem.dram) : loadEffect off n put w u =
      setWk u w (nextPc (put (memNat (dramSeen s w) off n) { wkOf s w with flight := .none })) := by
  have hseen : dramSeen u w = dramSeen s w := dramSeen_congr (by rw [hwk]) hcores hdram
  rw [loadEffect, modWk, hwk, hseen]

theorem accessCompletes_of_loadEffect {n : Nat} {put : Nat → WorkerSt → WorkerSt}
    (he : exec (.dramAccessComplete w) s = .next (lineAccess s w off (loadEffect off n put w))) :
    AccessCompletes s w off (nextPc (put (memNat (dramSeen s w) off n) { wkOf s w with flight := .none })) := by
  have hwk : wkOf (landed s w) w = { wkOf s w with flight := .none } := by rw [landed, wkOf_modWk]
  have hline : ∀ u lost, lineRead (landed s w) (off / 64) = (u, lost) → exec (.dramAccessComplete w) s = .next
      (if lost then trapWorker u w causeMem (apertureAddr (wkOf s w) off) else loadEffect off n put w u) := fun u lost hu => by
    rw [he, lineAccess]
    rw [landed] at hu
    simp only [hu]
  refine ⟨fun hp hf => ?_, fun hp hf => ⟨fun hc => ?_, fun hc => ?_, fun tag hc => ?_⟩, fun hp => ?_⟩
  · rw [hline _ _ (lineRead_fresh hp hf), if_neg Bool.false_ne_true, loadEffect_landed hwk rfl rfl, landed, modWk, setWk_setWk]
  · rw [hline _ _ (lineRead_clean hp hf hc), if_neg Bool.false_ne_true, loadEffect_landed ((wkOf_drawFree ..).trans hwk) rfl rfl, landed, modWk,
      drawFree_setWk, setWk_setWk]
    rfl
  · obtain ⟨u, hu⟩ := lineRead_corrected (s := landed s w) hp hf hc
    refine ⟨_, hline _ _ hu, ?_⟩
    rw [if_neg Bool.false_ne_true, loadEffect_landed (((wkOf_Logged ..).trans (wkOf_eccCounted ..)).trans hwk) rfl rfl]
    exact ⟨wkOf_setWk .., rfl, rfl⟩
  · obtain ⟨u, hu, hsame⟩ := lineRead_lost (s := landed s w) hp hf hc
    have hx := hline _ _ hu
    rw [if_pos rfl] at hx
    exact traps_of_exec hx ((hsame.wkOf w).trans hwk)
  · have hx := hline _ _ (lineRead_poisoned (s := landed s w) hp)
    rw [if_pos rfl] at hx
    exact traps_of_exec hx hwk

theorem loadG_completes {d : GReg} {z : XSize} (hrun : Running s) (hd : dramHeld s = false) (hfl : (wkOf s w).flight = .loadG d off z) :
    AccessCompletes s w off { wkOf s w with
      flight := .none, g := gWrite (wkOf s w).g d (xExtend z (memNat (dramSeen s w) off (xBytes z))), pc := (wkOf s w).pc + 4 } := by
  have h := accessCompletes_of_loadEffect (w := w) (off := off) (n := xBytes z) (put := fun v k => gSet k d (xExtend z v)) (s := s) (by
    rw [exec_dramAccessComplete, run_running _ hrun]
    simp only [dramComplete, hd, hfl, Bool.false_eq_true, if_false]
    rfl)
  simp only [gSet_eq] at h
  exact h

theorem loadA_completes {ad : AReg} (hrun : Running s) (hd : dramHeld s = false) (hfl : (wkOf s w).flight = .loadA ad off) :
    AccessCompletes s w off { wkOf s w with
      flight := .none, a := (wkOf s w).a.set ad (BitVec.ofNat 64 (memNat (dramSeen s w) off 8)), pc := (wkOf s w).pc + 4 } :=
  accessCompletes_of_loadEffect (n := 8) (put := fun v k => aSet k ad (BitVec.ofNat 64 v)) (by
    rw [exec_dramAccessComplete, run_running _ hrun]
    simp only [dramComplete, hd, hfl, Bool.false_eq_true, if_false]
    rfl)

end

end Sys2Proof.Machine

namespace Sys2Proof.Machine

/-! ## Posted stores that drain (R117, R118) -/

section
variable {s t : State} {w : Worker} {off : Nat} {b : List Byte}

/-- While DRAM accesses wait, no access completes and no store drains. -/
theorem dramAccess_held (hrun : Running s) (hd : dramHeld s = true) :
    exec (.dramAccessComplete w) s = .next s ∧ exec (.storeQueueDrain w) s = .next s := by
  rw [exec_dramAccessComplete, exec_storeQueueDrain, run_running _ hrun, run_running _ hrun, dramComplete, storeDrain, if_pos hd, if_pos hd]
  exact ⟨rfl, rfl⟩

/-- The posted store `b` at `off` has left the queue of its worker's core. -/
def storeTaken (s : State) (w : Worker) (off : Nat) (b : List Byte) : State :=
  modCore s (wkOf s w).core fun q => { q with storeQ := q.storeQ.erase (w, off, b) }

theorem storeQ_storeTaken (s : State) (w : Worker) (off : Nat) (b : List Byte) :
    (coreOf (storeTaken s w off b) (wkOf s w).core).storeQ = (coreOf s (wkOf s w).core).storeQ.erase (w, off, b) := by
  rw [storeTaken, coreOf_modCore]

theorem wkOf_storeTaken (s : State) (w : Worker) (off : Nat) (b : List Byte) (v : Worker) : wkOf (storeTaken s w off b) v = wkOf s v :=
  wkOf_modCore ..

theorem cores_dramPut (s : State) (off : Nat) (b : List Byte) : (dramPut s off b).cores = s.cores := by rw [dramPut_eq]
theorem wkOf_dramPut (s : State) (off : Nat) (b : List Byte) (v : Worker) : wkOf (dramPut s off b) v = wkOf s v := by
  rw [dramPut_eq]
  rfl

section
variable (hrun : Running s) (hd : dramHeld s = false) (hq : ((coreOf s (wkOf s w).core).storeQ.find? fun q => q.1 == w) = some (w, off, b))
include hrun hd hq

/-! ### A store that reaches DRAM -/

section
variable (hp : poisoned s off b.length = false)
include hp

theorem storeDrain_visible (hfl : (wkOf s w).flight = .none) :
    exec (.storeQueueDrain w) s = .next (dramPut (storeTaken s w off b) off b) := by
  have hflight : (wkOf (dramPut (storeTaken s w off b) off b) w).flight = .none := by rw [wkOf_dramPut, wkOf_storeTaken, hfl]
  rw [exec_storeQueueDrain, run_running _ hrun, storeDrain]
  rw [storeTaken] at hflight ⊢
  simp only [hd, hq, hp, hflight, Bool.false_eq_true, if_false]

/-- The bytes of the store are in DRAM, every other byte reads as before. -/
theorem storeDrain_overwrites (hm : memoriesWf s) (hfl : (wkOf s w).flight = .none) : Ends (.storeQueueDrain w) s fun t =>
    t = { s with cores := t.cores, mem := { s.mem with dram := t.mem.dram } }
      ∧ (coreOf t (wkOf s w).core).storeQ = (coreOf s (wkOf s w).core).storeQ.erase (w, off, b)
      ∧ Overwrites s.mem.dram t.mem.dram off b := by
  obtain ⟨hdram, -⟩ := hm
  have hput : dramPut (storeTaken s w off b) off b =
      modMem (storeTaken s w off b) fun m => { m with dram := memWrite m.dram off b } := by
    rw [dramPut, if_neg]
    exact Bool.eq_false_iff.mp hp
  refine ⟨_, storeDrain_visible hrun hd hq hp hfl, ?_⟩
  rw [hput]
  exact ⟨rfl, storeQ_storeTaken s w off b, overwrites_memWrite _ off b hdram⟩

end

end

/-! ### A store that goes into a poisoned line -/

/-- A worker that has trapped, with no access in flight. -/
def Grounded (k : WorkerSt) : Prop := k.state = .trapped ∧ k.flight = .none

theorem Grounded.due {k : WorkerSt} (h : Grounded k) (due : Bool) : Grounded { k with actDue := due } := ⟨h.1, h.2⟩
theorem Grounded.pause {k : WorkerSt} (h : Grounded k) (due : Bool) (restartAt : Option Nat) :
    Grounded { k with actDue := due, restartAt := restartAt } := ⟨h.1, h.2⟩

theorem Grounded.spared (h : Grounded (wkOf s w)) (hst : SparesIdle s t) : Grounded (wkOf t w) := by
  have hidle : waitOf (wkOf s w) = none := by simp [waitOf, h.1]
  rw [hst.stays w hidle]
  exact h

theorem grounded_trapAction (h : Grounded (wkOf s w)) : Grounded (wkOf (trapAction s w) w) := by
  unfold trapAction
  dsimp only
  split
  · have hmod : Grounded (wkOf (modWk s w fun k => { k with actDue := false }) w) := by
      rw [wkOf_modWk]
      exact h.due false
    exact hmod.spared (sparesIdle_finalTrap _ w)
  · rw [wkOf_modWk]
    exact h.pause false _

/-- A fault leaves no access of its worker in flight (R79, R90). -/
theorem grounded_trapWorker (s : State) (w : Worker) (cause : Byte) (addr : Word) : Grounded (wkOf (trapWorker s w cause addr) w) := by
  have hleft : Grounded (wkOf (modWk (leaveWorker s w .trapped) w fun k => { k with
      faultCause := cause, faultCount := satInc 255 k.faultCount, faultPc := k.pc, faultAddr := addr }) w) := by
    rw [wkOf_modWk, wkOf_leaveWorker]
    exact ⟨rfl, rfl⟩
  unfold trapWorker
  dsimp only
  generalize modWk (leaveWorker s w .trapped) w _ = t at hleft ⊢
  generalize hx : emit t 28 _ _ _ _ _ _ = x
  have htold : Grounded (wkOf x w) := by
    rw [← hx]
    exact hleft.spared (sparesIdle_emit ..)
  split
  · have hdue : Grounded (wkOf (modWk x w fun k => { k with actDue := true }) w) := by
      rw [wkOf_modWk]
      exact htold.due true
    split
    · exact hdue.spared (sparesIdle_yieldStart _)
    · exact hdue
  · exact grounded_trapAction htold

theorem storeDrain_poisoned (hrun : Running s) (hd : dramHeld s = false)
    (hq : ((coreOf s (wkOf s w).core).storeQ.find? fun q => q.1 == w) = some (w, off, b)) (hp : poisoned s off b.length = true) :
    Traps (.storeQueueDrain w) s w 0x08 := by
  have hflight := (grounded_trapWorker (storeTaken s w off b) w 0x08 (apertureAddr (wkOf s w) off)).2
  have htrap := trapped_trapWorker (storeTaken s w off b) w 0x08 (apertureAddr (wkOf s w) off)
  rw [wkOf_storeTaken] at htrap
  refine ⟨_, ?_, htrap⟩
  rw [exec_storeQueueDrain, run_running _ hrun, storeDrain]
  rw [storeTaken] at hflight ⊢
  simp only [hd, hq, hp, hflight, Bool.false_eq_true, if_false, if_true]

/-! ### The last store of an instruction that waits for the stores -/

theorem hasPosted_of_filter (h : (coreOf s (wkOf s w).core).storeQ.filter (fun q => q.1 == w) = []) : hasPosted s w = false := by
  rw [hasPosted, List.any_eq_false]
  exact List.filter_eq_nil_iff.mp h

theorem storeDrain_last (hrun : Running s) (hd : dramHeld s = false) (hfl : (wkOf s w).flight = .drain)
    (hq : (coreOf s (wkOf s w).core).storeQ.filter (fun q => q.1 == w) = [(w, off, b)]) (hp : poisoned s off b.length = false) :
    Ends (.storeQueueDrain w) s fun t =>
      wkOf t w = { wkOf s w with flight := .none } ∧ hasPosted t w = false ∧ (∀ v, v ≠ w → wkOf t v = wkOf s v) := by
  have hfind : ((coreOf s (wkOf s w).core).storeQ.find? fun q => q.1 == w) = some (w, off, b) := by
    rw [← List.head?_filter, hq, List.head?_cons]
  have hwk : ∀ v, wkOf (dramPut (storeTaken s w off b) off b) v = wkOf s v := fun v => by rw [wkOf_dramPut, wkOf_storeTaken]
  have hcores : ∀ c, coreOf (dramPut (storeTaken s w off b) off b) c = coreOf (storeTaken s w off b) c := fun c => by
    rw [coreOf, cores_dramPut, coreOf]
  have hnone : ∀ t, (wkOf t w).core = (wkOf s w).core → (∀ c, coreOf t c = coreOf (storeTaken s w off b) c) → hasPosted t w = false :=
    fun t hc hcs => by
      refine hasPosted_of_filter ?_
      rw [hc, hcs, storeQ_storeTaken, ← List.erase_filter, hq, List.erase_cons_head]
  refine ⟨modWk (dramPut (storeTaken s w off b) off b) w fun k => { k with flight := .none }, ?_, ?_, ?_, fun v hv => ?_⟩
  · have hposted := hnone _ (by rw [hwk]) hcores
    have hflight : (wkOf (dramPut (storeTaken s w off b) off b) w).flight = .drain := by rw [hwk, hfl]
    rw [exec_storeQueueDrain, run_running _ hrun, storeDrain]
    rw [storeTaken] at hposted hflight ⊢
    simp only [hd, hfind, hp, hflight, hposted, Bool.false_eq_true, if_false]
  · rw [wkOf_modWk, hwk]
  · exact hnone _ (by rw [wkOf_modWk, hwk]) hcores
  · rw [wkOf_modWk_ne _ _ _ _ hv, hwk]

end

/-! ## Instructions that first complete their worker's posted stores (R117) -/

section
variable {s : State} {w : Worker} {i : Instr}

/-- The instruction acts once its worker's posted stores are complete. -/
def DrainsFirst (i : Instr) (s : State) (w : Worker) : Prop := ∃ f, exec i s = issueDrained s w f

theorem drainsFirst_of_exec {o : Out} {f : State → State} (he : exec i s = o) (ho : o = issueDrained s w f) : DrainsFirst i s w :=
  ⟨f, he.trans ho⟩

/-- A SIG instruction judges its worker's scope after that. -/
theorem drainsFirst_of_sig {o : Out} {f : State → State} (he : exec i s = o) (ho : o = sig w s f) : DrainsFirst i s w :=
  drainsFirst_of_exec he (ho.trans (by rw [sig]))

/-- While DRAM takes no store, the instruction has not issued yet: its issue is not counted. -/
theorem issueDrained_awaits {f : State → State} (h : Issues s w) (hbad : postedBad s w = none) (hheld : dramHeld s = true)
    (hposted : hasPosted s w = true) (he : exec i s = issueDrained s w f) : AwaitsDrain i s w := by
  have hseen : postedBad (issueSeen s w) w = none := (postedBad_issue s w).trans hbad
  have hheld' : dramHeld (issueSeen s w) = true := (dramHeld_issue s w).trans hheld
  have hposted' : hasPosted (issueSeen s w) w = true := (hasPosted_issue s w).trans hposted
  obtain ⟨honly, hrec⟩ := (atWorker_issueSeen_modWk (s := s) (w := w) fun k =>
    fly { k with issued := k.issued - 1, run := k.run - 1 } .drain).quantumEnd WkState.noConfusion
  refine ⟨_, ?_, honly, ?_⟩
  · rw [he, issueDrained, issue_issueSeen _ h]
    simp only [hseen, hheld', hposted', Bool.and_self, if_true]
    rfl
  · rw [hrec]
    simp only [fly, counted, Nat.add_sub_cancel, BitVec.add_sub_cancel]

theorem DrainsFirst.poisoned_or_awaits (hi : DrainsFirst i s w) (h : Issues s w) :
    ((postedBad s w).isSome = true → Traps i s w 0x08)
      ∧ (postedBad s w = none → dramHeld s = true → hasPosted s w = true → AwaitsDrain i s w) := by
  obtain ⟨f, he⟩ := hi
  exact ⟨fun hbad => issueDrained_poisoned h hbad he, fun hbad hheld hposted => issueDrained_awaits h hbad hheld hposted he⟩

/-! ### Which they are -/

variable {d s1 s2 : GReg} {ad alat : AReg} {t1 : TReg} {late : BitVec 2} {dom : Fin 4} {first : EveryFirst} {nb : Bool}

theorem drainsFirst_waitAt : DrainsFirst (.waitAt w ad late alat) s w :=
  drainsFirst_of_exec (o := execWaitAt w ad late alat s) rfl rfl
theorem drainsFirst_waitAtt : DrainsFirst (.waitAtt w t1 late alat) s w :=
  drainsFirst_of_exec (o := execWaitAtt w t1 late alat s) rfl rfl
theorem drainsFirst_waitDuration : DrainsFirst (.waitDuration w ad alat) s w :=
  drainsFirst_of_exec (o := execWaitDuration w ad alat s) rfl rfl
theorem drainsFirst_waitTick : DrainsFirst (.waitTick w ad dom late alat) s w :=
  drainsFirst_of_exec (o := execWaitTick w ad dom late alat s) rfl rfl
theorem drainsFirst_every : DrainsFirst (.every w d first ad late alat) s w :=
  drainsFirst_of_exec (o := execEvery w d first ad late alat s) rfl rfl
theorem drainsFirst_swpAll : DrainsFirst (.swpAll w d s1 s2) s w :=
  drainsFirst_of_exec (o := execSwpAll w d s1 s2 s) rfl rfl
theorem drainsFirst_swpAny : DrainsFirst (.swpAny w d s1 s2) s w :=
  drainsFirst_of_exec (o := execSwpAny w d s1 s2 s) rfl rfl
theorem drainsFirst_swpRevt : DrainsFirst (.swpRevt w d s1 s2) s w :=
  drainsFirst_of_exec (o := execSwpRevt w d s1 s2 s) rfl rfl
theorem drainsFirst_cmbw : DrainsFirst (.cmbw w d s1) s w :=
  drainsFirst_of_exec (o := execCmbw w d s1 s) rfl rfl
theorem drainsFirst_crx : DrainsFirst (.crx w d s1 s2 nb) s w :=
  drainsFirst_of_exec (o := execCrx w d s1 s2 nb s) rfl rfl
theorem drainsFirst_mrecv : DrainsFirst (.mrecv w d s1) s w :=
  drainsFirst_of_exec (o := execMrecv w d s1 s) rfl rfl
theorem drainsFirst_sigHash : DrainsFirst (.sigHash w d s1 s2) s w :=
  drainsFirst_of_sig (show exec _ s = execSigHash w d s1 s2 s from rfl) (by rw [execSigHash])
theorem drainsFirst_sigSign : DrainsFirst (.sigSign w d s1 s2) s w :=
  drainsFirst_of_sig (show exec _ s = execSigSign w d s1 s2 s from rfl) (by rw [execSigSign])
theorem drainsFirst_sigVerify : DrainsFirst (.sigVerify w d s1 s2) s w :=
  drainsFirst_of_sig (show exec _ s = execSigVerify w d s1 s2 s from rfl) (by rw [execSigVerify])
theorem drainsFirst_halt : DrainsFirst (.halt w) s w := ⟨_, exec_halt w s⟩

end

/-- Settles O15: a load goes into flight and completes by the state of its line, a store is posted and drained; the readings are those
of log entry 19 (a worker sees its own posted stores; a blocking instruction and HALT fault on, or wait for, their worker's posted
stores; a drain into a poisoned line faults). -/
theorem dramAccess : Obligations.DramAccess := by
  unfold Obligations.DramAccess
  intro s w d s1 s2 ad imm z scale off k a x flies posts completes room
  refine ⟨fun h hal hin => (isLoad_ldw ..).flies (by decide) h hal hin, fun h hal hin => (isLoad_ldd ..).flies (by decide) h hal hin,
    fun h hal hin => (isLoad_ldx ..).flies (xBytes_pos z) h hal hin, fun h hroom hal hin hst hp => ?_,
    fun hrun hd => ⟨loadG_completes hrun hd, loadA_completes hrun hd⟩, dramAccess_held,
    fun b hrun hd hm hfl hq hp => storeDrain_overwrites hrun hd hq hp hm hfl, fun b hrun hd hq hp => storeDrain_poisoned hrun hd hq hp,
    fun b hrun hd hfl hq hp => storeDrain_last hrun hd hfl hq hp, fun h t1 late alat dom first nb => ?_⟩
  · obtain ⟨hwr, hfree⟩ := hroom
    exact stw_posts h hwr hfree hal hin hst hp
  · simp only [List.forall_mem_cons]
    exact ⟨drainsFirst_waitAt.poisoned_or_awaits h, drainsFirst_waitAtt.poisoned_or_awaits h, drainsFirst_waitDuration.poisoned_or_awaits h,
      drainsFirst_waitTick.poisoned_or_awaits h, drainsFirst_every.poisoned_or_awaits h, drainsFirst_swpAll.poisoned_or_awaits h,
      drainsFirst_swpAny.poisoned_or_awaits h, drainsFirst_swpRevt.poisoned_or_awaits h, drainsFirst_cmbw.poisoned_or_awaits h,
      drainsFirst_crx.poisoned_or_awaits h, drainsFirst_mrecv.poisoned_or_awaits h, drainsFirst_sigHash.poisoned_or_awaits h,
      drainsFirst_sigSign.poisoned_or_awaits h, drainsFirst_sigVerify.poisoned_or_awaits h, drainsFirst_halt.poisoned_or_awaits h,
      List.forall_mem_nil _⟩

end Sys2Proof.Machine

/-! # Sitting 5: the instructions of the domain (O19, O20, O21, O24-O29) -/

namespace Sys2Proof.Machine

/-! ## The end of an instruction that gives a status, and what it changed elsewhere (R133) -/

section
variable {s t u : State} {w : Worker} {i : Instr} {d : GReg} {v : Word} {e : State → State} {k : WorkerSt}

theorem wkOf_drained (s : State) (w : Worker) : wkOf (drained s w) w = counted s w := by
  rw [drained, wkOf_drainWorker]
  exact wkOf_issueSeen s w

theorem gGet_counted (s : State) (w : Worker) (n : GReg) : gGet (counted s w) n = gGet (wkOf s w) n :=
  gGet_congr (k := wkOf s w) rfl n

theorem gGet_drained (s : State) (w : Worker) (n : GReg) : gGet (wkOf (drained s w) w) n = gGet (wkOf s w) n :=
  gGet_congr (drained_g s w) n

/-- What does not look at workers and cores is the same. -/
theorem AtWorker.same {α : Type} {f : State → α} (h : AtWorker u t w k) (hf : ∀ s wk cores, f { s with wk := wk, cores := cores } = f s) :
    f t = f u := by
  rw [h.frame, hf]

theorem modWk_congr {f g : WorkerSt → WorkerSt} (h : f (wkOf s w) = g (wkOf s w)) : modWk s w f = modWk s w g := by
  rw [modWk, h, modWk]

/-- The record of a worker whose instruction has given the status `v` in g[d]. -/
def statusGiven (k : WorkerSt) (d : GReg) (v : Word) : WorkerSt := { k with g := gWrite k.g d v, sw := zn k.sw v, pc := k.pc + 4 }

theorem gives_status (h : Issues s w) (he : exec i s = issue s w e)
    (heff : e (issueSeen s w) = modWk (issueSeen s w) w fun k => nextPc (putStatus k d v)) :
    Gives i s w d v (zn (wkOf s w).sw v) :=
  becomes_of_issue h he heff (by rw [putStatus_eq]; rfl)

/-- An instruction that gives a status goes on, whatever it did to the rest of the module before. -/
theorem AtWorker.puts (h : AtWorker u t w (counted s w)) (d : GReg) (v : Word) :
    OnlyWorker u (Machine.quantumEnd (Machine.modWk t w fun k => nextPc (putStatus k d v)) w) w
      ∧ WorkerIs s (Machine.quantumEnd (Machine.modWk t w fun k => nextPc (putStatus k d v)) w) w (statusGiven (wkOf s w) d v) := by
  have hmod := h.modWk (fun k => nextPc (putStatus k d v)) fun k c => by simp only [putStatus_eq, nextPc]
  obtain ⟨honly, hrec⟩ := hmod.completes
  rw [putStatus_eq] at hrec
  exact ⟨honly, hrec⟩

/-- The rest of the module, told by the end state itself: what `F` takes of it, workers and cores apart. -/
theorem OnlyWorker.as {F : State → State} (h : OnlyWorker u t w) (hF : ∀ wk cores, F { u with wk := wk, cores := cores } = F u)
    (hu : F u = u) : OnlyWorker (F t) t w := by
  have hFt : F t = u := by rw [h.1, hF, hu]
  rwa [hFt]

theorem OnlyWorker.same {α : Type} {f : State → α} (h : OnlyWorker u t w)
    (hf : ∀ s wk cores, f { s with wk := wk, cores := cores } = f s) : f t = f u := by
  rw [h.1, hf]

theorem ends_puts {F : State → State} (he : exec i s = .next (quantumEnd (modWk t w fun k => nextPc (putStatus k d v)) w))
    (hat : AtWorker u t w (counted s w)) (hF : ∀ wk cores, F { u with wk := wk, cores := cores } = F u) (hu : F u = u) :
    Ends i s fun t => OnlyWorker (F t) t w ∧ WorkerIs s t w (statusGiven (wkOf s w) d v) := by
  obtain ⟨honly, hrec⟩ := hat.puts d v
  exact ⟨_, he, honly.as hF hu, hrec⟩

/-- The same, with something else `f` told of the end state. -/
theorem ends_putsAnd {F : State → State} {α : Type} {f : State → α}
    (he : exec i s = .next (quantumEnd (modWk t w fun k => nextPc (putStatus k d v)) w))
    (hat : AtWorker u t w (counted s w)) (hF : ∀ wk cores, F { u with wk := wk, cores := cores } = F u) (hu : F u = u)
    (hf : ∀ s wk cores, f { s with wk := wk, cores := cores } = f s) :
    Ends i s fun t => (OnlyWorker (F t) t w ∧ WorkerIs s t w (statusGiven (wkOf s w) d v)) ∧ f t = f u := by
  obtain ⟨honly, hrec⟩ := hat.puts d v
  exact ⟨_, he, ⟨honly.as hF hu, hrec⟩, honly.same hf⟩

end

/-! ## What the instructions of the domain share: copies to and from scratch, requests, waits (R78, R117, R134) -/

section
variable {s t u : State} {w : Worker} {i : Instr} {k : WorkerSt} {a : Word} {n al : Nat} {P Q : State → Prop}

theorem Ends.mono (h : Ends i s P) (hpq : ∀ t, P t → Q t) : Ends i s Q := by
  obtain ⟨t, he, hp⟩ := h
  exact ⟨t, he, hpq t hp⟩

theorem Ends.split (h : Ends i s fun t => P t ∧ Q t) : Ends i s P ∧ Ends i s Q := by
  obtain ⟨t, he, hp, hq⟩ := h
  exact ⟨⟨t, he, hp⟩, t, he, hq⟩

/-- The operand lies in scratch, `n` bytes of it, aligned to `al`. -/
def InScratch (a : Word) (n al : Nat) : Prop := a.toNat % al = 0 ∧ 0x40000000 ≤ a.toNat ∧ a.toNat + n ≤ 0x40004000

theorem InScratch.offset (h : InScratch a n al) : a.toNat % 16384 = a.toNat - 0x40000000 ∨ n = 0 := by
  obtain ⟨-, hlo, hhi⟩ := h
  omega

theorem InScratch.offset_pos (h : InScratch a n al) (hn : 0 < n) : a.toNat % 16384 = a.toNat - 0x40000000 :=
  h.offset.resolve_right hn.ne'

theorem withLoad_scratch {f : Place → State} (h : InScratch a n al) (hbad : badPlace t w (.scratch (a.toNat - 0x40000000)) n = false) :
    withLoad t w a n al f = f (.scratch (a.toNat - 0x40000000)) := by
  obtain ⟨hal, hlo, hhi⟩ := h
  simp only [withLoad, hal, loadPlace_scratch hlo hhi, hbad, ne_eq, not_true, Bool.false_eq_true, if_false]

theorem withScratch_scratch {f : State} (h : InScratch a n al) : withScratch t w a n al f = f := by
  obtain ⟨hal, hlo, hhi⟩ := h
  simp only [withScratch, hal, loadPlace_scratch hlo hhi, ne_eq, not_true, if_false]

theorem AtWorker.scope (h : AtWorker u t w (counted s w)) : scopeOf t w = (wkOf s w).scope := by
  rw [scopeOf, h.record]
  rfl

theorem AtWorker.twin (h : AtWorker u t w k) : t.twin = u.twin := h.same fun _ _ _ => rfl

/-- Only the cores' queues and DRAM change as posted stores complete. -/
theorem drainWorker_same {α : Type} {f : State → α} (s : State) (w : Worker) (hf : ∀ s cores mem, f { s with cores := cores, mem := mem } = f s) :
    f (drainWorker s w) = f s := by
  obtain ⟨c, hs⟩ := drainWorker_eq s w
  rw [hs, hf]

theorem drainWorker_twin (s : State) (w : Worker) : (drainWorker s w).twin = s.twin := drainWorker_same s w fun _ _ _ => rfl

theorem memPut_badScratch (m : MemSt) (off : Nat) (b : List Byte) : (memPut m off b).badScratch = m.badScratch := by
  unfold memPut
  split <;> rfl

theorem drainWorker_badScratch (s : State) (w : Worker) : (drainWorker s w).mem.badScratch = s.mem.badScratch := by
  obtain ⟨c, hs⟩ := drainWorker_eq s w
  rw [hs]
  dsimp only
  generalize s.mem = m
  induction postedOf s w generalizing m with
  | nil => rfl
  | cons x l ih => rw [List.foldl_cons, ih, memPut_badScratch]

theorem badScratch_drained (s : State) (w : Worker) (off n : Nat) :
    badPlace (drained s w) w (.scratch off) n = badPlace s w (.scratch off) n := by
  simp only [badPlace, (atWorker_drained s w).mem, drainWorker_badScratch]

/-- A request that the arbiter numbers is an event. -/
theorem request_eq (s : State) (w : Worker) (op : Nat) : ∃ v, request s w op = Logged s v := onlyLogs_emit ..

/-- An instruction that blocks, whatever it did to the rest of the module before. -/
theorem waits_blockOn {x : Wait} (he : exec i s = .next (quantumEnd (blockOn t w x) w)) (hat : AtWorker u t w (counted s w)) :
    Waits i s w u (wkOf s w) x := by
  have hwait := (hat.blockOn x).quantumEnd WkState.noConfusion
  have hst : (wkOf (quantumEnd (blockOn t w x) w) w).state = .waiting := by
    rw [hwait.record]
    rfl
  refine ⟨_, he, hwait.1, hst, ?_⟩
  rw [WorkerIs, hst]
  exact hwait.record

theorem traps_of_drained {f : State → State} {cause : Byte} (h : Issues s w) (hd : Drains s w) (he : exec i s = issueDrained s w f)
    (hf : f (drained s w) = trapWorker (drained s w) w cause a) : Traps i s w cause :=
  traps_of_trapWorker (atWorker_drained s w) (by rw [he, issueDrained_eq f h hd, hf])

theorem becomesIn_puts {d : GReg} {v : Word} (he : exec i s = .next (quantumEnd (modWk t w fun k => nextPc (putStatus k d v)) w))
    (hat : AtWorker u t w (counted s w)) : BecomesIn i s w u (statusGiven (wkOf s w) d v) := by
  obtain ⟨honly, hrec⟩ := hat.puts d v
  exact ⟨_, he, honly, hrec⟩

end

/-! ## Position inputs (R150, R481, R485) -/

section
variable {s : State} {w : Worker} {i : Instr} {d s1 s2 : GReg}

theorem exec_qinCount (w : Worker) (d s1 : GReg) (s : State) :
    exec (.qinCount w d s1) s = qin w d s1 s fun s n => (qpOf s n).count := rfl
theorem exec_qinSpeed (w : Worker) (d s1 : GReg) (s : State) : exec (.qinSpeed w d s1) s = qin w d s1 s qpSpeed := rfl
theorem exec_qinStat (w : Worker) (d s1 : GReg) (s : State) :
    exec (.qinStat w d s1) s = qin w d s1 s fun s n => qpStat (qpOf s n) := rfl
theorem exec_qinIndex (w : Worker) (d s1 : GReg) (s : State) :
    exec (.qinIndex w d s1) s = qin w d s1 s fun s n => (qpOf s n).index := rfl
theorem exec_qinCfg (w : Worker) (d s1 s2 : GReg) (s : State) : exec (.qinCfg w d s1 s2) s = execQinCfg w d s1 s2 s := rfl

theorem qinInput_issueSeen (s : State) (w : Worker) (s1 : GReg) : qinInput (wkOf (issueSeen s w) w) s1 = qinInput (wkOf s w) s1 := by
  rw [qinInput, gGet_issueSeen, qinInput]

/-- A reading that does not look at workers and cores. -/
theorem qin_gives {f : State → Fin 8 → Word} (h : Issues s w) (he : exec i s = qin w d s1 s f)
    (hf : ∀ s wk cores, f { s with wk := wk, cores := cores } = f s) :
    Gives i s w d (f s (qinInput (wkOf s w) s1)) (zn (wkOf s w).sw (f s (qinInput (wkOf s w) s1))) :=
  gives_status h he (modWk_congr (by simp only [(atWorker_issueSeen s w).same hf, qinInput_issueSeen]))

/-! ### A configuration put in force -/

/-- Which limits the count stands at is noted; the configuration stays, and at most events are raised. -/
theorem qpLimits_eq (s : State) (n : Fin 8) :
    ∃ x u, qpLimits s n = Logged { s with qp := s.qp.set n x } u ∧ x.cfg = (qpOf s n).cfg := by
  unfold qpLimits
  extract_lets q lo hi s1 s2
  have hs2 : OnlyLogs s1 s2 := .ite (onlyLogs_emit ..) (.refl s1)
  obtain ⟨u, hu⟩ : OnlyLogs s1 (if (hi && !q.atHi) = true then emitQp s2 1 0x02 true (n.val + 256) else s2) :=
    hs2.trans (.ite (onlyLogs_emit ..) (.refl s2))
  exact ⟨_, u, hu, rfl⟩

theorem modQp_modQp (s : State) (n : Fin 8) (f g : QpSt → QpSt) : modQp (modQp s n f) n g = modQp s n fun q => g (f q) := by
  simp [modQp, qpOf]

/-- An input's count brought between its limits, HELD counted once (R489). -/
def qpWithin (q : QpSt) : QpSt :=
  let (x, out) := qpClamp q q.count
  if out then { q with count := x, held := inc16 q.held } else q

theorem qpHold_eq (s : State) (n : Fin 8) : qpHold s n = qpLimits (modQp s n qpWithin) n := rfl
theorem qpOf_modQp (s : State) (n : Fin 8) (f : QpSt → QpSt) : qpOf (modQp s n f) n = f (qpOf s n) := by simp [qpOf, modQp]

theorem qpWithin_cfg (q : QpSt) : (qpWithin q).cfg = q.cfg := by
  unfold qpWithin
  split
  split <;> rfl

theorem qpConfigure_eq (s : State) (n : Fin 8) (v : Word) :
    ∃ x u, qpConfigure s n v = Logged { s with qp := s.qp.set n x } u ∧ x.cfg = (qpCfgFix v).1 := by
  rw [qpConfigure, qpHold_eq, modQp_modQp]
  obtain ⟨x, u, hx, hcfg⟩ := qpLimits_eq (modQp s n fun q => qpWithin { q with cfg := (qpCfgFix v).1 }) n
  refine ⟨x, u, hx.trans (by simp [modQp]), ?_⟩
  rw [hcfg, qpOf_modQp, qpWithin_cfg]

theorem bitsOf_23_22 (x : Word) : bitsOf x 23 22 = 3 ↔ x.getLsbD 23 = true ∧ x.getLsbD 22 = true := by
  simp only [bitsOf, BitVec.getLsbD, Nat.testBit_eq_decide_div_mod_eq, decide_eq_true_eq, Nat.shiftRight_eq_div_pow]
  omega

/-- SPD_AVG 0b11 takes 0b00, and bit 20 is reserved (R489). -/
theorem qpCfgFix_fst (v : Word) : (qpCfgFix v).1 =
    if (v &&& 0xFFEFFFFF).getLsbD 23 = true ∧ (v &&& 0xFFEFFFFF).getLsbD 22 = true then (v &&& 0xFFEFFFFF) &&& 0xFF3FFFFF
    else v &&& 0xFFEFFFFF := by
  simp only [qpCfgFix, bitsOf_23_22]
  split <;> rfl

/-- `s` with the clamp entry of a configuration that had to be changed (R175). -/
def qinClamped (s : State) (w : Worker) (sc : Half) (v : Word) : State :=
  if (qpCfgFix v).2 then clampAdd s (word w.val) v (qpCfgFix v).1 sc 0x05 0x05 else s

theorem qinClamped_qp (s : State) (w : Worker) (sc : Half) (v : Word) : (qinClamped s w sc v).qp = s.qp := by
  unfold qinClamped
  split <;> rfl

theorem qinCfg_configures (h : Issues s w) (hsc : chipOrPair (wkOf s w).scope = true) :
    let n := qinInput (wkOf s w) s1
    let v := (qpCfgFix (gGet (wkOf s w) s2)).1
    Ends (.qinCfg w d s1 s2) s fun t =>
      OnlyWorker { Logged s t with qp := t.qp, folio := { s.folio with clamp := t.folio.clamp } } t w
        ∧ WorkerIs s t w (statusGiven (wkOf s w) d v) ∧ (qpOf t n).cfg = v ∧ ∀ m, m ≠ n → qpOf t m = qpOf s m := by
  intro n v
  have hat := (atWorker_issueSeen s w).map (qinClamped · w (wkOf s w).scope (gGet (wkOf s w) s2))
    (fun s => by unfold qinClamped; split <;> rfl) (fun s => by unfold qinClamped; split <;> rfl)
    fun s wk cores => by unfold qinClamped; split <;> rfl
  obtain ⟨x, u, hx, hcfg⟩ :=
    qpConfigure_eq (qinClamped (issueSeen s w) w (wkOf s w).scope (gGet (wkOf s w) s2)) n (gGet (wkOf s w) s2)
  have hset := (hat.map (fun s => { s with qp := s.qp.set n x }) (fun _ => rfl) (fun _ => rfl) fun _ _ _ => rfl).log u
  rw [← hx] at hset
  obtain ⟨honly, hrec⟩ := hset.puts d v
  have hqp := congrArg State.qp honly.1
  change _ = (qinClamped s w (wkOf s w).scope (gGet (wkOf s w) s2)).qp.set n x at hqp
  rw [qinClamped_qp] at hqp
  refine ⟨_, ?_, honly.as (F := fun t => { Logged s t with qp := t.qp, folio := { s.folio with clamp := t.folio.clamp } })
    (fun _ _ => rfl) ?_, hrec, ?_, fun m hm => ?_⟩
  · rw [exec_qinCfg, execQinCfg, issue_issueSeen _ h]
    simp only [wkOf_issueSeen, show chipOrPair (counted s w).scope = true from hsc, Bool.not_true, Bool.false_eq_true, if_false]
    rfl
  · unfold qinClamped
    split <;> rfl
  · rw [qpOf, hqp]
    exact (congrArg QpSt.cfg (Vector.getElem_set_self _)).trans hcfg
  · rw [qpOf, hqp]
    exact Vector.getElem_set_ne _ _ (Fin.val_ne_of_ne hm.symm)

theorem qinCfg_traps (h : Issues s w) (hsc : chipOrPair (wkOf s w).scope = false) : Traps (.qinCfg w d s1 s2) s w 0x02 := by
  refine traps_of_issue (a := word (qinInput (wkOf s w) s1).val) h (exec_qinCfg ..) ?_
  simp only [wkOf_issueSeen, show chipOrPair (counted s w).scope = false from hsc, Bool.not_false, if_true]
  rfl

end

/-- Settles O26. -/
theorem positionReads : Obligations.PositionReads := by
  unfold Obligations.PositionReads
  intro s w d s1 s2 h k n q reads given kept v
  have hv : (qpCfgFix given).1 = v := qpCfgFix_fst given
  refine ⟨qin_gives h (exec_qinCount ..) fun _ _ _ => rfl, qin_gives h (exec_qinSpeed ..) fun _ _ _ => rfl,
    qin_gives h (exec_qinStat ..) fun _ _ _ => rfl, qin_gives h (exec_qinIndex ..) fun _ _ _ => rfl, fun hsc => ?_, qinCfg_traps h⟩
  rw [← hv]
  exact qinCfg_configures h hsc

end Sys2Proof.Machine

namespace Sys2Proof.Machine

/-! ## MIR: state, messages and hand-over (R156, R385, R389) -/

section
variable {s t u : State} {w : Worker} {i : Instr} {d s1 s2 : GReg}

theorem exec_mstat (w : Worker) (d : GReg) (s : State) : exec (.mstat w d) s = execMstat w d s := rfl
theorem exec_msend (w : Worker) (d s1 s2 : GReg) (s : State) : exec (.msend w d s1 s2) s = execMsend w d s1 s2 s := rfl
theorem exec_mrecv (w : Worker) (d s1 : GReg) (s : State) : exec (.mrecv w d s1) s = execMrecv w d s1 s := rfl
theorem exec_myield (w : Worker) (d : GReg) (s : State) : exec (.myield w d) s = execMyield w d s := rfl

/-! ### Who may issue it -/

section
variable {f : State → State} {b : Bool} (hat : AtWorker u t w (counted s w)) (hu : u.twin = s.twin)
include hat

theorem mir_scope (hp : isPair (wkOf s w).scope = false) : mir t w b f = trapWorker t w 0x02 0 := by
  simp only [mir, hat.scope, hp, Bool.not_false, if_true]
  rfl

include hu

theorem mir_absent (hp : isPair (wkOf s w).scope = true) (htw : s.twin.present = false) : mir t w true f = trapWorker t w 0x0C 0 := by
  simp only [mir, hat.scope, hp, hat.twin, hu, htw, Bool.not_true, Bool.not_false, Bool.and_self, Bool.false_eq_true, if_false, if_true]

theorem mir_present (hp : isPair (wkOf s w).scope = true) (htw : s.twin.present = true) : mir t w b f = f t := by
  simp only [mir, hat.scope, hp, hat.twin, hu, htw, Bool.not_true, Bool.and_false, Bool.false_eq_true, if_false]

end

theorem mir_status {f : State → State} (hat : AtWorker u t w (counted s w)) (hp : isPair (wkOf s w).scope = true) : mir t w false f = f t := by
  simp only [mir, hat.scope, hp, Bool.not_true, Bool.false_and, Bool.false_eq_true, if_false]

/-- The three instructions that need the twin fault with cause SCOPE for a worker that is not of the pair, and with cause TWIN_ABSENT
without a twin (R156). -/
theorem mir_traps (h : Issues s w) {cause : Byte}
    (hmir : ∀ t u, AtWorker u t w (counted s w) → u.twin = s.twin → ∀ f, mir t w true f = trapWorker t w cause 0) :
    ∀ i ∈ [Instr.msend w d s1 s2, .mrecv w d s1, .myield w d], Drains s w → Traps i s w cause := by
  have hseen := hmir _ s (atWorker_issueSeen s w) rfl
  have hdrained := hmir _ _ (atWorker_drained s w) (drainWorker_twin s w)
  simp only [List.forall_mem_cons]
  exact ⟨fun _ => traps_of_issue h (exec_msend ..) (hseen _), fun hd => traps_of_drained h hd (exec_mrecv ..) (hdrained _),
    fun _ => traps_of_issue h (exec_myield ..) (hseen _), List.forall_mem_nil _⟩

theorem mstat_traps (h : Issues s w) (hp : isPair (wkOf s w).scope = false) : Traps (.mstat w d) s w 0x02 :=
  traps_of_issue h (exec_mstat ..) (mir_scope (atWorker_issueSeen s w) hp)

/-! ### MSTAT -/

theorem bitMask_four (a b c e : Bool) :
    bitMask [a, b, c, e] = (if a then 1 else 0) + (if b then 2 else 0) + (if c then 4 else 0) + (if e then 8 else 0) := by
  cases a <;> cases b <;> cases c <;> cases e <;> rfl

/-- The word of MSTAT (R156). -/
def mstatNat (s : State) : Nat :=
  bitMask [s.twin.present, isLead s, isYielded s, s.twin.statesMatch] + fld (min 255 s.twin.mismatch) 8

theorem mstat_gives (h : Issues s w) (hp : isPair (wkOf s w).scope = true) :
    Gives (.mstat w d) s w d (word (mstatNat s)) (zn (wkOf s w).sw (word (mstatNat s))) := by
  have hat := atWorker_issueSeen s w
  refine gives_status h (exec_mstat ..) ?_
  rw [mir_status hat hp]
  change finish _ w d (mstatNat (issueSeen s w)) = _
  rw [hat.same (f := mstatNat) fun _ _ _ => rfl, finish]

/-! ### MSEND -/

/-- `s` with the frames to the twin and the counts of messages to its workers replaced, and one free value drawn. -/
def msendState (s : State) (out : List TwinOut) (mail : List (Worker × Nat)) : State :=
  { s with free := s.free + 1, twin := { s.twin with out := out, peerMail := mail } }

/-- The counts of messages with one more to the worker. -/
def mailCounted (s : State) (w : Worker) : List (Worker × Nat) :=
  (w, min 8 (sentTo s w + 1)) :: s.twin.peerMail.filter fun x => x.1 != w

theorem sentTo_congr (h : t.twin.peerMail = s.twin.peerMail) : sentTo t w = sentTo s w := by
  rw [sentTo, h, sentTo]

theorem Logged_peerMail (s v : State) : (Logged s v).twin.peerMail = s.twin.peerMail := rfl

theorem Logged_out (s v : State) : (Logged s v).twin.out = v.twin.out := rfl

theorem mailCounted_congr (h : t.twin.peerMail = s.twin.peerMail) : mailCounted t w = mailCounted s w := by
  rw [mailCounted, h, sentTo_congr h, mailCounted]

theorem twinSend_mailCounted (s : State) (w : Worker) (b : List Byte) :
    twinSend (modTwin (drawFree s).2 fun t => { t with
      peerMail := (w, min 8 (sentTo (drawFree s).2 w + 1)) :: t.peerMail.filter fun x => x.1 != w }) (.mirMsg w b)
      = msendState s (twinPut s.twin.out (.mirMsg w b)) (mailCounted s w) := rfl

theorem getLast_twinPut_mirMsg (l : List TwinOut) (w : Worker) (b : List Byte) : (twinPut l (.mirMsg w b)).getLast? = some (.mirMsg w b) := by
  simp [twinPut, goesAhead]

/-- What MSEND of a range in scratch does while fewer than 8 messages have gone to the worker. -/
theorem msend_sends (h : Issues s w) (hp : isPair (wkOf s w).scope = true) (htw : s.twin.present = true)
    (hin : InScratch (gGet (wkOf s w) s1) (clampNat 1 64 (gGet (wkOf s w) s2).toNat) 1)
    (hbad : badPlace s w (.scratch ((gGet (wkOf s w) s1).toNat - 0x40000000)) (clampNat 1 64 (gGet (wkOf s w) s2).toNat) = false)
    (hroom : sentTo s w < 8) :
    Ends (.msend w d s1 s2) s fun t =>
      (OnlyWorker { Logged s t with free := s.free + 1, twin := { s.twin with out := t.twin.out, peerMail := t.twin.peerMail } } t w
        ∧ WorkerIs s t w (statusGiven (wkOf s w) d 0))
      ∧ t.twin.out.getLast? = some (.mirMsg w (memRead (wkOf s w).scratch ((gGet (wkOf s w) s1).toNat - 0x40000000)
          (clampNat 1 64 (gGet (wkOf s w) s2).toNat))) := by
  have hat := atWorker_issueSeen s w
  obtain ⟨v, hv⟩ := request_eq (issueSeen s w) w 0x35
  generalize hb : memRead (wkOf s w).scratch ((gGet (wkOf s w) s1).toNat - 0x40000000) (clampNat 1 64 (gGet (wkOf s w) s2).toNat) = b
  have hsent := (hat.log v).map (msendState · (twinPut v.twin.out (.mirMsg w b)) (mailCounted s w))
    (fun _ => rfl) (fun _ => rfl) fun _ _ _ => rfl
  refine (ends_putsAnd (F := fun t => { Logged s t with
    free := s.free + 1, twin := { s.twin with out := t.twin.out, peerMail := t.twin.peerMail } }) (f := fun t => t.twin.out.getLast?)
    ?_ hsent (fun _ _ => rfl) rfl fun _ _ _ => rfl).mono fun t ht => ⟨ht.1, ht.2.trans (getLast_twinPut_mirMsg ..)⟩
  rw [← badPlace_issueSeen] at hbad
  have hout := Logged_out (issueSeen s w) v
  have hmail := Logged_peerMail (issueSeen s w) v
  rw [hat.twin] at hmail
  rw [exec_msend, execMsend, issue_issueSeen _ h, mir_present hat rfl hp htw, hv]
  generalize Logged (issueSeen s w) v = x at hout hmail ⊢
  have hfree : ¬(8 ≤ sentTo (drawFree x).2 w ∧ Config.freeBool (drawFree x).1 = true) := by
    rw [sentTo_congr (t := (drawFree x).2) hmail]
    omega
  simp only [wkOf_issueSeen, gGet_counted, withLoad_scratch hin hbad, hfree, if_false, twinSend_mailCounted, finish]
  rw [hout, mailCounted_congr hmail, show (counted s w).scratch = (wkOf s w).scratch from rfl, hb]
  rfl

/-! ### MRECV -/

theorem drained_twin (s : State) (w : Worker) : (drained s w).twin = s.twin := (atWorker_drained s w).twin.trans (drainWorker_twin s w)

theorem mirDeliver_eq (k : WorkerSt) (d : GReg) (a : Word) (b : List Byte) : mirDeliver k d a b =
    { k with scratch := memWrite k.scratch (a.toNat % 16384) b, g := gWrite k.g d (word b.length), sw := zn k.sw (word b.length) } := by
  rw [mirDeliver, putStatus_eq]

section
variable (h : Issues s w) (hd : Drains s w) (hp : isPair (wkOf s w).scope = true) (htw : s.twin.present = true)
  (hin : InScratch (gGet (wkOf s w) s1) 64 1)
include h hd hp htw hin

theorem mrecv_takes {x : Worker × List Byte} (hx : (s.twin.mail.find? fun y => y.1 == w) = some x) :
    BecomesIn (.mrecv w d s1) s w { drainWorker s w with twin := { s.twin with mail := s.twin.mail.erase x } }
      { wkOf s w with
        scratch := memWrite (wkOf s w).scratch ((gGet (wkOf s w) s1).toNat - 0x40000000) x.2
        g := gWrite (wkOf s w).g d (word x.2.length), sw := zn (wkOf s w).sw (word x.2.length), pc := (wkOf s w).pc + 4 } := by
  have hoff := hin.offset_pos (by decide)
  have hat := ((atWorker_drained s w).map (modTwin · fun t => { t with mail := t.mail.erase x }) (fun _ => rfl) (fun _ => rfl)
    fun _ _ _ => rfl).modWk (fun k => nextPc (mirDeliver k d (gGet (wkOf s w) s1) x.2)) fun k c => by simp only [mirDeliver_eq, nextPc]
  obtain ⟨honly, hrec⟩ := hat.completes
  rw [mirDeliver_eq, hoff] at hrec
  rw [modTwin, drainWorker_twin] at honly
  refine ⟨_, ?_, honly, hrec⟩
  rw [exec_mrecv, execMrecv, issueDrained_eq _ h hd, mir_present (atWorker_drained s w) (drainWorker_twin s w) hp htw]
  simp only [gGet_drained, withScratch_scratch hin, drained_twin, hx]
  have hg := gGet_drained s w s1
  generalize drained s w = y at hg ⊢
  have hrec' : wkOf (modTwin y fun t => { t with mail := t.mail.erase x }) w = wkOf y w := rfl
  rw [modWk_congr (g := fun k => nextPc (mirDeliver k d (gGet (wkOf s w) s1) x.2)) (by rw [hrec', hg])]

theorem mrecv_waits (hx : (s.twin.mail.find? fun y => y.1 == w) = none) :
    Waits (.mrecv w d s1) s w (drainWorker s w) (wkOf s w) (.twin d (gGet (wkOf s w) s1)) := by
  refine waits_blockOn ?_ (atWorker_drained s w)
  rw [exec_mrecv, execMrecv, issueDrained_eq _ h hd, mir_present (atWorker_drained s w) (drainWorker_twin s w) hp htw]
  simp only [gGet_drained, withScratch_scratch hin, drained_twin, hx]

end

/-! ### MYIELD -/

/-- The hand-over begins with a grant, which crosses the link where a session is open. -/
theorem yieldStart_eq (s : State) : ∃ out m, yieldStart s = { s with twin := { s.twin with out := out, grant := some m } } := by
  unfold yieldStart pairSend
  dsimp only
  split
  · exact ⟨_, _, rfl⟩
  · exact ⟨_, _, rfl⟩

theorem myield_one (h : Issues s w) (hp : isPair (wkOf s w).scope = true) (htw : s.twin.present = true)
    (hno : s.twin.role ≠ .lead ∨ s.twin.grant.isSome = true) : Gives (.myield w d) s w d 1 (zn (wkOf s w).sw (1 : Word)) := by
  have hat := atWorker_issueSeen s w
  refine gives_status h (exec_myield ..) ?_
  rw [mir_present hat rfl hp htw]
  have hcond : ¬((issueSeen s w).twin.role = .lead ∧ (issueSeen s w).twin.grant = none) := by
    rw [hat.twin]
    rintro ⟨hrole, hgrant⟩
    rw [hgrant] at hno
    exact hno.elim (absurd hrole) Bool.noConfusion
  rw [if_neg hcond]
  rfl

theorem myield_zero (h : Issues s w) (hp : isPair (wkOf s w).scope = true) (htw : s.twin.present = true)
    (hrole : s.twin.role = .lead) (hgrant : s.twin.grant = none) :
    Ends (.myield w d) s fun t =>
      (OnlyWorker { Logged s t with twin := { s.twin with out := t.twin.out, grant := t.twin.grant } } t w
        ∧ WorkerIs s t w (statusGiven (wkOf s w) d 0))
      ∧ t.twin.grant.isSome = (canYield s && !s.twin.xferBusy) := by
  have hat := atWorker_issueSeen s w
  obtain ⟨v, hv⟩ := request_eq (issueSeen s w) w 0x35
  have hlog := hat.log v
  have hcan : (canYield (issueSeen s w) && !(issueSeen s w).twin.xferBusy) = (canYield s && !s.twin.xferBusy) :=
    hat.same (f := fun s => canYield s && !s.twin.xferBusy) fun _ _ _ => rfl
  have he : exec (.myield w d) s = .next (quantumEnd (finish
      (if canYield s && !s.twin.xferBusy then yieldStart (Logged (issueSeen s w) v) else Logged (issueSeen s w) v) w d 0) w) := by
    have hcond : (issueSeen s w).twin.role = .lead ∧ (issueSeen s w).twin.grant = none := by
      rw [hat.twin]
      exact ⟨hrole, hgrant⟩
    rw [exec_myield, execMyield, issue_issueSeen _ h, mir_present hat rfl hp htw, hv]
    simp only [hcond, and_self, if_true, hcan]
  cases hy : canYield s && !s.twin.xferBusy with
  | true =>
    obtain ⟨out, m, hstart⟩ := yieldStart_eq (Logged (issueSeen s w) v)
    rw [hy, if_pos rfl, hstart] at he
    exact ends_putsAnd (F := fun t => { Logged s t with twin := { s.twin with out := t.twin.out, grant := t.twin.grant } })
      (f := fun t => t.twin.grant.isSome) he (hlog.map (fun s => { s with twin := { s.twin with out := out, grant := some m } })
        (fun _ => rfl) (fun _ => rfl) fun _ _ _ => rfl) (fun _ _ => rfl) rfl fun _ _ _ => rfl
  | false =>
    rw [hy, if_neg Bool.false_ne_true] at he
    refine (ends_putsAnd (F := fun t => { Logged s t with twin := { s.twin with out := t.twin.out, grant := t.twin.grant } })
      (f := fun t => t.twin.grant) he hlog (fun _ _ => rfl) rfl fun _ _ _ => rfl).mono fun t ht => ⟨ht.1, ?_⟩
    rw [ht.2]
    exact congrArg Option.isSome hgrant

end

/-- Settles O28; that MYIELD gives 1 with a hand-over under way, that it sends nothing with a transfer or without a healthy mirror, and
that no mailbox is full before eight messages are readings of log entry 21. -/
theorem pairInstructions : Obligations.PairInstructions := by
  unfold Obligations.PairInstructions
  intro s w d s1 s2 h k bit stat len a inScratch ends all
  have hstat : word (mstatNat s) = stat := by
    rw [mstatNat, bitMask_four, fld, Nat.shiftLeft_eq, Nat.mul_comm]
    rfl
  refine ⟨fun hp => ⟨mstat_traps h hp, mir_traps h fun t u hat _ f => mir_scope hat hp⟩,
    fun hp htw => mir_traps h fun t u hat hu f => mir_absent hat hu hp htw, fun hp => hstat ▸ mstat_gives h hp,
    fun hp htw => ⟨fun hin hbad hroom => (msend_sends h hp htw ⟨Nat.mod_one _, hin⟩ hbad hroom).split,
      fun hin hd x hx => mrecv_takes h hd hp htw ⟨Nat.mod_one _, hin⟩ hx,
      fun hin hx hd => mrecv_waits h hd hp htw ⟨Nat.mod_one _, hin⟩ hx,
      fun hrole hgrant => (myield_zero h hp htw hrole hgrant).split, myield_one h hp htw⟩⟩

end Sys2Proof.Machine

namespace Sys2Proof.Machine

/-! ## SIG: requests and their completion (R79, R157, R158) -/

section
variable {s t : State} {w : Worker} {i : Instr} {d s1 s2 : GReg} {a : Word} {n : Nat} {op : Fin 3} {data sg : List Byte} {slot : Byte}

theorem exec_sigHash (w : Worker) (d s1 s2 : GReg) (s : State) : exec (.sigHash w d s1 s2) s = execSigHash w d s1 s2 s := rfl
theorem exec_sigSign (w : Worker) (d s1 s2 : GReg) (s : State) : exec (.sigSign w d s1 s2) s = execSigSign w d s1 s2 s := rfl
theorem exec_sigVerify (w : Worker) (d s1 s2 : GReg) (s : State) : exec (.sigVerify w d s1 s2) s = execSigVerify w d s1 s2 s := rfl
theorem exec_cryptoComplete (s : State) : exec .cryptoComplete s = execCryptoComplete s := rfl

/-! ### Who may issue it, and what it reads -/

theorem sig_drained (h : Issues s w) (hd : Drains s w) (hsc : chipOrPair (wkOf s w).scope = true) (f : State → State) :
    sig w s f = .next (quantumEnd (f (drained s w)) w) := by
  rw [sig, issueDrained_eq _ h hd, (atWorker_drained s w).scope, if_pos hsc]

theorem sig_scope {f : State → State} (h : Issues s w) (hd : Drains s w) (hsc : chipOrPair (wkOf s w).scope = false) (he : exec i s = sig w s f) :
    Traps i s w 0x02 :=
  traps_of_drained h hd he (by rw [(atWorker_drained s w).scope, hsc, if_neg Bool.false_ne_true]; rfl)

theorem sig_faults {f : State → State} {cause : Byte} (h : Issues s w) (hd : Drains s w) (hsc : chipOrPair (wkOf s w).scope = true)
    (he : exec i s = sig w s f) (hf : f (drained s w) = trapWorker (drained s w) w cause a) : Traps i s w cause :=
  traps_of_trapWorker (atWorker_drained s w) (by rw [he, sig_drained h hd hsc, hf])

/-- A range of scratch that the worker may read: its bytes. -/
theorem withLoad_drained {f : Place → State} (hin : InScratch a n 1) (hbad : badPlace s w (.scratch (a.toNat - 0x40000000)) n = false) :
    withLoad (drained s w) w a n 1 f = f (.scratch (a.toNat - 0x40000000)) :=
  withLoad_scratch hin ((badScratch_drained ..).trans hbad)

theorem readScratch_drained (s : State) (w : Worker) (off n : Nat) :
    readPlace (drained s w) w (.scratch off) n = memRead (wkOf s w).scratch off n := by
  rw [readPlace, wkOf_drained]
  rfl

/-! ### The request -/

/-- The request that SIG puts at the end of the queue. -/
def sigAsked (s : State) (w : Worker) (op : Fin 3) (d : GReg) (data sg : List Byte) (slot : Byte) : CryptoReq :=
  ⟨some w, decide ((wkOf s w).prio.toNat ≤ 1), s.arb.seq, op, d, gGet (wkOf s w) d, data, sg, slot, .sig⟩

theorem sigAsked_drained (s : State) (w : Worker) (op : Fin 3) (d : GReg) (data sg : List Byte) (slot : Byte) :
    sigAsked (drained s w) w op d data sg slot = sigAsked s w op d data sg slot := by
  have hseq : (drained s w).arb = s.arb :=
    ((atWorker_drained s w).same (f := State.arb) fun _ _ _ => rfl).trans (drainWorker_same s w fun _ _ _ => rfl)
  rw [sigAsked, gGet_drained, wkOf_drained, hseq]
  rfl

theorem sigRequest_eq (s : State) (w : Worker) (op : Fin 3) (d : GReg) (data sg : List Byte) (slot : Byte) :
    sigRequest s w op d data sg slot = blockOn { s with crypto := s.crypto ++ [sigAsked s w op d data sg slot] } w .crypto := rfl

theorem sig_asks (he : exec i s = .next (quantumEnd (sigRequest (drained s w) w op d data sg slot) w)) :
    Waits i s w { drainWorker s w with crypto := s.crypto ++ [sigAsked s w op d data sg slot] } (wkOf s w) .crypto := by
  have hcrypto : (drainWorker s w).crypto = s.crypto := drainWorker_same s w fun _ _ _ => rfl
  have hat := (atWorker_drained s w).map (fun t => { t with crypto := t.crypto ++ [sigAsked s w op d data sg slot] })
    (fun _ => rfl) (fun _ => rfl) fun _ _ _ => rfl
  rw [hcrypto] at hat
  rw [sigRequest_eq, sigAsked_drained] at he
  exact waits_blockOn he hat

section
variable (h : Issues s w) (hd : Drains s w) (hsc : chipOrPair (wkOf s w).scope = true)
include h hd hsc

theorem sigHash_asks (hsrc : InScratch (gGet (wkOf s w) s1) (gGet (wkOf s w) s2).toNat 1)
    (hbad : badPlace s w (.scratch ((gGet (wkOf s w) s1).toNat - 0x40000000)) (gGet (wkOf s w) s2).toNat = false)
    (hdst : InScratch (gGet (wkOf s w) d) 32 1) :
    Waits (.sigHash w d s1 s2) s w { drainWorker s w with crypto := s.crypto ++ [sigAsked s w 0 d
      (memRead (wkOf s w).scratch ((gGet (wkOf s w) s1).toNat - 0x40000000) (gGet (wkOf s w) s2).toNat) [] 0] } (wkOf s w) .crypto := by
  refine sig_asks ?_
  rw [exec_sigHash, execSigHash, sig_drained h hd hsc]
  simp only [gGet_drained, withLoad_drained hsrc hbad, withScratch_scratch hdst, readScratch_drained]

theorem sigSign_asks (hslot : (gGet (wkOf s w) s2).setWidth 8 = (0x01 : Byte) ∨ (gGet (wkOf s w) s2).setWidth 8 = (0x02 : Byte))
    (hsrc : InScratch (gGet (wkOf s w) s1) 32 1) (hbad : badPlace s w (.scratch ((gGet (wkOf s w) s1).toNat - 0x40000000)) 32 = false)
    (hdst : InScratch (gGet (wkOf s w) d) 384 1) :
    Waits (.sigSign w d s1 s2) s w { drainWorker s w with crypto := s.crypto ++ [sigAsked s w 1 d
      (memRead (wkOf s w).scratch ((gGet (wkOf s w) s1).toNat - 0x40000000) 32) [] ((gGet (wkOf s w) s2).setWidth 8)] } (wkOf s w) .crypto := by
  have hkey : (signKey (drained s w) ((gGet (wkOf s w) s2).setWidth 8)).isNone = false := by
    rcases hslot with hslot | hslot <;> rw [hslot] <;> rfl
  refine sig_asks ?_
  rw [exec_sigSign, execSigSign, sig_drained h hd hsc]
  simp only [gGet_drained, hkey, Bool.false_eq_true, if_false, withLoad_drained hsrc hbad, withScratch_scratch hdst, readScratch_drained]

theorem sigSign_traps (hone : (gGet (wkOf s w) s2).setWidth 8 ≠ (0x01 : Byte)) (htwo : (gGet (wkOf s w) s2).setWidth 8 ≠ (0x02 : Byte)) :
    Traps (.sigSign w d s1 s2) s w 0x0D := by
  refine sig_faults (a := 0) h hd hsc (exec_sigSign ..) ?_
  simp only [gGet_drained, signKey, hone, htwo, if_false, Option.isNone_none, if_true]

theorem sigVerify_asks (hslot : (gGet (wkOf s w) s2).setWidth 8 ∈ [(0x01 : Byte), 0x02, 0x10, 0x11])
    (hsrc : InScratch (gGet (wkOf s w) s1) 32 1) (hbad : badPlace s w (.scratch ((gGet (wkOf s w) s1).toNat - 0x40000000)) 32 = false)
    (hsig : InScratch (gGet (wkOf s w) d) 384 1) (hsbad : badPlace s w (.scratch ((gGet (wkOf s w) d).toNat - 0x40000000)) 384 = false) :
    Waits (.sigVerify w d s1 s2) s w { drainWorker s w with crypto := s.crypto ++ [sigAsked s w 2 d
      (memRead (wkOf s w).scratch ((gGet (wkOf s w) s1).toNat - 0x40000000) 32)
      (memRead (wkOf s w).scratch ((gGet (wkOf s w) d).toNat - 0x40000000) 384) ((gGet (wkOf s w) s2).setWidth 8)] } (wkOf s w) .crypto := by
  generalize hx : ((gGet (wkOf s w) s2).setWidth 8 : Byte) = x at hslot
  have hmay : ∀ y ∈ [(0x01 : Byte), 0x02, 0x10, 0x11], (!verifySlot y) = false ∧ y ≠ 0x20 := by decide
  obtain ⟨hverify, htwin⟩ := hmay x hslot
  refine sig_asks ?_
  rw [exec_sigVerify, execSigVerify, sig_drained h hd hsc]
  simp only [gGet_drained, hx, hverify, htwin, false_and, Bool.false_eq_true, if_false, withLoad_drained hsrc hbad,
    withLoad_drained hsig hsbad, readScratch_drained]

theorem sigVerify_traps (hslot : (gGet (wkOf s w) s2).setWidth 8 ∉ [(0x01 : Byte), 0x02, 0x10, 0x11, 0x20]) :
    Traps (.sigVerify w d s1 s2) s w 0x0D := by
  have hverify : verifySlot ((gGet (wkOf s w) s2).setWidth 8) = false := by simpa [verifySlot] using hslot
  refine sig_faults (a := 0) h hd hsc (exec_sigVerify ..) ?_
  simp only [gGet_drained, hverify, Bool.not_false, if_true]

theorem sigVerify_twinAbsent (hslot : (gGet (wkOf s w) s2).setWidth 8 = (0x20 : Byte)) (hkey : s.twin.capKey = none) :
    Traps (.sigVerify w d s1 s2) s w 0x0C := by
  have hverify : (!verifySlot 0x20) = false := by decide
  refine sig_faults (a := 0) h hd hsc (exec_sigVerify ..) ?_
  simp only [gGet_drained, hslot, hverify, drained_twin, hkey, and_self, Bool.false_eq_true, if_false, if_true]

end

/-! ### Completion -/

section
variable {q : CryptoReq} {rest : List CryptoReq} (hrun : Running s) (hq : s.crypto = q :: rest) (hjob : q.job = .sig)
include hrun hq hjob

theorem cryptoComplete_down (hpart : partDown s 6 = true) : exec .cryptoComplete s = .next s := by
  rw [exec_cryptoComplete, execCryptoComplete, run_running _ hrun]
  simp only [cryptoDone, hq, hjob, rsaServes, hpart]
  rfl

theorem cryptoComplete_sig (hpart : partDown s 6 = false) (hw : q.worker = some w) :
    exec .cryptoComplete s = .next (sigResult (number { s with crypto := cryptoGrant rest }) w q) := by
  rw [exec_cryptoComplete, execCryptoComplete, run_running _ hrun]
  simp only [cryptoDone, hq, hjob, rsaServes, hpart, cryptoEnd, sigDone, rsaNext, hw, List.tail_cons]
  rfl

end

theorem makeReady_waiting {k : WorkerSt} (hk : k.state = .waiting) : makeReady k = { k with state := .ready, wait := none, issued := 0 } := by
  rw [makeReady, hk]
  rfl

section
variable {q : CryptoReq} {rest : List CryptoReq} (hrun : Running s) (hq : s.crypto = q :: rest) (hjob : q.job = .sig)
  (hpart : partDown s 6 = false) (hw : q.worker = some w) (hk : (wkOf s w).state = .waiting)
include hrun hq hjob hpart hw hk

theorem cryptoComplete_hash (hop : q.op = 0) : Ends .cryptoComplete s fun t =>
    t.crypto = cryptoGrant rest ∧ wkOf t w = { wkOf s w with
      scratch := memWrite (wkOf s w).scratch (q.dst.toNat % 16384) (sha256 q.data), state := .ready, wait := none, issued := 0 }
      ∧ ∀ v, v ≠ w → wkOf t v = wkOf s v := by
  refine ⟨_, cryptoComplete_sig hrun hq hjob hpart hw, ?_⟩
  have hrec : wkOf (number { s with crypto := cryptoGrant rest }) w = wkOf s w := rfl
  rw [sigResult, if_pos hop]
  generalize sha256 q.data = digest
  refine ⟨rfl, ?_, fun v hv => wkOf_modWk_ne _ _ _ _ hv⟩
  rw [wkOf_modWk, hrec, makeReady_waiting (by exact hk)]

theorem cryptoComplete_verify (hop : q.op = 2) : Ends .cryptoComplete s fun t =>
    t.crypto = cryptoGrant rest ∧ wkOf t w =
        { wkOf s w with state := .ready, wait := none, issued := 0, sw := { (wkOf s w).sw with z := (wkOf t w).sw.z } }
      ∧ ((wkOf t w).sw.z = true ↔ ∃ pub, slotKey s q.slot = some pub ∧ Config.rsaVerify pub q.data q.sig = true) := by
  refine ⟨_, cryptoComplete_sig hrun hq hjob hpart hw, ?_⟩
  rw [sigResult, if_neg (by rw [hop]; decide), if_neg (by rw [hop]; decide)]
  have hkey : slotKey (number { s with crypto := cryptoGrant rest }) q.slot = slotKey s q.slot := rfl
  have hrec : wkOf (number { s with crypto := cryptoGrant rest }) w = wkOf s w := rfl
  refine ⟨rfl, ?_, ?_⟩
  · rw [wkOf_modWk, hrec, makeReady_waiting (by exact hk)]
  · rw [wkOf_modWk, hrec, makeReady_waiting (by exact hk), hkey]
    cases slotKey s q.slot <;> simp

end

end

/-- Settles O29; that nothing completes while the engine's partition is out of service, and not merely under test, is the reading of
log entry 34. -/
theorem signing : Obligations.Signing := by
  unfold Obligations.Signing
  intro s w d s1 s2 rest q k src dst len slot inScratch reads bytes asks
  refine ⟨fun h hsc hd => ⟨sig_scope h hd hsc (exec_sigHash ..), sig_scope h hd hsc (exec_sigSign ..), sig_scope h hd hsc (exec_sigVerify ..)⟩,
    fun h hsc hd => ⟨fun hsrc hdst => sigHash_asks h hd hsc ⟨Nat.mod_one _, hsrc.1⟩ hsrc.2 ⟨Nat.mod_one _, hdst⟩,
      fun hslot hsrc hdst => sigSign_asks h hd hsc hslot ⟨Nat.mod_one _, hsrc.1⟩ hsrc.2 ⟨Nat.mod_one _, hdst⟩, sigSign_traps h hd hsc,
      fun hslot hsrc hsig => sigVerify_asks h hd hsc hslot ⟨Nat.mod_one _, hsrc.1⟩ hsrc.2 ⟨Nat.mod_one _, hsig.1⟩ hsig.2,
      sigVerify_traps h hd hsc, sigVerify_twinAbsent h hd hsc⟩,
    cryptoComplete_down,
    fun hrun hq hjob hpart hw hk => ⟨cryptoComplete_hash hrun hq hjob hpart hw hk, cryptoComplete_verify hrun hq hjob hpart hw hk⟩⟩

end Sys2Proof.Machine

namespace Sys2Proof.Machine

/-! ## OUT from a program and from the host (R145, R146, R348, R354, R363, R364) -/

section
variable {s t u v : State} {w : Worker} {i : Instr} {d s1 s2 : GReg} {c : Chan} {cmd : Nat} {duty : Half} {x y : ChanSt} {sess : Session}

theorem exec_outOff (src : OutSrc) (s : State) : exec (.outOff src) s = outCommand src s 0 := rfl
theorem exec_outOn (src : OutSrc) (s : State) : exec (.outOn src) s = outCommand src s 1 := rfl
theorem exec_outPwm (src : OutSrc) (s : State) : exec (.outPwm src) s = outCommand src s 2 := rfl
theorem exec_outClearLatch (src : OutSrc) (s : State) : exec (.outClearLatch src) s = outCommand src s 3 := rfl

/-! ### One channel's state -/

theorem setCh_setCh (s : State) (c : Chan) (x y : ChanSt) : setCh (setCh s c x) c y = setCh s c y := by simp [setCh]
theorem setCh_same (s : State) (c : Chan) : setCh s c (chOf s c) = s := by simp [setCh, chOf]
theorem setCh_Logged (s u : State) (c : Chan) (x : ChanSt) : setCh (Logged s u) c x = Logged (setCh s c x) u := rfl
theorem chOf_Logged (s u : State) (c : Chan) : chOf (Logged s u) c = chOf s c := rfl

/-- What an output's drive does not touch: its command, its duty and its protection. -/
def SameCommand (x y : ChanSt) : Prop :=
  y.cmd = x.cmd ∧ y.duty = x.duty ∧ y.latched = x.latched ∧ y.attempts = x.attempts ∧ y.pauseEnd = x.pauseEnd

theorem wantsDrive_off (h : (chOf s c).cmd = 0) : wantsDrive s c = false := by simp [wantsDrive, h]

/-- Bringing an output to what its state asks for changes the output alone, and leaves one without a command off. -/
theorem bankUpdate_eq (s : State) (c : Chan) :
    ∃ y, bankUpdate s c = setCh s c y ∧ SameCommand (chOf s c) y ∧ ((chOf s c).cmd = 0 → y.drive = 0) := by
  cases hwants : wantsDrive s c with
  | true =>
    have hcmd : (chOf s c).cmd ≠ 0 := fun hoff => by simp [wantsDrive_off hoff] at hwants
    cases hon : conducting (chOf s c) with
    | true =>
      rw [bankUpdate, hwants, hon, if_pos rfl, if_pos rfl, reshape, hon, if_pos rfl]
      exact ⟨_, rfl, ⟨rfl, rfl, rfl, rfl, rfl⟩, fun hoff => absurd hoff hcmd⟩
    | false =>
      rw [bankUpdate, hwants, hon, if_pos rfl, if_neg Bool.false_ne_true, switchOn]
      exact ⟨_, rfl, ⟨rfl, rfl, rfl, rfl, rfl⟩, fun hoff => absurd hoff hcmd⟩
  | false =>
    rw [bankUpdate, hwants, if_neg Bool.false_ne_true]
    exact ⟨_, rfl, ⟨rfl, rfl, rfl, rfl, rfl⟩, fun _ => rfl⟩

theorem onlyLogs_emitBank (s : State) (level e : Nat) (keep : Bool) (scope : Half) (args : Nat) : OnlyLogs s (emitBank s level e keep scope args) :=
  .ite (onlyLogs_emit ..) (.refl s)

theorem setFlags_eq (s : State) (c : Chan) (f : ChanSt → ChanSt) : ∃ u, setFlags s c f = Logged (setCh s c (f (chOf s c))) u := by
  unfold setFlags
  extract_lets old t new
  exact OnlyLogs.ite (s := t) (.refl t) (onlyLogs_emitBank ..)

/-! ### A command taken -/

/-- What a command makes of its channel (R354, R363). -/
def outTaken (x y : ChanSt) (cmd : Nat) (duty : Half) : Prop :=
  match cmd with
  | 0 => y.cmd = 0 ∧ y.duty = 0 ∧ y.latched = false ∧ y.drive = 0 ∧ y.pauseEnd = none ∧ y.attempts = 0
  | 1 => y.cmd = 1 ∧ y.duty = x.duty ∧ y.latched = x.latched
  | 2 => y.cmd = 2 ∧ y.duty = duty ∧ y.latched = x.latched
  | _ => y.cmd = x.cmd ∧ y.duty = x.duty ∧ y.latched = false ∧ y.attempts = 0

/-- A channel's state changed, then its output brought to what that asks for. -/
theorem bankUpdate_setFlags (s : State) (c : Chan) (f : ChanSt → ChanSt) :
    ∃ y u, bankUpdate (setFlags s c f) c = Logged (setCh s c y) u ∧ SameCommand (f (chOf s c)) y ∧ ((f (chOf s c)).cmd = 0 → y.drive = 0) := by
  obtain ⟨u, hflags⟩ := setFlags_eq s c f
  obtain ⟨y, hy, hsame, hoff⟩ := bankUpdate_eq (Logged (setCh s c (f (chOf s c))) u) c
  rw [chOf_Logged, chOf_setCh] at hsame hoff
  exact ⟨y, u, by rw [hflags, hy, setCh_Logged, setCh_setCh], hsame, hoff⟩

theorem cmdOff_eq (s : State) (c : Chan) (duty : Half) : ∃ y u, cmdOff s c = Logged (setCh s c y) u ∧ outTaken (chOf s c) y 0 duty := by
  obtain ⟨y, u, hy, ⟨hcmd, hduty, hlatched, hattempts, hpause⟩, hoff⟩ := bankUpdate_setFlags s c _
  exact ⟨y, u, hy, hcmd, hduty, hlatched, hoff rfl, hpause, hattempts⟩

theorem cmdClear_eq (s : State) (c : Chan) (duty : Half) : ∃ y u, cmdClear s c = Logged (setCh s c y) u ∧ outTaken (chOf s c) y 3 duty := by
  obtain ⟨y, u, hy, ⟨hcmd, hduty, hlatched, hattempts, -⟩, -⟩ := bankUpdate_setFlags s c _
  exact ⟨y, u, hy, hcmd, hduty, hlatched, hattempts⟩

theorem cmdOn_eq (s : State) (c : Chan) (pwm : Bool) (duty : Half) :
    ∃ y u, cmdOn s c pwm duty = Logged (setCh s c y) u ∧ outTaken (chOf s c) y (if pwm then 2 else 1) duty := by
  obtain ⟨y, hy, ⟨hcmd, hduty, hlatched, -⟩, -⟩ :=
    bankUpdate_eq (modCh s c fun x => { x with cmd := if pwm then 2 else 1, duty := if pwm then duty else x.duty }) c
  rw [chOf_modCh] at hcmd hduty hlatched
  refine ⟨y, setCh s c y, ?_, ?_⟩
  · rw [cmdOn, hy, modCh, setCh_setCh]
    rfl
  · cases pwm <;> exact ⟨hcmd, hduty, hlatched⟩

theorem bankCmd_eq (s : State) (c : Chan) (duty : Half) (hcmd : cmd < 4) :
    ∃ y u, bankCmd s c cmd duty = Logged (setCh s c y) u ∧ outTaken (chOf s c) y cmd duty :=
  match cmd, hcmd with
  | 0, _ => cmdOff_eq ..
  | 1, _ => cmdOn_eq s c false duty
  | 2, _ => cmdOn_eq s c true duty
  | 3, _ => cmdClear_eq ..

/-- A request is taken on its channel alone when it is accepted, and changes no channel when it is refused. -/
def OutMade (s : State) (c : Chan) (cmd : Nat) (duty : Half) (y : ChanSt) : Prop :=
  if outStatus s c cmd = 0 then outTaken (chOf s c) y cmd duty else y = chOf s c

theorem outTake_eq (s : State) (scope : Half) (issuer : Nat) (c : Chan) (duty : Half) (hcmd : cmd < 4) :
    ∃ y u, outTake s scope issuer c cmd duty = (Logged (setCh s c y) u, outStatus s c cmd) ∧ OutMade s c cmd duty y := by
  rw [outTake]
  unfold OutMade
  generalize outStatus s c cmd = st
  by_cases hst : st = 0
  · obtain ⟨y, u, hy, htaken⟩ := bankCmd_eq s c duty hcmd
    simp only [hy, hst]
    exact ⟨y, u, rfl, htaken⟩
  · simp only [if_neg hst]
    obtain ⟨u, hu⟩ : OnlyLogs s (emit s 28 1 0x03 false true scope (word (fld issuer 24 + fld c.val 16 + fld cmd 8 + st))) := onlyLogs_emit ..
    rw [hu]
    exact ⟨_, u, by rw [setCh_same], rfl⟩

theorem OutMade.congr (h : OutMade t c cmd duty y) (hst : outStatus t c cmd = outStatus s c cmd) (hch : chOf t c = chOf s c) :
    OutMade s c cmd duty y := by
  rwa [OutMade, hst, hch] at h

theorem others_of_set (h : t.bank.ch = s.bank.ch.set c y) : chOf t c = y ∧ ∀ e, e ≠ c → chOf t e = chOf s e := by
  refine ⟨?_, fun e he => ?_⟩
  · rw [chOf, h]
    exact Vector.getElem_set_self _
  · rw [chOf, h]
    exact Vector.getElem_set_ne _ _ (Fin.val_ne_of_ne he.symm)

/-! ### From a program -/

/-- The channel that gs1 names. -/
def outChan (s : State) (w : Worker) (s1 : GReg) : Chan := Fin.ofNat 64 (gGet (wkOf s w) s1).toNat

/-- What OUT does as the worker issues it. -/
def outIsken (w : Worker) (d s1 s2 : GReg) (cmd : Nat) (s : State) : State :=
  if !(hasChan s (outChan s w s1) && ownsChan s (wkOf s w).scope (outChan s w s1)) then trapWorker s w causeScope (word (outChan s w s1).val)
  else
    let r := outTake (request s w 0x2C) (wkOf s w).scope w.val (outChan s w s1) cmd ((gGet (wkOf s w) s2 >>> 16).setWidth 16)
    finish r.1 w d r.2

theorem outCommand_isken (hcmd : (gGet (wkOf s w) s2).toNat % 4 = cmd) :
    outCommand (.isken w d s1 s2) s cmd = issue s w (outIsken w d s1 s2 cmd) := by
  rw [outCommand, if_neg (not_not_intro hcmd)]
  rfl

theorem outChan_issueSeen (s : State) (w : Worker) (s1 : GReg) : outChan (issueSeen s w) w s1 = outChan s w s1 := by
  rw [outChan, gGet_issueSeen, outChan]

theorem mayOut_issueSeen (s : State) (w : Worker) (c : Chan) :
    (hasChan (issueSeen s w) c && ownsChan (issueSeen s w) (wkOf (issueSeen s w) w).scope c)
      = (hasChan s c && ownsChan s (wkOf s w).scope c) := by
  rw [wkOf_issueSeen]
  exact (atWorker_issueSeen s w).same (f := fun s' => hasChan s' c && ownsChan s' (wkOf s w).scope c) fun _ _ _ => rfl

theorem outIsken_ends (h : Issues s w) (hhas : hasChan s (outChan s w s1) = true)
    (howns : ownsChan s (wkOf s w).scope (outChan s w s1) = true) (he : exec i s = outCommand (.isken w d s1 s2) s cmd)
    (hcmd : (gGet (wkOf s w) s2).toNat % 4 = cmd) :
    Ends i s fun t =>
      (OnlyWorker { Logged s t with bank := { s.bank with ch := t.bank.ch } } t w
        ∧ WorkerIs s t w (statusGiven (wkOf s w) d (word (outStatus s (outChan s w s1) cmd))))
      ∧ (∀ e, e ≠ outChan s w s1 → chOf t e = chOf s e)
      ∧ OutMade s (outChan s w s1) cmd ((gGet (wkOf s w) s2 >>> 16).setWidth 16) (chOf t (outChan s w s1)) := by
  have hat := atWorker_issueSeen s w
  obtain ⟨v, hv⟩ := request_eq (issueSeen s w) w 0x2C
  have hlog := hat.log v
  generalize hz : Logged (issueSeen s w) v = z at hlog hv
  obtain ⟨y, u, hy, hmade⟩ := outTake_eq z (wkOf s w).scope w.val (outChan s w s1) ((gGet (wkOf s w) s2 >>> 16).setWidth 16)
    (hcmd ▸ Nat.mod_lt _ (by decide) : cmd < 4)
  have hst : outStatus z (outChan s w s1) cmd = outStatus s (outChan s w s1) cmd :=
    hlog.same (f := fun s' => outStatus s' (outChan s w s1) cmd) fun _ _ _ => rfl
  have hch : chOf z (outChan s w s1) = chOf s (outChan s w s1) := hlog.same (f := fun s' => chOf s' (outChan s w s1)) fun _ _ _ => rfl
  have hset := (hlog.map (setCh · (outChan s w s1) y) (fun _ => rfl) (fun _ => rfl) fun _ _ _ => rfl).log u
  rw [hst] at hy
  refine (ends_putsAnd (F := fun t => { Logged s t with bank := { s.bank with ch := t.bank.ch } }) (f := fun t => t.bank.ch)
    (d := d) (v := word (outStatus s (outChan s w s1) cmd)) ?_ hset (fun _ _ => rfl) rfl fun _ _ _ => rfl).mono fun t ht => ?_
  · rw [he, outCommand_isken hcmd, issue_issueSeen _ h, outIsken, outChan_issueSeen, mayOut_issueSeen, hhas, howns, hv, gGet_issueSeen,
      wkOf_issueSeen, show (counted s w).scope = (wkOf s w).scope from rfl, hy]
    rfl
  · obtain ⟨hself, hothers⟩ := others_of_set (s := s) ht.2
    rw [hself]
    exact ⟨ht.1, hothers, hmade.congr hst hch⟩

theorem outIsken_traps (h : Issues s w) (hno : (hasChan s (outChan s w s1) && ownsChan s (wkOf s w).scope (outChan s w s1)) = false)
    (he : exec i s = outCommand (.isken w d s1 s2) s cmd) (hcmd : (gGet (wkOf s w) s2).toNat % 4 = cmd) : Traps i s w 0x02 := by
  refine traps_of_issue (a := word (outChan s w s1).val) h (he.trans (outCommand_isken hcmd)) ?_
  rw [outIsken, outChan_issueSeen, mayOut_issueSeen, hno, Bool.not_false, if_pos rfl]
  rfl

/-! ### From the host -/

theorem outHost_ends (hrun : Running s) (hop : isOperator s sess = true) (hhas : hasChan s c = true)
    (he : exec i s = outCommand (.host sess c duty) s cmd) (hcmd : cmd < 4) :
    Ends i s fun t =>
      t = { Logged s t with bank := { s.bank with ch := t.bank.ch, lastCh := c, lastStatus := BitVec.ofNat 8 (outStatus s c cmd) } }
        ∧ (∀ e, e ≠ c → chOf t e = chOf s e) ∧ OutMade s c cmd duty (chOf t c) := by
  obtain ⟨y, u, hy, hmade⟩ := outTake_eq (number s) chipScope 0xFF c duty hcmd
  obtain ⟨hself, hothers⟩ := others_of_set (s := s) (t := { Logged (setCh (number s) c y) u with
    bank := { s.bank with ch := s.bank.ch.set c y, lastCh := c, lastStatus := BitVec.ofNat 8 (outStatus s c cmd) } }) rfl
  refine ⟨_, ?_, rfl, hothers, by rw [hself]; exact hmade⟩
  rw [he, outCommand, run_running _ hrun, hop, hhas, Bool.and_self, if_pos rfl, outHost, hy]
  rfl

end

/-- Settles O24; a worker's store to CH_CMD is not among its sources. -/
theorem switchOutputs : Obligations.SwitchOutputs := by
  unfold Obligations.SwitchOutputs
  intro s w d s1 s2 sess c duty k cw dutyW rows taken others
  simp only [rows, List.forall_mem_cons, List.not_mem_nil, false_imp_iff, implies_true, and_true]
  have hreorder : ∀ {P Q R S : State → Prop} {i : Instr}, (Ends i s fun t => (P t ∧ Q t) ∧ R t ∧ S t) → Ends i s fun t => P t ∧ R t ∧ Q t ∧ S t :=
    fun h => h.mono fun t ⟨⟨hp, hq⟩, hr, hs⟩ => ⟨hp, hr, hq, hs⟩
  refine ⟨fun h hhas howns => ⟨?_, ?_, ?_, ?_⟩, fun h hno => ⟨?_, ?_, ?_, ?_⟩, fun hrun hop hhas => ⟨?_, ?_, ?_, ?_⟩⟩
  · exact fun hcmd => hreorder (outIsken_ends h hhas howns (exec_outOff ..) hcmd)
  · exact fun hcmd => hreorder (outIsken_ends h hhas howns (exec_outOn ..) hcmd)
  · exact fun hcmd => hreorder (outIsken_ends h hhas howns (exec_outPwm ..) hcmd)
  · exact fun hcmd => hreorder (outIsken_ends h hhas howns (exec_outClearLatch ..) hcmd)
  · exact outIsken_traps h hno (exec_outOff ..)
  · exact outIsken_traps h hno (exec_outOn ..)
  · exact outIsken_traps h hno (exec_outPwm ..)
  · exact outIsken_traps h hno (exec_outClearLatch ..)
  · exact outHost_ends hrun hop hhas (exec_outOff ..) (by decide)
  · exact outHost_ends hrun hop hhas (exec_outOn ..) (by decide)
  · exact outHost_ends hrun hop hhas (exec_outPwm ..) (by decide)
  · exact outHost_ends hrun hop hhas (exec_outClearLatch ..) (by decide)

end Sys2Proof.Machine

namespace Sys2Proof.Machine

/-! ## CMB and CMBW (R133, R141-R144) -/

section
variable {s t u v : State} {w : Worker} {i : Instr} {d s1 : GReg} {a : Word} {n al : Nat} {l : Launch} {p : Place} {k : WorkerSt}

theorem exec_cmb (w : Worker) (d s1 : GReg) (s : State) : exec (.cmb w d s1) s = execCmb w d s1 s := rfl
theorem exec_cmbw (w : Worker) (d s1 : GReg) (s : State) : exec (.cmbw w d s1) s = execCmbw w d s1 s := rfl

/-! ### What may be stored to (R84, R117) -/

/-- The register blocks hold no place. -/
theorem storePlace_low {a : Nat} (ha : a < 0x200000) (k : WorkerSt) : storePlace s k a n ≠ .ok p := by
  have hbad : loadPlace k a n = .bad causeAddress := by
    rw [loadPlace, if_neg (by omega), if_neg (by omega), if_neg (by omega)]
  rw [storePlace, hbad]
  exact Acc.noConfusion

theorem copyPlace_ok {a : Nat} : copyPlace s w a n = .ok p ↔ storePlace s (wkOf s w) a n = .ok p := by
  by_cases ha : a < 0x200000
  · refine iff_of_false (fun h => ?_) (storePlace_low ha _)
    rw [copyPlace] at h
    split at h
    · exact Acc.noConfusion h
    · exact storePlace_low ha _ h
  · rw [copyPlace, inBlocks_high (by omega), Bool.false_and, if_neg Bool.false_ne_true]

theorem AtWorker.storePlace (h : AtWorker u t w (counted s w)) (hu : u.mem = s.mem) (a n : Nat) :
    storePlace t (wkOf t w) a n = Machine.storePlace s (wkOf s w) a n := by
  have hstorable : storable t = storable s := by
    funext off n
    rw [storable, progBase, archBase, h.mem, hu]
    rfl
  rw [h.record]
  simp only [Machine.storePlace, hstorable]
  rfl

theorem AtWorker.copyPlace_ok (h : AtWorker u t w (counted s w)) (hu : u.mem = s.mem) {a : Nat} :
    copyPlace t w a n = .ok p ↔ copyPlace s w a n = .ok p := by
  rw [Machine.copyPlace_ok, h.storePlace hu, Machine.copyPlace_ok]

/-- A table is stored to where a copy may be, other than in scratch. -/
theorem tableStore_ok : tableStore s w a n = .ok p ↔ copyPlace s w a.toNat n = .ok p ∧ ∀ off, p ≠ .scratch off := by
  unfold tableStore
  split
  next off hcopy =>
    rw [hcopy]
    refine iff_of_false Acc.noConfusion fun ⟨hp, hno⟩ => hno off ?_
    cases hp
    rfl
  next hno => exact ⟨fun h => ⟨h, fun off hp => hno off (hp ▸ h)⟩, fun h => h.1⟩

theorem badTable_none (hl : ∀ a n, tableLoad (wkOf t w) a n = tableLoad (wkOf s w) a n)
    (hst : ∀ n p, tableStore s w l.dst n = .ok p → tableStore t w l.dst n = .ok p) (h : badTable s w l = none) : badTable t w l = none := by
  simp only [badTable, List.head?_eq_none_iff, List.append_eq_nil_iff, hl] at h ⊢
  refine ⟨h.1, ?_⟩
  have hstore := h.2
  by_cases hlen : dstLen l = 0
  · rw [if_pos hlen]
  · rw [if_neg hlen] at hstore ⊢
    cases hp : tableStore s w l.dst (dstLen l) with
    | bad c =>
      rw [hp] at hstore
      exact absurd hstore (List.cons_ne_nil _ _)
    | ok p => rw [hst _ p hp]

theorem badTable_issueSeen (h : badTable s w l = none) : badTable (issueSeen s w) w l = none := by
  refine badTable_none (fun a n => ?_) (fun n p hp => ?_) h
  · rw [tableLoad, loadPlace_issueSeen, tableLoad]
  · rw [tableStore_ok] at hp ⊢
    exact ⟨((atWorker_issueSeen s w).copyPlace_ok rfl).2 hp.1, hp.2⟩

/-! ### CMB -/

section
variable (h : Issues s w) (hin : InScratch (gGet (wkOf s w) s1) 32 8)
  (hbad : badPlace s w (.scratch ((gGet (wkOf s w) s1).toNat - 0x40000000)) 32 = false)

theorem launchOf_issueSeen (s : State) (w : Worker) (b : List Byte) (ticket : Word) : launchOf (issueSeen s w) w b ticket = launchOf s w b ticket := by
  simp only [launchOf, wkOf_issueSeen]
  rfl

theorem rangeOk_issueSeen (s : State) (w : Worker) (l : Launch) : rangeOk (issueSeen s w) (wkOf (issueSeen s w) w).scope l = rangeOk s (wkOf s w).scope l := by
  rw [wkOf_issueSeen]
  exact (atWorker_issueSeen s w).same (f := fun t => rangeOk t (wkOf s w).scope l) fun _ _ _ => rfl

theorem entryFree_issueSeen (s : State) (w : Worker) : entryFree (issueSeen s w) (wkOf (issueSeen s w) w) = entryFree s (wkOf s w) := by
  rw [wkOf_issueSeen]
  exact (atWorker_issueSeen s w).same (f := fun t => entryFree t (wkOf s w)) fun _ _ _ => rfl

theorem Logged_seq (s v : State) : (Logged s v).arb.seq = v.arb.seq := rfl

/-- The descriptor of a launch. -/
def cmbBytes (s : State) (w : Worker) (s1 : GReg) : List Byte := memRead (wkOf s w).scratch ((gGet (wkOf s w) s1).toNat - 0x40000000) 32

/-- The launch that CMB asks for. -/
def cmbLaunch (s : State) (w : Worker) (s1 : GReg) : Launch := launchOf s w (cmbBytes s w s1) (ticketOf w (wkOf s w).launches)

/-- What CMB does with its descriptor, read from scratch. -/
def cmbTake (w : Worker) (d s1 : GReg) (b : List Byte) (l : Launch) (s : State) : State :=
  if badDescriptor b l then trapWorker s w 0x0A (gGet (wkOf s w) s1)
  else if !(rangeOk s (wkOf s w).scope l) then trapWorker s w causeScope (word l.first)
  else match badTable s w l with
    | some (c, a) => trapWorker s w c a
    | none => if entryFree s (wkOf s w) then launch s w d l else finish s w d 0

theorem cmbTake_allowed (hwell : badDescriptor (cmbBytes s w s1) (cmbLaunch s w s1) = false)
    (hrange : rangeOk s (wkOf s w).scope (cmbLaunch s w s1) = true) (htab : badTable s w (cmbLaunch s w s1) = none) :
    cmbTake w d s1 (cmbBytes s w s1) (cmbLaunch s w s1) (issueSeen s w)
    = if entryFree s (wkOf s w) then launch (issueSeen s w) w d (cmbLaunch s w s1) else finish (issueSeen s w) w d 0 := by
  rw [cmbTake, hwell, rangeOk_issueSeen, hrange, badTable_issueSeen htab, entryFree_issueSeen]
  rfl

include h hin hbad

theorem cmb_scratch : exec (.cmb w d s1) s = issue s w fun _ => cmbTake w d s1 (cmbBytes s w s1) (cmbLaunch s w s1) (issueSeen s w) := by
  have hbad' := (badPlace_issueSeen s w _ 32).trans hbad
  have hread : readPlace (issueSeen s w) w (.scratch ((gGet (wkOf s w) s1).toNat - 0x40000000)) 32 = cmbBytes s w s1 := readPlace_issueSeen ..
  have hlaunches : (wkOf (issueSeen s w) w).launches = (wkOf s w).launches := by
    rw [wkOf_issueSeen]
    rfl
  rw [exec_cmb, execCmb, issue_issueSeen _ h, issue_issueSeen _ h]
  simp only [gGet_issueSeen, withLoad_scratch hin hbad', hread, launchOf_issueSeen, hlaunches]
  unfold cmbTake
  rw [gGet_issueSeen]
  rfl

theorem cmb_malformed (hmal : badDescriptor (cmbBytes s w s1) (cmbLaunch s w s1) = true) : Traps (.cmb w d s1) s w 0x0A := by
  refine traps_of_issue (a := gGet (wkOf s w) s1) h (cmb_scratch h hin hbad) ?_
  rw [cmbTake, hmal, if_pos rfl, gGet_issueSeen]

section
variable (hwell : badDescriptor (cmbBytes s w s1) (cmbLaunch s w s1) = false) (hrange : rangeOk s (wkOf s w).scope (cmbLaunch s w s1) = true)
  (htab : badTable s w (cmbLaunch s w s1) = none)
include hwell hrange htab

theorem cmb_full (hfull : entryFree s (wkOf s w) = false) : Gives (.cmb w d s1) s w d 0 (zn (wkOf s w).sw (0 : Word)) := by
  refine gives_status h (cmb_scratch h hin hbad) ?_
  rw [cmbTake_allowed hwell hrange htab, hfull, if_neg Bool.false_ne_true]
  rfl

/-- `s` with a launch more in the queue. -/
def launchQueued (s : State) (l : Launch) : State := { s with comb := { s.comb with queue := s.comb.queue ++ [l] } }

/-- The record of a worker that has launched. -/
def launched (k : WorkerSt) (d : GReg) (ticket : Word) : WorkerSt :=
  statusGiven { k with tickets := k.tickets ++ [ticket], launched := true, launches := k.launches + 1 } d ticket

theorem cmb_launches (hfree : entryFree s (wkOf s w) = true) : Ends (.cmb w d s1) s fun t =>
    OnlyWorker { Logged s t with comb := { s.comb with queue := s.comb.queue ++ [{ cmbLaunch s w s1 with seq := t.arb.seq }] } } t w
      ∧ WorkerIs s t w (launched (wkOf s w) d (cmbLaunch s w s1).ticket) := by
  have he := cmb_scratch (d := d) h hin hbad
  rw [issue_issueSeen _ h, cmbTake_allowed hwell hrange htab, hfree, if_pos rfl] at he
  generalize cmbLaunch s w s1 = l at he ⊢
  obtain ⟨v, hv⟩ := request_eq (issueSeen s w) w 0x28
  obtain ⟨honly, hrec⟩ := ((((atWorker_issueSeen s w).log v).map (launchQueued · { l with seq := v.arb.seq }) (fun _ => rfl) (fun _ => rfl)
    fun _ _ _ => rfl).modWk (fun k => nextPc (putStatus { k with
      tickets := k.tickets ++ [l.ticket], launched := true, launches := k.launches + 1 } d l.ticket))
    fun k c => by simp only [putStatus_eq, nextPc]).completes
  rw [putStatus_eq] at hrec
  have hout := Logged_seq (issueSeen s w) v
  rw [launch, hv] at he
  generalize Logged (issueSeen s w) v = x at he honly hrec hout
  refine ⟨_, he, ?_, ?_⟩
  · rw [hout]
    exact honly.as (F := fun t => { Logged s t with comb := { s.comb with queue := s.comb.queue ++ [{ l with seq := t.arb.seq }] } })
      (fun _ _ => rfl) rfl
  · rw [hout]
    exact hrec

end
end

/-! ### CMBW -/

theorem doneWord_zero (x : Nat) : doneWord 0 x = word x := by simp [doneWord, fld]

/-- What CMBW does with the worker's launches and held completions. -/
def cmbwTake (w : Worker) (d : GReg) (x : Word) (k : WorkerSt) (s : State) : State :=
  let finishW (v : Word) : State := modWk s w fun k => nextPc (putStatus k d v)
  if x = 0 then
    if k.tickets.isEmpty then finishW (if k.launched then 0 else 0xFF) else blockOn s w (.comb d 0 0 false)
  else match k.done.find? fun y => y.1 == x with
    | some y => finishW y.2
    | none => if k.tickets.contains x then blockOn s w (.comb d x 0 false) else finishW (if wasTicket k w x then 0xFE else 0xFF)

theorem cmbw_eq (h : Issues s w) (hd : Drains s w) :
    exec (.cmbw w d s1) s = .next (quantumEnd (cmbwTake w d (gGet (wkOf s w) s1) (wkOf s w) (drained s w)) w) := by
  rw [exec_cmbw, execCmbw, issueDrained_eq _ h hd]
  simp only [doneWord_zero, wkOf_drained, apply_ite word]
  rfl

section
variable (h : Issues s w) (hd : Drains s w)
include h hd

theorem cmbw_answers {x : Word} (hx : cmbwTake w d (gGet (wkOf s w) s1) (wkOf s w) (drained s w)
      = modWk (drained s w) w fun k => nextPc (putStatus k d x)) :
    BecomesIn (.cmbw w d s1) s w (drainWorker s w) (statusGiven (wkOf s w) d x) :=
  becomesIn_puts (by rw [cmbw_eq h hd, hx]) (atWorker_drained s w)

theorem cmbw_waits {x : Word} (hx : cmbwTake w d (gGet (wkOf s w) s1) (wkOf s w) (drained s w) = blockOn (drained s w) w (.comb d x 0 false)) :
    Waits (.cmbw w d s1) s w (drainWorker s w) (wkOf s w) (.comb d x 0 false) :=
  waits_blockOn (by rw [cmbw_eq h hd, hx]) (atWorker_drained s w)

end

end

/-- Settles O20. -/
theorem combLaunches : Obligations.CombLaunches := by
  unfold Obligations.CombLaunches
  intro s w d s1 h k a b ticket l t1 u answers placed allowed
  refine ⟨?_, ?_, ?_, fun hd => ⟨fun v ht hdone => ?_, fun ht hdone hmem => ?_, fun ht hdone hmem => ?_, fun ht hrun => ?_, fun ht hrun => ?_⟩⟩
  · rintro ⟨hal, hlo, hhi, hbad⟩ ⟨hwell, hrange, htab⟩ hfree
    exact cmb_launches h ⟨hal, hlo, hhi⟩ hbad hwell hrange htab hfree
  · rintro ⟨hal, hlo, hhi, hbad⟩ ⟨hwell, hrange, htab⟩ hfull
    exact cmb_full h ⟨hal, hlo, hhi⟩ hbad hwell hrange htab hfull
  · rintro ⟨hal, hlo, hhi, hbad⟩ hmal
    exact cmb_malformed h ⟨hal, hlo, hhi⟩ hbad hmal
  · exact cmbw_answers h hd (by rw [cmbwTake, if_neg ht, hdone])
  · exact cmbw_waits h hd (by rw [cmbwTake, if_neg ht, hdone, if_pos (List.contains_iff_mem.2 hmem)])
  · refine cmbw_answers h hd ?_
    rw [cmbwTake, if_neg ht, hdone]
    exact if_neg fun hc => hmem (List.contains_iff_mem.1 hc)
  · exact cmbw_waits h hd (by rw [cmbwTake, if_pos ht, if_neg (by rwa [List.isEmpty_iff])])
  · exact cmbw_answers h hd (by rw [cmbwTake, if_pos ht, if_pos (List.isEmpty_iff.2 hrun)])

end Sys2Proof.Machine

namespace Sys2Proof.Machine

/-! ## CTX, CRX and EVT (R151, R152, R154, R155, R398) -/

section
variable {s t u v : State} {w : Worker} {i : Instr} {d s1 s2 : GReg} {n : Fin 4} {f : CanFrame} {keep nb : Bool} {e : RxEntry}

theorem exec_ctx (w : Worker) (d s1 s2 : GReg) (s : State) : exec (.ctx w d s1 s2) s = execCtx w d s1 s2 s := rfl
theorem exec_crx (w : Worker) (d s1 s2 : GReg) (nb : Bool) (s : State) : exec (.crx w d s1 s2 nb) s = execCrx w d s1 s2 nb s := rfl
theorem exec_evt (w : Worker) (d s1 s2 : GReg) (keep : Bool) (s : State) : exec (.evt w d s1 s2 keep) s = execEvt w d s1 s2 keep s := rfl

/-! ### A frame at the end of a port's queue -/

/-- `s` with one port's state replaced. -/
def setCan (s : State) (n : Fin 4) (c : CanSt) : State := { s with can := s.can.set n c }

theorem canOf_setCan (s : State) (n : Fin 4) (c : CanSt) : canOf (setCan s n c) n = c := by simp [canOf, setCan]
theorem setCan_setCan (s : State) (n : Fin 4) (c e : CanSt) : setCan (setCan s n c) n e = setCan s n e := by simp [setCan]
theorem setCan_same (s : State) (n : Fin 4) : setCan s n (canOf s n) = s := by simp [setCan, canOf]
theorem modCan_eq (s : State) (n : Fin 4) (f : CanSt → CanSt) : modCan s n f = setCan s n (f (canOf s n)) := rfl

/-- A port that may send takes up its next frame: the queue stays. -/
theorem canKick_eq (s : State) (n : Fin 4) : ∃ c, canKick s n = setCan s n c ∧ c.tx = (canOf s n).tx := by
  unfold canKick
  extract_lets c pick
  split
  · exact ⟨_, rfl, rfl⟩
  · exact ⟨canOf s n, (setCan_same s n).symm, rfl⟩

theorem txPush_eq (s : State) (n : Fin 4) (f : CanFrame) (owner : TxOwner) :
    ∃ c, txPush s n f owner = setCan { s with free := s.free + 1 } n c
      ∧ c.tx = (canOf s n).tx ++ [⟨f, BitVec.ofNat 64 s.free, owner, false⟩] := by
  obtain ⟨c, hc, htx⟩ := canKick_eq (modCan { s with free := s.free + 1 } n fun c =>
    { c with tx := c.tx ++ [⟨f, BitVec.ofNat 64 s.free, owner, false⟩] }) n
  rw [modCan_eq, canOf_setCan] at htx
  refine ⟨c, ?_, htx⟩
  rw [txPush]
  exact hc.trans (by rw [modCan_eq, setCan_setCan])

/-- The port recovers from bus-off; in a mirror the lead, which drives the bus, says so (log entry 33). -/
def portWaits (s : State) (n : Fin 4) : Bool :=
  if s.twin.role == .mirror then (Config.freeWord s.free).getLsbD 0 else (canOf s n).state == .busOff || (canOf s n).state == .recovering

/-- The free value that a frame queued now is numbered by. -/
def ownFree (s : State) : Nat := if s.twin.role == .mirror then s.free + 1 else s.free

theorem ctxBusOff_eq (s : State) (n : Fin 4) : ctxBusOff s n = ({ s with free := ownFree s }, portWaits s n) := by
  unfold ctxBusOff ownFree portWaits
  split <;> rfl

theorem ctxQueue_full (h : 32 ≤ (canOf s n).tx.length) : ctxQueue s n f = (s, 1) := if_pos h

theorem ctxQueue_room (f : CanFrame) (h : (canOf s n).tx.length < 32) :
    ∃ c, ctxQueue s n f = (setCan { s with free := ownFree s + 1 } n c, if portWaits s n then 2 else 0)
      ∧ c.tx = (canOf s n).tx ++ [⟨portFrame s n f, BitVec.ofNat 64 (ownFree s), .ctx, false⟩] := by
  obtain ⟨c, hc, htx⟩ := txPush_eq { s with free := ownFree s } n (portFrame s n f) .ctx
  refine ⟨c, ?_, htx⟩
  rw [ctxQueue, if_neg (Nat.not_le.2 h), ctxBusOff_eq]
  exact congrArg (·, _) hc

/-! ### CTX -/

/-- The port that gs1 names. -/
def ctxPort (s : State) (w : Worker) (s1 : GReg) : Fin 4 := Fin.ofNat 4 (gGet (wkOf s w) s1).toNat

/-- The frame in scratch. -/
def ctxFrame (s : State) (w : Worker) (s2 : GReg) : CanFrame :=
  frameOfImage (memRead (wkOf s w).scratch ((gGet (wkOf s w) s2).toNat - 0x40000000) 72)

/-- What CTX does with its frame, read from scratch. -/
def ctxTake (w : Worker) (d : GReg) (n : Fin 4) (f : CanFrame) (s : State) : State :=
  if badFrame f || !(portOpen (canOf s n)) then trapWorker s w 0x0B 0
  else
    let r := ctxQueue (request s w 0x30) n f
    let s := if r.2 = 1 then emit r.1 28 1 0x04 false true (wkOf s w).scope (word (fld w.val 24 + fld n.val 16 + 1)) else r.1
    finish s w d r.2

theorem canOf_issueSeen (s : State) (w : Worker) (n : Fin 4) : canOf (issueSeen s w) n = canOf s n :=
  (atWorker_issueSeen s w).same (f := fun s => canOf s n) fun _ _ _ => rfl

section
variable (h : Issues s w) (hsc : chipOrPair (wkOf s w).scope = true) (hin : InScratch (gGet (wkOf s w) s2) 72 8)
  (hbad : badPlace s w (.scratch ((gGet (wkOf s w) s2).toNat - 0x40000000)) 72 = false)
include h hsc hin hbad

theorem ctx_scratch : exec (.ctx w d s1 s2) s = issue s w fun _ => ctxTake w d (ctxPort s w s1) (ctxFrame s w s2) (issueSeen s w) := by
  have hbad' := (badPlace_issueSeen s w _ 72).trans hbad
  have hscope : chipOrPair (wkOf (issueSeen s w) w).scope = true := by
    rw [wkOf_issueSeen]
    exact hsc
  have hscratch : (wkOf (issueSeen s w) w).scratch = (wkOf s w).scratch := by
    rw [wkOf_issueSeen]
    rfl
  rw [exec_ctx, execCtx, issue_issueSeen _ h, issue_issueSeen _ h]
  simp only [gGet_issueSeen, hscope, Bool.not_true, Bool.false_eq_true, if_false, withLoad_scratch hin hbad', hscratch]
  rfl

theorem ctx_traps (hno : badFrame (ctxFrame s w s2) = true ∨ portOpen (canOf s (ctxPort s w s1)) = false) :
    Traps (.ctx w d s1 s2) s w 0x0B := by
  have hcond : (badFrame (ctxFrame s w s2) || !portOpen (canOf s (ctxPort s w s1))) = true := by
    rcases hno with hno | hno <;> simp [hno]
  refine traps_of_issue (a := 0) h (ctx_scratch h hsc hin hbad) ?_
  rw [ctxTake, canOf_issueSeen, hcond, if_pos rfl]

section
variable (hframe : badFrame (ctxFrame s w s2) = false) (hopen : portOpen (canOf s (ctxPort s w s1)) = true)
include hframe hopen

theorem ctx_full (hfull : 32 ≤ (canOf s (ctxPort s w s1)).tx.length) :
    Ends (.ctx w d s1 s2) s fun t => OnlyWorker (Logged s t) t w ∧ WorkerIs s t w (statusGiven (wkOf s w) d 1) := by
  have hat := atWorker_issueSeen s w
  have he := ctx_scratch (d := d) (s1 := s1) h hsc hin hbad
  rw [issue_issueSeen _ h, ctxTake, canOf_issueSeen, hframe, hopen] at he
  obtain ⟨v, hv⟩ := request_eq (issueSeen s w) w 0x30
  have hlog := hat.log v
  rw [hv] at he
  generalize Logged (issueSeen s w) v = z at he hlog
  have hcan : canOf z (ctxPort s w s1) = canOf s (ctxPort s w s1) := hlog.same (f := fun s' => canOf s' (ctxPort s w s1)) fun _ _ _ => rfl
  rw [ctxQueue_full (hcan ▸ hfull)] at he
  obtain ⟨y, hy⟩ : OnlyLogs z (emit z 28 1 0x04 false true (wkOf (issueSeen s w) w).scope (word (fld w.val 24 + fld (ctxPort s w s1).val 16 + 1))) :=
    onlyLogs_emit ..
  simp only [Bool.not_true, Bool.or_false, Bool.false_eq_true, if_false, if_true, hy] at he
  exact ends_puts he (hlog.log y) (fun _ _ => rfl) rfl

theorem ctx_queues (hroom : (canOf s (ctxPort s w s1)).tx.length < 32) : Ends (.ctx w d s1 s2) s fun t =>
    (OnlyWorker { Logged s t with can := s.can.set (ctxPort s w s1) (canOf t (ctxPort s w s1)), free := ownFree s + 1 } t w
      ∧ WorkerIs s t w (statusGiven (wkOf s w) d (if portWaits s (ctxPort s w s1) then 2 else 0)))
    ∧ (canOf t (ctxPort s w s1)).tx = (canOf s (ctxPort s w s1)).tx
        ++ [⟨portFrame s (ctxPort s w s1) (ctxFrame s w s2), BitVec.ofNat 64 (ownFree s), .ctx, false⟩] := by
  have hat := atWorker_issueSeen s w
  have he := ctx_scratch (d := d) (s1 := s1) h hsc hin hbad
  rw [issue_issueSeen _ h, ctxTake, canOf_issueSeen, hframe, hopen] at he
  obtain ⟨v, hv⟩ := request_eq (issueSeen s w) w 0x30
  have hlog := hat.log v
  rw [hv] at he
  generalize Logged (issueSeen s w) v = z at he hlog
  have hcan : canOf z (ctxPort s w s1) = canOf s (ctxPort s w s1) := hlog.same (f := fun s' => canOf s' (ctxPort s w s1)) fun _ _ _ => rfl
  have hwaits : portWaits z (ctxPort s w s1) = portWaits s (ctxPort s w s1) := hlog.same (f := fun s' => portWaits s' (ctxPort s w s1)) fun _ _ _ => rfl
  have hown : ownFree z = ownFree s := hlog.same (f := ownFree) fun _ _ _ => rfl
  have hport : portFrame z (ctxPort s w s1) (ctxFrame s w s2) = portFrame s (ctxPort s w s1) (ctxFrame s w s2) :=
    hlog.same (f := fun s' => portFrame s' (ctxPort s w s1) (ctxFrame s w s2)) fun _ _ _ => rfl
  obtain ⟨c, hc, htx⟩ := ctxQueue_room (ctxFrame s w s2) (hcan ▸ hroom)
  rw [hcan, hown, hport] at htx
  rw [hwaits, hown] at hc
  have hst : (if portWaits s (ctxPort s w s1) then 2 else 0) ≠ 1 := by split <;> decide
  simp only [Bool.not_true, Bool.or_false, Bool.false_eq_true, if_false, hc, hst, finish, apply_ite word] at he
  have hset := hlog.map (fun s' => setCan { s' with free := ownFree s + 1 } (ctxPort s w s1) c) (fun _ => rfl) (fun _ => rfl) fun _ _ _ => rfl
  refine (ends_putsAnd (F := fun t => { Logged s t with can := s.can.set (ctxPort s w s1) (canOf t (ctxPort s w s1)), free := ownFree s + 1 })
    (f := fun t => canOf t (ctxPort s w s1)) he hset (fun _ _ => rfl) ?_ fun _ _ _ => rfl).mono fun t ht => ⟨ht.1, ?_⟩
  · rw [canOf_setCan]
    rfl
  · rw [ht.2, canOf_setCan, htx]

end
end

/-! ### CRX -/

theorem canOf_drained (s : State) (w : Worker) (n : Fin 4) : canOf (drained s w) n = canOf s n :=
  ((atWorker_drained s w).same (f := fun s => canOf s n) fun _ _ _ => rfl).trans
    (drainWorker_same (f := fun s => canOf s n) s w fun _ _ _ => rfl)

/-- The buffer that CRX takes from: the one that gs1 names, or any. -/
def crxBuf (x : Word) : Option (Fin 64) := if x.getLsbD 16 then none else some (Fin.ofNat 64 (bitsOf x 15 8))

theorem crxBuf_eq (x : Word) : crxBuf x = if x.getLsbD 16 then none else some (Fin.ofNat 64 (x.toNat / 256 % 256)) := by
  rw [crxBuf, bitsOf, Nat.shiftRight_eq_div_pow]
  rfl

/-- What CRX does once it may write its image. -/
def crxTake (w : Worker) (d : GReg) (n : Fin 4) (buf : Option (Fin 64)) (a : Word) (nb : Bool) (s : State) : State :=
  if buf.any (bufHost (canOf s n)) then trapWorker s w 0x0B 0
  else match crxFrame (canOf s n) buf with
    | some e => modWk (crxDeliver s w d a n e) w nextPc
    | none => if nb then finish s w d 0 else blockOn (drawFree s).2 w (.can d n buf a (BitVec.ofNat 64 (drawFree s).1))

section
variable (h : Issues s w) (hd : Drains s w) (hin : InScratch (gGet (wkOf s w) s2) 88 8)
include h hd hin

theorem crx_scratch : exec (.crx w d s1 s2 nb) s = issueDrained s w fun _ =>
    crxTake w d (ctxPort s w s1) (crxBuf (gGet (wkOf s w) s1)) (gGet (wkOf s w) s2) nb (drained s w) := by
  rw [exec_crx, execCrx, issueDrained_eq _ h hd, issueDrained_eq _ h hd]
  simp only [gGet_drained, withScratch_scratch hin]
  rfl

theorem crx_traps (hhost : (crxBuf (gGet (wkOf s w) s1)).any (bufHost (canOf s (ctxPort s w s1))) = true) :
    Traps (.crx w d s1 s2 nb) s w 0x0B := by
  refine traps_of_drained (a := 0) h hd (crx_scratch h hd hin) ?_
  rw [crxTake, canOf_drained, hhost, if_pos rfl]

section
variable (hhost : (crxBuf (gGet (wkOf s w) s1)).any (bufHost (canOf s (ctxPort s w s1))) = false)
include hhost

theorem crx_delivers (hframe : crxFrame (canOf s (ctxPort s w s1)) (crxBuf (gGet (wkOf s w) s1)) = some e) :
    BecomesIn (.crx w d s1 s2 nb) s w
      { drainWorker s w with can := s.can.set (ctxPort s w s1) (consume (showLoss (canOf s (ctxPort s w s1)) e.buf) e) }
      (statusGiven { wkOf s w with
        scratch := memWrite (wkOf s w).scratch ((gGet (wkOf s w) s2).toNat - 0x40000000) (imageOf e (lostWith (canOf s (ctxPort s w s1)) e)) }
        d 1) := by
  have he := crx_scratch (d := d) (s1 := s1) (nb := nb) h hd hin
  rw [issueDrained_eq _ h hd, crxTake, canOf_drained, hhost, if_neg Bool.false_ne_true, hframe] at he
  simp only [crxDeliver, modCan_eq, canOf_drained, hin.offset_pos (by decide)] at he
  have hcan : (drainWorker s w).can = s.can := drainWorker_same s w fun _ _ _ => rfl
  have hset := (((atWorker_drained s w).map (setCan · (ctxPort s w s1) (consume (showLoss (canOf s (ctxPort s w s1)) e.buf) e))
    (fun _ => rfl) (fun _ => rfl) fun _ _ _ => rfl).modWk (fun k => putStatus { k with
      scratch := memWrite k.scratch ((gGet (wkOf s w) s2).toNat - 0x40000000) (imageOf e (lostWith (canOf s (ctxPort s w s1)) e)) } d 1)
      fun k c => by simp only [putStatus_eq]).modWk nextPc fun _ _ => rfl
  obtain ⟨honly, hrec⟩ := hset.completes
  rw [setCan, hcan] at honly
  rw [putStatus_eq] at hrec
  exact ⟨_, he, honly, hrec⟩

theorem crx_none (hframe : crxFrame (canOf s (ctxPort s w s1)) (crxBuf (gGet (wkOf s w) s1)) = none) :
    BecomesIn (.crx w d s1 s2 true) s w (drainWorker s w) (statusGiven (wkOf s w) d 0) := by
  refine becomesIn_puts ?_ (atWorker_drained s w)
  rw [crx_scratch h hd hin, issueDrained_eq _ h hd, crxTake, canOf_drained, hhost, if_neg Bool.false_ne_true, hframe]
  rfl

theorem crx_waits (hframe : crxFrame (canOf s (ctxPort s w s1)) (crxBuf (gGet (wkOf s w) s1)) = none) :
    Waits (.crx w d s1 s2 false) s w { drainWorker s w with free := s.free + 1 } (wkOf s w)
      (.can d (ctxPort s w s1) (crxBuf (gGet (wkOf s w) s1)) (gGet (wkOf s w) s2) (BitVec.ofNat 64 s.free)) := by
  have hfree : (drainWorker s w).free = s.free := drainWorker_same s w fun _ _ _ => rfl
  have hfree' : (drained s w).free = s.free := ((atWorker_drained s w).same (f := State.free) fun _ _ _ => rfl).trans hfree
  have hdrawn := (atWorker_drained s w).map (fun s => { s with free := s.free + 1 }) (fun _ => rfl) (fun _ => rfl) fun _ _ _ => rfl
  rw [hfree] at hdrawn
  refine waits_blockOn ?_ hdrawn
  rw [crx_scratch h hd hin, issueDrained_eq _ h hd, crxTake, canOf_drained, hhost, if_neg Bool.false_ne_true, hframe]
  generalize drained s w = z at hfree' ⊢
  rw [drawFree, hfree']
  rfl

end
end

/-! ### EVT -/

theorem recEnter_arb (s : State) (r : Rec) : (recEnter s r).arb = s.arb := by
  unfold recEnter
  extract_lets deg t
  have ht : t.arb = s.arb := rfl
  split <;> exact ht

theorem recPut_arb (s : State) (r : Rec) : (recPut s r).arb = s.arb := by
  unfold recPut
  dsimp only
  split
  · exact recEnter_arb ..
  · split
    · rw [recEnter_arb]
      rfl
    · rfl

theorem onlyLogs_number (s : State) : OnlyLogs s (number s) := ⟨number s, rfl⟩

theorem Logged_arb (s v : State) : (Logged s v).arb = v.arb := rfl

theorem wearCheck_few (h : mramWear s < 80000000) : wearCheck s = s := if_neg fun hworn => Nat.not_le.2 h hworn.1

theorem mramWear_congr (h : t.arb = s.arb) : mramWear t = mramWear s := by
  rw [mramWear, h, mramWear]

section
variable (h : Issues s w)
include h

/-- What EVT does: it takes the next event number, and the record enters where its bucket holds a token. -/
theorem evt_eq : exec (.evt w d s1 s2 keep) s = .next (quantumEnd (finish (wearCheck (recPut (number (issueSeen s w))
      (recOf (number (issueSeen s w)) (programCode (gGet (wkOf s w) s1) keep) (wkOf s w).scope (gGet (wkOf s w) s2)))) w d
    (ofBool (tokenHeld (number s) (programCode (gGet (wkOf s w) s1) keep)))) w) := by
  have htoken : tokenHeld (number (issueSeen s w)) (programCode (gGet (wkOf s w) s1) keep)
      = tokenHeld (number s) (programCode (gGet (wkOf s w) s1) keep) :=
    (atWorker_issueSeen s w).same (f := fun s' => tokenHeld (number s') (programCode (gGet (wkOf s w) s1) keep)) fun _ _ _ => rfl
  rw [← htoken, exec_evt, execEvt, issue_issueSeen _ h]
  simp only [wkOf_issueSeen]
  rfl

theorem evt_ends : Ends (.evt w d s1 s2 keep) s fun t => OnlyWorker (Logged s t) t w
    ∧ WorkerIs s t w (statusGiven (wkOf s w) d (if tokenHeld (number s) (programCode (gGet (wkOf s w) s1) keep) then 1 else 0)) := by
  have he := evt_eq (d := d) (s1 := s1) (s2 := s2) (keep := keep) h
  generalize hrec : recOf (number (issueSeen s w)) _ _ _ = r at he
  obtain ⟨v, hv⟩ := (onlyLogs_number (issueSeen s w)).trans ((onlyLogs_recPut _ r).trans (onlyLogs_wearCheck _))
  rw [hv, finish, ofBool, apply_ite word] at he
  exact ends_puts he ((atWorker_issueSeen s w).log v) (fun _ _ => rfl) rfl

theorem evt_numbers (hwear : mramWear (number s) < 80000000) : Ends (.evt w d s1 s2 keep) s fun t => t.arb = (number s).arb := by
  have he := evt_eq (d := d) (s1 := s1) (s2 := s2) (keep := keep) h
  generalize recOf (number (issueSeen s w)) _ _ _ = r at he
  have harb : (number (issueSeen s w)).arb = (number s).arb := (atWorker_issueSeen s w).same (f := fun s' => (number s').arb) fun _ _ _ => rfl
  have hput : (recPut (number (issueSeen s w)) r).arb = (number s).arb := (recPut_arb ..).trans harb
  rw [wearCheck_few (by rw [mramWear_congr hput]; exact hwear)] at he
  obtain ⟨v, hv⟩ := (onlyLogs_number (issueSeen s w)).trans (onlyLogs_recPut _ r)
  rw [hv] at he hput
  rw [Logged_arb] at hput
  obtain ⟨honly, -⟩ := ((atWorker_issueSeen s w).log v).puts d (word (ofBool (tokenHeld (number s) (programCode (gGet (wkOf s w) s1) keep))))
  exact ⟨_, he, (honly.same (f := State.arb) fun _ _ _ => rfl).trans hput⟩

end

end

/-- Settles O27; which of 0 and 2 CTX gives in a mirror, whose lead drives the bus, is a free value (log entry 33). -/
theorem busAndLog : Obligations.BusAndLog := by
  unfold Obligations.BusAndLog
  intro s w d s1 s2 keep h k n c a f sent buf inScratch clean ends mirror waiting own log u code
  have hbuf : crxBuf (gGet (wkOf s w) s1) = buf := crxBuf_eq _
  refine ⟨fun hsc hin hbad => ⟨fun hframe hopen hroom => ?_, fun hframe hopen hfull => ?_, ctx_traps h hsc ⟨hin.1, hin.2⟩ hbad⟩,
    fun hin hd => ?_, evt_ends h, evt_numbers h⟩
  · exact (ctx_queues h hsc ⟨hin.1, hin.2⟩ hbad hframe hopen hroom).split
  · exact ctx_full h hsc ⟨hin.1, hin.2⟩ hbad hframe hopen hfull
  · rw [← hbuf]
    exact ⟨fun nb => crx_traps h hd hin, fun hhost => ⟨fun e nb => crx_delivers h hd hin hhost, crx_none h hd hin hhost,
      crx_waits h hd hin hhost⟩⟩

end Sys2Proof.Machine

namespace Sys2Proof.Machine

/-! ## SWP and FETCH (R135-R140, R160) -/

section
variable {s t u : State} {w : Worker} {i : Instr} {d s1 s2 : GReg} {m : Word} {mask : Half} {k : WorkerSt} {r : Region} {a : Word}

theorem exec_swpAll (w : Worker) (d s1 s2 : GReg) (s : State) : exec (.swpAll w d s1 s2) s = execSwpAll w d s1 s2 s := rfl
theorem exec_swpAny (w : Worker) (d s1 s2 : GReg) (s : State) : exec (.swpAny w d s1 s2) s = execSwpAny w d s1 s2 s := rfl
theorem exec_swpRevt (w : Worker) (d s1 s2 : GReg) (s : State) : exec (.swpRevt w d s1 s2) s = execSwpRevt w d s1 s2 s := rfl
theorem exec_fetchVolt (w : Worker) (d s1 : GReg) (s : State) :
    exec (.fetchVolt w d s1) s = fetch w d s1 s false fun s x => fetchBlocks s x 0 := rfl
theorem exec_fetchTemp (w : Worker) (d s1 : GReg) (s : State) :
    exec (.fetchTemp w d s1) s = fetch w d s1 s false fun s x => fetchBlocks s x 1 := rfl
theorem exec_fetchNode (w : Worker) (d s1 : GReg) (s : State) :
    exec (.fetchNode w d s1) s = fetch w d s1 s false fun s x => fetchBlocks s x 2 := rfl
theorem exec_fetchHead (w : Worker) (d s1 : GReg) (s : State) : exec (.fetchHead w d s1) s = fetch w d s1 s false fetchHeadBytes := rfl
theorem exec_fetchPack (w : Worker) (d s1 : GReg) (s : State) : exec (.fetchPack w d s1) s = fetch w d s1 s true fetchPackBytes := rfl

/-! ### A set of regions as a mask -/

theorem foldl_regionMask (l : List Region) (n : Nat) : l.foldl (fun m r => m + 2 ^ r.val) n = n + ((l.map Fin.val).map (2 ^ ·)).sum := by
  induction l generalizing n with
  | nil => rfl
  | cons r l ih => rw [List.foldl_cons, ih, List.map_cons, List.map_cons, List.sum_cons, Nat.add_assoc]

theorem testBit_regionMask {l : List Region} (hl : l.SortedLT) (r : Region) : (regionMask l).testBit r.val = true ↔ r ∈ l := by
  have hvals : (l.map Fin.val).SortedLT := ((List.pairwise_map (f := Fin.val)).2 hl.pairwise).sortedLT
  rw [regionMask, foldl_regionMask, Nat.zero_add, ← Nat.mem_bitIndices, Nat.bitIndices_sum_map_two_pow hvals, List.mem_map]
  exact ⟨fun ⟨q, hq, hqr⟩ => Fin.ext hqr ▸ hq, fun hr => ⟨r, hr, rfl⟩⟩

theorem sortedLT_maskMapped (s : State) (mask : Half) : (maskMapped s mask).SortedLT :=
  ((List.sortedLT_finRange 16).pairwise.filter _).sortedLT

/-- SWP.ALL waits at issue for the regions of the mask that are mapped then. -/
theorem allOf_maskMapped (s : State) (mask : Half) : allOf s mask (BitVec.ofNat 16 (regionMask (maskMapped s mask))) = maskMapped s mask := by
  refine List.filter_eq_self.2 fun r hr => ?_
  rw [BitVec.getLsbD_ofNat, (testBit_regionMask (sortedLT_maskMapped s mask) r).2 hr]
  simp

/-! ### What a wait reads -/

/-- What does not look at workers, cores and memories is the same once the worker's posted stores are complete. -/
theorem drained_same {α : Type} {f : State → α} (hf : ∀ s wk cores mem, f { s with wk := wk, cores := cores, mem := mem } = f s) (s : State)
    (w : Worker) : f (drained s w) = f s :=
  ((atWorker_drained s w).same fun s wk cores => hf s wk cores s.mem).trans (drainWorker_same s w fun s cores mem => hf s s.wk cores mem)

/-- The sweep that SWP waits for. -/
def swpTarget (s : State) (w : Worker) (s1 s2 : GReg) : Word :=
  if gGet (wkOf s w) s2 = 0 then nextTarget s ((gGet (wkOf s w) s1).setWidth 16) else gGet (wkOf s w) s2

/-- The mask of regions that SWP names. -/
def swpNamed (s : State) (w : Worker) (s1 : GReg) : Half := (gGet (wkOf s w) s1).setWidth 16

theorem beyond_eq_none : beyond s mask = none ↔ ∀ r < 16, mask.getLsbD r = true → r < s.nReg := by
  simp only [beyond, List.find?_eq_none, List.mem_range, Bool.and_eq_true, decide_eq_true_eq, not_and, Nat.not_le]

section
variable {x : Half → Half → Word → Wait} (h : Issues s w) (hd : Drains s w) (he : exec i s = issueDrained s w fun s => swpMask s w s1 s2 x)
include h hd he

theorem swp_scope (hno : ¬∀ r < 16, (swpNamed s w s1).getLsbD r = true → r < s.nReg) : Traps i s w 0x02 := by
  rw [← beyond_eq_none] at hno
  obtain ⟨r, hr⟩ := Option.ne_none_iff_exists'.1 hno
  refine traps_of_drained (a := word r) h hd he ?_
  have hbeyond : beyond (drained s w) (swpNamed s w s1) = some r :=
    (drained_same (f := fun s' => beyond s' (swpNamed s w s1)) (fun _ _ _ _ => rfl) s w).trans hr
  simp only [swpMask, gGet_drained]
  rw [show beyond (drained s w) ((gGet (wkOf s w) s1).setWidth 16) = some r from hbeyond]
  rfl

theorem swp_issues (hin : ∀ r < 16, (swpNamed s w s1).getLsbD r = true → r < s.nReg) :
    exec i s = .next (quantumEnd (swpIssue (drained s w) w
      (x (swpNamed s w s1) (BitVec.ofNat 16 (regionMask (maskMapped s (swpNamed s w s1)))) (swpTarget s w s1 s2))) w) := by
  have hbeyond : beyond (drained s w) (swpNamed s w s1) = none :=
    (drained_same (f := fun s' => beyond s' (swpNamed s w s1)) (fun _ _ _ _ => rfl) s w).trans (beyond_eq_none.2 hin)
  have hmapped : maskMapped (drained s w) = maskMapped s := drained_same (fun _ _ _ _ => rfl) s w
  have hnext : nextTarget (drained s w) = nextTarget s := drained_same (fun _ _ _ _ => rfl) s w
  rw [he, issueDrained_eq _ h hd, swpMask]
  simp only [gGet_drained, hmapped, hnext]
  rw [show beyond (drained s w) ((gGet (wkOf s w) s1).setWidth 16) = none from hbeyond]
  rfl

end

theorem swpIssue_drained (s : State) (w : Worker) (x : Wait) : swpIssue (drained s w) w x =
    match swpHolds s (counted s w) x with
    | some k => modWk (drained s w) w fun _ => nextPc k
    | none => blockOn (drained s w) w x := by
  have hholds : swpHolds (drained s w) = swpHolds s := drained_same (fun _ _ _ _ => rfl) s w
  rw [swpIssue, wkOf_drained, hholds]
  rfl

theorem becomesIn_drained {f : WorkerSt → WorkerSt} (he : exec i s = .next (quantumEnd (modWk (drained s w) w f) w))
    (hf : f (counted s w) = recounted s k) : BecomesIn i s w (drainWorker s w) k := by
  obtain ⟨honly, hrec⟩ := ((atWorker_drained s w).modWk_of_eq (wkOf_drained s w) f).completes
  rw [hf] at hrec
  exact ⟨_, he, honly, hrec⟩

/-! ### SWP.ALL -/

section
variable (h : Issues s w) (hd : Drains s w) (hin : ∀ r < 16, (swpNamed s w s1).getLsbD r = true → r < s.nReg)

/-- The regions that SWP waits for. -/
def swpMapped (s : State) (w : Worker) (s1 : GReg) : List Region := maskMapped s (swpNamed s w s1)

/-- The regions of the mask that have reached the sweep. -/
def swpReached (s : State) (w : Worker) (s1 s2 : GReg) : List Region := (swpMapped s w s1).filter fun r => regionReached s r (swpTarget s w s1 s2)

theorem swpReached_none (hnone : ∀ r ∈ swpMapped s w s1, ¬regionReached s r (swpTarget s w s1 s2) = true) :
    (swpReached s w s1 s2).isEmpty = true :=
  List.isEmpty_iff.2 (List.filter_eq_nil_iff.2 hnone)

include h hd hin

theorem swpAll_issues : exec (.swpAll w d s1 s2) s = .next (quantumEnd (swpIssue (drained s w) w
    (.swpAll d (swpNamed s w s1) (BitVec.ofNat 16 (regionMask (swpMapped s w s1))) (swpTarget s w s1 s2))) w) :=
  swp_issues (x := fun mask mapped t => .swpAll d mask mapped t) h hd (exec_swpAll w d s1 s2 s) hin

theorem swpAny_issues : exec (.swpAny w d s1 s2) s = .next (quantumEnd (swpIssue (drained s w) w
    (.swpAny d (swpNamed s w s1) (swpTarget s w s1 s2))) w) :=
  swp_issues (x := fun mask _ t => .swpAny d mask t) h hd (exec_swpAny w d s1 s2 s) hin

theorem swpAll_goesOn (hall : ∀ r ∈ swpMapped s w s1, regionReached s r (swpTarget s w s1 s2) = true) :
    let v := if (swpMapped s w s1).isEmpty then 0 else swpTarget s w s1 s2
    BecomesIn (.swpAll w d s1 s2) s w (drainWorker s w) { statusGiven (wkOf s w) d v with
      sw := { zn (wkOf s w).sw v with c := (swpMapped s w s1).all fun r => closedComplete s r (swpTarget s w s1 s2) } } := by
  have he := swpAll_issues (d := d) (s2 := s2) h hd hin
  rw [swpIssue_drained, swpHolds, swpMapped, allOf_maskMapped] at he
  rw [swpMapped] at hall ⊢
  simp only [List.all_eq_true.2 hall, if_true] at he
  exact becomesIn_drained he (by rw [putStatus_eq]; rfl)

theorem swpAll_waits (hno : ∃ r ∈ swpMapped s w s1, ¬regionReached s r (swpTarget s w s1 s2) = true) :
    Waits (.swpAll w d s1 s2) s w (drainWorker s w) (wkOf s w)
      (.swpAll d (swpNamed s w s1) (BitVec.ofNat 16 (regionMask (swpMapped s w s1))) (swpTarget s w s1 s2)) := by
  have he := swpAll_issues (d := d) (s2 := s2) h hd hin
  have hall : ((swpMapped s w s1).all fun r => regionReached s r (swpTarget s w s1 s2)) = false := by
    obtain ⟨r, hr, hreached⟩ := hno
    exact List.all_eq_false.2 ⟨r, hr, hreached⟩
  rw [swpMapped] at hall
  rw [swpIssue_drained, swpHolds, swpMapped, allOf_maskMapped] at he
  simp only [hall, Bool.false_eq_true, if_false] at he
  exact waits_blockOn he (atWorker_drained s w)

/-! ### SWP.ANY -/

theorem swpAny_goesOn (hany : ∃ r ∈ swpMapped s w s1, regionReached s r (swpTarget s w s1 s2) = true) :
    BecomesIn (.swpAny w d s1 s2) s w (drainWorker s w) (statusGiven (wkOf s w) d (word (regionMask (swpReached s w s1 s2)))) := by
  have he := swpAny_issues (d := d) (s2 := s2) h hd hin
  have hreached : (swpReached s w s1 s2).isEmpty = false := by
    obtain ⟨r, hr, hreached⟩ := hany
    exact List.isEmpty_eq_false_iff_exists_mem.2 ⟨r, List.mem_filter.2 ⟨hr, hreached⟩⟩
  rw [swpReached, swpMapped] at hreached
  rw [swpIssue_drained, swpHolds] at he
  simp only [hreached, Bool.false_eq_true, if_false] at he
  exact becomesIn_drained he (by rw [putStatus_eq]; rfl)

theorem swpAny_waits (hmapped : swpMapped s w s1 ≠ []) (hnone : ∀ r ∈ swpMapped s w s1, ¬regionReached s r (swpTarget s w s1 s2) = true) :
    Waits (.swpAny w d s1 s2) s w (drainWorker s w) (wkOf s w) (.swpAny d (swpNamed s w s1) (swpTarget s w s1 s2)) := by
  have he := swpAny_issues (d := d) (s2 := s2) h hd hin
  have hreached := swpReached_none hnone
  have hsome : (swpMapped s w s1).isEmpty = false := by rwa [List.isEmpty_eq_false_iff]
  rw [swpReached, swpMapped] at hreached
  rw [swpMapped] at hsome
  rw [swpIssue_drained, swpHolds] at he
  simp only [hreached, hsome, Bool.false_eq_true, if_false, if_true] at he
  exact waits_blockOn he (atWorker_drained s w)

theorem swpAny_unmapped (hmapped : swpMapped s w s1 = []) :
    BecomesIn (.swpAny w d s1 s2) s w (drainWorker s w) (statusGiven (wkOf s w) d 0) := by
  have he := swpAny_issues (d := d) (s2 := s2) h hd hin
  rw [swpMapped] at hmapped
  rw [swpIssue_drained, swpHolds] at he
  simp only [hmapped, List.filter_nil, List.isEmpty_nil, if_true] at he
  exact becomesIn_drained he (by rw [putStatus_eq]; rfl)

end

/-! ### SWP.REVT -/

/-- The first event of region `r` held after the number at `a` in scratch. -/
def revtEvent (s : State) (w : Worker) (r : Region) (a : Word) : Option Event :=
  (rgOf s r).events.find? fun e => decide (memNat (wkOf s w).scratch (a.toNat % 16384) 8 < e.seq.toNat)

/-- How many later events are gone. -/
def revtLost (s : State) (w : Worker) (r : Region) (a : Word) : Nat :=
  let seq := memNat (wkOf s w).scratch (a.toNat % 16384) 8
  if seq = 0 then 0 else ((rgOf s r).gone.filter fun q => decide (seq < q.toNat)).length

/-- An event's 16-byte record. -/
def revtBytes (e : Event) : List Byte :=
  bytesLE 8 e.seq.toNat ++ bytesLE 2 e.code.toNat ++ bytesLE 2 e.scope.toNat ++ bytesLE 4 e.args.toNat

/-- The worker's registers and scratch with an event delivered. -/
def revtTaken (d : GReg) (off : Nat) (e : Event) (lost : Nat) (k : WorkerSt) : WorkerSt :=
  let k := putStatus { k with scratch := memWrite k.scratch off (revtBytes e) } d (word lost)
  if lost ≠ 0 then { k with sw := { k.sw with v := true } } else k

theorem revtDeliver_eq (s : State) (w : Worker) (d : GReg) (r : Region) (a : Word) :
    revtDeliver s w d r a = (revtEvent s w r a).map fun e => revtTaken d (a.toNat % 16384) e (revtLost s w r a) (wkOf s w) := by
  unfold revtDeliver revtEvent
  dsimp only
  split <;> rename_i hfind <;> rw [hfind] <;> rfl

theorem revtTaken_spec (d : GReg) (off : Nat) (e : Event) (lost : Nat) (k : WorkerSt) :
    (revtTaken d off e lost k).pc = k.pc ∧ (revtTaken d off e lost k).a = k.a
      ∧ (revtTaken d off e lost k).scratch = memWrite k.scratch off (revtBytes e) := by
  rw [revtTaken, putStatus_eq]
  dsimp only
  split <;> exact ⟨rfl, rfl, rfl⟩

theorem revtEvent_drained (s : State) (w : Worker) (r : Region) (a : Word) : revtEvent (drained s w) w r a = revtEvent s w r a := by
  have hrg : rgOf (drained s w) r = rgOf s r := drained_same (f := fun s => rgOf s r) (fun _ _ _ _ => rfl) s w
  rw [revtEvent, hrg, wkOf_drained]
  rfl

theorem revtEvent_spec {e : Event} (h : revtEvent s w r a = some e) :
    e ∈ (rgOf s r).events ∧ memNat (wkOf s w).scratch (a.toNat % 16384) 8 < e.seq.toNat :=
  by
  rw [revtEvent] at h
  have hlater := List.find?_some h
  exact ⟨List.mem_of_find?_eq_some h, of_decide_eq_true hlater⟩

section
variable (h : Issues s w) (hd : Drains s w) (hreg : (Fin.ofNat 16 (gGet (wkOf s w) s1).toNat : Region).val < s.nReg)
  (hin : InScratch (gGet (wkOf s w) s2) 16 8) (hbad : badPlace s w (.scratch ((gGet (wkOf s w) s2).toNat - 0x40000000)) 8 = false)

/-- The region that gs1 names. -/
def revtRegion (s : State) (w : Worker) (s1 : GReg) : Region := Fin.ofNat 16 (gGet (wkOf s w) s1).toNat

include h hd hreg hin hbad

theorem revt_scratch : exec (.swpRevt w d s1 s2) s = .next (quantumEnd
    (match revtDeliver (drained s w) w d (revtRegion s w s1) (gGet (wkOf s w) s2) with
      | some k => setWk (drained s w) w (nextPc k)
      | none => blockOn (drained s w) w (.swpRevt d (revtRegion s w s1) (gGet (wkOf s w) s2))) w) := by
  have hhas : hasRegion (drained s w) (Fin.ofNat 16 (gGet (wkOf s w) s1).toNat) = true :=
    (drained_same (f := fun s' => hasRegion s' _) (fun _ _ _ _ => rfl) s w).trans (decide_eq_true hreg)
  have hbad' := (badScratch_drained s w _ 8).trans hbad
  rw [exec_swpRevt, execSwpRevt, issueDrained_eq _ h hd]
  simp only [gGet_drained, hhas, hin.offset_pos (by decide), hbad', Bool.true_eq_false, Bool.false_eq_true, if_false, withScratch_scratch hin]
  generalize drained s w = z
  rfl

theorem revt_waits (hnone : revtEvent s w (revtRegion s w s1) (gGet (wkOf s w) s2) = none) :
    Waits (.swpRevt w d s1 s2) s w (drainWorker s w) (wkOf s w) (.swpRevt d (revtRegion s w s1) (gGet (wkOf s w) s2)) := by
  refine waits_blockOn ?_ (atWorker_drained s w)
  rw [revt_scratch h hd hreg hin hbad, revtDeliver_eq, revtEvent_drained, hnone]
  generalize drained s w = z
  rfl

theorem revt_delivers {e : Event} (hsome : revtEvent s w (revtRegion s w s1) (gGet (wkOf s w) s2) = some e) :
    Ends (.swpRevt w d s1 s2) s fun t => OnlyWorker (drainWorker s w) t w ∧ (wkOf t w).pc = (wkOf s w).pc + 4 ∧ (wkOf t w).a = (wkOf s w).a
      ∧ (wkOf t w).scratch = memWrite (wkOf s w).scratch ((gGet (wkOf s w) s2).toNat - 0x40000000) (revtBytes e) := by
  have he := revt_scratch (d := d) h hd hreg hin hbad
  rw [revtDeliver_eq, revtEvent_drained, hsome, wkOf_drained, hin.offset_pos (by decide), Option.map_some] at he
  generalize revtLost (drained s w) w (revtRegion s w s1) (gGet (wkOf s w) s2) = lost at he
  obtain ⟨hpc, ha, hscratch⟩ := revtTaken_spec d ((gGet (wkOf s w) s2).toNat - 0x40000000) e lost (counted s w)
  generalize revtTaken d ((gGet (wkOf s w) s2).toNat - 0x40000000) e lost (counted s w) = k at he hpc ha hscratch
  obtain ⟨honly, hrec⟩ := ((atWorker_drained s w).modWk_of_eq (wkOf_drained s w) fun _ => nextPc k).completes
  generalize drained s w = z at he honly hrec
  exact ⟨_, he, honly, (congrArg WorkerSt.pc hrec).trans (congrArg (· + 4) hpc), (congrArg WorkerSt.a hrec).trans ha,
    (congrArg WorkerSt.scratch hrec).trans hscratch⟩

end

/-! ### FETCH -/

/-- A copy of an image to scratch. -/
theorem fetch_copies {pack : Bool} {bytes : State → Word → List Byte} (h : Issues s w) (he : exec i s = fetch w d s1 s pack bytes)
    (hbytes : ∀ s wk cores, bytes { s with wk := wk, cores := cores } = bytes s)
    (hreg : pack = false → (selRegion (gGet (wkOf s w) s1)).val < s.nReg)
    (hin : InScratch (gGet (wkOf s w) d) (bytes s (gGet (wkOf s w) s1)).length 8) :
    BecomesIn i s w { s with free := s.free + 16 } { wkOf s w with
      scratch := memWrite (wkOf s w).scratch ((gGet (wkOf s w) d).toNat - 0x40000000) (bytes s (gGet (wkOf s w) s1)), pc := (wkOf s w).pc + 4 } := by
  have hat := atWorker_issueSeen s w
  have himage := hat.same hbytes
  have hmay : (!pack && !hasRegion (issueSeen s w) (selRegion (gGet (wkOf s w) s1))) = false := by
    rw [hat.same (f := fun s' => hasRegion s' (selRegion (gGet (wkOf s w) s1))) fun _ _ _ => rfl]
    cases pack with
    | true => rfl
    | false => rw [hasRegion, decide_eq_true (hreg rfl)]; rfl
  obtain ⟨hal, hlo, hhi⟩ := hin
  have hcopy := (hat.copyPlace_ok rfl).2 (copyPlace_ok.2 (storePlace_scratch (s := s) (k := wkOf s w) hlo hhi))
  obtain ⟨honly, hrec⟩ := (((hat.modWk (fun k => { k with
    scratch := memWrite k.scratch ((gGet (wkOf s w) d).toNat - 0x40000000) (bytes s (gGet (wkOf s w) s1)) }) fun _ _ => rfl).map
    (fun s => { s with free := s.free + 16 }) (fun _ => rfl) (fun _ => rfl) fun _ _ _ => rfl).modWk nextPc fun _ _ => rfl).completes
  refine ⟨_, ?_, honly, hrec⟩
  rw [he, fetch, issue_issueSeen _ h]
  simp only [gGet_issueSeen, hmay, himage, hal, hcopy, Bool.false_eq_true, if_false, ne_eq, not_true]
  generalize issueSeen s w = z
  rfl

end

/-- Settles O19; for a mask without a mapped region the two SWP go on as R136 says. -/
theorem sweepWaits : Obligations.SweepWaits := by
  unfold Obligations.SweepWaits
  intro s w d s1 s2 h hd k mask m u gives mapped inVariant reachedBy r a sel dst bits
  have hset : ∀ hin : inVariant, mapped = [] → ∀ r ∈ swpMapped s w s1, regionReached s r (swpTarget s w s1 s2) = true := by
    intro hin hmapped r hr
    rw [swpMapped, show maskMapped s (swpNamed s w s1) = [] from hmapped] at hr
    exact absurd hr List.not_mem_nil
  refine ⟨fun hin => ⟨fun hmapped hall => ?_, swpAll_waits h hd hin, swpAny_goesOn h hd hin, swpAny_waits h hd hin,
      fun hmapped => ⟨?_, swpAny_unmapped h hd hin hmapped⟩⟩,
    fun hno => ⟨swp_scope h hd (exec_swpAll w d s1 s2 s) hno, swp_scope h hd (exec_swpAny w d s1 s2 s) hno⟩,
    fun hreg hal hlo hhi hbad => ⟨fun hnone => ?_, fun hsome => ?_⟩, ?_⟩
  · have hgo := swpAll_goesOn (d := d) h hd hin hall
    rwa [show (swpMapped s w s1).isEmpty = false from List.isEmpty_eq_false_iff.2 hmapped] at hgo
  · have hgo := swpAll_goesOn (d := d) (s2 := s2) h hd hin (hset hin hmapped)
    rwa [show swpMapped s w s1 = [] from hmapped] at hgo
  · rw [revtDeliver_eq, Option.map_eq_none_iff] at hnone
    exact revt_waits h hd hreg ⟨hal, hlo, hhi⟩ hbad hnone
  · rw [revtDeliver_eq, Option.isSome_map] at hsome
    obtain ⟨e, hevent⟩ := Option.isSome_iff_exists.1 hsome
    obtain ⟨hmem, hlater⟩ := revtEvent_spec hevent
    have hoff : a % 16384 = a - 0x40000000 := InScratch.offset_pos ⟨hal, hlo, hhi⟩ (by decide)
    rw [show (gGet (wkOf s w) s2).toNat % 16384 = a - 0x40000000 from hoff] at hlater
    refine (revt_delivers h hd hreg ⟨hal, hlo, hhi⟩ hbad hevent).mono fun t ⟨honly, hpc, ha, hscratch⟩ =>
      ⟨honly, hpc, ha, e, hmem, hlater, fun hwf => ?_⟩
    rw [hscratch]
    exact overwrites_memWrite _ _ _ (hwf.2.2.2.2 w)
  · simp only [List.forall_mem_cons, List.not_mem_nil, false_imp_iff, implies_true, and_true]
    exact ⟨fun hreg hal hlo hhi => fetch_copies h (exec_fetchVolt ..) (fun _ _ _ => rfl) (fun _ => hreg trivial) ⟨hal, hlo, hhi⟩,
      fun hreg hal hlo hhi => fetch_copies h (exec_fetchTemp ..) (fun _ _ _ => rfl) (fun _ => hreg trivial) ⟨hal, hlo, hhi⟩,
      fun hreg hal hlo hhi => fetch_copies h (exec_fetchNode ..) (fun _ _ _ => rfl) (fun _ => hreg trivial) ⟨hal, hlo, hhi⟩,
      fun hreg hal hlo hhi => fetch_copies h (exec_fetchHead ..) (fun _ _ _ => rfl) (fun _ => hreg trivial) ⟨hal, hlo, hhi⟩,
      fun _ hal hlo hhi => fetch_copies h (exec_fetchPack ..) (fun _ _ _ => rfl) (fun hno => absurd hno (by decide)) ⟨hal, hlo, hhi⟩⟩

end Sys2Proof.Machine

namespace Sys2Proof.Machine

/-! ## What the region engine's operations leave (R147-R149, R326-R338) -/

/-- What the contactor steps tell of an engine. -/
structure ReSteps where
  state : ReState
  coilN : Bool
  coilP : Bool
  coilS : Bool
  step : Option (BitVec 4 × Half)
  pre : Option PreSt
  weld : Option WeldSt
  negOffAt : Option Nat

def stepsOf (e : Engine) : ReSteps := ⟨e.state, e.coilN, e.coilP, e.coilS, e.step, e.pre, e.weld, e.negOffAt⟩

/-- An operation of the engine of region `r`: of the workers it changes only some that wait, memories, time and wheel stay, the next
ticket stays, and of the rest of the engine it makes what `f` says. -/
structure Serves (r : Region) (f : ReSteps → ReSteps) (s t : State) : Prop where
  spares : SparesIdle s t
  mem : t.mem = s.mem
  time : t.time = s.time
  wheel : t.wheel = s.wheel
  ticket : (reOf t r).nextTicket = (reOf s r).nextTicket
  steps : stepsOf (reOf t r) = f (stepsOf (reOf s r))

/-- The same, whatever becomes of the engine. -/
def Served (r : Region) (s t : State) : Prop := ∃ f, Serves r f s t

/-- The engine with another step in progress. -/
def stepIs (x : Option (BitVec 4 × Half)) (c : ReSteps) : ReSteps := { c with step := x }

section
variable {r : Region} {f g : ReSteps → ReSteps} {s t u : State}

theorem Serves.served (h : Serves r f s t) : Served r s t := ⟨f, h⟩
theorem Serves.refl (r : Region) (s : State) : Serves r id s s := ⟨.refl s, rfl, rfl, rfl, rfl, rfl⟩
theorem Serves.trans (h : Serves r f s t) (k : Serves r g t u) : Serves r (g ∘ f) s u :=
  ⟨h.spares.trans k.spares, k.mem.trans h.mem, k.time.trans h.time, k.wheel.trans h.wheel, k.ticket.trans h.ticket,
    k.steps.trans (congrArg g h.steps)⟩
theorem Serves.ite {c : Prop} [Decidable c] (ht : Serves r f s t) (hu : Serves r f s u) : Serves r f s (if c then t else u) := by
  split <;> assumption
theorem Serves.andKeeps (h : Serves r f s t) (k : Serves r id t u) : Serves r f s u := h.trans k
theorem Serves.keptThen (h : Serves r id s t) (k : Serves r f t u) : Serves r f s u := h.trans k
/-- What `f` makes of the engine as it is. -/
theorem Serves.to (h : Serves r f s t) (hfg : f (stepsOf (reOf s r)) = g (stepsOf (reOf s r))) : Serves r g s t :=
  { h with steps := h.steps.trans hfg }
theorem Serves.withWk {wk : Vector WorkerSt 160} (h : Serves r f s t) (hspares : SparesIdle s { t with wk := wk }) :
    Serves r f s { t with wk := wk } := ⟨hspares, h.mem, h.time, h.wheel, h.ticket, h.steps⟩
theorem Serves.anyStep (h : Serves r id s t) : ∃ x, Serves r (stepIs x) s t := ⟨(reOf s r).step, h.to rfl⟩

theorem Served.refl (r : Region) (s : State) : Served r s s := (Serves.refl r s).served
theorem Served.trans (h : Served r s t) (k : Served r t u) : Served r s u := by
  obtain ⟨f, hf⟩ := h
  obtain ⟨g, hg⟩ := k
  exact (hf.trans hg).served
theorem Served.ite {c : Prop} [Decidable c] (ht : Served r s t) (hu : Served r s u) : Served r s (if c then t else u) := by
  split <;> assumption

theorem serves_foldl {α : Type} (l : List α) (f : State → α → State) (h : ∀ s x, Serves r id s (f s x)) (s : State) :
    Serves r id s (l.foldl f s) := by
  induction l generalizing s with
  | nil => exact .refl r s
  | cons x l ih => exact (h s x).trans (ih (f s x))

/-! ### Parts of the state -/

theorem serves_logs (h : OnlyLogs s t) : Serves r id s t := by
  obtain ⟨u, rfl⟩ := h
  exact ⟨sparesIdle_of_wk rfl, rfl, rfl, rfl, rfl, rfl⟩

theorem serves_pairSend (s : State) (x : TwinOut) : Serves r id s (pairSend s x) := serves_logs (.ite (onlyLogs_twinSend ..) (.refl s))

theorem reOf_modRg (s : State) (r : Region) (f : RegionSt → RegionSt) : reOf (modRg s r f) r = (f (rgOf s r)).re := by rw [reOf, rgOf_modRg]

theorem reOf_modRe (s : State) (r : Region) (f : Engine → Engine) : reOf (modRe s r f) r = f (reOf s r) := by rw [modRe, reOf_modRg, reOf]

theorem serves_modRg (s : State) (r : Region) (a : RegionSt → RegionSt)
    (hticket : ∀ x, (a x).re.nextTicket = x.re.nextTicket)
    (hcore : ∀ x, stepsOf (a x).re = f (stepsOf x.re)) : Serves r f s (modRg s r a) :=
  ⟨sparesIdle_modRg .., rfl, rfl, rfl, by rw [reOf_modRg, hticket, reOf], by rw [reOf_modRg, hcore, reOf]⟩

theorem serves_modRe (s : State) (r : Region) (a : Engine → Engine) (hticket : ∀ e, (a e).nextTicket = e.nextTicket)
    (hcore : ∀ e, stepsOf (a e) = f (stepsOf e)) : Serves r f s (modRe s r a) :=
  serves_modRg s r _ (fun x => hticket x.re) fun x => hcore x.re

theorem serves_modRe_ne (s : State) {q : Region} (hq : q ≠ r) (a : Engine → Engine) : Serves r id s (modRe s q a) := by
  have hre : reOf (modRe s q a) r = reOf s r := by rw [modRe, reOf, rgOf_modRg_ne _ _ _ _ hq.symm, reOf]
  exact ⟨sparesIdle_modRe .., rfl, rfl, rfl, by rw [hre], by rw [hre]; rfl⟩

/-- A release of waiting workers changes their records alone. -/
theorem foldl_wk {α : Type} (l : List α) (f : State → α → State) (h : ∀ s x, ∃ wk, f s x = { s with wk := wk }) (s : State) :
    ∃ wk, l.foldl f s = { s with wk := wk } := by
  induction l generalizing s with
  | nil => exact ⟨s.wk, rfl⟩
  | cons x l ih =>
    obtain ⟨wk, hwk⟩ := h s x
    obtain ⟨wk', hwk'⟩ := ih (f s x)
    exact ⟨wk', by rw [List.foldl_cons, hwk', hwk]⟩

theorem forWorkers_wk (f : Worker → State → State) (h : ∀ w s, ∃ wk, f w s = { s with wk := wk }) (s : State) :
    ∃ wk, forWorkers s f = { s with wk := wk } := foldl_wk _ _ (fun s w => h w s) s

/-- `s` with an event of region `r` raised and held for SWP.REVT. -/
def reRaised (s : State) (r : Region) (level e : Nat) (keep marked : Bool) (args : Nat) : State :=
  let seq := s.arb.seq + 1
  modRg (emit s (r.val + 1) level e keep marked (regionScope r) (word args)) r fun x => { x with
    events := (x.events ++ [(⟨seq, eventCode level keep (r.val + 1) e, regionScope r, word args⟩ : Event)]).drop (x.events.length - 63)
    gone := ((x.events.take (x.events.length - 63)).map Event.seq) ++ x.gone }

theorem emitRe_wk (s : State) (r : Region) (level e : Nat) (keep marked : Bool) (args : Nat) :
    ∃ wk, emitRe s r level e keep marked args = { reRaised s r level e keep marked args with wk := wk } := by
  refine forWorkers_wk _ (fun w s => ?_) _
  split
  · split
    · split
      · exact ⟨_, rfl⟩
      · exact ⟨s.wk, rfl⟩
    · exact ⟨s.wk, rfl⟩
  · exact ⟨s.wk, rfl⟩

theorem serves_reRaised (s : State) (level e : Nat) (keep marked : Bool) (args : Nat) : Serves r id s (reRaised s r level e keep marked args) :=
  (serves_logs (onlyLogs_emit ..)).andKeeps (serves_modRg _ r (fun x => { x with
    events := (x.events ++ [(⟨s.arb.seq + 1, eventCode level keep (r.val + 1) e, regionScope r, word args⟩ : Event)]).drop (x.events.length - 63)
    gone := ((x.events.take (x.events.length - 63)).map Event.seq) ++ x.gone }) (fun _ => rfl) fun _ => rfl)

theorem serves_emitRe (s : State) (level e : Nat) (keep marked : Bool) (args : Nat) : Serves r id s (emitRe s r level e keep marked args) := by
  have hspares := sparesIdle_emitRe s r level e keep marked args
  have hraised := serves_reRaised (r := r) s level e keep marked args
  obtain ⟨wk, hwk⟩ := emitRe_wk s r level e keep marked args
  rw [hwk] at hspares ⊢
  exact hraised.withWk hspares

theorem serves_stepResult (s : State) (code : Nat) (ticket : Half) (result : Nat) : Serves r id s (stepResult s r code ticket result) :=
  serves_emitRe ..

theorem serves_setCh (s : State) (c : Chan) (x : ChanSt) : Serves r id s (setCh s c x) := ⟨sparesIdle_of_wk rfl, rfl, rfl, rfl, rfl, rfl⟩

theorem serves_bankUpdate (s : State) (c : Chan) : Serves r id s (bankUpdate s c) := by
  obtain ⟨y, hy, -⟩ := bankUpdate_eq s c
  rw [hy]
  exact serves_setCh ..

theorem serves_bankCmd (s : State) (c : Chan) {cmd : Nat} (duty : Half) (hcmd : cmd < 4) : Serves r id s (bankCmd s c cmd duty) := by
  obtain ⟨y, u, hy, -⟩ := bankCmd_eq s c duty hcmd
  rw [hy]
  exact (serves_setCh s c y).andKeeps (serves_logs ⟨u, rfl⟩)

theorem serves_roleCmd (s : State) (role : Nat) (on : Bool) : Serves r id s (roleCmd s r role on) :=
  serves_foldl _ _ (fun s c => serves_bankCmd s c 0 (by cases on <;> decide)) s

theorem serves_modCan (s : State) (n : Fin 4) (a : CanSt → CanSt) : Serves r id s (modCan s n a) :=
  ⟨sparesIdle_of_wk rfl, rfl, rfl, rfl, rfl, rfl⟩

theorem serves_withdrawZero (s : State) : Serves r id s (withdrawZero s r) := serves_foldl _ _ (fun s n => serves_modCan s n _) s

theorem serves_reEnter (s : State) (st : ReState) : Serves r (fun c => { c with state := st }) s (reEnter s r st) := by
  unfold reEnter
  have hst := serves_modRe (f := fun c => { c with state := st }) s r (fun e => noteClosed (nowNs s) st { e with state := st })
    (fun e => by unfold noteClosed; dsimp only; split <;> split <;> rfl) fun e => by unfold noteClosed; dsimp only; split <;> split <;> rfl
  refine .ite (hst.andKeeps (serves_foldl _ _ (fun t q => ?_) _)) hst
  dsimp only
  split
  · exact .refl r t
  · next hq => exact serves_modRe_ne t hq _

/-! ### Steps -/

theorem serves_stepEnd (s : State) (result cause : Nat) : Serves r (stepIs none) s (stepEnd s r result cause) := by
  unfold stepEnd
  split
  · next hstep => exact (Serves.refl r s).to (by rw [stepsOf, hstep]; rfl)
  · extract_lets s1 s2 s3 s4
    have hgone : Serves r (stepIs none) s s1 := serves_modRe s r _ (fun _ => rfl) fun _ => rfl
    have hdetail : Serves r id s1 s2 := .ite (serves_modRe s1 r _ (fun _ => rfl) fun _ => rfl) (.refl r s1)
    have hresult : Serves r (stepIs none) s s3 := (hgone.andKeeps hdetail).andKeeps (serves_stepResult ..)
    have hpassed : Serves r (stepIs none) s s4 := hresult.andKeeps (serves_modRe s3 r _ (fun _ => rfl) fun _ => rfl)
    exact .ite (.ite (hpassed.andKeeps (serves_pairSend ..)) hpassed) hresult

theorem serves_overtake (s : State) (r : Region) : ∃ x, Serves r (stepIs x) s (overtake s r) := by
  unfold overtake
  split
  · exact (Serves.refl r s).anyStep
  · exact ⟨none, serves_stepEnd ..⟩

theorem serves_closePasses (s : State) (pos : Bool) : Serves r (stepIs none) s (closePasses s r pos) := by
  have hend := serves_stepEnd (r := r) s 0 0
  exact .ite (hend.andKeeps (serves_modRe _ r _ (fun _ => rfl) fun _ => rfl)) hend

theorem serves_setAuxAt (s : State) (pos : Bool) (at_ : Engine → Option Nat) : Serves r id s (modRe s r fun e => setAuxAt e pos (at_ e)) :=
  serves_modRe s r _ (fun _ => by cases pos <;> rfl) fun _ => by cases pos <;> rfl

theorem serves_auxCheck (s : State) (r : Region) (pos : Bool) : ∃ x, Serves r (stepIs x) s (auxCheck s r pos) := by
  unfold auxCheck
  extract_lets e at_ s1
  split
  · exact (serves_setAuxAt s pos fun _ => none).anyStep
  · split
    · exact (serves_setAuxAt s pos fun _ => some at_).anyStep
    · have hagree : Serves r id s s1 := serves_setAuxAt s pos fun _ => none
      split
      · split
        · exact ⟨none, hagree.keptThen (serves_closePasses ..)⟩
        · exact hagree.anyStep
      · exact hagree.anyStep

/-! ### Coils -/

theorem serves_coilSet_pre (s : State) (r : Region) (on : Bool) : Serves r (fun c => { c with coilP := on }) s (coilSet s r 2 on) :=
  (serves_roleCmd s 2 on).keptThen (serves_modRe (roleCmd s r 2 on) r (fun e => { e with coilP := on }) (fun _ => rfl) fun _ => rfl)

theorem serves_coilSet_neg (s : State) (r : Region) (on : Bool) : ∃ x, Serves r (stepIs x ∘ fun c => { c with coilN := on }) s (coilSet s r 1 on) := by
  have hset : Serves r (fun c => { c with coilN := on }) s (modRe (roleCmd s r 1 on) r fun e => { e with coilN := on }) :=
    (serves_roleCmd s 1 on).keptThen (serves_modRe _ r _ (fun _ => rfl) fun _ => rfl)
  obtain ⟨x, hx⟩ := serves_auxCheck (modRe (roleCmd s r 1 on) r fun e => { e with coilN := on }) r false
  exact ⟨x, hset.trans hx⟩

theorem serves_coilSet_pos (s : State) (r : Region) (on : Bool) : ∃ x, Serves r (stepIs x ∘ fun c => { c with coilS := on }) s (coilSet s r 3 on) := by
  have hset : Serves r (fun c => { c with coilS := on }) s (modRe (roleCmd s r 3 on) r fun e => { e with coilS := on }) :=
    (serves_roleCmd s 3 on).keptThen (serves_modRe _ r _ (fun _ => rfl) fun _ => rfl)
  obtain ⟨x, hx⟩ := serves_auxCheck (modRe (roleCmd s r 3 on) r fun e => { e with coilS := on }) r true
  exact ⟨x, hset.trans hx⟩

/-- CLOSE_NEG switches its contactor on. -/
theorem serves_closeCoil_neg (s : State) (r : Region) (ticket : Half) :
    ∃ x, Serves r (stepIs x ∘ fun c => { c with coilN := true }) s (closeCoil s r false ticket) := by
  unfold closeCoil
  extract_lets s1 role s2
  obtain ⟨x, hx⟩ := serves_coilSet_neg s1 r true
  have hs2 : Serves r (stepIs x ∘ fun c => { c with coilN := true }) s s2 :=
    Serves.keptThen (t := s1) (serves_modRe s r _ (fun _ => rfl) fun _ => rfl) hx
  split
  · exact ⟨none, hs2.trans (serves_closePasses ..)⟩
  · exact ⟨x, hs2⟩

theorem serves_relayOff (s : State) (r : Region) : Serves r (fun c => { c with coilP := false }) s (relayOff s r) := by
  unfold relayOff
  split
  · exact serves_coilSet_pre ..
  · next hoff => exact (Serves.refl r s).to (by rw [stepsOf, Bool.eq_false_of_not_eq_true hoff]; rfl)

/-! ### Opening -/

theorem serves_dropWaits (s : State) (r : Region) : Serves r (fun c => { c with pre := none }) s (dropWaits s r) :=
  (serves_withdrawZero s).keptThen (serves_modRg (withdrawZero s r) r (fun x => { x with
    streaming := false, re := { x.re with pre := none, confirm := none, circEnd := none, autoOffAt := none } }) (fun _ => rfl) fun _ => rfl)

/-- An engine that has begun to open. -/
def switchedOff (due : Nat) (c : ReSteps) : ReSteps := { c with pre := none, state := .weldCheck, coilS := false, coilP := false, negOffAt := some due }

theorem serves_switchOff (s : State) (r : Region) : ∃ x due, Serves r (stepIs x ∘ switchedOff due) s (switchOff s r) := by
  unfold switchOff
  extract_lets due s1 s2 s3 s4
  obtain ⟨x, hx⟩ := serves_coilSet_pos s2 r false
  have hs3 := ((serves_dropWaits s r).trans (serves_reEnter s1 .weldCheck)).trans hx
  exact ⟨x, due, (hs3.trans (serves_coilSet_pre s3 r false)).trans (serves_modRe (f := fun c => { c with negOffAt := some due }) s4 r
    (fun e => { e with negOffAt := some due }) (fun _ => rfl) fun _ => rfl)⟩

theorem serves_sendOpen (s : State) (r : Region) (iso : Option Cause) (result : Nat) (ticket : Half) :
    Serves r id s (sendOpen s r iso result ticket) := serves_pairSend ..

theorem serves_sever (s : State) (x : SeverSt) : Serves r id s { s with sever := x } := ⟨sparesIdle_of_wk rfl, rfl, rfl, rfl, rfl, rfl⟩

theorem serves_severCmd (s : State) : Serves r id s (severCmd s) := by
  unfold severCmd severAssert lineFalls
  exact (((serves_sever s _).andKeeps (serves_sever _ _)).andKeeps (serves_sever _ _)).andKeeps (serves_foldl _ _ (fun s c => serves_bankUpdate s c) _)

/-- An emergency open that isolates for no cause. -/
theorem serves_emergency (s : State) (r : Region) (ticket : Half) (severs : Bool) (hopen : isOpenable (reOf s r).state = true) :
    ∃ x due, Serves r (stepIs x ∘ switchedOff due) s (emergency s r none ticket severs) := by
  rw [emergency, if_pos hopen]
  extract_lets s1 s2 s3
  obtain ⟨x, hx⟩ := serves_overtake s r
  have hs3 : Serves r id s1 s3 := .ite (serves_severCmd ..) (.refl r s1)
  obtain ⟨y, due, hy⟩ := serves_switchOff s3 r
  exact ⟨y, due, ((hx.andKeeps hs3).trans hy).andKeeps (serves_sendOpen ..)⟩

theorem emergency_open (s : State) (r : Region) (ticket : Half) (severs : Bool) (hopen : isOpenable (reOf s r).state = false) :
    emergency s r none ticket severs = s := by
  rw [emergency, hopen]
  rfl

theorem served_emergency (s : State) (r : Region) (ticket : Half) (severs : Bool) : Served r s (emergency s r none ticket severs) := by
  cases hopen : isOpenable (reOf s r).state with
  | true =>
    obtain ⟨x, due, h⟩ := serves_emergency s r ticket severs hopen
    exact h.served
  | false =>
    rw [emergency_open s r ticket severs hopen]
    exact .refl r s

end

end Sys2Proof.Machine

namespace Sys2Proof.Machine

/-! ## The contactor steps (R147-R149, R326-R338) -/

section
variable {r : Region} {f g : ReSteps → ReSteps} {s t u : State} {ticket : Half}

theorem Serves.state (h : Serves r f s t) : (reOf t r).state = (f (stepsOf (reOf s r))).state := congrArg ReSteps.state h.steps
theorem Serves.step (h : Serves r f s t) : (reOf t r).step = (f (stepsOf (reOf s r))).step := congrArg ReSteps.step h.steps

theorem Serves.coilN (h : Serves r f s t) : (reOf t r).coilN = (f (stepsOf (reOf s r))).coilN := congrArg ReSteps.coilN h.steps
theorem Serves.coilP (h : Serves r f s t) : (reOf t r).coilP = (f (stepsOf (reOf s r))).coilP := congrArg ReSteps.coilP h.steps
theorem Serves.coilS (h : Serves r f s t) : (reOf t r).coilS = (f (stepsOf (reOf s r))).coilS := congrArg ReSteps.coilS h.steps
theorem Serves.pre (h : Serves r f s t) : (reOf t r).pre = (f (stepsOf (reOf s r))).pre := congrArg ReSteps.pre h.steps
theorem Serves.weld (h : Serves r f s t) : (reOf t r).weld = (f (stepsOf (reOf s r))).weld := congrArg ReSteps.weld h.steps
theorem Serves.negOffAt (h : Serves r f s t) : (reOf t r).negOffAt = (f (stepsOf (reOf s r))).negOffAt := congrArg ReSteps.negOffAt h.steps

theorem serves_modReStep (s : State) (r : Region) (x : Option (BitVec 4 × Half)) : Serves r (stepIs x) s (modRe s r fun e => { e with step := x }) :=
  serves_modRe s r _ (fun _ => rfl) fun _ => rfl

theorem serves_weldStart (s : State) (r : Region) (ticket : Half) : ∃ y, Serves r (fun c => { c with weld := some y }) s (weldStart s r ticket) := by
  unfold weldStart
  extract_lets now fin others
  exact ⟨⟨ticket, now, fin, false, false, none, none, others, 0⟩, serves_modRe s r _ (fun _ => rfl) fun _ => rfl⟩

/-! ### The zero-current frame -/

theorem serves_txPush (s : State) (n : Fin 4) (f : CanFrame) (owner : TxOwner) : Serves r id s (txPush s n f owner) := by
  obtain ⟨c, hc, -⟩ := txPush_eq s n f owner
  rw [hc]
  exact ⟨sparesIdle_of_wk rfl, rfl, rfl, rfl, rfl, rfl⟩

theorem serves_txModule (s : State) (n : Fin 4) (f : CanFrame) (owner : TxOwner) : Serves r id s (txModule s n f owner) := by
  unfold txModule
  extract_lets s1 c
  have hdrop : Serves r id s s1 := by
    unfold s1
    split
    · exact serves_modCan ..
    · exact .refl r s
  refine hdrop.andKeeps (.ite (serves_txPush ..) ?_)
  split
  · exact serves_txPush ..
  · exact ((serves_modCan ..).andKeeps (serves_txPush ..)).andKeeps (serves_logs (onlyLogs_emit ..))

theorem serves_sendZeroFrame (s : State) (r : Region) : Serves r id s (sendZeroFrame s r) := by
  have hsend : ∀ port img, Serves r id s (sendZero s r port img).1 := fun port img => by
    unfold sendZero
    dsimp only
    split
    · exact .refl r s
    · exact serves_txModule s port (portFrame s port (frameOfImage img)) (.zero r)
  unfold sendZeroFrame
  exact .ite (.ite (hsend _ _) ((hsend _ _).andKeeps (serves_emitRe ..))) (.refl r s)

/-! ### OPEN_PLANNED -/

/-- The engine once it waits for the current to fall. -/
def openingBegun (x : Option (BitVec 4 × Half)) (c : ReSteps) : ReSteps := { c with state := .opening, step := x, pre := none }

theorem serves_planned (s : State) (r : Region) (limitMs : Nat) (ticket : Half) (hopen : isOpenable (reOf s r).state = true)
    (hst : (reOf s r).state ≠ .opening) : Serves r (openingBegun (some (5, ticket))) s (planned s r limitMs none (some ticket)) := by
  unfold planned
  extract_lets due st note take o1 o2 p1 p2 p3 q
  rw [if_neg (show ¬st = .opening from hst), if_pos (show isOpenable st = true from hopen)]
  obtain ⟨x, hx⟩ := serves_overtake s r
  have hpre : Serves r (fun c => { c with pre := none }) p1 p2 := serves_modRg p1 r _ (fun _ => rfl) fun _ => rfl
  have htake : Serves r (stepIs (some (5, ticket))) p3 (take (note p3)) := serves_modReStep ..
  exact ((((hx.trans hpre).trans (serves_reEnter p2 .opening)).trans htake).andKeeps (serves_sendZeroFrame ..)).to rfl

theorem served_planned (s : State) (r : Region) (limitMs : Nat) (ticket : Half) : Served r s (planned s r limitMs none (some ticket)) := by
  by_cases hst : (reOf s r).state = .opening
  · unfold planned
    extract_lets due st note take o1 o2 p1 p2 p3 q
    rw [if_pos (show st = .opening from hst)]
    have hlimit : Serves r id o1 o2 := serves_modRe o1 r _ (fun _ => rfl) fun _ => rfl
    have htake : Serves r (stepIs (some (5, ticket))) o2 (take (note o2)) := serves_modReStep ..
    exact (((serves_stepEnd s 8 0).andKeeps hlimit).trans htake).served
  · cases hopen : isOpenable (reOf s r).state with
    | true => exact (serves_planned s r limitMs ticket hopen hst).served
    | false =>
      unfold planned
      extract_lets due st note take o1 o2 p1 p2 p3 q
      rw [if_neg (show ¬st = .opening from hst), if_neg (show ¬isOpenable st = true from fun h => Bool.noConfusion (hopen.symm.trans h))]
      exact (serves_stepResult s 5 ticket 0).served

/-! ### PRECHARGE and what ends it -/

theorem serves_pushOwnOrder (s : State) (r : Region) (o : Order) (head : Bool) : Serves r id s (pushOwnOrder s r o head) := by
  unfold pushOwnOrder orderRefused
  refine .ite (serves_modRg s r _ (fun _ => rfl) fun _ => rfl) (serves_modRg s r _ (fun x => ?_) fun x => ?_) <;> split <;> rfl

theorem serves_preStop (s : State) (r : Region) : Serves r id s (preStop s r) :=
  (serves_pushOwnOrder ..).andKeeps (serves_modRg _ r (fun x => { x with streaming := x.streaming && ordersFull s r }) (fun _ => rfl) fun _ => rfl)

/-- The end of a pre-charge whose relay is not on yet. -/
theorem serves_preEnds (s : State) (r : Region) (result cause : Nat) (hst : (reOf s r).state ≠ .precharging) :
    Serves r (stepIs none ∘ fun c => { c with pre := none }) s (preEnds s r result cause) := by
  unfold preEnds
  extract_lets s1 s2
  have hs1 : Serves r (fun c => { c with pre := none }) s s1 := (serves_preStop s r).keptThen
    (serves_modRe (preStop s r) r (fun e => { e with pre := none }) (fun _ => rfl) fun _ => rfl)
  have hs2 : s2 = s1 := if_neg (by rw [hs1.state]; exact hst)
  rw [hs2]
  exact hs1.trans (serves_stepEnd ..)

theorem served_preEnds (s : State) (r : Region) (result cause : Nat) : Served r s (preEnds s r result cause) := by
  unfold preEnds
  extract_lets s1 s2
  have hs1 : Served r s s1 := ((serves_preStop s r).keptThen (serves_modRe (f := fun c => { c with pre := none }) (preStop s r) r
    (fun e => { e with pre := none }) (fun _ => rfl) fun _ => rfl)).served
  have hs2 : Served r s1 s2 := .ite (serves_reEnter ..).served (.refl r s1)
  exact (hs1.trans hs2).trans (serves_stepEnd ..).served

/-- PRECHARGE is taken, but for one whose stream the full order queue refuses. -/
theorem serves_preStart (s : State) (r : Region) (ticket : Half) (hst : (reOf s r).state = .negClosed) :
    ∃ p, Serves r (if ordersFull s r then fun c => { c with pre := none, step := none, coilP := false } else fun c => { c with pre := some p })
      s (preStart s r ticket) := by
  unfold preStart
  extract_lets dur full s1 s2
  have hs2 : Serves r (fun c => { c with pre := some ⟨ticket, none, none, false, none, none, false, none, none, 0, 0, false, none, []⟩ }) s s2 :=
    Serves.andKeeps (t := s1) (serves_modRe s r _ (fun _ => rfl) fun _ => rfl) (serves_pushOwnOrder ..)
  refine ⟨⟨ticket, none, none, false, none, none, false, none, none, 0, 0, false, none, []⟩, ?_⟩
  cases hfull : ordersFull s r with
  | true =>
    rw [if_pos rfl, if_pos hfull]
    have hends := serves_preEnds s2 r 6 5 (by rw [hs2.state]; exact fun h => ReState.noConfusion (hst.symm.trans h))
    exact ((hs2.trans hends).trans (serves_relayOff ..)).to rfl
  | false => rwa [if_neg Bool.false_ne_true, if_neg (by rw [show full = false from hfull]; exact Bool.false_ne_true)]

theorem served_preStart (s : State) (r : Region) (ticket : Half) : Served r s (preStart s r ticket) := by
  unfold preStart
  extract_lets dur full s1 s2
  have hs2 : Serves r (fun c => { c with pre := some ⟨ticket, none, none, false, none, none, false, none, none, 0, 0, false, none, []⟩ }) s s2 :=
    Serves.andKeeps (t := s1) (serves_modRe s r _ (fun _ => rfl) fun _ => rfl) (serves_pushOwnOrder ..)
  exact .ite ((hs2.served.trans (served_preEnds s2 r 6 5)).trans (serves_relayOff ..).served) hs2.served

/-! ### OPEN_PRE -/

/-- OPEN_PRE of a region that is closed with its pre-charge relay on. -/
theorem serves_openPre (s : State) (r : Region) (ticket : Half) (hstep : (reOf s r).step = none) (hst : (reOf s r).state = .closedPre) :
    Serves r (fun c => { c with state := .closed, pre := none, coilP := false }) s (openPre s r ticket) := by
  rw [openPre]
  simp only [hstep, hst]
  have hpre : Serves r (fun c => { c with pre := none }) (preStop s r) (modRe (preStop s r) r fun e => { e with pre := none, autoOffAt := none }) :=
    serves_modRe _ r _ (fun _ => rfl) fun _ => rfl
  exact (((((serves_preStop s r).keptThen hpre).trans (serves_reEnter _ .closed)).andKeeps (serves_stepResult ..)).trans (serves_relayOff ..)).to rfl

theorem served_posOvertaken (s : State) (r : Region) : Served r s (posOvertaken s r) := by
  unfold posOvertaken
  split
  · exact .ite (serves_stepEnd ..).served (.refl r s)
  · exact .refl r s

theorem served_openPre (s : State) (r : Region) (ticket : Half) : Served r s (openPre s r ticket) := by
  unfold openPre
  extract_lets st s1
  have hs1 : Served r s s1 := by
    unfold s1
    split
    · exact served_preEnds ..
    · have hstop := (serves_preStop s r).served
      clear_value st
      split
      · exact ((hstop.trans (served_posOvertaken ..)).trans
          (serves_modRe (f := fun c => { c with pre := none }) _ r (fun e => { e with pre := none }) (fun _ => rfl) fun _ => rfl).served).trans
          (serves_reEnter ..).served
      · exact (hstop.trans (serves_modRe (f := fun c => { c with pre := none }) _ r
          (fun e => { e with pre := none, autoOffAt := none }) (fun _ => rfl) fun _ => rfl).served).trans
          (serves_reEnter ..).served
      · exact .refl r s
  exact (hs1.trans (serves_stepResult ..).served).trans (serves_relayOff ..).served

/-! ### RESTART -/

theorem serves_restartStep (s : State) (r : Region) :
    Serves r (stepIs none ∘ if restartOk s r then fun c => { c with state := .opened } else id) s (restartStep s r) := by
  unfold restartStep
  split
  · exact (Serves.keptThen (serves_modRe s r
      (fun e => { e with persist := Vector.replicate 6 0, raised := e.raised / 64 * 64, cause := .none }) (fun _ => rfl) fun _ => rfl)
      (serves_reEnter _ .opened)).trans (serves_stepEnd ..)
  · exact serves_stepEnd ..

/-! ### The requests -/

theorem served_ctcClose (s : State) (r : Region) (code : Nat) (ticket : Half) : Served r s (ctcClose s r code ticket) := by
  unfold ctcClose
  extract_lets s1
  have hs1 : Served r s s1 := (serves_modReStep ..).served
  split
  · obtain ⟨x, hx⟩ := serves_closeCoil_neg (reEnter s1 r .negClosed) r ticket
    exact (hs1.trans (serves_reEnter ..).served).trans hx.served
  · exact hs1.trans (served_preStart ..)
  · exact hs1.trans (serves_modRe (f := fun c => { c with pre := c.pre.map fun p => { p with closeTicket := some ticket } }) s1 r
      (fun e => { e with pre := e.pre.map fun p => { p with closeTicket := some ticket } }) (fun _ => rfl) fun _ => rfl).served
  · exact hs1.trans (serves_restartStep ..).served
  · obtain ⟨y, hy⟩ := serves_weldStart s1 r ticket
    exact hs1.trans hy.served

/-- The engine's answer to a request, by its code. -/
theorem ctcTake_eq (s : State) (r : Region) (code limitMs : Nat) (ticket : Half) : ctcTake s r code limitMs ticket =
    if code = 4 then openPre s r ticket
    else if code = 5 then planned s r (if limitMs = 0 then reSet s r 0x12 else limitMs) none (some ticket)
    else if code = 6 then
      emergency (stepResult (if isOpenable (reOf s r).state then overtake s r else s) r 6 ticket 0) r none ticket true
    else if code = 0 ∨ 8 < code then stepResult s r code ticket 4
    else if ctcRefusal s r code = 0 then ctcClose s r code ticket else stepResult s r code ticket (ctcRefusal s r code) := by
  unfold ctcTake
  split
  · rw [if_pos rfl]
  · rw [if_neg (show ¬5 = 4 by decide), if_pos (show 5 = 5 from rfl)]
  · rw [if_neg (show ¬6 = 4 by decide), if_neg (show ¬6 = 5 by decide), if_pos (show 6 = 6 from rfl)]
  · next h4 h5 h6 => rw [if_neg h4, if_neg h5, if_neg h6]

/-- Every step, taken or refused, keeps to its region. -/
theorem served_ctcTake (s : State) (r : Region) (code limitMs : Nat) (ticket : Half) : Served r s (ctcTake s r code limitMs ticket) := by
  have hover : Served r s (if isOpenable (reOf s r).state then overtake s r else s) := by
    obtain ⟨x, hx⟩ := serves_overtake s r
    exact .ite hx.served (.refl r s)
  rw [ctcTake_eq]
  refine .ite (served_openPre ..) (.ite (served_planned ..) (.ite ?_ (.ite (serves_stepResult ..).served ?_)))
  · exact (hover.trans (serves_stepResult ..).served).trans (served_emergency ..)
  · exact .ite (served_ctcClose ..) (serves_stepResult ..).served

end

end Sys2Proof.Machine

namespace Sys2Proof.Machine

/-! ### A step that is taken -/

section
variable {r : Region} {s t u : State} {w : Worker} {i : Instr} {d s1 s2 : GReg} {code limitMs : Nat} {ticket : Half} {k : WorkerSt}

theorem ctcClose_eq (s : State) (r : Region) (code : Nat) (ticket : Half) : ctcClose s r code ticket =
    (let s := modRe s r fun e => { e with step := some (BitVec.ofNat 4 code, ticket) }
     if code = 1 then closeCoil (reEnter s r .negClosed) r false ticket
     else if code = 2 then preStart s r ticket
     else if code = 3 then modRe s r fun e => { e with pre := e.pre.map fun p => { p with closeTicket := some ticket } }
     else if code = 7 then restartStep s r
     else weldStart s r ticket) := by
  unfold ctcClose
  extract_lets s'
  split
  · rw [if_pos (show 1 = 1 from rfl)]
  · rw [if_neg (show ¬2 = 1 by decide), if_pos (show 2 = 2 from rfl)]
  · rw [if_neg (show ¬3 = 1 by decide), if_neg (show ¬3 = 2 by decide), if_pos (show 3 = 3 from rfl)]
  · rw [if_neg (show ¬7 = 1 by decide), if_neg (show ¬7 = 2 by decide), if_neg (show ¬7 = 3 by decide), if_pos (show 7 = 7 from rfl)]
  · next h1 h2 h3 h7 => rw [if_neg h1, if_neg h2, if_neg h3, if_neg h7]

/-- The engine takes a step: its line is high, it does not yield, no step is in progress (R148). -/
structure CtcFree (s : State) (r : Region) : Prop where
  line : s.sever.lineLow = false
  yielded : isYielded s = false
  step : (reOf s r).step = none

theorem ctcRefusal_zero (h : CtcFree s r)
    (hst : (code, (reOf s r).state) ∈ [(1, ReState.opened), (2, .negClosed), (3, .precharged), (7, .isolated), (8, .opened)]) :
    ctcRefusal s r code = 0 := by
  simp only [List.mem_cons, Prod.mk.injEq, List.not_mem_nil, or_false] at hst
  rcases hst with ⟨rfl, hst⟩ | ⟨rfl, hst⟩ | ⟨rfl, hst⟩ | ⟨rfl, hst⟩ | ⟨rfl, hst⟩ <;>
    simp [ctcRefusal, h.line, h.yielded, h.step, hst]

theorem ctcTake_taken (h : CtcFree s r)
    (hst : (code, (reOf s r).state) ∈ [(1, ReState.opened), (2, .negClosed), (3, .precharged), (7, .isolated), (8, .opened)]) :
    ctcTake s r code limitMs ticket = ctcClose s r code ticket := by
  have hcode : code ≠ 4 ∧ code ≠ 5 ∧ code ≠ 6 ∧ ¬(code = 0 ∨ 8 < code) := by
    simp only [List.mem_cons, Prod.mk.injEq, List.not_mem_nil, or_false] at hst
    omega
  obtain ⟨h4, h5, h6, hknown⟩ := hcode
  rw [ctcTake_eq, if_neg h4, if_neg h5, if_neg h6, if_neg hknown, if_pos (ctcRefusal_zero h hst)]

/-! ### What a step's region needs to be the same -/

theorem restartOk_modRe (s : State) (r : Region) (a : Engine → Engine)
    (ha : ∀ e, (a e).viol = e.viol ∧ (a e).welded = e.welded ∧ (a e).auxCfg = e.auxCfg) :
    restartOk (modRe s r a) r = restartOk s r := by
  obtain ⟨hviol, hwelded, haux⟩ := ha (reOf s r)
  have hheld : (rgOf (modRe s r a) r).held = (rgOf s r).held := by rw [modRe, rgOf_modRg]
  have hlevel : ∀ pos, auxLevel (modRe s r a) r pos = auxLevel s r pos := fun pos => by
    simp only [auxLevel, auxOn, auxDin, reOf_modRe, haux]
    rfl
  simp only [restartOk, reOf_modRe, hviol, hwelded, hheld, hlevel]
  rfl

theorem ordersFull_modRe (s : State) (r : Region) (a : Engine → Engine) : ordersFull (modRe s r a) r = ordersFull s r := by
  rw [ordersFull, modRe, rgOf_modRg, ordersFull]

/-! ### What each step enters -/

/-- What a step makes of its region (R326, R328, R329, R334, R337, R338). -/
def ctcEnters (s t : State) (r : Region) (code : Nat) (ticket : Half) : Prop :=
  match code, (reOf s r).state with
  | 1, .opened => (reOf t r).state = .negClosed ∧ (reOf t r).coilN = true
  | 2, .negClosed => (reOf t r).state = .negClosed ∧ (if ordersFull s r then (reOf t r).step = none ∧ (reOf t r).pre = none
      else (reOf t r).step = some (BitVec.ofNat 4 code, ticket) ∧ (reOf t r).pre.isSome = true)
  | 3, .precharged => (reOf t r).state = .precharged ∧ (reOf t r).step = some (BitVec.ofNat 4 code, ticket)
  | 4, .closedPre => (reOf t r).state = .closed ∧ (reOf t r).coilP = false
  | 5, .closed => (reOf t r).state = .opening ∧ (reOf t r).step = some (BitVec.ofNat 4 code, ticket)
  | 6, .closed => (reOf t r).state = .weldCheck ∧ (reOf t r).coilS = false ∧ (reOf t r).coilP = false ∧ (reOf t r).negOffAt.isSome = true
  | 7, .isolated => (reOf t r).state = (if restartOk s r then .opened else .isolated)
  | 8, .opened => (reOf t r).weld.isSome = true ∧ (reOf t r).step = some (BitVec.ofNat 4 code, ticket)
  | _, _ => True

section
variable (h : CtcFree s r)
include h

theorem closeNeg_enters (hst : (reOf s r).state = .opened) :
    (reOf (ctcTake s r 1 limitMs ticket) r).state = .negClosed ∧ (reOf (ctcTake s r 1 limitMs ticket) r).coilN = true := by
  rw [ctcTake_taken h (by rw [hst]; decide), ctcClose_eq]
  extract_lets s'
  have hs' : Serves r (stepIs (some (BitVec.ofNat 4 1, ticket))) s s' := serves_modReStep ..
  clear_value s'
  rw [if_pos rfl]
  obtain ⟨x, hx⟩ := serves_closeCoil_neg (reEnter s' r .negClosed) r ticket
  have hend := (hs'.trans (serves_reEnter s' .negClosed)).trans hx
  exact ⟨hend.state, hend.coilN⟩

theorem precharge_enters (hst : (reOf s r).state = .negClosed) :
    (reOf (ctcTake s r 2 limitMs ticket) r).state = .negClosed
      ∧ (if ordersFull s r then (reOf (ctcTake s r 2 limitMs ticket) r).step = none ∧ (reOf (ctcTake s r 2 limitMs ticket) r).pre = none
        else (reOf (ctcTake s r 2 limitMs ticket) r).step = some (BitVec.ofNat 4 2, ticket)
          ∧ (reOf (ctcTake s r 2 limitMs ticket) r).pre.isSome = true) := by
  rw [ctcTake_taken h (by rw [hst]; decide), ctcClose_eq]
  extract_lets s'
  have hs' : Serves r (stepIs (some (BitVec.ofNat 4 2, ticket))) s s' := serves_modReStep ..
  have hfull : ordersFull s' r = ordersFull s r := ordersFull_modRe ..
  clear_value s'
  rw [if_neg (show ¬2 = 1 by decide), if_pos rfl]
  have hst' : (reOf s' r).state = .negClosed := hs'.state.trans hst
  obtain ⟨p, hp⟩ := serves_preStart s' r ticket hst'
  have hend := hs'.trans hp
  rw [hfull] at hend
  generalize preStart s' r ticket = t at hend ⊢
  cases hcase : ordersFull s r with
  | true =>
    rw [hcase] at hend
    exact ⟨hend.state.trans hst, hend.step, hend.pre⟩
  | false =>
    rw [hcase] at hend
    exact ⟨hend.state.trans hst, hend.step, by rw [hend.pre]; rfl⟩

theorem closePos_enters (hst : (reOf s r).state = .precharged) :
    (reOf (ctcTake s r 3 limitMs ticket) r).state = .precharged ∧ (reOf (ctcTake s r 3 limitMs ticket) r).step = some (BitVec.ofNat 4 3, ticket) := by
  rw [ctcTake_taken h (by rw [hst]; decide), ctcClose_eq]
  extract_lets s'
  have hs' : Serves r (stepIs (some (BitVec.ofNat 4 3, ticket))) s s' := serves_modReStep ..
  clear_value s'
  rw [if_neg (show ¬3 = 1 by decide), if_neg (show ¬3 = 2 by decide), if_pos rfl]
  have hend := hs'.trans (serves_modRe (f := fun c => { c with pre := c.pre.map fun p => { p with closeTicket := some ticket } }) s' r
    (fun e => { e with pre := e.pre.map fun p => { p with closeTicket := some ticket } }) (fun _ => rfl) fun _ => rfl)
  exact ⟨hend.state.trans hst, hend.step⟩

theorem restart_enters (hst : (reOf s r).state = .isolated) :
    (reOf (ctcTake s r 7 limitMs ticket) r).state = (if restartOk s r then .opened else .isolated) := by
  rw [ctcTake_taken h (by rw [hst]; decide), ctcClose_eq]
  extract_lets s'
  have hs' : Serves r (stepIs (some (BitVec.ofNat 4 7, ticket))) s s' := serves_modReStep ..
  have hok : restartOk s' r = restartOk s r := restartOk_modRe s r _ fun _ => ⟨rfl, rfl, rfl⟩
  clear_value s'
  rw [if_neg (show ¬7 = 1 by decide), if_neg (show ¬7 = 2 by decide), if_neg (show ¬7 = 3 by decide), if_pos rfl]
  have hend := hs'.trans (serves_restartStep s' r)
  rw [hok] at hend
  refine hend.state.trans ?_
  cases restartOk s r with
  | true => rfl
  | false => exact hst

theorem weldCheck_enters (hst : (reOf s r).state = .opened) :
    (reOf (ctcTake s r 8 limitMs ticket) r).weld.isSome = true ∧ (reOf (ctcTake s r 8 limitMs ticket) r).step = some (BitVec.ofNat 4 8, ticket) := by
  rw [ctcTake_taken h (by rw [hst]; decide), ctcClose_eq]
  extract_lets s'
  have hs' : Serves r (stepIs (some (BitVec.ofNat 4 8, ticket))) s s' := serves_modReStep ..
  clear_value s'
  rw [if_neg (show ¬8 = 1 by decide), if_neg (show ¬8 = 2 by decide), if_neg (show ¬8 = 3 by decide), if_neg (show ¬8 = 7 by decide)]
  obtain ⟨y, hy⟩ := serves_weldStart s' r ticket
  have hend := hs'.trans hy
  exact ⟨by rw [hend.weld]; rfl, hend.step⟩

theorem openPre_enters (hst : (reOf s r).state = .closedPre) :
    (reOf (ctcTake s r 4 limitMs ticket) r).state = .closed ∧ (reOf (ctcTake s r 4 limitMs ticket) r).coilP = false := by
  rw [ctcTake_eq, if_pos rfl]
  have hend := serves_openPre s r ticket h.step hst
  exact ⟨hend.state, hend.coilP⟩

end

theorem openPlanned_enters (hst : (reOf s r).state = .closed) :
    (reOf (ctcTake s r 5 limitMs ticket) r).state = .opening ∧ (reOf (ctcTake s r 5 limitMs ticket) r).step = some (BitVec.ofNat 4 5, ticket) := by
  rw [ctcTake_eq, if_neg (show ¬5 = 4 by decide), if_pos (show 5 = 5 from rfl)]
  have hend := serves_planned s r (if limitMs = 0 then reSet s r 0x12 else limitMs) ticket (by rw [hst]; rfl) (by rw [hst]; decide)
  exact ⟨hend.state, hend.step⟩

theorem openEmergency_enters (hst : (reOf s r).state = .closed) :
    (reOf (ctcTake s r 6 limitMs ticket) r).state = .weldCheck ∧ (reOf (ctcTake s r 6 limitMs ticket) r).coilS = false
      ∧ (reOf (ctcTake s r 6 limitMs ticket) r).coilP = false ∧ (reOf (ctcTake s r 6 limitMs ticket) r).negOffAt.isSome = true := by
  rw [ctcTake_eq, if_neg (show ¬6 = 4 by decide), if_neg (show ¬6 = 5 by decide), if_pos (show 6 = 6 from rfl),
    if_pos (show isOpenable (reOf s r).state = true by rw [hst]; rfl)]
  obtain ⟨x, hx⟩ := serves_overtake s r
  have hover := hx.andKeeps (serves_stepResult (overtake s r) 6 ticket 0)
  generalize stepResult (overtake s r) r 6 ticket 0 = s' at hover ⊢
  have hopen : isOpenable (reOf s' r).state = true := by
    rw [hover.state, show (stepIs x (stepsOf (reOf s r))).state = .closed from hst]
    rfl
  obtain ⟨y, due, hy⟩ := serves_emergency s' r ticket true hopen
  have hend := hover.trans hy
  exact ⟨hend.state, hend.coilS, hend.coilP, by rw [hend.negOffAt]; rfl⟩

theorem ctcTake_enters (h : CtcFree s r) : ctcEnters s (ctcTake s r code limitMs ticket) r code ticket := by
  unfold ctcEnters
  split
  · next hst => exact closeNeg_enters h hst
  · next hst => exact precharge_enters h hst
  · next hst => exact closePos_enters h hst
  · next hst => exact openPre_enters h hst
  · next hst => exact openPlanned_enters hst
  · next hst => exact openEmergency_enters hst
  · next hst => exact restart_enters h hst
  · next hst => exact weldCheck_enters h hst
  · trivial

/-! ### The request -/

/-- The region that gs1 names. -/
def ctcRegion (s : State) (w : Worker) (s1 : GReg) : Region := Fin.ofNat 16 (gGet (wkOf s w) s1).toNat

/-- The step that gs2 names, and the TIMEOUT of OPEN_PLANNED. -/
def ctcCode (s : State) (w : Worker) (s2 : GReg) : Nat := (gGet (wkOf s w) s2).toNat % 16
def ctcTimeout (s : State) (w : Worker) (s2 : GReg) : Nat := bitsOf (gGet (wkOf s w) s2) 31 16

/-- `s` with a request to region `r` numbered and its ticket taken. -/
def ctcNumbered (s : State) (w : Worker) (r : Region) : State :=
  modRe (request s w 0x2D) r fun e => { e with nextTicket := nextTicket (reOf s r).nextTicket }

/-- The word that CTC gives: region and ticket (R147). -/
def ctcAnswer (s : State) (r : Region) : Word := word (fld r.val 16 + (reOf s r).nextTicket.toNat)

/-- What CTC does as the worker issues it. -/
def ctcRun (w : Worker) (d s1 s2 : GReg) (code : Nat) (s : State) : State :=
  let r := ctcRegion s w s1
  if !(hasRegion s r && coversRegion (wkOf s w).scope r.val) then trapWorker s w causeScope (word r.val)
  else
    let x := if code = 5 then ctcLimit s w (ctcTimeout s w s2) else (s, 0)
    ctcTake (modWk (ctcNumbered x.1 w r) w fun k => nextPc (putStatus k d (ctcAnswer x.1 r))) r code x.2 (reOf x.1 r).nextTicket

theorem ctc_run (hcode : ctcCode s w s2 = code) : ctc w d s1 s2 s code = issue s w (ctcRun w d s1 s2 code) := by
  have hgiven : (gGet (wkOf s w) s2).toNat % 16 = code := hcode
  unfold ctc
  simp only [hgiven, ne_eq, not_true, false_and, if_false]
  congr 1

/-- A TIMEOUT outside its limits is clamped, and the clamp noted in the folio's ring (R147, R175). -/
theorem ctcLimit_eq (s : State) (w : Worker) (code timeout : Nat) :
    ∃ c, (if code = 5 then ctcLimit s w timeout else (s, 0)).1 = { s with folio := c } := by
  split
  · unfold ctcLimit
    dsimp only
    split
    · exact ⟨s.folio, rfl⟩
    · exact ⟨_, rfl⟩
  · exact ⟨s.folio, rfl⟩

theorem ctcRegion_issueSeen (s : State) (w : Worker) (s1 : GReg) : ctcRegion (issueSeen s w) w s1 = ctcRegion s w s1 := by
  rw [ctcRegion, gGet_issueSeen, ctcRegion]

theorem mayCtc_issueSeen (s : State) (w : Worker) (r : Region) :
    (hasRegion (issueSeen s w) r && coversRegion (wkOf (issueSeen s w) w).scope r.val) = (hasRegion s r && coversRegion (wkOf s w).scope r.val) := by
  rw [wkOf_issueSeen]
  exact (atWorker_issueSeen s w).same (f := fun s' => hasRegion s' r && coversRegion (wkOf s w).scope r.val) fun _ _ _ => rfl

theorem ctc_traps (h : Issues s w) (he : exec i s = ctc w d s1 s2 s code) (hcode : ctcCode s w s2 = code)
    (hno : (hasRegion s (ctcRegion s w s1) && coversRegion (wkOf s w).scope (ctcRegion s w s1).val) = false) : Traps i s w 0x02 := by
  refine traps_of_issue (a := word (ctcRegion s w s1).val) h (he.trans (ctc_run hcode)) ?_
  rw [ctcRun, ctcRegion_issueSeen, mayCtc_issueSeen, hno, Bool.not_false, if_pos rfl]
  rfl

/-- The rest of the module once a request to region `r` has its number and its ticket: the folio's clamp ring apart, an event and the ticket. -/
def ctcBase (s : State) (c : FolioSt) (v : State) (r : Region) : State :=
  modRe (Logged { s with folio := c } v) r fun e => { e with nextTicket := nextTicket (reOf s r).nextTicket }

theorem ctc_takes (h : Issues s w) (he : exec i s = ctc w d s1 s2 s code) (hcode : ctcCode s w s2 = code)
    (hmay : (hasRegion s (ctcRegion s w s1) && coversRegion (wkOf s w).scope (ctcRegion s w s1).val) = true) :
    ∃ c v x limitMs, AtWorker (ctcBase s c v (ctcRegion s w s1)) x w (nextPc (putStatus (counted s w) d (ctcAnswer s (ctcRegion s w s1))))
      ∧ exec i s = .next (quantumEnd (ctcTake x (ctcRegion s w s1) code limitMs (reOf s (ctcRegion s w s1)).nextTicket) w) := by
  rw [he, ctc_run hcode, issue_issueSeen _ h, ctcRun, ctcRegion_issueSeen, mayCtc_issueSeen, hmay, Bool.not_true, if_neg Bool.false_ne_true]
  generalize ctcRegion s w s1 = r
  obtain ⟨c, hc⟩ := ctcLimit_eq (issueSeen s w) w code (ctcTimeout (issueSeen s w) w s2)
  generalize (if code = 5 then ctcLimit (issueSeen s w) w (ctcTimeout (issueSeen s w) w s2) else (issueSeen s w, 0)) = x at hc
  have hlimited := (atWorker_issueSeen s w).map (fun s => { s with folio := c }) (fun _ => rfl) (fun _ => rfl) fun _ _ _ => rfl
  rw [← hc] at hlimited
  have hre : reOf x.1 r = reOf s r := hlimited.same (f := fun s' => reOf s' r) fun _ _ _ => rfl
  obtain ⟨v, hv⟩ := request_eq x.1 w 0x2D
  have hbase := (((hlimited.log v).map (modRe · r fun e => { e with nextTicket := nextTicket (reOf s r).nextTicket }) (fun _ => rfl) (fun _ => rfl)
    fun _ _ _ => rfl).modWk (fun k => nextPc (putStatus k d (ctcAnswer s r))) fun k c => by simp only [putStatus_eq, nextPc])
  refine ⟨c, v, _, x.2, hbase, ?_⟩
  simp only [ctcNumbered, ctcAnswer, hre, hv]

/-! ### What the base of a step keeps -/

theorem reOf_ctcBase (s : State) (c : FolioSt) (v : State) (r : Region) :
    reOf (ctcBase s c v r) r = { reOf s r with nextTicket := nextTicket (reOf s r).nextTicket } := reOf_modRe ..

theorem restartOk_ctcBase (s : State) (c : FolioSt) (v : State) (r : Region) : restartOk (ctcBase s c v r) r = restartOk s r :=
  restartOk_modRe (Logged { s with folio := c } v) r (fun e => { e with nextTicket := nextTicket (reOf s r).nextTicket }) fun _ => ⟨rfl, rfl, rfl⟩

theorem ctcFree_ctcBase {c : FolioSt} {v : State} (h : CtcFree s r) : CtcFree (ctcBase s c v r) r :=
  ⟨h.line, h.yielded, by rw [reOf_ctcBase]; exact h.step⟩

theorem ctcEnters_congr {x : State} {ticket : Half} (hstate : (reOf x r).state = (reOf s r).state) (hfull : ordersFull x r = ordersFull s r)
    (hok : restartOk x r = restartOk s r) (h : ctcEnters x t r code ticket) : ctcEnters s t r code ticket := by
  unfold ctcEnters at h ⊢
  rwa [hstate, hfull, hok] at h

theorem SameBut.same {α : Type} {f : State → α} (h : SameBut s t) (hf : ∀ s wk cores, f { s with wk := wk, cores := cores } = f s) : f t = f s := by
  rw [h, hf]

/-- The end of a step that region `r` has been asked for. -/
theorem ctc_ends {c : FolioSt} {v x : State} (hat : AtWorker (ctcBase s c v r) x w (nextPc (putStatus (counted s w) d (ctcAnswer s r))))
    (he : exec i s = .next (quantumEnd (ctcTake x r code limitMs (reOf s r).nextTicket) w)) : Ends i s fun t =>
      WorkerIs s t w (statusGiven (wkOf s w) d (ctcAnswer s r)) ∧ (reOf t r).nextTicket = nextTicket (reOf s r).nextTicket
        ∧ t.mem = s.mem ∧ t.time = s.time ∧ t.wheel = s.wheel ∧ (CtcFree s r → ctcEnters s t r code (reOf s r).nextTicket) := by
  have hre : reOf x r = { reOf s r with nextTicket := nextTicket (reOf s r).nextTicket } :=
    (hat.same (f := fun s' => reOf s' r) fun _ _ _ => rfl).trans (reOf_ctcBase ..)
  have henters : CtcFree s r → ctcEnters s (ctcTake x r code limitMs (reOf s r).nextTicket) r code (reOf s r).nextTicket := fun h => by
    have hfree : CtcFree x r := by
      have hbase := ctcFree_ctcBase (c := c) (v := v) h
      exact ⟨(hat.same (f := fun s' => s'.sever.lineLow) fun _ _ _ => rfl).trans hbase.line,
        (hat.same (f := isYielded) fun _ _ _ => rfl).trans hbase.yielded, by rw [hre]; exact h.step⟩
    refine ctcEnters_congr (x := x) (by rw [hre]) ?_ ?_ (ctcTake_enters hfree)
    · exact (hat.same (f := fun s' => ordersFull s' r) fun _ _ _ => rfl).trans (ordersFull_modRe ..)
    · exact (hat.same (f := fun s' => restartOk s' r) fun _ _ _ => rfl).trans (restartOk_ctcBase ..)
  obtain ⟨f, hserves⟩ := served_ctcTake x r code limitMs (reOf s r).nextTicket
  generalize ctcTake x r code limitMs (reOf s r).nextTicket = t at he henters hserves
  have hidle : waitOf (wkOf x w) = none := by
    rw [hat.record, putStatus_eq]
    rfl
  obtain ⟨hsame, -, hrec⟩ := quantumEnd_spec t w
  refine ⟨_, he, ?_, ?_⟩
  · rw [WorkerIs, hrec, hserves.spares.stays w hidle, hat.record, putStatus_eq]
    rfl
  · have hend : reOf (quantumEnd t w) r = reOf t r := hsame.same (f := fun s' => reOf s' r) fun _ _ _ => rfl
    refine ⟨?_, (hsame.same (f := State.mem) fun _ _ _ => rfl).trans (hserves.mem.trans hat.mem),
      (hsame.same (f := State.time) fun _ _ _ => rfl).trans (hserves.time.trans hat.time),
      (hsame.same (f := State.wheel) fun _ _ _ => rfl).trans (hserves.wheel.trans hat.wheel), fun h => ?_⟩
    · rw [hend, hserves.ticket, hre]
    · have hsteps := henters h
      unfold ctcEnters at hsteps ⊢
      rwa [hend]

theorem ctc_step (h : Issues s w) (he : exec i s = ctc w d s1 s2 s code) (hcode : ctcCode s w s2 = code)
    (hhas : hasRegion s (ctcRegion s w s1) = true) (hcovers : coversRegion (wkOf s w).scope (ctcRegion s w s1).val = true) : Ends i s fun t =>
      WorkerIs s t w (statusGiven (wkOf s w) d (ctcAnswer s (ctcRegion s w s1)))
        ∧ (reOf t (ctcRegion s w s1)).nextTicket = nextTicket (reOf s (ctcRegion s w s1)).nextTicket ∧ t.mem = s.mem ∧ t.time = s.time ∧ t.wheel = s.wheel
        ∧ (CtcFree s (ctcRegion s w s1) → ctcEnters s t (ctcRegion s w s1) code (reOf s (ctcRegion s w s1)).nextTicket) := by
  obtain ⟨c, v, x, limitMs, hat, he⟩ := ctc_takes (d := d) h he hcode (by rw [hhas, hcovers]; rfl)
  exact ctc_ends hat he

theorem exec_closeNeg (w : Worker) (d s1 s2 : GReg) (s : State) : exec (.closeNeg w d s1 s2) s = ctc w d s1 s2 s 1 := rfl
theorem exec_precharge (w : Worker) (d s1 s2 : GReg) (s : State) : exec (.precharge w d s1 s2) s = ctc w d s1 s2 s 2 := rfl
theorem exec_closePos (w : Worker) (d s1 s2 : GReg) (s : State) : exec (.closePos w d s1 s2) s = ctc w d s1 s2 s 3 := rfl
theorem exec_openPre (w : Worker) (d s1 s2 : GReg) (s : State) : exec (.openPre w d s1 s2) s = ctc w d s1 s2 s 4 := rfl
theorem exec_openPlanned (w : Worker) (d s1 s2 : GReg) (s : State) : exec (.openPlanned w d s1 s2) s = ctc w d s1 s2 s 5 := rfl
theorem exec_openEmergency (w : Worker) (d s1 s2 : GReg) (s : State) : exec (.openEmergency w d s1 s2) s = ctc w d s1 s2 s 6 := rfl
theorem exec_ctcRestart (w : Worker) (d s1 s2 : GReg) (s : State) : exec (.ctcRestart w d s1 s2) s = ctc w d s1 s2 s 7 := rfl
theorem exec_weldCheck (w : Worker) (d s1 s2 : GReg) (s : State) : exec (.weldCheck w d s1 s2) s = ctc w d s1 s2 s 8 := rfl

theorem ctcAnswer_eq (s : State) (r : Region) : ctcAnswer s r = BitVec.ofNat 32 (r.val * 65536 + (reOf s r).nextTicket.toNat) := by
  rw [ctcAnswer, fld, Nat.shiftLeft_eq]
  rfl

end

/-- Settles O25; it says nothing of what a refused step answers (R148) beyond the ticket that it takes. -/
theorem contactorSteps : Obligations.ContactorSteps := by
  unfold Obligations.ContactorSteps
  intro s w d s1 s2 h k r code e rows v quiet given enters
  have hexec : ∀ p ∈ rows, exec p.1 s = ctc w d s1 s2 s p.2 := by
    simp only [rows, List.forall_mem_cons]
    exact ⟨exec_closeNeg .., exec_precharge .., exec_closePos .., exec_openPre .., exec_openPlanned .., exec_openEmergency .., exec_ctcRestart ..,
      exec_weldCheck .., List.forall_mem_nil _⟩
  have hv : ctcAnswer s r = v := ctcAnswer_eq s r
  intro p hp hcode
  refine ⟨ctc_traps h (hexec p hp) hcode, fun hhas hcovers => (ctc_step h (hexec p hp) hcode hhas hcovers).mono fun t ht => ?_⟩
  obtain ⟨hrec, hticket, hmem, htime, hwheel, henters⟩ := ht
  refine ⟨hv ▸ hrec, hticket, hmem, htime, hwheel, fun ⟨hline, hyielded, hstep, _⟩ => ?_⟩
  have hdone := henters ⟨hline, hyielded, hstep⟩
  rw [← hcode] at hdone
  exact hdone

end Sys2Proof.Machine

namespace Sys2Proof.Machine

/-! ## Segments of launches (R144, R268-R270) -/

section
variable {s t : State} {l m : Launch} {k : KRun} {code : Nat} {i : Instr} {w : Worker}

/-- The launch that a segment carries on is the launch that it was given, what it gathers apart. -/
structure SameLaunch (l m : Launch) : Prop where
  ticket : m.ticket = l.ticket
  worker : m.worker = l.worker
  seq : m.seq = l.seq
  seg : m.seg = l.seg
  count : m.count = l.count

theorem SameLaunch.refl (l : Launch) : SameLaunch l l := ⟨rfl, rfl, rfl, rfl, rfl⟩

/-- A segment leaves the queue of launches to its end, and is one of the launch that it was given. -/
structure SegmentOf (s : State) (l : Launch) (k : KRun) : Prop where
  queue : k.s.comb.queue = s.comb.queue
  same : SameLaunch l k.l

theorem SegmentOf.from (h : SegmentOf t l k) (hq : t.comb.queue = s.comb.queue) : SegmentOf s l k := ⟨h.queue.trans hq, h.same⟩

/-- A segment of the same launch with more gathered. -/
theorem SegmentOf.ofLaunch (h : SegmentOf s m k) (hl : SameLaunch l m) : SegmentOf s l k :=
  ⟨h.queue, h.same.ticket.trans hl.ticket, h.same.worker.trans hl.worker, h.same.seq.trans hl.seq, h.same.seg.trans hl.seg,
    h.same.count.trans hl.count⟩

theorem SegmentOf.ite {c : Prop} [Decidable c] {k' : KRun} (h : SegmentOf s l k) (h' : SegmentOf s l k') : SegmentOf s l (if c then k else k') := by
  split <;> assumption

/-! ### What the kernels share -/

theorem queue_of_logs (h : OnlyLogs s t) : t.comb.queue = s.comb.queue := by
  obtain ⟨u, rfl⟩ := h
  rfl

theorem queue_emit (s : State) (n level e : Nat) (keep marked : Bool) (scope : Half) (args : Word) :
    (emit s n level e keep marked scope args).comb.queue = s.comb.queue := queue_of_logs (onlyLogs_emit ..)

theorem queue_tabCommit (s : State) (l : Launch) (a : Nat) (b : List Byte) : (tabCommit s l a b).1.comb.queue = s.comb.queue := by
  unfold tabCommit
  split
  · dsimp only
    split
    · rfl
    · split <;> rfl
  · unfold writePlace
    dsimp only
    split <;> rfl

theorem segmentOf_poisonedRun (s : State) (l : Launch) : SegmentOf s l (poisonedRun s l) := ⟨rfl, .refl l⟩

theorem segmentOf_segCommit (s : State) (l : Launch) (a : Nat) (b : List Byte) (excluded : Nat) : SegmentOf s l (segCommit s l a b excluded) := by
  have hq := queue_tabCommit s l a b
  unfold segCommit
  exact .ite (segmentOf_poisonedRun s l) ⟨hq, .refl l⟩

section
variable {f : State → Nat → State × List Byte × Bool} (hf : ∀ s i, (f s i).1.comb.queue = s.comb.queue)
include hf

theorem queue_elements (s : State) (i n : Nat) : (elements f s i n).1.comb.queue = s.comb.queue := by
  induction n generalizing s i with
  | zero => rfl
  | succ n ih => exact (ih _ _).trans (hf s i)

theorem segmentOf_mapKernel (s : State) (l : Launch) (size : Nat) (srcs : List (Word × Nat)) : SegmentOf s l (mapKernel s l size srcs f) := by
  have hq := queue_elements hf s (segFirst l) (segLen l)
  unfold mapKernel
  exact .ite (segmentOf_poisonedRun s l) (.ite (segmentOf_poisonedRun s l) ((segmentOf_segCommit ..).from hq))

end

theorem segmentOf_withChem {f : Chem → KRun} (s : State) (l : Launch) (a : Word) (hf : ∀ c, SegmentOf s l (f c)) : SegmentOf s l (withChem s l a f) := by
  unfold withChem
  refine .ite (segmentOf_poisonedRun s l) ?_
  split
  · exact hf _
  · exact ⟨queue_emit .., .refl l⟩

/-- A commit of a segment that has gathered more. -/
theorem segmentOf_gathered {a excluded : Nat} {b : List Byte} (hq : t.comb.queue = s.comb.queue)
    (hl : SameLaunch l m) : SegmentOf s l (segCommit t m a b excluded) := ((segmentOf_segCommit t m a b excluded).from hq).ofLaunch hl

/-- What a segment draws does not reach the queue. -/
theorem SegmentOf.free (h : SegmentOf s l k) (n : Nat) : SegmentOf s l { k with s := { k.s with free := n } } := ⟨h.queue, h.same⟩

theorem segmentOf_trusting {f : State → Launch → KRun} (h : SegmentOf s l (f s l)) : SegmentOf s l (trusting f s l) := ⟨h.queue, h.same⟩

/-! ### The estimator kernels -/

theorem segmentOf_coulRun (s : State) (l : Launch) : SegmentOf s l (coulRun s l) := by
  unfold coulRun
  extract_lets target
  exact SegmentOf.ofLaunch (m := { l with target := some target }) (segmentOf_withChem s _ _ fun _ => segmentOf_mapKernel (fun _ _ => rfl) ..)
    ⟨rfl, rfl, rfl, rfl, rfl⟩

theorem queue_judgeRest (s : State) (cell : Nat) (b : List Byte) : (judgeRest s cell b).1.comb.queue = s.comb.queue := by
  unfold judgeRest
  dsimp only
  split
  · split
    · exact queue_emit ..
    · rfl
  · split <;> rfl

theorem queue_restPoint (s : State) (c : Chem) (cell : Nat) (b : List Byte) : (restPoint s c cell b).1.comb.queue = s.comb.queue := by
  unfold restPoint
  split
  · dsimp only
    split
    · rfl
    · exact queue_judgeRest ..
  · rfl

theorem queue_ocvCell (s : State) (c : Chem) (cell : Nat) (b : List Byte) : (ocvCell s c cell b).1.comb.queue = s.comb.queue := by
  unfold ocvCell
  extract_lets v x b1 b2 r
  split
  · rfl
  · exact queue_restPoint ..

theorem segmentOf_ocvRun (s : State) (l : Launch) : SegmentOf s l (ocvRun s l) :=
  segmentOf_withChem s l _ fun _ => segmentOf_mapKernel (fun _ _ => queue_ocvCell ..) s l 128 _

theorem segmentOf_zcompRun (s : State) (l : Launch) : SegmentOf s l (zcompRun s l) :=
  segmentOf_withChem s l _ fun _ => segmentOf_mapKernel (fun _ _ => rfl) s l 128 _

theorem queue_clampPar (s : State) (l : Launch) (lo hi given : Int) : (clampPar s l lo hi given).1.comb.queue = s.comb.queue := by
  unfold clampPar
  dsimp only
  split <;> rfl

theorem segmentOf_rlszRun (s : State) (l : Launch) : SegmentOf s l (rlszRun s l) :=
  segmentOf_withChem s l _ fun _ => SegmentOf.free ((segmentOf_mapKernel (fun _ _ => rfl) _ l 128 _).from (queue_clampPar ..)) _

theorem segmentOf_stepfitRun (s : State) (l : Launch) : SegmentOf s l (stepfitRun s l) :=
  .ite (segmentOf_poisonedRun s l) (segmentOf_withChem s l _ fun _ => (segmentOf_mapKernel (fun _ _ => rfl) s l 32 _).free _)

theorem queue_clampFull (s : State) (l : Launch) (v : Int) : (clampFull s l v).1.comb.queue = s.comb.queue := by
  unfold clampFull
  split
  · exact queue_clampPar ..
  · split <;> exact queue_clampPar ..

theorem queue_socfPar (s : State) (l : Launch) : (socfPar s l).1.comb.queue = s.comb.queue := by
  unfold socfPar
  exact (queue_clampFull ..).trans ((queue_clampPar ..).trans ((queue_clampPar ..).trans ((queue_clampPar ..).trans
    ((queue_clampPar ..).trans (queue_clampPar ..)))))

theorem segmentOf_socfRun (s : State) (l : Launch) : SegmentOf s l (socfRun s l) := by
  refine .ite (segmentOf_poisonedRun s l) (segmentOf_withChem s l _ fun c => ?_)
  have hq := queue_socfPar s l
  extract_lets
  refine SegmentOf.from (t := (socfPar s l).1) (.ite (segmentOf_poisonedRun ..) (.ite (segmentOf_poisonedRun ..) ⟨?_, .refl l⟩)) hq
  exact (queue_tabCommit ..).trans (queue_tabCommit ..)

theorem segmentOf_limpRun (s : State) (l : Launch) : SegmentOf s l (limpRun s l) :=
  .ite (segmentOf_poisonedRun s l) (segmentOf_withChem s l _ fun _ => segmentOf_mapKernel (fun _ _ => rfl) s l 8 _)

theorem segmentOf_balpRun (s : State) (l : Launch) : SegmentOf s l (balpRun s l) :=
  .ite (segmentOf_poisonedRun s l) (segmentOf_segCommit ..)

theorem segmentOf_statRun (s : State) (l : Launch) : SegmentOf s l (statRun s l) :=
  .ite (segmentOf_poisonedRun s l) (segmentOf_gathered rfl ⟨rfl, rfl, rfl, rfl, rfl⟩)

/-! ### The vector kernels -/

theorem segmentOf_vecRun (s : State) (l : Launch) (useB : Bool) (f : Int → Int → Int) : SegmentOf s l (vecRun s l useB f) :=
  segmentOf_mapKernel (fun _ _ => rfl) s l 4 _

theorem segmentOf_vecPick (s : State) (l : Launch) (better : Int → Int → Bool) : SegmentOf s l (vecPick s l better) := by
  refine .ite (segmentOf_poisonedRun s l) ?_
  dsimp only
  split
  · exact segmentOf_gathered rfl ⟨rfl, rfl, rfl, rfl, rfl⟩
  · exact segmentOf_gathered rfl ⟨rfl, rfl, rfl, rfl, rfl⟩

theorem segmentOf_vinterpRun (s : State) (l : Launch) : SegmentOf s l (vinterpRun s l) := by
  refine .ite (segmentOf_poisonedRun s l) ?_
  split
  · exact ⟨rfl, .refl l⟩
  · exact segmentOf_vecRun ..

theorem segmentOf_vcmpmRun (s : State) (l : Launch) : SegmentOf s l (vcmpmRun s l) :=
  .ite (segmentOf_poisonedRun s l) (segmentOf_segCommit ..)

/-! ### The end of a segment -/

theorem done_combWake (k : WorkerSt) (x : Word) (excluded status : Nat) : (combWake k x excluded status).done = k.done := by
  have hready : ∀ k : WorkerSt, (makeReady k).done = k.done := fun k => by
    unfold makeReady
    split <;> rfl
  have hput : ∀ (k : WorkerSt) d v, (putStatus k d v).done = k.done := fun k d v => by rw [putStatus_eq]
  unfold combWake
  split
  · split
    · rw [hready, hput]
    · split
      · dsimp only
        split
        · rw [hready, hput]
        · rfl
      · rfl
  · rfl

/-- The completion word that a worker holds for a launch that ends (R144). -/
def combRecord (k : WorkerSt) (x v : Word) (excluded status : Nat) : WorkerSt :=
  let k' := { k with tickets := k.tickets.erase x, done := ((x, v) :: k.done).take 8 }
  if k.tickets.contains x then combWake k' x excluded status else k'

theorem combRecord_done (k : WorkerSt) (x v : Word) (excluded status : Nat) : (combRecord k x v excluded status).done.head? = some (x, v) := by
  unfold combRecord
  dsimp only
  split
  · rw [done_combWake]
    rfl
  · rfl

theorem combDone_eq (s : State) (l : Launch) (excluded status : Nat) :
    combDone s l excluded status
      = modWk (emit { s with comb := { s.comb with queue := s.comb.queue.filter fun x => x.ticket != l.ticket } } 28 0 0x08 false false
          (scopeOf s l.worker) (doneWord excluded status))
        l.worker fun k => combRecord k l.ticket (doneWord excluded status) excluded status := by
  unfold combDone combRecord
  rfl

/-- A launch that completes leaves the queue, and its worker holds its word (R144). -/
theorem combDone_spec (s : State) (l : Launch) (excluded status : Nat) :
    (∀ x ∈ (combDone s l excluded status).comb.queue, x.ticket ≠ l.ticket)
      ∧ (wkOf (combDone s l excluded status) l.worker).done.head? = some (l.ticket, doneWord excluded status) := by
  rw [combDone_eq, modWk_comb, queue_emit, wkOf_modWk, combRecord_done]
  exact ⟨fun x hx => bne_iff_ne.1 (List.mem_filter.1 hx).2, rfl⟩

theorem doneWord_eq (excluded status : Nat) : doneWord excluded status = BitVec.ofNat 32 (min 0xFFFF excluded * 65536 + status) := by
  rw [doneWord, fld, Nat.shiftLeft_eq]
  rfl

/-- A launch at the end of one of its segments: it has completed, or waits in its place of the queue for its next one. -/
def SegmentEnds (l : Launch) (t : State) : Prop :=
  ((∀ x ∈ t.comb.queue, x.ticket ≠ l.ticket)
      ∧ ∃ n st, n ≤ 0xFFFF ∧ st ≤ 1 ∧ (wkOf t l.worker).done.head? = some (l.ticket, BitVec.ofNat 32 (n * 65536 + st)))
    ∨ (64 * (l.seg + 1) < l.count ∧ ∃ x ∈ t.comb.queue, x.ticket = l.ticket ∧ x.seq = l.seq ∧ x.seg = l.seg + 1)

theorem segmentEnds_segDone (hmem : l ∈ s.comb.queue) (h : SegmentOf s l k) : SegmentEnds l (segDone k) := by
  obtain ⟨hq, hticket, hworker, hseq, hseg, hcount⟩ := h
  unfold segDone
  extract_lets src l'
  have hl' : l'.ticket = l.ticket ∧ l'.worker = l.worker ∧ l'.seq = l.seq ∧ l'.seg = l.seg + 1 ∧ l'.count = l.count :=
    ⟨hticket, hworker, hseq, congrArg (· + 1) hseg, hcount⟩
  clear_value l'
  obtain ⟨hticket', hworker', hseq', hseg', hcount'⟩ := hl'
  split
  next _ =>
    obtain ⟨hgone, hdone⟩ := combDone_spec k.s l' l'.excluded (ofBool k.poisoned)
    rw [hticket'] at hgone hdone
    rw [hworker', doneWord_eq] at hdone
    exact .inl ⟨hgone, _, _, Nat.min_le_left .., by cases k.poisoned <;> decide, hdone⟩
  next hmore =>
    simp only [Bool.or_eq_true, decide_eq_true_eq, not_or, segFirst, hseg', hcount', Nat.not_le] at hmore
    refine .inr ⟨hmore.2, l', ?_, hticket', hseq', hseg'⟩
    change l' ∈ k.s.comb.queue.map _
    rw [hq]
    exact List.mem_map.2 ⟨l, hmem, if_pos (by rw [hseq']; exact beq_self_eq_true _)⟩

/-! ### The rows -/

theorem granted_mem (h : granted s = some l) : l ∈ s.comb.queue := by
  unfold granted at h
  split at h
  · cases h
  · obtain ⟨p, -, hp⟩ := List.exists_of_findSome?_eq_some h
    split at hp
    next x hx =>
      split at hp
      · cases hp
      · cases hp
        exact List.mem_of_find?_eq_some hx
    next => cases hp

/-- The row of the kernel of the launch granted next runs a segment of it. -/
theorem kernelRow_runs {f : State → Launch → KRun} (hrun : Running s) (hgranted : granted s = some l) (he : exec i s = kernelRow s code f)
    (hf : SegmentOf s l (f s l)) (hcode : l.kernel.toNat = code) : exec i s = .next (segDone (f s l)) ∧ SegmentEnds l (segDone (f s l)) := by
  refine ⟨?_, segmentEnds_segDone (granted_mem hgranted) hf⟩
  rw [he, kernelRow, run_running _ hrun]
  simp only [hgranted, hcode, if_true]

theorem exec_coul (s : State) : exec .coul s = kernelRow s 0x01 coulRun := rfl
theorem exec_ocv (s : State) : exec .ocv s = kernelRow s 0x02 (trusting ocvRun) := rfl
theorem exec_zcomp (s : State) : exec .zcomp s = kernelRow s 0x03 zcompRun := rfl
theorem exec_rlsz (s : State) : exec .rlsz s = kernelRow s 0x04 (trusting rlszRun) := rfl
theorem exec_stepfit (s : State) : exec .stepfit s = kernelRow s 0x05 stepfitRun := rfl
theorem exec_socf (s : State) : exec .socf s = kernelRow s 0x06 socfRun := rfl
theorem exec_limp (s : State) : exec .limp s = kernelRow s 0x07 limpRun := rfl
theorem exec_balp (s : State) : exec .balp s = kernelRow s 0x08 balpRun := rfl
theorem exec_stat (s : State) : exec .stat s = kernelRow s 0x09 statRun := rfl
theorem exec_vadd (s : State) : exec .vadd s = kernelRow s 0x20 vaddRun := rfl
theorem exec_vmul (s : State) : exec .vmul s = kernelRow s 0x21 vmulRun := rfl
theorem exec_vmadd (s : State) : exec .vmadd s = kernelRow s 0x22 vmaddRun := rfl
theorem exec_vmin (s : State) : exec .vmin s = kernelRow s 0x23 fun s l => vecPick s l fun a b => decide (a < b) := rfl
theorem exec_vmax (s : State) : exec .vmax s = kernelRow s 0x24 fun s l => vecPick s l fun a b => decide (b < a) := rfl
theorem exec_vinterp (s : State) : exec .vinterp s = kernelRow s 0x25 vinterpRun := rfl
theorem exec_vcmpm (s : State) : exec .vcmpm s = kernelRow s 0x26 vcmpmRun := rfl

end

/-- Settles O21; that a row runs one segment of 64 elements of the launch granted next is the reading of log entry 24. -/
theorem kernelsComplete : Obligations.KernelsComplete := by
  unfold Obligations.KernelsComplete
  intro s l hrun hgranted ends runs
  exact ⟨kernelRow_runs hrun hgranted (exec_coul s) (segmentOf_coulRun s l),
    kernelRow_runs hrun hgranted (exec_ocv s) (segmentOf_trusting (segmentOf_ocvRun s l)),
    kernelRow_runs hrun hgranted (exec_zcomp s) (segmentOf_zcompRun s l),
    kernelRow_runs hrun hgranted (exec_rlsz s) (segmentOf_trusting (segmentOf_rlszRun s l)),
    kernelRow_runs hrun hgranted (exec_stepfit s) (segmentOf_stepfitRun s l),
    kernelRow_runs hrun hgranted (exec_socf s) (segmentOf_socfRun s l),
    kernelRow_runs hrun hgranted (exec_limp s) (segmentOf_limpRun s l),
    kernelRow_runs hrun hgranted (exec_balp s) (segmentOf_balpRun s l),
    kernelRow_runs hrun hgranted (exec_stat s) (segmentOf_statRun s l),
    kernelRow_runs hrun hgranted (exec_vadd s) (segmentOf_vecRun s l _ _),
    kernelRow_runs hrun hgranted (exec_vmul s) (segmentOf_vecRun s l _ _),
    kernelRow_runs hrun hgranted (exec_vmadd s) (segmentOf_vecRun s l _ _),
    kernelRow_runs hrun hgranted (exec_vmin s) (segmentOf_vecPick s l _),
    kernelRow_runs hrun hgranted (exec_vmax s) (segmentOf_vecPick s l _),
    kernelRow_runs hrun hgranted (exec_vinterp s) (segmentOf_vinterpRun s l),
    kernelRow_runs hrun hgranted (exec_vcmpm s) (segmentOf_vcmpmRun s l)⟩

end Sys2Proof.Machine

/-! # Sitting 6: folios and settings in service (O38, O39) -/

namespace Sys2Proof.Machine

/-! ## Folio commands (R166, R169, R170) -/

section
variable {s : State} {k : Session} {r : Region}

theorem exec_reload (k : Session) (r : Region) (s : State) : exec (.reload k r) s = folioRow k 0x10 (word (fld r.val 8 + 5)) s := rfl
theorem exec_folioActivate (k : Session) (s : State) : exec (.folioActivate k) s = execFolioActivate k s := rfl

theorem onlyLogs_pairSend (s : State) (x : TwinOut) : OnlyLogs s (pairSend s x) := .ite (onlyLogs_twinSend ..) (.refl s)

/-- A folio command of an OPERATOR session has its effect. -/
theorem folioRow_operator (hrun : Running s) (hop : isOperator s k = true) (off : Nat) (v : Word) :
    folioRow k off v s = .next (folioWrite s k off v) := by
  rw [folioRow, run_running _ hrun, if_pos hop]

/-! ### Marks of the inactive slot (R167) -/

theorem setSlot_not (f : FolioSt) (b : Bool) (st : SlotState) :
    setSlot f (!b) st = if b then { f with stA := st } else { f with stB := st } := by
  cases b <;> rfl

theorem slotState_not (f : FolioSt) (b : Bool) : slotState f (!b) = if b then f.stA else f.stB := by
  cases b <;> rfl

/-! ### The commands -/

theorem folioVerify_idle (hbusy : s.folio.busy = .none) (hlen : s.folio.stageLen.toNat ≤ 3145728) : folioVerify s = { s with
    folio := { s.folio with busy := .verify, verified := none, lastCmd := 1, result := 0xFF }
    crypto := s.crypto ++ [⟨none, false, s.arb.seq, 0, 0, 0, [], [], 0, .folio⟩] } := by
  have hfits : ¬folioMax < s.folio.stageLen.toNat := Nat.not_lt.mpr hlen
  rw [folioVerify, if_neg (not_not_intro hbusy), if_neg hfits]
  rfl

theorem writeSlot_idle (hbusy : s.folio.busy = .none) (htrial : slotState s.folio s.folio.active ≠ .trial)
    (hverified : s.folio.verified = some s.folio.stageLen.toNat) : writeSlot s = { s with folio :=
      { (if s.folio.active then { s.folio with stA := .writing } else { s.folio with stB := .writing } : FolioSt) with
        busy := .writeSlot, lastCmd := 2, result := 0xFF } } := by
  have hfree : ¬(s.folio.busy ≠ .none ∨ slotState s.folio s.folio.active = .trial) := not_or.mpr ⟨not_not_intro hbusy, htrial⟩
  simp only [writeSlot, if_neg hfree, if_neg (not_not_intro hverified), setSlot_not, folioResult, modFolio]

theorem folioConfirm_trial (hbusy : s.folio.busy = .none) (htrial : slotState s.folio s.folio.active = .trial) :
    folioConfirm s = { s with folio :=
      { (if s.folio.active then { s.folio with stB := .valid } else { s.folio with stA := .valid } : FolioSt) with
        lastCmd := 4, result := 0 } } := by
  rw [folioConfirm, if_neg (not_not_intro hbusy), if_pos htrial]
  rfl

/-- The folio block as ACTIVATE of a VALID slot leaves it. -/
def activated (f : FolioSt) : FolioSt :=
  { (if f.active then { f with stA := .trial } else { f with stB := .trial } : FolioSt) with
    active := !f.active, activateStart := true, busy := .activate, lastCmd := 3, result := 0 }

theorem folioActivate_valid (hbusy : s.folio.busy = .none) (hvalid : slotState s.folio (!s.folio.active) = .valid) :
    folioActivate s = ({ s with folio := activated s.folio }, true) := by
  simp only [folioActivate, if_neg (not_not_intro hbusy), if_neg (not_not_intro hvalid), setSlot_not, folioResult, modFolio, activated]

theorem execFolioActivate_valid (hrun : Running s) (hop : isOperator s k = true) (hbusy : s.folio.busy = .none)
    (hvalid : slotState s.folio (!s.folio.active) = .valid) :
    exec (.folioActivate k) s = .next (restartOrYield { s with folio := activated s.folio } 2) := by
  rw [exec_folioActivate, execFolioActivate, run_running _ hrun, if_pos hop, folioActivate_valid hbusy hvalid]
  rfl

/-- A restart of a lead with a healthy mirror waits for the hand-over, which begins unless one is under way or a transfer runs
(R170, R498). -/
theorem restartOrYield_lead (cause : BitVec 4) (hyields : (s.twin.role == .lead && healthyMirror s) = true) :
    ∃ v, restartOrYield s cause = { Logged s v with twin := { s.twin with
      out := v.twin.out, thenRestart := some cause
      grant := if s.twin.grant.isSome || s.twin.xferBusy then s.twin.grant else some (grantSweep s) } } := by
  rw [restartOrYield, if_pos hyields]
  cases hwaits : s.twin.grant.isSome || s.twin.xferBusy with
  | true => exact ⟨s, if_pos hwaits⟩
  | false =>
    obtain ⟨v, hv⟩ := onlyLogs_pairSend (modTwin s fun t => { t with thenRestart := some cause, grant := some (grantSweep s) }) (.grant (grantSweep s))
    exact ⟨v, (if_neg (ne_true_of_eq_false hwaits)).trans hv⟩

theorem restartOrYield_alone (cause : BitVec 4) (hyields : (s.twin.role == .lead && healthyMirror s) = false) :
    restartOrYield s cause = { s with power := { s.power with state := .restarting cause, origin := nowNs s }, bank := { s.bank with holding := true } } :=
  if_neg (ne_true_of_eq_false hyields)

theorem folioActivate_ends (hrun : Running s) (hop : isOperator s k = true) (hbusy : s.folio.busy = .none)
    (hvalid : slotState s.folio (!s.folio.active) = .valid) : Ends (.folioActivate k) s fun t =>
      t.folio = activated s.folio
        ∧ (if s.twin.role == .lead && healthyMirror s then
            t = { Logged s t with folio := t.folio, twin := { s.twin with
              out := t.twin.out, thenRestart := some 2
              grant := if s.twin.grant.isSome || s.twin.xferBusy then s.twin.grant else some (grantSweep s) } }
          else t = { s with
            folio := t.folio, power := { s.power with state := .restarting 2, origin := nowNs s }, bank := { s.bank with holding := true } }) := by
  refine ⟨_, execFolioActivate_valid hrun hop hbusy hvalid, ?_⟩
  cases hyields : s.twin.role == .lead && healthyMirror s with
  | true =>
    obtain ⟨v, hv⟩ := restartOrYield_lead (s := { s with folio := activated s.folio }) 2 hyields
    rw [hv]
    exact ⟨rfl, rfl⟩
  | false =>
    rw [restartOrYield_alone (s := { s with folio := activated s.folio }) 2 hyields]
    exact ⟨rfl, rfl⟩

/-! ### What ends them (R33, R166; log entry 5) -/

/-- The staging area holds a folio whose verification succeeds. -/
def stageGood (s : State) : Bool :=
  let len := s.folio.stageLen.toNat
  !(decide (0 < len) && poisoned s 0 len) && folioHolds s (memRead s.mem.dram 0 len)

theorem folioVerifyDone_served (hbusy : s.folio.busy = .verify) (hserves : rsaServes s .folio = true) : folioVerifyDone s = { s with
    folio := { s.folio with
      busy := .none, result := if stageGood s then 0 else 1, verified := if stageGood s then some s.folio.stageLen.toNat else none }
    crypto := cryptoGrant s.crypto.tail } := by
  have hdone : ¬(s.folio.busy ≠ .verify ∨ rsaServes s .folio = false) := by simp [hbusy, hserves]
  rw [folioVerifyDone, if_neg hdone]
  rfl

theorem folioVerifyDone_unserved (h : s.folio.busy ≠ .verify ∨ rsaServes s .folio = false) : folioVerifyDone s = s := if_pos h

/-- The folio block with the staged folio copied into the inactive slot. -/
def copied (s : State) : FolioSt :=
  let f := s.folio
  let image := memRead s.mem.dram 0 f.stageLen.toNat
  let v : Word := BitVec.ofNat 32 (natAt image 8 4)
  if f.active then { f with imgA := memWrite [] 0 image, lenA := f.stageLen.toNat, verA := v }
  else { f with imgB := memWrite [] 0 image, lenB := f.stageLen.toNat, verB := v }

theorem copied_active (s : State) : (copied s).active = s.folio.active := by
  unfold copied
  dsimp only
  split <;> rfl

theorem writeSlotDone_writing (hbusy : s.folio.busy = .writeSlot) :
    let ok := folioHolds s (memRead s.mem.dram 0 s.folio.stageLen.toNat)
    let st : SlotState := if ok then .valid else .bad
    writeSlotDone s = { s with folio :=
      { (if s.folio.active then { copied s with stA := st } else { copied s with stB := st } : FolioSt) with
        busy := .none, result := if ok then 0 else 1 } } := by
  intro ok st
  rw [writeSlotDone, if_neg (not_not_intro hbusy)]
  show { s with folio := { setSlot (copied s) (!(copied s).active) st with busy := .none, result := _ } } = _
  rw [copied_active, setSlot_not]

end

end Sys2Proof.Machine

namespace Sys2Proof.Machine

/-! ## RELOAD of a region: the command (R178-R180) -/

section
variable {s : State} {k : Session} {r : Region}

/-- The fields of the word that names RELOAD of a region. -/
theorem reloadWord_fields : ∀ r : Region, (word (fld r.val 8 + 5)).toNat % 16 = 5 ∧ Fin.ofNat 16 (bitsOf (word (fld r.val 8 + 5)) 11 8) = r := by
  decide

theorem exec_reload_operator (hrun : Running s) (hop : isOperator s k = true) (hr : hasRegion s r = true) :
    exec (.reload k r) s = .next (reloadStart s r) := by
  obtain ⟨hcmd, hregion⟩ := reloadWord_fields r
  rw [exec_reload, folioRow_operator hrun hop, folioWrite]
  simp only [hcmd, hregion, hr, if_true]

/-- The folio of the inactive slot is the running one outside region part r (R178). -/
abbrev SameElsewhere (s : State) (r : Region) : Prop :=
  withoutRegion (slotBytes s.folio (!s.folio.active)) r.val = withoutRegion (slotBytes s.folio s.folio.active) r.val

theorem reloadStart_unwritten (hbusy : s.folio.busy = .none) (hother : slotState s.folio (!s.folio.active) ≠ .valid) :
    reloadStart s r = { s with folio := { s.folio with lastCmd := 5, result := 0x05 } } := by
  rw [reloadStart, if_neg (not_not_intro hbusy), if_pos hother]
  rfl

theorem reloadStart_differs (hbusy : s.folio.busy = .none) (hother : slotState s.folio (!s.folio.active) = .valid)
    (hdiff : ¬SameElsewhere s r) : reloadStart s r = { s with folio := { s.folio with lastCmd := 5, result := 0x06 } } := by
  rw [reloadStart, if_neg (not_not_intro hbusy), if_neg (not_not_intro hother), if_pos hdiff]
  rfl

/-- The twin's HELLO told another folio than the running one (log entry 32). -/
theorem reloadStart_mismatch (hbusy : s.folio.busy = .none) (hother : slotState s.folio (!s.folio.active) = .valid)
    (hsame : SameElsewhere s r) (hpresent : s.twin.present = true) (htwin : s.twin.folioDiff = true) :
    reloadStart s r = { s with folio := { s.folio with lastCmd := 5, result := 0x08 }, free := s.free + 1 } := by
  rw [reloadStart, if_neg (not_not_intro hbusy), if_neg (not_not_intro hother), if_neg (not_not_intro hsame)]
  simp only [hpresent, htwin, Bool.true_or, Bool.and_self, if_true]
  rfl

theorem reloadStart_waits (hbusy : s.folio.busy = .none) (hother : slotState s.folio (!s.folio.active) = .valid)
    (hsame : SameElsewhere s r) (hpresent : s.twin.present = false) : ∃ v, reloadStart s r = { Logged s v with
      folio := { s.folio with busy := .reload r (settingSweep s) none, redo := [], lastCmd := 5, result := 0xFF }, free := s.free + 1 } := by
  rw [reloadStart, if_neg (not_not_intro hbusy), if_neg (not_not_intro hother), if_neg (not_not_intro hsame)]
  simp only [hpresent, Bool.false_and, Bool.false_eq_true, if_false]
  exact onlyLogs_pairSend ..

/-! ### The wait for a chip or pair worker to leave the segment (R180) -/

variable {m : Word} {limit : Option Nat}

theorem reloadDue_unclosed (hbusy : s.folio.busy = .reload r m limit) (hclosed : regionClosed s r m = false) : reloadDue s = s := by
  rw [reloadDue, hbusy]
  simp only [hclosed, if_true]

theorem reloadDue_held (hbusy : s.folio.busy = .reload r m limit) (hclosed : regionClosed s r m = true) (hchip : chipInSegment s r = true) :
    reloadDue s = { s with folio := { s.folio with
      busy := .reload r m (if limit = none then some (nowNs s + 10000000) else limit) } } := by
  rw [reloadDue, hbusy]
  simp only [hclosed, hchip, Bool.true_eq_false, if_false, if_true]
  cases limit with
  | none => rfl
  | some u =>
    have hsame : ({ s.folio with busy := .reload r m (some u) } : FolioSt) = s.folio := by rw [← hbusy]
    simp [hsame]

theorem reloadDue_applies (hbusy : s.folio.busy = .reload r m limit) (hclosed : regionClosed s r m = true) (hchip : chipInSegment s r = false) :
    reloadDue s = reloadApply s r := by
  rw [reloadDue, hbusy]
  simp only [hclosed, hchip, Bool.true_eq_false, Bool.false_eq_true, if_false]

theorem reloadTimeout_held {u : Nat} (hbusy : s.folio.busy = .reload r m (some u)) (hdue : u ≤ nowNs s) (hchip : chipInSegment s r = true) :
    reloadTimeout s = { s with folio := { s.folio with busy := .none, redo := [], result := 0x07 } } := by
  rw [reloadTimeout, hbusy]
  simp only [hdue, hchip, and_self, if_true]
  rfl

end

end Sys2Proof.Machine

namespace Sys2Proof.Machine

/-! ## RELOAD of a region: the apply (R179) -/

/-- Between `s` and `t` the clocks, the CAN controllers, the maps, what the folio block says of the folio in force, and the workers
of which `p` holds stay. -/
structure Spares (p : Worker → Prop) (s t : State) : Prop where
  time : t.time = s.time
  wheel : t.wheel = s.wheel
  can : t.can = s.can
  maps : ∀ q, (rgOf t q).map = (rgOf s q).map
  active : t.folio.active = s.folio.active
  codeLen : t.folio.codeLen = s.folio.codeLen
  workers : ∀ w, p w → wkOf t w = wkOf s w

section
variable {p : Worker → Prop} {s t u : State} {w : Worker} {r : Region}

theorem Spares.refl (s : State) : Spares p s s := ⟨rfl, rfl, rfl, fun _ => rfl, rfl, rfl, fun _ _ => rfl⟩
theorem Spares.trans (h : Spares p s t) (g : Spares p t u) : Spares p s u :=
  ⟨g.time.trans h.time, g.wheel.trans h.wheel, g.can.trans h.can, fun q => (g.maps q).trans (h.maps q), g.active.trans h.active,
    g.codeLen.trans h.codeLen, fun w hw => (g.workers w hw).trans (h.workers w hw)⟩
theorem Spares.ite {c : Prop} [Decidable c] (ht : Spares p s t) (hu : Spares p s u) : Spares p s (if c then t else u) := by
  split <;> assumption

/-- A loop each of whose steps spares what the loop has spared so far. -/
theorem Spares.foldl_of {α : Type} {f : State → α → State} (h : ∀ t x, Spares p s t → Spares p t (f t x)) (l : List α) (ht : Spares p s t) :
    Spares p s (l.foldl f t) := by
  induction l generalizing t with
  | nil => exact ht
  | cons x l ih => exact ih (ht.trans (h t x ht))

theorem spares_foldl {α : Type} (l : List α) (f : State → α → State) (h : ∀ t x, Spares p t (f t x)) (s : State) : Spares p s (l.foldl f s) :=
  .foldl_of (fun t x _ => h t x) l (.refl s)

/-! ### Parts of the state -/

theorem spares_logs (h : OnlyLogs s t) : Spares p s t := by
  obtain ⟨v, rfl⟩ := h
  exact ⟨rfl, rfl, rfl, fun _ => rfl, rfl, rfl, fun _ _ => rfl⟩

theorem spares_cfgSet (s : State) (id : Nat) (v : Word) : Spares p s (cfgSet s id v) := ⟨rfl, rfl, rfl, fun _ => rfl, rfl, rfl, fun _ _ => rfl⟩
theorem spares_modMem (s : State) (f : MemSt → MemSt) : Spares p s (modMem s f) := ⟨rfl, rfl, rfl, fun _ => rfl, rfl, rfl, fun _ _ => rfl⟩
theorem spares_setCh (s : State) (c : Chan) (x : ChanSt) : Spares p s (setCh s c x) := ⟨rfl, rfl, rfl, fun _ => rfl, rfl, rfl, fun _ _ => rfl⟩
theorem spares_modFolio (s : State) {f : FolioSt → FolioSt} (hactive : (f s.folio).active = s.folio.active)
    (hcode : (f s.folio).codeLen = s.folio.codeLen) : Spares p s (modFolio s f) := ⟨rfl, rfl, rfl, fun _ => rfl, hactive, hcode, fun _ _ => rfl⟩
theorem spares_setWk (hw : ¬p w) (s : State) (k : WorkerSt) : Spares p s (setWk s w k) :=
  ⟨rfl, rfl, rfl, fun _ => rfl, rfl, rfl, fun _ hv => wkOf_setWk_ne _ _ _ _ fun h => hw (h ▸ hv)⟩
theorem spares_modRg (s : State) (r : Region) {f : RegionSt → RegionSt} (hmap : ∀ x, (f x).map = x.map) : Spares p s (modRg s r f) := by
  refine ⟨rfl, rfl, rfl, fun q => ?_, rfl, rfl, fun _ _ => rfl⟩
  by_cases hq : q = r
  · rw [hq, rgOf_modRg, hmap]
  · rw [rgOf_modRg_ne _ _ _ _ hq]

/-! ### What a load does (R163-R165, R173-R175) -/

theorem spares_clampLoad (s : State) (subject given applied : Word) (scope : Half) (source reason : Byte) :
    Spares p s (clampLoad s subject given applied scope source reason) := spares_modFolio s rfl rfl

theorem spares_loadField (source : Byte) (n : Nat) (all : List Field) (s : State) (x : Nat × Field) : Spares p s (loadField source n all s x) := by
  have hset : ∀ v, Spares p s (cfgSet s x.2.id v) := fun v => spares_cfgSet ..
  unfold loadField
  exact .ite (.refl s) (.ite (spares_clampLoad ..) (.ite (spares_clampLoad ..) (.ite ((hset _).trans (spares_clampLoad ..))
    (.ite (spares_clampLoad ..) (hset _)))))

theorem spares_loadPairs (source : Byte) (l : List Field) (s : State) (ok : Nat → Bool) : Spares p s (loadPairs source l s ok) :=
  spares_foldl _ _ (fun t _ => .ite ((((spares_cfgSet t _ _).trans (spares_cfgSet ..)).trans (spares_clampLoad ..)).trans (spares_clampLoad ..))
    (.refl t)) s

theorem spares_loadTables (s : State) (b : List Byte) (only : Option Nat) : Spares p s (loadTables' s b only) :=
  spares_foldl _ _ (fun t _ => .ite (spares_modMem ..) (.refl t)) s

theorem spares_loadChan (source : Byte) (b : List Byte) (s : State) (c : Chan) : Spares p s (loadChan source b s c) := by
  unfold loadChan
  exact .ite ((spares_modFolio s rfl rfl).trans (spares_foldl _ _ (fun _ _ => spares_clampLoad ..) _))
    ((spares_modFolio s rfl rfl).trans (spares_clampLoad ..))

theorem spares_bankUpdate (s : State) (c : Chan) : Spares p s (bankUpdate s c) := by
  obtain ⟨y, hy, -⟩ := bankUpdate_eq s c
  rw [hy]
  exact spares_setCh ..

theorem spares_bankUpdateAll (s : State) : Spares p s (bankUpdateAll s) := spares_foldl _ _ (fun t c => spares_bankUpdate t c) s

theorem spares_loadEvent (s : State) (w : Worker) (reason : Nat) (scope : Half) : Spares p s (loadEvent s w reason scope) :=
  spares_logs (onlyLogs_emit ..)

theorem spares_loadWorker (hw : ¬p w) (source : Byte) (s : State) (e : List Byte) : Spares p s (loadWorker source s w e) := by
  have hempty : Spares p s (setWk s w (unloaded s w)) := spares_setWk hw s _
  unfold loadWorker
  extract_lets entry sc note s0 prio rmax s1 bud s2 base off len d s3 s4 s5 s6
  have hnote : ∀ (t : State) (a b : Nat) (k : Byte), Spares p t (note t a b k) := fun t a b k => spares_clampLoad ..
  have hevent : ∀ reason, Spares p s (loadEvent s0 w reason sc) := fun reason => hempty.trans (spares_loadEvent ..)
  have h1 : Spares p s s1 := hempty.trans (.ite (hnote ..) (.refl s0))
  have h2 : Spares p s s2 := h1.trans (.ite (.refl s1) (hnote ..))
  have h3 : Spares p s s3 := h2.trans (.ite (hnote ..) (.refl s2))
  have h4 : Spares p s s4 := h3.trans (.ite (hnote ..) (.refl s3))
  have h5 : Spares p s s5 := h4.trans (.ite (hnote ..) (.refl s4))
  have h6 : Spares p s s6 := h5.trans (.ite (hnote ..) (.refl s5))
  exact .ite hempty (.ite (hevent 1) (.ite (hevent 2) (.ite (hevent 3) (h6.trans (spares_setWk hw s6 _)))))

theorem spares_missingWorker (hw : ¬p w) (source : Byte) (s : State) : Spares p s (missingWorker source s w) :=
  (spares_setWk hw s _).trans (spares_clampLoad ..)

theorem spares_startLoaded (hw : ¬p w) (s : State) (b : List Byte) : Spares p s (startLoaded s b w) := by
  unfold startLoaded
  split
  · exact .ite (spares_setWk hw s _) (.refl s)
  · exact .refl s

theorem spares_drainWorker (s : State) (w : Worker) : Spares p s (drainWorker s w) := by
  obtain ⟨c, hs⟩ := drainWorker_eq s w
  rw [hs]
  exact ⟨rfl, rfl, rfl, fun _ => rfl, rfl, rfl, fun _ _ => rfl⟩

theorem spares_leaveWorker (hw : ¬p w) (s : State) (st : WkState) : Spares p s (leaveWorker s w st) := by
  have hquantum : Spares p s (loseQuantum s w) := ⟨rfl, rfl, rfl, fun _ => rfl, rfl, rfl, fun _ _ => rfl⟩
  have hrest : ∀ t crypto, Spares p t { dropSnaps (freeSlots t w) (.worker w) with crypto := crypto } := fun _ _ =>
    ⟨rfl, rfl, rfl, fun _ => rfl, rfl, rfl, fun _ _ => rfl⟩
  exact ((hquantum.trans (spares_drainWorker ..)).trans (hrest _ _)).trans (spares_setWk hw _ _)

theorem spares_unloadWorker (hw : ¬p w) (s : State) : Spares p s (unloadWorker s w) :=
  ((spares_setWk hw s _).trans (spares_leaveWorker hw _ _)).trans (spares_setWk hw _ _)

theorem spares_limitsDue (s : State) (r : Region) :
    Spares p s (modRg s r fun x => (hopList x).foldl (fun x h => setHop x h fun y => { y with limitsDue := true }) x) := by
  refine spares_modRg s r fun x => ?_
  generalize hopList x = l
  induction l generalizing x with
  | nil => rfl
  | cons h l ih => exact ih _

/-! ### The steps of R179 -/

/-- The WORKERS section `ws` gives the worker the scope of region r. -/
def ComesTo (ws : List Byte) (r : Region) (w : Worker) : Prop := ∃ e, workerEntry ws w = some e ∧ natAt e 4 2 = (regionScope r).toNat

/-- The workers that a reload of region r with the WORKERS section `ws` leaves alone. -/
def Stays (s : State) (ws : List Byte) (r : Region) (w : Worker) : Prop := (wkOf s w).scope ≠ regionScope r ∧ ¬ComesTo ws r w

theorem reloadApply_leaves (s : State) (r : Region) :
    let t := reloadApply s r
    let new := slotBytes s.folio (!s.folio.active)
    t.folio.busy = .none ∧ t.folio.result = 0 ∧ t.folio.active = !s.folio.active ∧ t.folio.runVer = BitVec.ofNat 32 (natAt new 8 4)
      ∧ t.folio.codeLen = (sect' new 0).length ∧ t.time = s.time ∧ t.wheel = s.wheel ∧ t.can = s.can
      ∧ (∀ q, (rgOf t q).map = (rgOf s q).map) ∧ ∀ w, (wkOf s w).scope ≠ regionScope r → ¬ComesTo (sect' new 1) r w → wkOf t w = wkOf s w := by
  intro t new
  unfold t reloadApply
  extract_lets f b ws mine gone s1 s2 s3 l group s4 s5 s6 s7 s8 s9 isNew s10 s11 s12 s13
  have hmine : ∀ u w, Spares (Stays s ws r) s u → mine u w = true → ¬Stays s ws r w := fun u w hu hm hstays =>
    hstays.1 (by rw [← hu.workers w hstays]; exact eq_of_beq (Bool.and_eq_true_iff.mp hm).1)
  have hnew : ∀ w, isNew w = true → ¬Stays s ws r w := fun w hw hstays => by
    unfold isNew at hw
    split at hw
    · next e he => exact hstays.2 ⟨e, he, eq_of_beq hw⟩
    · cases hw
  have hleft : ∀ w, gone.contains w = true → ¬Stays s ws r w := fun w hw =>
    hmine s w (.refl s) (Bool.and_eq_true_iff.mp (List.mem_filter.mp (List.contains_iff_mem.mp hw)).2).1
  have h1 : Spares (Stays s ws r) s s1 := .foldl_of (fun u w hu => by
    dsimp only
    split
    · next hm => exact spares_unloadWorker (hmine u w hu hm) u
    · exact .refl u) _ (.refl s)
  clear_value s1
  have h3 : Spares (Stays s ws r) s2 s3 := spares_loadTables ..
  have h4 : Spares (Stays s ws r) s2 s4 := h3.trans ⟨rfl, rfl, rfl, fun _ => rfl, rfl, rfl, fun _ _ => rfl⟩
  have h5 : Spares (Stays s ws r) s2 s5 := h4.trans (spares_foldl _ _ (fun u x => .ite (spares_loadField ..) (.refl u)) s4)
  have h6 : Spares (Stays s ws r) s2 s6 := h5.trans (spares_loadPairs ..)
  have h7 : Spares (Stays s ws r) s2 s7 := h6.trans (spares_foldl _ _ (fun u x => spares_cfgSet ..) s6)
  have h8 : Spares (Stays s ws r) s2 s8 := h7.trans (spares_foldl _ _ (fun u c => .ite (spares_loadChan ..) (.refl u)) s7)
  have h9 : Spares (Stays s ws r) s2 s9 := h8.trans (spares_bankUpdateAll s8)
  have h10 : Spares (Stays s ws r) s2 s10 := h9.trans (spares_foldl _ _ (fun u w => by
    dsimp only
    split
    · split
      · next hw => exact spares_loadWorker (hnew w hw) _ u _
      · exact .refl u
    · split
      · next hw => exact spares_missingWorker (hleft w hw) _ u
      · exact .refl u) s9)
  have h11 : Spares (Stays s ws r) s2 s11 := h10.trans (spares_foldl _ _ (fun u w => by
    dsimp only
    split
    · next hw => exact spares_startLoaded (hnew w hw) u ws
    · exact .refl u) s10)
  have h12 : Spares (Stays s ws r) s2 s12 := h11.trans (spares_limitsDue s11 r)
  clear_value s12
  obtain ⟨v, hv⟩ : OnlyLogs s13 (reportFull s13 true) := .ite (onlyLogs_emit ..) (.refl s13)
  rw [hv]
  refine ⟨rfl, rfl, ?_, rfl, h12.codeLen, h12.time.trans h1.time, h12.wheel.trans h1.wheel, h12.can.trans h1.can,
    fun q => (h12.maps q).trans (h1.maps q), fun w hscope hcomes => (h12.workers w ⟨hscope, hcomes⟩).trans (h1.workers w ⟨hscope, hcomes⟩)⟩
  exact congrArg not (h12.active.trans h1.active)

end

end Sys2Proof.Machine

namespace Sys2Proof.Machine

/-- Settles O38: each command is the equation of its row. That RELOAD is refused where the twin's HELLO told another folio is the
reading of log entry 32, and that VERIFY waits for the RSA unit that of log entry 5. -/
theorem folioCommands : Obligations.FolioCommands := by
  unfold Obligations.FolioCommands
  intro s k r m stop' hrun f len image good active other marked ended becomes written new comes
  have hother : slotState f (!f.active) = other := slotState_not f f.active
  refine ⟨fun hop hbusy => ⟨fun hlen => ?_, fun htrial hverified => ?_, fun htrial => ?_, fun hvalid => ?_, fun hvalid hr hpresent hsame => ?_,
    fun hinvalid hr => ?_, fun hvalid hr => ⟨fun hdiff => ?_, fun hsame hpresent htwin => ?_⟩⟩, fun hbusy hserves => ?_, fun hidle => ?_,
    fun hbusy => ?_, fun hbusy hclosed hchip => ?_, fun hbusy hclosed hchip => ?_, fun hbusy hclosed => ?_, fun u hbusy hdue hchip => ?_⟩
  · exact (folioRow_operator hrun hop 0x10 1).trans (congrArg _ (folioVerify_idle hbusy hlen))
  · exact (folioRow_operator hrun hop 0x10 2).trans (congrArg _ (writeSlot_idle hbusy htrial hverified))
  · exact (folioRow_operator hrun hop 0x10 4).trans (congrArg _ (folioConfirm_trial hbusy htrial))
  · exact folioActivate_ends hrun hop hbusy (hother.trans hvalid)
  · obtain ⟨v, hv⟩ := reloadStart_waits hbusy (hother.trans hvalid) hsame hpresent
    exact ⟨_, (exec_reload_operator hrun hop hr).trans (congrArg _ hv), rfl⟩
  · exact (exec_reload_operator hrun hop hr).trans (congrArg _ (reloadStart_unwritten hbusy (fun h => hinvalid (hother.symm.trans h))))
  · exact (exec_reload_operator hrun hop hr).trans (congrArg _ (reloadStart_differs hbusy (hother.trans hvalid) hdiff))
  · exact (exec_reload_operator hrun hop hr).trans
      (congrArg _ (reloadStart_mismatch hbusy (hother.trans hvalid) hsame hpresent htwin))
  · exact (run_running _ hrun).trans (congrArg _ (folioVerifyDone_served hbusy hserves))
  · exact (run_running _ hrun).trans (congrArg _ (folioVerifyDone_unserved hidle))
  · exact (run_running _ hrun).trans (congrArg _ (writeSlotDone_writing hbusy))
  · exact ⟨_, (run_running _ hrun).trans (congrArg _ (reloadDue_applies hbusy hclosed hchip)), reloadApply_leaves s r⟩
  · exact (run_running _ hrun).trans (congrArg _ (reloadDue_held hbusy hclosed hchip))
  · exact (run_running _ hrun).trans (congrArg _ (reloadDue_unclosed hbusy hclosed))
  · exact (run_running _ hrun).trans (congrArg _ (reloadTimeout_held hbusy hdue hchip))

end Sys2Proof.Machine

namespace Sys2Proof.Machine

/-! ## Changes of fraction and HUSH that wait for their sweep (R176, R221, R230) -/

section
variable {s t : State}

theorem sweep_of_logs (h : OnlyLogs s t) : t.sweep = s.sweep := by
  obtain ⟨v, rfl⟩ := h
  rfl

/-! ### A CAN register that takes a value leaves the sweep block (R411) -/

@[simp] theorem clampReg_sweep (s : State) (who : Writer) (addr : Nat) (given applied : Word) (reason : Byte) :
    (clampReg s who addr given applied reason).sweep = s.sweep := rfl
@[simp] theorem emitCan_sweep (s : State) (n : Fin 4) (level e : Nat) (marked : Bool) (args : Word) :
    (emitCan s n level e marked args).sweep = s.sweep := sweep_of_logs (onlyLogs_emit ..)
@[simp] theorem txDrop_sweep (s : State) (n : Fin 4) (p : TxEntry → Bool) : (txDrop s n p).sweep = s.sweep := rfl
@[simp] theorem setFilterId_sweep (s : State) (n : Fin 4) (f : Fin 64) (v : Word) : (setFilterId s n f v).sweep = s.sweep := rfl

@[simp] theorem canEnter_sweep (s : State) (n : Fin 4) (st : CanState) : (canEnter s n st).sweep = s.sweep := by
  unfold canEnter
  dsimp only
  split <;> simp

@[simp] theorem canApplyMode_sweep (s : State) (n : Fin 4) : (canApplyMode s n).sweep = s.sweep := by
  unfold canApplyMode
  dsimp only
  split
  · simp
  · simp
  · split <;> simp

@[simp] theorem canRecoverNow_sweep (s : State) (n : Fin 4) : (canRecoverNow s n).sweep = s.sweep := by
  unfold canRecoverNow
  split <;> simp

@[simp] theorem canFlushQueue_sweep (s : State) (n : Fin 4) : (canFlushQueue s n).sweep = s.sweep := by
  unfold canFlushQueue
  dsimp only
  split <;> simp

@[simp] theorem canClashEmpty_sweep (s : State) (n : Fin 4) : (canClashEmpty s n).sweep = s.sweep := by
  unfold canClashEmpty
  dsimp only
  split <;> simp

@[simp] theorem setCanMode_sweep (s : State) (who : Writer) (n : Fin 4) (mode : BitVec 4) : (setCanMode s who n mode).sweep = s.sweep := by
  unfold setCanMode
  dsimp only
  (repeat' split) <;> simp

@[simp] theorem setCanBt_sweep (s : State) (who : Writer) (n : Fin 4) (dataPhase : Bool) (v : Word) :
    (setCanBt s who n dataPhase v).sweep = s.sweep := by
  unfold setCanBt
  dsimp only
  (repeat' split) <;> simp

theorem canPut_sweep (s : State) (who : Writer) (n : Fin 4) (off : Nat) (v : Word) : (canPut s who n off v).sweep = s.sweep := by
  unfold canPut
  dsimp only
  (repeat' split) <;> simp

end

end Sys2Proof.Machine

namespace Sys2Proof.Machine

/-! ### What a change of fraction or HUSH touches (R221, R225, R230) -/

/-- The fraction and HUSH, in force and waiting. -/
structure SweepSettings where
  frac : BitVec 24
  hush : Nat
  fracNext : List (Word × BitVec 24)
  hushNext : List (Word × Nat)

def sweepSettings (s : State) : SweepSettings := ⟨s.sweep.frac, s.sweep.hush, s.sweep.fracNext, s.sweep.hushNext⟩

/-- Between `s` and `t` the sweep block and the regions alone change, and what raising an event touches. -/
def OnlySweep (s t : State) : Prop := ∃ v, t = { Logged s v with sweep := v.sweep, region := v.region }

/-- No register write that waits would take effect with a change that is due now. -/
def Quiet (s : State) : Prop := nextBegun s = true ∨ ∀ x ∈ s.sweep.regNext, sweepReached s.sweep.nextNum x.1 = false

section
variable {s t u : State}

theorem OnlySweep.refl (s : State) : OnlySweep s s := ⟨s, rfl⟩
theorem OnlySweep.trans (h : OnlySweep s t) (g : OnlySweep t u) : OnlySweep s u := by
  obtain ⟨v, rfl⟩ := h
  obtain ⟨x, rfl⟩ := g
  exact ⟨x, rfl⟩
theorem onlySweep_logs (h : OnlyLogs s t) : OnlySweep s t := by
  obtain ⟨v, rfl⟩ := h
  exact ⟨Logged s v, rfl⟩

theorem sweepSettings_of_logs (h : OnlyLogs s t) : sweepSettings t = sweepSettings s := by rw [sweepSettings, sweep_of_logs h, sweepSettings]

theorem forRegions_region (f : Region → State → State) (h : ∀ r s, ∃ region, f r s = { s with region := region }) (s : State) :
    ∃ region, forRegions s f = { s with region := region } := by
  unfold forRegions
  induction List.finRange 16 generalizing s with
  | nil => exact ⟨s.region, rfl⟩
  | cons r l ih =>
    obtain ⟨region, hr⟩ := h r s
    obtain ⟨region', hl⟩ := ih (f r s)
    exact ⟨region', by rw [List.foldl_cons, hl, hr]⟩

theorem refit_eq (s : State) : ∃ region, refit s = { s with sweep := { s.sweep with minN := minCycles s }, region := region } :=
  forRegions_region _ (fun _ _ => ⟨_, rfl⟩) _

theorem onlySweep_hushTake (s : State) (h : Nat) : OnlySweep s (hushTake s h) := by
  obtain ⟨region, hs⟩ := refit_eq { s with sweep := { s.sweep with hush := h } }
  exact ⟨hushTake s h, by rw [hushTake, hs]; rfl⟩

theorem sweepSettings_hushTake (s : State) (h : Nat) : sweepSettings (hushTake s h) = { sweepSettings s with hush := h } := by
  obtain ⟨region, hs⟩ := refit_eq { s with sweep := { s.sweep with hush := h } }
  rw [hushTake, hs]
  rfl

theorem onlyLogs_fracEvents (s : State) (a b : BitVec 24) : OnlyLogs s (fracEvents s a b) := (onlyLogs_emitTime ..).trans (onlyLogs_emitTime ..)

theorem onlySweep_fracTake (s : State) (f : BitVec 24) : OnlySweep s (fracTake s f) := by
  unfold fracTake
  extract_lets w q
  split
  · exact .refl s
  · exact .trans ⟨{ s with sweep := { w with frac := f, nextCycle := q } }, rfl⟩ (onlySweep_logs (onlyLogs_fracEvents ..))

theorem sweepSettings_fracTake (s : State) (f : BitVec 24) : sweepSettings (fracTake s f) = { sweepSettings s with frac := f } := by
  unfold fracTake
  extract_lets w q
  split
  · next h => rw [h]; rfl
  · exact sweepSettings_of_logs (onlyLogs_fracEvents ..)

theorem sweepSettings_adapt (s : State) (before : Nat) : sweepSettings (adapt s before) = sweepSettings s := by
  unfold adapt
  dsimp only
  (repeat' split) <;> rfl

theorem sweepSettings_archPut (s : State) (who : Option Writer) (a : Nat) (v : Word) : sweepSettings (archPut s who a v) = sweepSettings s := by
  unfold archPut
  split
  · rfl
  · split
    · unfold archAck
      rw [sweepSettings_adapt]
      split
      · split <;> rfl
      · rfl
    · rfl

theorem sweepSettings_regPut (s : State) (who : Option Writer) (a : Nat) (v : Word) : sweepSettings (regPut s who a v) = sweepSettings s := by
  unfold regPut
  split
  · rw [sweepSettings, canPut_sweep, sweepSettings]
  · exact sweepSettings_archPut ..

/-! ### Changes that are due -/

/-- The value after what waits for a sweep that `n` has reached: the last of it, or the value as it was. -/
def lastDue {α : Type} (n : Word) (l : List (Word × α)) (x : α) : α := ((l.filter fun y => sweepReached n y.1).getLast?.map (·.2)).getD x

/-- What still waits once sweep `n` is next. -/
def notDue {α : Type} (n : Word) (l : List (Word × α)) : List (Word × α) := l.filter fun y => !(sweepReached n y.1)

theorem lastDue_append {α : Type} {n m : Word} (hdue : sweepReached n m = true) (l : List (Word × α)) (x y : α) :
    lastDue n (l ++ [(m, x)]) y = x := by
  simp [lastDue, hdue]

theorem mem_notDue_append {α : Type} {n m : Word} (hdue : sweepReached n m = false) (l : List (Word × α)) (x : α) :
    (m, x) ∈ notDue n (l ++ [(m, x)]) := by
  simp [notDue, hdue]

theorem sweepChanges_begun (h : nextBegun s = true) : sweepChanges s = s := if_pos h

/-- Before a frame of the next sweep has begun, what is due takes effect and the rest goes on waiting. -/
theorem sweepSettings_sweepChanges (h : nextBegun s = false) : sweepSettings (sweepChanges s) =
    ⟨lastDue s.sweep.nextNum s.sweep.fracNext s.sweep.frac, lastDue s.sweep.nextNum s.sweep.hushNext s.sweep.hush,
      notDue s.sweep.nextNum s.sweep.fracNext, notDue s.sweep.nextNum s.sweep.hushNext⟩ := by
  rw [sweepChanges, if_neg (ne_true_of_eq_false h)]
  extract_lets w n s1 s2 s3
  have h1 : sweepSettings s1 = ⟨w.frac, w.hush, notDue n w.fracNext, notDue n w.hushNext⟩ := rfl
  have h2 : sweepSettings s2 = { sweepSettings s1 with hush := lastDue n w.hushNext w.hush } := by
    unfold s2 lastDue
    split
    · next x hx => rw [hx]; exact sweepSettings_hushTake ..
    · next hx => rw [hx]; rfl
  have h3 : sweepSettings s3 = { sweepSettings s2 with frac := lastDue n w.fracNext w.frac } := by
    unfold s3 lastDue
    split
    · next x hx => rw [hx]; exact sweepSettings_fracTake ..
    · next hx => rw [hx, h2]; rfl
  have hregs : ∀ (l : List (Word × Option Writer × Nat × Word)) (t : State),
      sweepSettings (l.foldl (fun s x => regPut s x.2.1 x.2.2.1 x.2.2.2) t) = sweepSettings t := fun l => by
    induction l with
    | nil => exact fun _ => rfl
    | cons x l ih => exact fun t => (ih _).trans (sweepSettings_regPut ..)
  rw [hregs, h3, h2, h1]

theorem onlySweep_sweepChanges (h : Quiet s) : OnlySweep s (sweepChanges s) := by
  cases hbegun : nextBegun s with
  | true =>
    rw [sweepChanges_begun hbegun]
    exact .refl s
  | false =>
    have hregs : (s.sweep.regNext.filter fun x => sweepReached s.sweep.nextNum x.1) = [] :=
      List.filter_eq_nil_iff.mpr fun x hx => ne_true_of_eq_false ((h.resolve_left (ne_true_of_eq_false hbegun)) x hx)
    rw [sweepChanges, if_neg (ne_true_of_eq_false hbegun)]
    extract_lets w n s1 s2 s3
    have h1 : OnlySweep s s1 := ⟨s1, rfl⟩
    have h2 : OnlySweep s1 s2 := by
      unfold s2
      split
      · exact onlySweep_hushTake ..
      · exact .refl s1
    have h3 : OnlySweep s2 s3 := by
      unfold s3
      split
      · exact onlySweep_fracTake ..
      · exact .refl s2
    rw [hregs]
    exact (h1.trans h2).trans h3

end

end Sys2Proof.Machine

namespace Sys2Proof.Machine

/-! ## A field that waits for its sweep (R173, R176) -/

/-- A fraction or a HUSH given for sweep m comes: with its frame where one of the next sweep has begun, else at once where the next
sweep is m; another field waits outside the sweep block. -/
def Comes (s t : State) (m : Word) (id : Nat) (x : Word) : Prop :=
  (id = 0x1002 → (nextBegun s = true → t.sweep = { s.sweep with fracNext := s.sweep.fracNext ++ [(m, x.setWidth 24)] })
      ∧ (nextBegun s = false → if sweepReached s.sweep.nextNum m then t.sweep.frac = x.setWidth 24 else (m, x.setWidth 24) ∈ t.sweep.fracNext))
    ∧ (id = 0x1003 → (nextBegun s = true → t.sweep = { s.sweep with hushNext := s.sweep.hushNext ++ [(m, x.toNat)] })
      ∧ (nextBegun s = false → if sweepReached s.sweep.nextNum m then t.sweep.hush = x.toNat else (m, x.toNat) ∈ t.sweep.hushNext))
    ∧ (id ≠ 0x1002 → id ≠ 0x1003 → t.sweep = s.sweep ∧ t.region = s.region)

/-- But for the sweep block and the regions, the module is `s` with folio block `g`, the clamp ring apart, and what raising an event
touches; for a change of fraction or HUSH, where no register write takes effect with it. -/
def Framed (s t : State) (id : Nat) (g : FolioSt) : Prop :=
  (id = 0x1002 ∨ id = 0x1003 → Quiet s) → t = { Logged s t with folio := { g with clamp := t.folio.clamp }, sweep := t.sweep, region := t.region }

section
variable {s t : State} {m : Word} {id : Nat} {x : Word} {n : Nat}

theorem Comes.logs {u : State} (h : Comes s t m id x) (hu : OnlyLogs t u) : Comes s u m id x := by
  obtain ⟨v, rfl⟩ := hu
  exact h

/-- A field has joined those that wait; the same with a change of fraction, or of HUSH, that waits for its sweep. -/
def fieldQueued (s : State) (p : PendingField) : State := modFolio s fun f => { f with pendingFields := f.pendingFields ++ [p] }
def fracQueued (s : State) (p : PendingField) : State :=
  { fieldQueued s p with sweep := { s.sweep with fracNext := s.sweep.fracNext ++ [(p.sweep, p.value.setWidth 24)] } }
def hushQueued (s : State) (p : PendingField) : State :=
  { fieldQueued s p with sweep := { s.sweep with hushNext := s.sweep.hushNext ++ [(p.sweep, p.value.toNat)] } }

theorem fieldWait_frac (s : State) (m : Word) (n : Nat) (given v : Word) (reason : Byte) :
    fieldWait s m n 0x1002 given v reason = sweepChanges (fracQueued s ⟨m, 0x1002, given, v, reason, n⟩) := rfl
theorem fieldWait_hush (s : State) (m : Word) (n : Nat) (given v : Word) (reason : Byte) :
    fieldWait s m n 0x1003 given v reason = sweepChanges (hushQueued s ⟨m, 0x1003, given, v, reason, n⟩) := rfl
theorem fieldWait_other (hfrac : id ≠ 0x1002) (hhush : id ≠ 0x1003) (s : State) (m : Word) (n : Nat) (given v : Word) (reason : Byte) :
    fieldWait s m n id given v reason = fieldQueued s ⟨m, id, given, v, reason, n⟩ := by
  rw [fieldWait, if_neg hfrac, if_neg hhush]
  rfl

theorem fracQueued_comes (h : nextBegun s = false) (p : PendingField) : let t := sweepChanges (fracQueued s p)
    if sweepReached s.sweep.nextNum p.sweep then t.sweep.frac = p.value.setWidth 24 else (p.sweep, p.value.setWidth 24) ∈ t.sweep.fracNext := by
  intro t
  have hset := sweepSettings_sweepChanges (s := fracQueued s p) h
  split
  · next hdue => exact (congrArg SweepSettings.frac hset).trans (lastDue_append hdue ..)
  · next hdue =>
    have hnext : t.sweep.fracNext = notDue s.sweep.nextNum (fracQueued s p).sweep.fracNext := congrArg SweepSettings.fracNext hset
    rw [hnext]
    exact mem_notDue_append (Bool.eq_false_of_not_eq_true hdue) ..

theorem hushQueued_comes (h : nextBegun s = false) (p : PendingField) : let t := sweepChanges (hushQueued s p)
    if sweepReached s.sweep.nextNum p.sweep then t.sweep.hush = p.value.toNat else (p.sweep, p.value.toNat) ∈ t.sweep.hushNext := by
  intro t
  have hset := sweepSettings_sweepChanges (s := hushQueued s p) h
  split
  · next hdue => exact (congrArg SweepSettings.hush hset).trans (lastDue_append hdue ..)
  · next hdue =>
    have hnext : t.sweep.hushNext = notDue s.sweep.nextNum (hushQueued s p).sweep.hushNext := congrArg SweepSettings.hushNext hset
    rw [hnext]
    exact mem_notDue_append (Bool.eq_false_of_not_eq_true hdue) ..

theorem comes_fieldWait (s : State) (m : Word) (n id : Nat) (given v : Word) (reason : Byte) :
    Comes s (fieldWait s m n id given v reason) m id v := by
  refine ⟨?_, ?_, fun hfrac hhush => by rw [fieldWait_other hfrac hhush]; exact ⟨rfl, rfl⟩⟩
  · rintro rfl
    exact ⟨fun h => congrArg State.sweep (sweepChanges_begun (s := fracQueued s _) h), fun h => fracQueued_comes h ⟨m, 0x1002, given, v, reason, n⟩⟩
  · rintro rfl
    exact ⟨fun h => congrArg State.sweep (sweepChanges_begun (s := hushQueued s _) h), fun h => hushQueued_comes h ⟨m, 0x1003, given, v, reason, n⟩⟩

theorem onlySweep_fieldWait (hquiet : id = 0x1002 ∨ id = 0x1003 → Quiet s) (m : Word) (n : Nat) (given v : Word) (reason : Byte) :
    OnlySweep (fieldQueued s ⟨m, id, given, v, reason, n⟩) (fieldWait s m n id given v reason) := by
  by_cases hfrac : id = 0x1002
  · subst hfrac
    exact .trans ⟨fracQueued s _, rfl⟩ (onlySweep_sweepChanges (s := fracQueued s ⟨m, 0x1002, given, v, reason, n⟩) (hquiet (.inl rfl)))
  · by_cases hhush : id = 0x1003
    · subst hhush
      exact .trans ⟨hushQueued s _, rfl⟩ (onlySweep_sweepChanges (s := hushQueued s ⟨m, 0x1003, given, v, reason, n⟩) (hquiet (.inr rfl)))
    · rw [fieldWait_other hfrac hhush]
      exact .refl _

theorem pairSend_arb (s : State) (z : TwinOut) : (pairSend s z).arb = s.arb := by
  unfold pairSend
  split <;> rfl
theorem pairSend_folio (s : State) (z : TwinOut) : (pairSend s z).folio = s.folio := by
  unfold pairSend
  split <;> rfl

/-- What a submission does to the module once its field is checked: `g` is the folio block by then. -/
theorem fieldWait_sent (s : State) (g : FolioSt) (m : Word) (n id : Nat) (given v : Word) (reason : Byte) (z : TwinOut) :
    let t := pairSend (fieldWait { number s with folio := g } m n id given v reason) z
    Framed s t id { g with pendingFields := g.pendingFields ++ [⟨m, id, given, v, reason, n⟩] } ∧ Comes s t m id v
      ∧ (id ≠ 0x1002 → id ≠ 0x1003 → t.arb = (number s).arb ∧ t.folio.clamp = g.clamp) := by
  intro t
  have hsend : OnlyLogs (fieldWait { number s with folio := g } m n id given v reason) t := onlyLogs_pairSend ..
  refine ⟨fun hquiet => ?_, (comes_fieldWait { number s with folio := g } m n id given v reason).logs hsend, fun hfrac hhush => ?_⟩
  · obtain ⟨y, ht⟩ := (onlySweep_fieldWait (s := { number s with folio := g }) hquiet m n given v reason).trans (onlySweep_logs hsend)
    rw [ht]
    rfl
  · unfold t
    rw [pairSend_arb, pairSend_folio, fieldWait_other hfrac hhush]
    exact ⟨rfl, rfl⟩

end

end Sys2Proof.Machine

namespace Sys2Proof.Machine

/-! ### SET_FIELD_HI (R173, R175, R176) -/

section
variable {s : State} {k : Session} {who : Writer} {v hi y : Word} {e : Byte}

/-- The field that a write of SET_FIELD_HI submits. -/
def givenField (s : State) (k : Session) (hi : Word) : Field := fieldOf (bytesLE 4 (s.folio.fieldLo[k]).toNat ++ bytesLE 4 hi.toNat)

/-- The state with the submission numbered and counted, and its reason shown. -/
def submission (s : State) (e : Byte) : State :=
  { number s with folio := { s.folio with setReason := e, submitted := s.folio.submitted + 1 } }

theorem exec_settingsSubmit (hrun : Running s) (hop : isOperator s k = true) (hi : Word) :
    exec (.settingsSubmit k hi) s = .next (pairSend
      (fieldTake (submission s (fieldCheck s (givenField s k hi) true).2.2) (s.folio.submitted + 1) (givenField s k hi) (settingSweep s))
      (.forward (.setting (BitVec.ofNat 64 (hi.toNat * 4294967296 + (s.folio.fieldLo[k]).toNat)) (settingSweep s)))) :=
  folioRow_operator hrun hop 0x104 hi

theorem clampAdd_eq (s : State) (subject given applied : Word) (scope : Half) (source reason : Byte) :
    ∃ c, clampAdd s subject given applied scope source reason = { s with folio := { s.folio with clamp := c } }
      ∧ c.runCount = min 0xFFFF (s.folio.clamp.runCount + 1) := ⟨_, rfl, inc16_eq_min _⟩

/-- A field that passes its checks waits with its checked value, and is in the clamp ring where that is another one. -/
theorem fieldTake_accepted {f : Field} (hc : fieldCheck s f true = (y, true, e)) (n : Nat) (m : Word) :
    ∃ c, fieldTake s n f m = fieldWait { s with folio := { s.folio with clamp := c } } m n f.id f.v y e ∧ (e = 0 → c = s.folio.clamp) := by
  unfold fieldTake
  simp only [hc, if_true]
  by_cases he : e = 0
  · rw [if_pos he]
    exact ⟨s.folio.clamp, rfl, fun _ => rfl⟩
  · rw [if_neg he]
    exact ⟨_, rfl, fun h => absurd h he⟩

/-- A field that fails them is in the clamp ring alone. -/
theorem fieldTake_refused {f : Field} (hc : fieldCheck s f true = (y, false, e)) (he : e ≠ 0) (n : Nat) (m : Word) :
    ∃ c, fieldTake s n f m = { s with folio := { s.folio with clamp := c } } ∧ c.runCount = min 0xFFFF (s.folio.clamp.runCount + 1) := by
  unfold fieldTake
  simp only [hc, Bool.false_eq_true, if_false, if_neg he]
  exact clampAdd_eq ..

theorem fieldCheck_submission (s : State) (e : Byte) (f : Field) : fieldCheck (submission s e) f true = fieldCheck s f true := rfl

theorem settingsSubmit_accepted (hrun : Running s) (hop : isOperator s k = true) (hc : fieldCheck s (givenField s k hi) true = (y, true, e)) :
    let given := givenField s k hi
    let n := s.folio.submitted + 1
    Ends (.settingsSubmit k hi) s fun t =>
      Framed s t given.id { s.folio with
          setReason := e, submitted := n, pendingFields := s.folio.pendingFields ++ [⟨settingSweep s, given.id, given.v, y, e, n⟩] }
        ∧ Comes s t (settingSweep s) given.id y
        ∧ (given.id ≠ 0x1002 → given.id ≠ 0x1003 → t.arb = (number s).arb ∧ (e = 0 → t.folio.clamp = s.folio.clamp)) := by
  intro given n
  refine ⟨_, exec_settingsSubmit hrun hop hi, ?_⟩
  obtain ⟨c, htake, hclamp⟩ := fieldTake_accepted ((fieldCheck_submission s e _).trans hc) n (settingSweep s)
  rw [hc, htake]
  obtain ⟨hframed, hcomes, hkept⟩ := fieldWait_sent s { s.folio with setReason := e, submitted := n, clamp := c } (settingSweep s) n given.id
    given.v y e (.forward (.setting (BitVec.ofNat 64 (hi.toNat * 4294967296 + (s.folio.fieldLo[k]).toNat)) (settingSweep s)))
  refine ⟨hframed, hcomes, fun hfrac hhush => ?_⟩
  obtain ⟨harb, hsame⟩ := hkept hfrac hhush
  exact ⟨harb, fun he => hsame.trans (hclamp he)⟩

theorem settingsSubmit_refused (hrun : Running s) (hop : isOperator s k = true) (hc : fieldCheck s (givenField s k hi) true = (y, false, e))
    (he : e ≠ 0) : Ends (.settingsSubmit k hi) s fun t =>
      t = { Logged s t with folio := { s.folio with setReason := e, submitted := s.folio.submitted + 1, clamp := t.folio.clamp } }
        ∧ t.folio.clamp.runCount = min 0xFFFF (s.folio.clamp.runCount + 1) ∧ t.arb = (number s).arb := by
  refine ⟨_, exec_settingsSubmit hrun hop hi, ?_⟩
  rw [hc]
  obtain ⟨c, hc', hcount⟩ := fieldTake_refused ((fieldCheck_submission s e _).trans hc) he (s.folio.submitted + 1) (settingSweep s)
  rw [hc', pairSend_folio, pairSend_arb]
  obtain ⟨v, hv⟩ := onlyLogs_pairSend { submission s e with folio := { (submission s e).folio with clamp := c } }
    (.forward (.setting (BitVec.ofNat 64 (hi.toNat * 4294967296 + (s.folio.fieldLo[k]).toNat)) (settingSweep s)))
  rw [hv]
  exact ⟨rfl, hcount, rfl⟩

/-! ### SWEEP_FRAC and SWEEP_HUSH (R14, R221, R230) -/

theorem exec_sweepFracWrite (hrun : Running s) (hw : chipWriter s who = true) (v : Word) :
    exec (.sweepFracWrite who v) s = .next (sweepSetting s who 0x10404 0x1002 (v &&& 0x00FFFFFF)) :=
  writeRow_timeBlock (fun s => sweepSetting s who 0x10404 0x1002 (v &&& 0x00FFFFFF)) hrun hw (by decide) (by decide)

theorem exec_sweepHushWrite (hrun : Running s) (hw : chipWriter s who = true) (v : Word) :
    exec (.sweepHushWrite who v) s = .next (sweepSetting s who 0x10408 0x1003 v) :=
  writeRow_timeBlock (fun s => sweepSetting s who 0x10408 0x1003 v) hrun hw (by decide) (by decide)

theorem sweepSetting_eq {row : CatRow} {id : Nat} (who : Writer) (addr : Nat) (hrow : catalogue id = some row)
    (hc : checkValue row row.1 v = (y, e)) : ∃ c z, sweepSetting s who addr id v =
      pairSend (fieldWait { number s with folio := { s.folio with clamp := c } } (settingSweep s) 0 id v y e) z := by
  unfold sweepSetting
  simp only [hrow, hc]
  by_cases he : e = 0
  · rw [if_pos he]
    exact ⟨s.folio.clamp, _, rfl⟩
  · rw [if_neg he]
    exact ⟨_, _, rfl⟩

/-- An unsigned field without a step is taken to the nearer bound (R173). -/
theorem checkValue_unsigned (d lo hi : Int) (live : Nat) (v : Word) : checkValue (1, d, lo, hi, 1, live) 1 v =
    if (v.toNat : Int) < lo then (BitVec.ofInt 32 lo, 0x02) else if hi < (v.toNat : Int) then (BitVec.ofInt 32 hi, 0x03) else (v, 0) := by
  simp [checkValue]

theorem checkValue_frac (v : Word) : checkValue (1, 0, 0, 16777215, 1, 1) 1 (v &&& 0x00FFFFFF) = (v &&& 0x00FFFFFF, 0) := by
  have hle : (v &&& 0x00FFFFFF).toNat ≤ 16777215 := by
    rw [BitVec.toNat_and]
    exact Nat.and_le_right
  rw [checkValue_unsigned, if_neg (by omega), if_neg (by omega)]

theorem checkValue_hush (v : Word) : ∃ e, checkValue (1, 500, 200, 2000, 1, 1) 1 v = (BitVec.ofNat 32 (clampNat 200 2000 v.toNat), e)
    ∧ (BitVec.ofNat 32 (clampNat 200 2000 v.toNat) = v → e = 0) := by
  rw [checkValue_unsigned, clampNat]
  by_cases hlo : v.toNat < 200
  · rw [if_pos (by omega), if_pos hlo]
    exact ⟨0x02, rfl, fun h => absurd (congrArg BitVec.toNat h) (Nat.ne_of_gt hlo)⟩
  · by_cases hhi : 2000 < v.toNat
    · rw [if_neg (by omega), if_pos (by omega), if_neg hlo, if_pos hhi]
      exact ⟨0x03, rfl, fun h => absurd (congrArg BitVec.toNat h) (Nat.ne_of_lt hhi)⟩
    · rw [if_neg (by omega), if_neg (by omega), if_neg hlo, if_neg hhi, BitVec.ofNat_toNat, BitVec.setWidth_eq]
      exact ⟨0, rfl, fun _ => rfl⟩

/-- A write of either register leaves a field that waits as a submitted one does, but for its number and reason. -/
theorem sweepSetting_waits {row : CatRow} {id : Nat} (who : Writer) (addr : Nat) (hrow : catalogue id = some row)
    (hc : checkValue row row.1 v = (y, e)) : let t := sweepSetting s who addr id v
    Framed s t id { s.folio with pendingFields := s.folio.pendingFields ++ [⟨settingSweep s, id, v, y, e, 0⟩] } ∧ Comes s t (settingSweep s) id y := by
  obtain ⟨c, z, ht⟩ := sweepSetting_eq (s := s) who addr hrow hc
  rw [ht]
  obtain ⟨hframed, hcomes, -⟩ := fieldWait_sent s { s.folio with clamp := c } (settingSweep s) 0 id v y e z
  exact ⟨hframed, hcomes⟩

end

end Sys2Proof.Machine

namespace Sys2Proof.Machine

/-! ## A field at its sweep (R174, R176, R180) -/

section
variable {s : State}

theorem cfgFind_cfgPut_ne {id id' : Nat} (h : id' ≠ id) (v : Word) (l : List (Nat × Word)) : cfgFind id' (cfgPut id v l) = cfgFind id' l := by
  induction l with
  | nil => simp [cfgPut, cfgFind, h.symm]
  | cons x l ih =>
    obtain ⟨k, y⟩ := x
    by_cases hk : k = id
    · simp [cfgPut, cfgFind, hk, h.symm]
    · simp [cfgPut, cfgFind, hk, ih]

theorem cfgGet_cfgSet_ne {id id' : Nat} (h : id' ≠ id) (s : State) (v : Word) : cfgGet (cfgSet s id v) id' = cfgGet s id' := by
  simp [cfgGet, cfgSet, cfgFind_cfgPut_ne h]

/-- Between `s` and `t` the folio block, the settings in force, memories and CAN controllers stay. -/
structure KeepsSettings (s t : State) : Prop where
  folio : t.folio = s.folio
  cfg : t.cfg = s.cfg
  mem : t.mem = s.mem
  can : t.can = s.can

theorem reshapeAll_eq (s : State) : ∃ bank, reshapeAll s = { s with bank := bank } := by
  have hshape : ∀ (t : State) (c : Chan), ∃ bank, reshape t c = { t with bank := bank } := fun t c => by
    unfold reshape
    dsimp only
    split
    · exact ⟨_, rfl⟩
    · exact ⟨t.bank, rfl⟩
  unfold reshapeAll forChans
  induction List.finRange 64 generalizing s with
  | nil => exact ⟨s.bank, rfl⟩
  | cons c l ih =>
    obtain ⟨bank, hc⟩ := hshape s c
    obtain ⟨bank', hl⟩ := ih (reshape s c)
    exact ⟨bank', by rw [List.foldl_cons, hl, hc]⟩

/-- What follows from a field's new value leaves the settings; COIL_HOLD alone moves the switch bank (R350). -/
theorem settingMoved_keeps (s : State) (id : Nat) : KeepsSettings s (settingMoved s id) ∧ (id ≠ 0x3002 → (settingMoved s id).bank = s.bank) := by
  unfold settingMoved
  split
  · obtain ⟨w, ⟨v, hv⟩, -⟩ := wheelSrcMoved_logged s
    rw [hv]
    exact ⟨⟨rfl, rfl, rfl, rfl⟩, fun _ => rfl⟩
  split
  · obtain ⟨x, n, ⟨v, hv⟩, -⟩ := timeSrcMoved_logged s
    rw [hv]
    exact ⟨⟨rfl, rfl, rfl, rfl⟩, fun _ => rfl⟩
  split
  · exact ⟨⟨rfl, rfl, rfl, rfl⟩, fun _ => rfl⟩
  split
  · next hcoil =>
    obtain ⟨bank, hb⟩ := reshapeAll_eq s
    rw [hb]
    exact ⟨⟨rfl, rfl, rfl, rfl⟩, fun h => absurd hcoil h⟩
  split
  · exact ⟨⟨rfl, rfl, rfl, rfl⟩, fun _ => rfl⟩
  split <;> exact ⟨⟨rfl, rfl, rfl, rfl⟩, fun _ => rfl⟩

/-- Field `id` has taken value `v`, and no other field, no memory, no CAN controller and, COIL_HOLD apart, no channel has changed; the
fields that wait are now `l`. -/
def FieldApplied (s t : State) (id : Nat) (v : Word) (l : List PendingField) : Prop :=
  t.folio.pendingFields = l ∧ cfgGet t id = v ∧ (∀ i, i ≠ id → cfgGet t i = cfgGet s i) ∧ t.mem = s.mem
    ∧ (id ≠ 0x3002 → t.bank = s.bank) ∧ t.can = s.can

theorem settingPut_applied (s : State) (id : Nat) (v : Word) : FieldApplied s (settingPut s id v) id v s.folio.pendingFields := by
  unfold settingPut
  split
  · next hsame => exact ⟨rfl, hsame, fun _ _ => rfl, rfl, fun _ => rfl, rfl⟩
  · obtain ⟨⟨hfolio, hcfg, hmem, hcan⟩, hbank⟩ := settingMoved_keeps (cfgSet s id v) id
    have hget : ∀ i, cfgGet (settingMoved (cfgSet s id v) id) i = cfgGet (cfgSet s id v) i := fun i => by rw [cfgGet, hcfg, cfgGet]
    exact ⟨by rw [hfolio]; rfl, by rw [hget, cfgGet_cfgSet], fun i hi => by rw [hget, cfgGet_cfgSet_ne hi], hmem, hbank, hcan⟩

theorem settingRedo_eq (s : State) (id : Nat) (v : Word) : ∃ l, settingRedo s id v = { s with folio := { s.folio with redo := l } } := by
  unfold settingRedo
  split
  · split
    · exact ⟨_, rfl⟩
    · exact ⟨s.folio.redo, rfl⟩
  · exact ⟨s.folio.redo, rfl⟩

/-- The field no longer waits. -/
def fieldTaken (s : State) (p : PendingField) : State := modFolio s fun f => { f with pendingFields := f.pendingFields.erase p }

theorem fieldTaken_applied (s : State) (p : PendingField) :
    FieldApplied s (settingPut (settingRedo (fieldTaken s p) p.id p.value) p.id p.value) p.id p.value (s.folio.pendingFields.erase p) := by
  obtain ⟨l, hl⟩ := settingRedo_eq (fieldTaken s p) p.id p.value
  rw [hl]
  obtain ⟨hpending, hvalue, hothers, hmem, hbank, hcan⟩ :=
    settingPut_applied { fieldTaken s p with folio := { (fieldTaken s p).folio with redo := l } } p.id p.value
  exact ⟨hpending, hvalue, hothers, hmem, hbank, hcan⟩

variable {p : PendingField} {q : Nat × Nat × Bool}

/-- A field outside the pairs takes its value, NOMINAL at the next cold start. -/
theorem fieldApply_lone (hpair : pairOf s p.id = none) : fieldApply s p = if p.id = 2 then setNominal (fieldTaken s p) (p.value == 1)
    else settingPut (settingRedo (fieldTaken s p) p.id p.value) p.id p.value := by
  unfold fieldApply
  extract_lets s0
  rw [show pairOf s0 p.id = none from hpair]
  rfl

/-- The pair that a field belongs to, as it would stand with the field's value (R174). -/
def pairWith (s : State) (p : PendingField) (q : Nat × Nat × Bool) : Word × Word :=
  (if p.id = q.1 then p.value else cfgGet s q.1, if p.id = q.1 then cfgGet s q.2.1 else p.value)

theorem fieldApply_good (hpair : pairOf s p.id = some q) (hgood : pairBad q (pairWith s p q).1.toInt (pairWith s p q).2.toInt = false) :
    fieldApply s p = settingPut (settingRedo (fieldTaken s p) p.id p.value) p.id p.value := by
  unfold fieldApply
  extract_lets s0
  rw [show pairOf s0 p.id = some q from hpair]
  exact if_neg (ne_true_of_eq_false hgood)

/-- A violated pair takes nothing: both fields are in the clamp ring. -/
theorem fieldApply_bad (hpair : pairOf s p.id = some q) (hbad : pairBad q (pairWith s p q).1.toInt (pairWith s p q).2.toInt = true) :
    ∃ f, fieldApply s p = { s with folio := f } ∧ f.pendingFields = s.folio.pendingFields.erase p
      ∧ f.clamp.runCount = min 0xFFFF (min 0xFFFF (s.folio.clamp.runCount + 1) + 1) := by
  unfold fieldApply
  extract_lets s0 s1
  rw [show pairOf s0 p.id = some q from hpair]
  dsimp (zeta := false) only
  extract_lets lo hi other s2
  obtain ⟨c1, h1, hc1⟩ := clampAdd_eq s0 (word (fld 0xFFFF 16 + p.id)) p.given (cfgGet s0 p.id) (fieldScope p.id) 0x02 0x0C
  obtain ⟨c2, h2, hc2⟩ := clampAdd_eq s1 (word (fld 0xFFFF 16 + other)) (cfgGet s1 other) (cfgGet s1 other) (fieldScope other) 0x02 0x0C
  have hs2 : s2 = { s with folio := { (fieldTaken s p).folio with clamp := c2 } } := h2.trans (by rw [show s1 = _ from h1]; rfl)
  have hcount : c2.runCount = min 0xFFFF (min 0xFFFF (s.folio.clamp.runCount + 1) + 1) := by rw [hc2, show s1 = _ from h1, hc1]; rfl
  rw [if_pos (by exact hbad), hs2]
  split
  · exact ⟨_, rfl, rfl, hcount⟩
  · exact ⟨_, rfl, rfl, hcount⟩

theorem exec_settingsFieldApply_due (hrun : Running s) (hdue : fieldDue s = some p) : exec .settingsFieldApply s = .next (fieldApply s p) := by
  show execSettingsFieldApply s = _
  rw [execSettingsFieldApply, run_running _ hrun, hdue]

theorem exec_settingsFieldApply_idle (hrun : Running s) (hdue : fieldDue s = none) : exec .settingsFieldApply s = .next s := by
  show execSettingsFieldApply s = _
  rw [execSettingsFieldApply, run_running _ hrun, hdue]

end

/-- Settles O39: a submission and a write of SWEEP_FRAC or SWEEP_HUSH leave the same field waiting, and the field that is due is put in
force, or refused with its pair. -/
theorem runSettings : Obligations.RunSettings := by
  unfold Obligations.RunSettings
  intro s k who v hi y e p hrun f m given waits submits taken hush frac comes quiet framed
  refine ⟨fun hop hc => settingsSubmit_accepted hrun hop hc, fun hop hc he => settingsSubmit_refused hrun hop hc he,
    fun hw => ⟨⟨_, exec_sweepFracWrite hrun hw v, sweepSetting_waits who 0x10404 rfl (checkValue_frac v)⟩, ?_⟩,
    fun hdue => exec_settingsFieldApply_idle hrun hdue, fun hdue => ?_⟩
  · obtain ⟨e, hc, hzero⟩ := checkValue_hush v
    obtain ⟨hframed, hcomes⟩ := sweepSetting_waits (s := s) (id := 0x1003) who 0x10408 rfl hc
    exact ⟨_, exec_sweepHushWrite hrun hw v, hcomes, e, hframed, hzero⟩
  · intro applied
    refine ⟨fun hpair hid => ?_, fun hpair hid => ?_, fun q hpair => ⟨fun hgood => ?_, fun hbad => ?_⟩⟩
    · exact (exec_settingsFieldApply_due hrun hdue).trans (congrArg _ ((fieldApply_lone hpair).trans (if_pos hid)))
    · exact ⟨_, (exec_settingsFieldApply_due hrun hdue).trans (congrArg _ ((fieldApply_lone hpair).trans (if_neg hid))), fieldTaken_applied s p⟩
    · exact ⟨_, (exec_settingsFieldApply_due hrun hdue).trans (congrArg _ (fieldApply_good hpair hgood)), fieldTaken_applied s p⟩
    · obtain ⟨g, hg, hpending, hcount⟩ := fieldApply_bad hpair hbad
      exact ⟨_, (exec_settingsFieldApply_due hrun hdue).trans (congrArg _ hg), rfl, hpending, hcount⟩

end Sys2Proof.Machine
